-- ==== Sys2Proof/Word.lean ====
section
/-! DEFINITION. The words of the part: bytes, 32-bit register words, 64-bit addresses and instruction words (R215, R318). -/

namespace Sys2Proof

/-- One byte of memory or of a bank. -/
abbrev Byte := BitVec 8

/-- One lane or uniform register (R215, R216). -/
abbrev Word := BitVec 32

/-- A 64-bit value: an address, a sequencer scalar, a special register. -/
abbrev DWord := BitVec 64

/-- The warp width of this part (R13). -/
abbrev warpWidth : Nat := 64

end Sys2Proof
end

