-- ==== Sys2Proof/Config.lean ====
section
/-! DEFINITION. What the spec leaves to the part, as constants without a value: the set-index functions of its caches, open values (log 4). -/

namespace Sys2Proof.Config

/-- The L1 set of a line (R219 gives 2,048 sets and no index function). -/
opaque l1Set : Nat → BitVec 11

/-- The slice set of a line (R126 gives 32,768 lines of 16 ways, so 2,048 sets, and no index function). -/
opaque sliceSet : Nat → BitVec 11

/-- A value that the spec leaves open, the n-th the machine draws (log 4). -/
opaque freeValue : Nat → BitVec 64

/-- R406: what a firmware image measures to: 0 the management controller's own, 1 the main one; the spec names no digest. -/
opaque imageMeasure : Nat → BitVec 64

/-- R406, R409: the digest of a wear log's bytes; the spec names no digest. -/
opaque logDigest : List (List Nat) → BitVec 64

/-- R409: what the monitors of a domain measure at a time: the replica-path delay, the lowest voltage that meets the clock, the temperature. -/
opaque monitors : Nat → Nat → Nat × Nat × Nat

end Sys2Proof.Config
end

