-- ==== Sys2Proof/Machine/Assoc.lean ====
section
/-! DEFINITION. Finite maps from numbers in one canonical form: keys strictly rising, no entry equal to the default. -/

namespace Sys2Proof.Machine

/-- A map from numbers to values: entries by rising key, none at the default. -/
abbrev AMap (α : Type) := List (Nat × α)

/-- The value at a key: the default where no entry stands. -/
def aget {α : Type} (d : α) : AMap α → Nat → α
  | [], _ => d
  | (k, v) :: r, n => if n = k then v else aget d r n

/-- The map with a value other than the default at a key. -/
def ains {α : Type} : AMap α → Nat → α → AMap α
  | [], n, a => [(n, a)]
  | (k, v) :: r, n, a =>
    if n < k then (n, a) :: (k, v) :: r
    else if n = k then (n, a) :: r
    else (k, v) :: ains r n a

/-- The map with a value at a key; the default leaves no entry. -/
def aput {α : Type} [DecidableEq α] (d : α) (m : AMap α) (n : Nat) (a : α) : AMap α :=
  if a = d then m.filter (fun p => p.1 != n) else ains m n a

/-- The canonical form: keys strictly rising from `lo`, no entry at the default. -/
def acanon {α : Type} [DecidableEq α] (d : α) : Nat → AMap α → Bool
  | _, [] => true
  | lo, (k, v) :: r => decide (lo ≤ k) && decide (v ≠ d) && acanon d (k + 1) r

/-- Values at consecutive keys. -/
def agetN {α : Type} (d : α) (m : AMap α) : Nat → Nat → List α
  | _, 0 => []
  | a, n + 1 => aget d m a :: agetN d m (a + 1) n

/-- Values written at consecutive keys. -/
def aputN {α : Type} [DecidableEq α] (d : α) : AMap α → Nat → List α → AMap α
  | m, _, [] => m
  | m, a, b :: bs => aputN d (aput d m a b) (a + 1) bs

/-- Memory in its canonical form: addresses strictly rising, no byte listed that reads as an unlisted one does (0). -/
def Memory.wf (m : AMap (BitVec 8)) : Bool := acanon 0 0 m

end Sys2Proof.Machine
end

