-- ==== Sys2Proof/Syntax.lean ====
section
/-! DEFINITION. The syntax of the part: clause headers, instructions of the three clause classes, and the steps of its
engines, launcher, fabric, host port and management side, one constructor per row of the opcode table. -/

namespace Sys2Proof

/-- The engine that runs a clause (R37). -/
inductive Class where
  | lane | matrix | copy
deriving DecidableEq, Repr

/-- The fields of a clause header below its class byte (R38). -/
structure Header where
  count : BitVec 4
  wait : BitVec 12
  setaEn : Bool
  seta : BitVec 4
  setbEn : Bool
  setb : BitVec 4
  trace : Bool
deriving DecidableEq, Repr

/-- The 12-bit guard field (R51). -/
abbrev Guard := BitVec 12

/-- A 10-bit operand code (R53). -/
abbrev Reg := BitVec 10

/-- The control fields every LR instruction of the arithmetic chapters accepts: guard, IA and HQ (R248). -/
structure Ctl where
  g : Guard
  ia : Bool
  hq : Bool
deriving DecidableEq, Repr

/-- The control fields of a Dray command (R163, R175). -/
structure CmdCtl where
  fsel : BitVec 2
  acq : Bool
  rel : Bool
  scope : BitVec 3
  queue : BitVec 3
deriving DecidableEq, Repr

/-- A flit as the receiving port sees it (R136): its number on the link, the cumulative acknowledgement it carries, and whether
its CRC holds. -/
structure Flit where
  seq : Nat
  ack : Nat
  good : Bool
deriving DecidableEq, Repr

/-- What a remote request asks of the target (R116, R143, R148, R206, R213; a marked write carries poison, a contribution is a fragment of a rank's), or that a system-scope release of the initiator covers its writes (R300), with the peers it has met; whether
bytes are under an intent, before an atomic (R309); a prefetch (R232); the result that switches have reduced for a rank (R150). -/
inductive ReqKind where
  | read (n : Nat)
  | write (bytes : List (BitVec 8)) (marked : Bool)
  | atomic (aop : BitVec 4) (w8 : Bool) (val : BitVec 64)
  | cas (w8 : Bool) (cmp new : BitVec 64)
  | combine (op fmt : Nat) (bytes : List (BitVec 8))
  | contribute (coll : BitVec 64) (rank desc start : Nat) (bytes : List (BitVec 8 × Bool))
  | arrive (core : Nat) (kind slot : Nat)
  | binit (expect deadline : BitVec 16)
  | waitph (phase : BitVec 16)
  | release (seen : List Nat)
  | check (n : Nat)
  | prefetch
  | reduced (coll : BitVec 64) (rank : Nat) (bytes : List (BitVec 8 × Bool))
deriving DecidableEq, Repr

/-- A request of another device at this one (R143, R144): source device, the number the source knows it by, context tag and
generation, the offset in this device's window, what it asks, and the causal ID it carries. -/
structure Inbound where
  src : BitVec 22
  req : Nat
  tag : BitVec 16
  gen : BitVec 8
  off : Nat
  kind : ReqKind
  cid : BitVec 64
deriving DecidableEq, Repr

/-- What a packet of a flow brings (R116, R138, R139, R142-R144): a request, for a release flag with the N it carries; the end of a request
of this device, or of one of its own that this device has not answered to its end; the copy of a late-delivery event; a bare acknowledgement
of a flow, which carries no number of its own. -/
inductive Body where
  | request (req off : Nat) (kind : ReqKind) (flag : Option Nat)
  | reply (req : Nat) (bytes : List (BitVec 8)) (marked : Bool)
  | refuse (req : Nat) (hint : Nat)
  | fail (req : Nat) (reason : BitVec 16)
  | late (payload : BitVec 64)
  | ended (reason : BitVec 16)
  | ack (flow : Nat)
deriving DecidableEq, Repr

/-- A packet of an inbound flow (R138, R142): source device, class, sequence number, cumulative acknowledgement of the opposite
flow, tag and generation, its delivered-by time and arrival in ns, the link where it waited longest, its causal ID and body. -/
structure Packet where
  src : BitVec 22
  cls : Nat
  seq : BitVec 32
  ack : BitVec 32
  tag : BitVec 16
  gen : BitVec 8
  byNs : Nat
  atNs : Nat
  slowDev : BitVec 22
  slowPort : Nat
  cid : BitVec 64
  body : Body
deriving DecidableEq, Repr

/-- Where an ECC error strikes (R115): a line of main memory, a 64-byte granule of a bank, a line of a core's L1. -/
inductive ErrLoc where
  | memory (line : Nat)
  | bank (cluster bank granule : Nat)
  | l1 (core line : Nat)
deriving DecidableEq, Repr

/-- A deadline that a Conductor watches (R396): of a core barrier, of a memory barrier, of a DCOLL command. -/
inductive DeadlineRef where
  | core (core slot : Nat)
  | mem (off : Nat)
  | dcoll (core queue : Nat)
deriving DecidableEq, Repr

/-- An answer to a Conductor's query (R397, R433): of a barrier its STATE, its lowest absent party and the queue party of its lowest valid
SRC entry; of a collective the queue party, or none. -/
inductive Answer where
  | present
  | blocked (state : Nat) (on since : BitVec 64)
  | free
  | saved
  | unknown
  | barrier (state : BitVec 8) (absent src : Option (BitVec 64))
  | party (nid : Option (BitVec 64))
deriving DecidableEq, Repr

/-- R406: whether the RSA-3072 and the SLH-DSA signature of a firmware image verify. -/
structure Signed where
  rsa : Bool
  slh : Bool
deriving DecidableEq, Repr

/-- What the steps of the power-up sequence find (R404): the management controller's own firmware and the main firmware, LPDDR6, arrays other
than cores and slices, HBM4E, PCIe; the cores and slice pairs that fail self-test, the ports that fail training. -/
structure PowerUp where
  own : Signed
  main : Signed
  lpddr : Bool
  arrays : Bool
  hbm : Bool
  pcie : Bool
  badCores : List Nat
  badSlicePairs : List Nat
  badPorts : List Nat
deriving DecidableEq, Repr

/-- What a refit of a voltage domain measures (R409): the replica-path delay in ps, the derived voltage in mV without its guard band,
the junction temperature. -/
structure Fit where
  delay : Nat
  mv : Nat
  temp : Nat
deriving DecidableEq, Repr

/-- The end of an in-field test (R412): a pass, or a cause 1-3 with the failing cores of the pair. -/
inductive IftOutcome where
  | pass
  | fail (cause : Nat) (low high : Bool)
deriving DecidableEq, Repr

/-- The sensors PLDM exports (R411). -/
inductive Sensor where
  | residual (domain : Nat)
  | nextStep
  | untilHold
deriving DecidableEq, Repr

/-- The formats of instruction words (R47, R48). -/
inductive Format where
  | lr | li | lm | lx | la | lw | mf | cf
deriving DecidableEq, Repr

/-- One constructor per row of the opcode table: the instruction words of R59, the clause header of R38, and the
steps of the part that are no instruction words (95_what_each_step_holds.md). -/
inductive Instr where
  /-- CLAUSE_START (R39): a clause header, checked, waited on and passed. -/
  | clauseStart (cls : Class) (h : Header)
  /-- NOP (R250): no operands. -/
  | nop
  /-- MOV (R226): D := A. -/
  | mov (c : Ctl) (d : Reg) (a : Reg)
  /-- MOVI (R226): D := SignExtend(IMM24, 24)[31:0]. -/
  | movi (g : Guard) (d : Reg) (imm : BitVec 24)
  /-- MOVHI (R226): D := (IMM24 << 8) | A[7:0]. -/
  | movhi (g : Guard) (d : Reg) (a : Reg) (imm : BitVec 24)
  /-- RDLANE (R240): broadcast of one lane. -/
  | rdlane (c : Ctl) (d : Reg) (a : Reg) (b : Reg) (cc : Reg)
  /-- WRLANE (R240): write into one lane. -/
  | wrlane (c : Ctl) (d : Reg) (a : Reg) (b : Reg)
  /-- SEL (R226): D := C != 0 ? A : B. -/
  | sel (c : Ctl) (d : Reg) (a : Reg) (b : Reg) (cc : Reg)
  /-- IADD (R252): integer. -/
  | iadd (c : Ctl) (d : Reg) (a : Reg) (b : Reg)
  /-- ISUB (R252): integer. -/
  | isub (c : Ctl) (d : Reg) (a : Reg) (b : Reg)
  /-- IMUL (R252): integer. -/
  | imul (c : Ctl) (d : Reg) (a : Reg) (b : Reg)
  /-- IMULHI (R252): integer. -/
  | imulhi (c : Ctl) (d : Reg) (a : Reg) (b : Reg)
  /-- IMULHN (R252): integer. -/
  | imulhn (c : Ctl) (d : Reg) (a : Reg) (b : Reg)
  /-- IMAD (R252): integer. -/
  | imad (c : Ctl) (d : Reg) (a : Reg) (b : Reg) (cc : Reg)
  /-- IMIN (R252): integer. -/
  | imin (c : Ctl) (d : Reg) (a : Reg) (b : Reg)
  /-- IMINN (R252): integer. -/
  | iminn (c : Ctl) (d : Reg) (a : Reg) (b : Reg)
  /-- IMAX (R252): integer. -/
  | imax (c : Ctl) (d : Reg) (a : Reg) (b : Reg)
  /-- IMAXN (R252): integer. -/
  | imaxn (c : Ctl) (d : Reg) (a : Reg) (b : Reg)
  /-- IABS (R252): integer. -/
  | iabs (c : Ctl) (d : Reg) (a : Reg)
  /-- IADDI (R256): D := A + SignExtend(IMM24). -/
  | iaddi (g : Guard) (d : Reg) (a : Reg) (imm : BitVec 24)
  /-- IADD64 (R252): integer. -/
  | iadd64 (c : Ctl) (d : Reg) (a : Reg) (b : Reg)
  /-- IMAD64 (R252): integer. -/
  | imad64 (c : Ctl) (d : Reg) (a : Reg) (b : Reg) (cc : Reg)
  /-- IADDS (R252): integer. -/
  | iadds (c : Ctl) (d : Reg) (a : Reg) (b : Reg)
  /-- ISUBS (R252): integer. -/
  | isubs (c : Ctl) (d : Reg) (a : Reg) (b : Reg)
  /-- AND (R252): bitwise. -/
  | andR (c : Ctl) (d : Reg) (a : Reg) (b : Reg)
  /-- OR (R252): bitwise. -/
  | orR (c : Ctl) (d : Reg) (a : Reg) (b : Reg)
  /-- XOR (R252): bitwise. -/
  | xorR (c : Ctl) (d : Reg) (a : Reg) (b : Reg)
  /-- ANDN (R252): bitwise. -/
  | andn (c : Ctl) (d : Reg) (a : Reg) (b : Reg)
  /-- SHL (R253): shift by register. -/
  | shl (c : Ctl) (d : Reg) (a : Reg) (b : Reg)
  /-- SHR (R253): shift by register. -/
  | shr (c : Ctl) (d : Reg) (a : Reg) (b : Reg)
  /-- SAR (R253): shift by register. -/
  | sar (c : Ctl) (d : Reg) (a : Reg) (b : Reg)
  /-- ROTR (R253): shift by register. -/
  | rotr (c : Ctl) (d : Reg) (a : Reg) (b : Reg)
  /-- SHLI (R253): shift by 0-31. -/
  | shli (g : Guard) (d : Reg) (a : Reg) (imm : BitVec 24)
  /-- SHRI (R253): shift by 0-31. -/
  | shri (g : Guard) (d : Reg) (a : Reg) (imm : BitVec 24)
  /-- SARI (R253): shift by 0-31. -/
  | sari (g : Guard) (d : Reg) (a : Reg) (imm : BitVec 24)
  /-- ANDI (R256): zero-extended immediate. -/
  | andi (g : Guard) (d : Reg) (a : Reg) (imm : BitVec 24)
  /-- ORI (R256): zero-extended immediate. -/
  | ori (g : Guard) (d : Reg) (a : Reg) (imm : BitVec 24)
  /-- XORI (R256): zero-extended immediate. -/
  | xori (g : Guard) (d : Reg) (a : Reg) (imm : BitVec 24)
  /-- BFE (R254): bit-field extract. -/
  | bfe (c : Ctl) (d : Reg) (a : Reg) (b : Reg)
  /-- BFI (R254): bit-field insert. -/
  | bfi (c : Ctl) (d : Reg) (a : Reg) (b : Reg) (cc : Reg)
  /-- POPC (R255): bit count. -/
  | popc (c : Ctl) (d : Reg) (a : Reg)
  /-- CLZ (R255): bit count. -/
  | clz (c : Ctl) (d : Reg) (a : Reg)
  /-- BREV (R255): bit count. -/
  | brev (c : Ctl) (d : Reg) (a : Reg)
  /-- ISET (R257): predicate from integer comparison. -/
  | iset (c : Ctl) (d : Reg) (a : Reg) (b : Reg) (cond : BitVec 4) (pos : BitVec 5)
  /-- ISETI (R257): predicate from comparison with an immediate. -/
  | iseti (g : Guard) (d : Reg) (a : Reg) (cond : BitVec 4) (pos : BitVec 5) (imm : BitVec 15)
  /-- FADD (R258): FP32. -/
  | fadd (c : Ctl) (d : Reg) (a : Reg) (b : Reg)
  /-- FSUB (R258): FP32. -/
  | fsub (c : Ctl) (d : Reg) (a : Reg) (b : Reg)
  /-- FMUL (R258): FP32. -/
  | fmul (c : Ctl) (d : Reg) (a : Reg) (b : Reg)
  /-- FFMA (R258): FP32 fused. -/
  | ffma (c : Ctl) (d : Reg) (a : Reg) (b : Reg) (cc : Reg)
  /-- FMIN (R258): minimumNumber. -/
  | fmin (c : Ctl) (d : Reg) (a : Reg) (b : Reg)
  /-- FMAX (R258): maximumNumber. -/
  | fmax (c : Ctl) (d : Reg) (a : Reg) (b : Reg)
  /-- FSET (R257): predicate from FP32 comparison. -/
  | fset (c : Ctl) (d : Reg) (a : Reg) (b : Reg) (cond : BitVec 4) (pos : BitVec 5)
  /-- FRCP (R259): special function. -/
  | frcp (c : Ctl) (d : Reg) (a : Reg)
  /-- FRSQ (R259): special function. -/
  | frsq (c : Ctl) (d : Reg) (a : Reg)
  /-- FSQRT (R259): special function. -/
  | fsqrt (c : Ctl) (d : Reg) (a : Reg)
  /-- FDIV (R258): special function. -/
  | fdiv (c : Ctl) (d : Reg) (a : Reg) (b : Reg)
  /-- FEX2 (R259): special function. -/
  | fex2 (c : Ctl) (d : Reg) (a : Reg)
  /-- FLG2 (R259): special function. -/
  | flg2 (c : Ctl) (d : Reg) (a : Reg)
  /-- FSINP (R259): special function. -/
  | fsinp (c : Ctl) (d : Reg) (a : Reg)
  /-- FCOSP (R259): special function. -/
  | fcosp (c : Ctl) (d : Reg) (a : Reg)
  /-- FTANH (R259): special function. -/
  | ftanh (c : Ctl) (d : Reg) (a : Reg)
  /-- HADD2 (R260): packed FP16. -/
  | hadd2 (c : Ctl) (d : Reg) (a : Reg) (b : Reg)
  /-- HMUL2 (R260): packed FP16. -/
  | hmul2 (c : Ctl) (d : Reg) (a : Reg) (b : Reg)
  /-- HFMA2 (R260): packed FP16. -/
  | hfma2 (c : Ctl) (d : Reg) (a : Reg) (b : Reg) (cc : Reg)
  /-- FSCL (R88): times 2^B. -/
  | fscl (c : Ctl) (d : Reg) (a : Reg) (b : Reg)
  /-- FRND (R89): round to integral. -/
  | frnd (c : Ctl) (d : Reg) (a : Reg) (rm : BitVec 2)
  /-- FCLASS (R90): one-hot class. -/
  | fclass (c : Ctl) (d : Reg) (a : Reg)
  /-- CVTF (R85): convert between float formats. -/
  | cvtf (c : Ctl) (pk : Bool) (d : Reg) (a : Reg) (b : Reg) (fs : BitVec 3)
  /-- I2F (R86): integer and float conversion. -/
  | i2f (c : Ctl) (u : Bool) (d : Reg) (a : Reg) (fs : BitVec 3)
  /-- F2I (R86): integer and float conversion. -/
  | f2i (c : Ctl) (u : Bool) (d : Reg) (a : Reg) (fs : BitVec 3)
  /-- BCHK (R87): bound check in registers. -/
  | bchk (c : Ctl) (d : Reg) (a : Reg) (fs : BitVec 3)
  /-- WFADD (R264): sweep. -/
  | wfadd (count : BitVec 12) (sd : BitVec 6) (sa : BitVec 6) (sb : BitVec 6) (stepd : BitVec 8) (stepa : BitVec 8) (stepb : BitVec 8)
  /-- WFMUL (R264): sweep. -/
  | wfmul (count : BitVec 12) (sd : BitVec 6) (sa : BitVec 6) (sb : BitVec 6) (stepd : BitVec 8) (stepa : BitVec 8) (stepb : BitVec 8)
  /-- WFFMA (R264): sweep. -/
  | wffma (count : BitVec 12) (sd : BitVec 6) (sa : BitVec 6) (sb : BitVec 6) (stepd : BitVec 8) (stepa : BitVec 8) (stepb : BitVec 8)
  /-- WFMAX (R264): sweep. -/
  | wfmax (count : BitVec 12) (sd : BitVec 6) (sa : BitVec 6) (sb : BitVec 6) (stepd : BitVec 8) (stepa : BitVec 8) (stepb : BitVec 8)
  /-- WIADD (R264): sweep. -/
  | wiadd (count : BitVec 12) (sd : BitVec 6) (sa : BitVec 6) (sb : BitVec 6) (stepd : BitVec 8) (stepa : BitVec 8) (stepb : BitVec 8)
  /-- WMOV (R264): sweep copy. -/
  | wmov (count : BitVec 12) (sd : BitVec 6) (sa : BitVec 6) (stepd : BitVec 8) (stepa : BitVec 8)
  /-- WCVT (R265): sweep conversion. -/
  | wcvt (count : BitVec 12) (sd : BitVec 6) (sa : BitVec 6) (fs : BitVec 3) (stepd : BitVec 8) (stepa : BitVec 8)
  /-- LDREC (R229): load a buffer record. -/
  | ldrec (g : Guard) (fsel : BitVec 2) (qd : BitVec 5) (q : BitVec 5) (x : Reg) (off : BitVec 15)
  /-- LD (R228): lane memory access. -/
  | ld (g : Guard) (fsel : BitVec 2) (sz : BitVec 2) (d : Reg) (q : BitVec 5) (x : Reg) (off : BitVec 15)
  /-- ST (R228): lane memory access. -/
  | st (g : Guard) (fsel : BitVec 2) (sz : BitVec 2) (d : Reg) (q : BitVec 5) (x : Reg) (off : BitVec 15)
  /-- LDSX (R230): SX block access. -/
  | ldsx (g : Guard) (fsel : BitVec 2) (fs : BitVec 3) (d : Reg) (q : BitVec 5) (x : Reg) (off : BitVec 12)
  /-- STSX (R231): SX block access. -/
  | stsx (g : Guard) (fsel : BitVec 2) (fs : BitVec 3) (d : Reg) (q : BitVec 5) (x : Reg) (off : BitVec 12)
  /-- LDB (R202): bank access. -/
  | ldb (g : Guard) (fsel : BitVec 2) (sz : BitVec 2) (d : Reg) (x : Reg) (off : BitVec 15)
  /-- STB (R202): bank access. -/
  | stb (g : Guard) (fsel : BitVec 2) (sz : BitVec 2) (d : Reg) (x : Reg) (off : BitVec 15)
  /-- PRF (R232): prefetch. -/
  | prf (g : Guard) (fsel : BitVec 2) (sz : BitVec 2) (q : BitVec 5) (x : Reg) (off : BitVec 15)
  /-- ATOM (R309): atomic. -/
  | atom (g : Guard) (aop : BitVec 4) (scope : BitVec 3) (sem : BitVec 2) (d : Reg) (q : BitVec 5) (x : Reg) (v : Reg)
  /-- ATOMC (R310): compare and swap. -/
  | atomc (g : Guard) (scope : BitVec 3) (sem : BitVec 2) (d : Reg) (q : BitVec 5) (x : Reg) (v : Reg)
  /-- REDM (R312): reduction. -/
  | redm (g : Guard) (aop : BitVec 4) (scope : BitVec 3) (sem : BitVec 2) (q : BitVec 5) (x : Reg) (v : Reg)
  /-- FENCE (R314): fence. -/
  | fence (scope : BitVec 3) (sem : BitVec 2)
  /-- QPOP (R235): hardware queue pop. -/
  | qpop (g : Guard) (hq : Bool) (fsel : BitVec 2) (d : Reg) (b : Reg) (n : BitVec 4)
  /-- QPUSH (R235): hardware queue push. -/
  | qpush (g : Guard) (hq : Bool) (fsel : BitVec 2) (a : Reg) (b : Reg) (n : BitVec 4)
  /-- GIVE (R197): give a bank. -/
  | give (g : Guard) (fsel : BitVec 2) (d : Reg) (a : Reg) (b : Reg)
  /-- TAKE (R199): bank reserve. -/
  | take (g : Guard) (fsel : BitVec 2) (d : Reg) (a : Reg)
  /-- RELB (R199): bank reserve. -/
  | relb (g : Guard) (fsel : BitVec 2) (d : Reg) (a : Reg)
  /-- BMAPR (R200): read a bank-map register. -/
  | bmapr (g : Guard) (d : Reg) (j : BitVec 3)
  /-- TRIG (R315): trigger. -/
  | trig (g : Guard) (fsel : BitVec 2)
  /-- EVT (R401): emit a Caseg record. -/
  | evt (g : Guard) (a : Reg) (code : BitVec 12)
  /-- ATOMW (R311): bank atomic. -/
  | atomw (g : Guard) (w8 : Bool) (aop : BitVec 4) (scope : BitVec 3) (sem : BitVec 2) (d : Reg) (x : Reg) (v : Reg)
  /-- SHFL (R239): shuffle. -/
  | shfl (c : Ctl) (d : Reg) (a : Reg) (kind : BitVec 2) (rel : Bool) (off : BitVec 7) (cc : Reg)
  /-- PERM (R240): permute. -/
  | perm (c : Ctl) (d : Reg) (a : Reg) (b : Reg) (cc : Reg)
  /-- REDW (R242): warp reduction. -/
  | redw (c : Ctl) (d : Reg) (a : Reg) (op : BitVec 4)
  /-- SCANW (R243): warp scan. -/
  | scanw (c : Ctl) (d : Reg) (a : Reg) (op : BitVec 4) (excl : Bool)
  /-- BALLOT (R244): ballot. -/
  | ballot (c : Ctl) (d : Reg) (a : Reg) (bit : BitVec 5)
  /-- QSWP (R241): quad swap. -/
  | qswp (c : Ctl) (d : Reg) (a : Reg) (mode : BitVec 2) (cc : Reg)
  /-- QBRD (R241): quad broadcast. -/
  | qbrd (c : Ctl) (d : Reg) (a : Reg) (pos : BitVec 2) (cc : Reg)
  /-- ACTMASK (R244): active mask. -/
  | actmask (c : Ctl) (d : Reg)
  /-- BRA (R320): branch. -/
  | bra (g : Guard) (off : BitVec 24)
  /-- BRI (R321): indirect branch. -/
  | bri (g : Guard) (ia : Bool) (a : Reg)
  /-- CALL (R320): call. -/
  | call (g : Guard) (d : Reg) (off : BitVec 24)
  /-- RET (R321): return. -/
  | ret (g : Guard) (ia : Bool) (a : Reg)
  /-- EXIT (R322): end the executing lanes. -/
  | exit (g : Guard)
  /-- SPAWN (R324): spawn children. -/
  | spawn (g : Guard) (d : Reg) (a : Reg) (entry : BitVec 3) (n : BitVec 6)
  /-- FORK (R334): start the sequencers. -/
  | fork (d : Reg) (m : Bool) (k : Bool)
  /-- BINIT (R210): set up a barrier. -/
  | binit (g : Guard) (mem : Bool) (n : BitVec 6) (d : Reg) (a : Reg) (b : Reg)
  /-- ARRIVE (R211): arrive. -/
  | arrive (g : Guard) (scope : BitVec 3) (mem : Bool) (n : BitVec 6) (d : Reg) (b : Reg)
  /-- EXPB (R212): arm bytes. -/
  | expb (g : Guard) (n : BitVec 6) (a : Reg)
  /-- WAITPH (R213): wait for a phase. -/
  | waitph (g : Guard) (scope : BitVec 3) (mem : Bool) (n : BitVec 6) (a : Reg) (b : Reg)
  /-- BINIT_MATRIX (R209): BINIT in the matrix stream. -/
  | binitMatrix (mem : Bool) (n : BitVec 6) (ma : BitVec 5) (mb : BitVec 5)
  /-- ARRIVE_MATRIX (R209): ARRIVE in the matrix stream. -/
  | arriveMatrix (scope : BitVec 3) (mem : Bool) (n : BitVec 6) (ma : BitVec 5) (mb : BitVec 5)
  /-- EXPB_MATRIX (R209): EXPB in the matrix stream. -/
  | expbMatrix (n : BitVec 6) (ma : BitVec 5)
  /-- WAITPH_MATRIX (R209): WAITPH in the matrix stream. -/
  | waitphMatrix (scope : BitVec 3) (mem : Bool) (n : BitVec 6) (ma : BitVec 5) (mb : BitVec 5)
  /-- BINIT_COPY (R209): BINIT in the copy stream. -/
  | binitCopy (mem : Bool) (n : BitVec 6) (ka : BitVec 5) (kb : BitVec 5)
  /-- ARRIVE_COPY (R209): ARRIVE in the copy stream. -/
  | arriveCopy (scope : BitVec 3) (mem : Bool) (n : BitVec 6) (ka : BitVec 5) (kb : BitVec 5)
  /-- EXPB_COPY (R209): EXPB in the copy stream. -/
  | expbCopy (n : BitVec 6) (ka : BitVec 5)
  /-- WAITPH_COPY (R209): WAITPH in the copy stream. -/
  | waitphCopy (scope : BitVec 3) (mem : Bool) (n : BitVec 6) (ka : BitVec 5) (kb : BitVec 5)
  /-- TRAP (R370): trap. -/
  | trap (g : Guard) (bk : Bool) (code : BitVec 16)
  /-- RFT (R366): return from trap; its G is 0 (R369). -/
  | rft (g : Guard)
  /-- RDSR (R371): read a special register. -/
  | rdsr (g : Guard) (d : Reg) (addr : BitVec 11)
  /-- WRSR (R371): write a special register. -/
  | wrsr (g : Guard) (addr : BitVec 11) (a : Reg)
  /-- WAITSEL_WRITE (R394): WRSR to SR.WAITSEL. -/
  | waitselWrite (g : Guard) (a : Reg)
  /-- NOPRE (R374): non-preemptible section. -/
  | nopre (g : Guard) (on : Bool) (d : Reg)
  /-- TCFG (R280): set a tile tag. -/
  | tcfg (b : Bool) (td : BitVec 4) (fs : BitVec 3)
  /-- TLD (R281): load a tile. -/
  | tld (fsel : BitVec 2) (b : Bool) (td : BitVec 4) (ma : BitVec 5) (fs : BitVec 3) (kblk : BitVec 6)
  /-- TST (R282): store a tile. -/
  | tst (fsel : BitVec 2) (ta : BitVec 4) (ma : BitVec 5) (kblk : BitVec 6)
  /-- MMA (R285): product. -/
  | mma (fsel : BitVec 2) (acc : BitVec 2) (ta : BitVec 4) (tb : BitVec 4) (kblk : BitVec 6)
  /-- MMAZ (R285): product. -/
  | mmaz (fsel : BitVec 2) (acc : BitVec 2) (ta : BitVec 4) (tb : BitVec 4) (kblk : BitVec 6)
  /-- MMAS (R288): long product. -/
  | mmas (fsel : BitVec 2) (z : Bool) (acc : BitVec 2) (ma : BitVec 5) (mb : BitVec 5) (fs : BitVec 3) (count : BitVec 12) (kblk : BitVec 6)
  /-- MPAIR (R290): paired product. -/
  | mpair (fsel : BitVec 2) (acc : BitVec 2) (ta : BitVec 4) (tb : BitVec 4) (kblk : BitVec 6)
  /-- MDRN (R292): drain to a bank. -/
  | mdrn (fsel : BitVec 2) (z : Bool) (ma : BitVec 5) (acc : BitVec 2) (fs : BitVec 3)
  /-- MDRNB (R292): drain to a tile. -/
  | mdrnb (fsel : BitVec 2) (z : Bool) (td : BitVec 4) (acc : BitVec 2) (fs : BitVec 3)
  /-- MZERO (R284): zero an accumulator. -/
  | mzero (fsel : BitVec 2) (acc : BitVec 2)
  /-- TMOV (R283): copy a tile. -/
  | tmov (fsel : BitVec 2) (td : BitVec 4) (ta : BitVec 4)
  /-- TTRN (R283): transpose a tile. -/
  | ttrn (fsel : BitVec 2) (td : BitVec 4) (ta : BitVec 4)
  /-- MLI (R277): load an immediate. -/
  | mli (cat : Bool) (ma : BitVec 5) (imm : BitVec 24)
  /-- MADD (R277): add. -/
  | madd (ma : BitVec 5) (mb : BitVec 5)
  /-- MBR (R278): branch. -/
  | mbr (cond : BitVec 3) (ma : BitVec 5) (mb : BitVec 5) (off : BitVec 24)
  /-- MEXIT (R279): end the stream. -/
  | mexit
  /-- MPRG (R277): read SR.MPRG. -/
  | mprg (ma : BitVec 5)
  /-- MADDI (R277): add immediate. -/
  | maddi (ma : BitVec 5) (mb : BitVec 5) (imm : BitVec 24)
  /-- DCOPY (R176): copy. -/
  | dcopy (c : CmdCtl) (ka : BitVec 5) (kb : BitVec 5)
  /-- DMCAST (R177): multicast. -/
  | dmcast (c : CmdCtl) (ka : BitVec 5) (kb : BitVec 5) (kc : BitVec 5) (kd : BitVec 5) (slot : BitVec 3) (bar : BitVec 6) (cluster : BitVec 2)
  /-- DFILL (R178): fill. -/
  | dfill (c : CmdCtl) (ka : BitVec 5) (kb : BitVec 5)
  /-- DCHAIN (R179): chain. -/
  | dchain (c : CmdCtl) (ka : BitVec 5) (kb : BitVec 5) (kc : BitVec 5) (kd : BitVec 5)
  /-- DRED (R180): reduce. -/
  | dred (c : CmdCtl) (op : BitVec 2) (ka : BitVec 5) (kb : BitVec 5)
  /-- DCOLL (R181): collective. -/
  | dcoll (c : CmdCtl) (ka : BitVec 5)
  /-- DPROXY (R182): proxy push. -/
  | dproxy (c : CmdCtl) (ka : BitVec 5) (shadow : BitVec 6)
  /-- DSTAT (R183): queue control. -/
  | dstat (ka : BitVec 5) (queue : BitVec 3)
  /-- DRESUME (R183): queue control. -/
  | dresume (ka : BitVec 5) (queue : BitVec 3)
  /-- DCANCEL (R183): queue control. -/
  | dcancel (ka : BitVec 5) (queue : BitVec 3)
  /-- KLI (R186): load an immediate. -/
  | kli (cat : Bool) (ka : BitVec 5) (imm : BitVec 26)
  /-- KADD (R186): add. -/
  | kadd (ka : BitVec 5) (kb : BitVec 5) (kc : BitVec 5)
  /-- KADDI (R186): add immediate. -/
  | kaddi (ka : BitVec 5) (kb : BitVec 5) (imm : BitVec 26)
  /-- KBR (R187): branch. -/
  | kbr (cond : BitVec 5) (ka : BitVec 5) (kb : BitVec 5) (off : BitVec 26)
  /-- KEXIT (R188): end the stream. -/
  | kexit
  /-- KLD (R186): load. -/
  | kld (acq : Bool) (scope : BitVec 3) (ka : BitVec 5) (kb : BitVec 5) (imm : BitVec 26)
  /-- KST (R186): store. -/
  | kst (rel : Bool) (scope : BitVec 3) (ka : BitVec 5) (kb : BitVec 5) (imm : BitVec 26)
  /-- KPRG (R186): read progress. -/
  | kprg (ka : BitVec 5) (queue : BitVec 3)
  /-- OP_COMPLETE (R42): the in-flight operation id completes. -/
  | opComplete (id : Nat)
  /-- POSTED_TRAP_TAKE (R363): the warp takes its oldest posted trap. -/
  | postedTrapTake (core slot : Nat)
  /-- GANG_SAVE_COMPLETE (R110): the stopped gang is in its frames. -/
  | gangSaveComplete (gang : Nat)
  /-- GANG_RESTORE (R113): the saved gang returns to its cores. -/
  | gangRestore (gang : Nat)
  /-- KILL_MARKERS_DONE (R377): the last retire marker of the killed gang. -/
  | killMarkersDone (gang : Nat)
  /-- GANG_RELAUNCH (R378): the killed restartable gang starts again. -/
  | gangRelaunch (gang : Nat)
  /-- WARP_RETIRE (R322): the warp retires. -/
  | warpRetire (core slot : Nat)
  /-- GROUP_RETIRE (R18): the group retires. -/
  | groupRetire (gang grp : Nat)
  /-- GANG_RETIRE (R18): the gang retires. -/
  | gangRetire (gang : Nat)
  /-- GRID_RETIRE (R349): the grid retires. -/
  | gridRetire (grid : Nat)
  /-- GRID_ADMIT (R345): the Coachman tries its chosen waiting grid. -/
  | gridAdmit
  /-- PRIORITY_AGE (R347): 2 ms in a ready queue. -/
  | priorityAge (grid : Nat)
  /-- COUNTER_STARVE (R24): a counter of the warp becomes starved. -/
  | counterStarve (core slot : Nat)
  /-- WARP_AGE_LIMIT (R356): 256 ready but unchosen cycles. -/
  | warpAgeLimit (core slot : Nat)
  /-- PENDING_WARP_TIMEOUT (R358): 1,024 cycles without a vacancy. -/
  | pendingWarpTimeout (core : Nat)
  /-- WARP_PROMOTE (R358): an eligible pending warp fills a vacancy. -/
  | warpPromote (core : Nat)
  /-- DRAY_COMMAND_START (R161): the head command of the queue starts. -/
  | drayCommandStart (core queue : Nat)
  /-- DRAY_COMMAND_END (R165): the running command ends. -/
  | drayCommandEnd (core queue : Nat)
  /-- DRAY_FAULT_RESUME (R171): the stalled command resumes at its progress. -/
  | drayFaultResume (core queue : Nat)
  /-- HANSOM_WALK_START (R130): the next walk of the command starts. -/
  | hansomWalkStart (core queue : Nat)
  /-- TURNTABLE_GRANT (R131): bytes of the walk are granted. -/
  | turntableGrant (core queue : Nat)
  /-- BYTE_LAND (R198): granted bytes land and are counted. -/
  | byteLand (core queue : Nat)
  /-- SCOREBOARD_RETIRE (R194): a range-scoreboard entry retires. -/
  | scoreboardRetire (core entry : Nat)
  /-- GIVE_ATTACH (R197): the drained bank attaches at its receiver. -/
  | giveAttach (core slot : Nat)
  /-- MULTICAST_READ (R132): the next multicast read reaches its slice. -/
  | multicastRead (core queue : Nat)
  /-- MULTICAST_ENTRY_CLOSE (R132): 2 us after the entry opened. -/
  | multicastEntryClose (line : Nat)
  /-- STREAM_ENTRY_EXPIRE (R127): 1,024 cycles without a request. -/
  | streamEntryExpire (requester entry : Nat)
  /-- FLIT_RECEIVE (R136): a flit arrives. -/
  | flitReceive (port : Nat) (f : Flit)
  /-- FLIT_REPLAY_TIMEOUT (R136): a flit unacknowledged for 2 us. -/
  | flitReplayTimeout (port : Nat)
  /-- LINK_RETRAIN (R136): retraining ends. -/
  | linkRetrain (port : Nat) (width : BitVec 2)
  /-- PACKET_DELIVER (R138): a packet of a flow arrives. -/
  | packetDeliver (p : Packet)
  /-- PACKET_RESEND_TIMEOUT (R138): 50 us without acknowledgement. -/
  | packetResendTimeout (dst cls : Nat)
  /-- PIECE_OFFER (R141): a piece is offered to its port. -/
  | pieceOffer (piece : Nat)
  /-- ADMISSION_HINT_EXPIRY (R141): the retry-after hint has elapsed. -/
  | admissionHintExpiry (piece : Nat)
  /-- INBOUND_REQUEST (R144): a remote request reaches this device. -/
  | inboundRequest (r : Inbound)
  /-- REMOTE_RETRY (R144): the hint of a refused request has elapsed. -/
  | remoteRetry (req : Nat)
  /-- REMOTE_TIMEOUT (R144): 1 ms past the delivered-by time. -/
  | remoteTimeout (req : Nat)
  /-- MAIL_BATCH_SEND (R151): the Mail coach sends a batch. -/
  | mailBatchSend (queue : Nat)
  /-- MAIL_BATCH_TIMEOUT (R151): 2 us after the first unsent entry. -/
  | mailBatchTimeout (queue : Nat)
  /-- COLLECTIVE_COMBINE (R148): the contributions of a collective are combined. -/
  | collectiveCombine (coll : Nat)
  /-- ECC_CORRECTABLE (R115): a correctable error. -/
  | eccCorrectable (loc : ErrLoc)
  /-- ECC_UNCORRECTABLE (R115): an uncorrectable error. -/
  | eccUncorrectable (loc : ErrLoc)
  /-- WEIGHT_HOLD_EXPIRE (R118): 10 ms without a refill. -/
  | weightHoldExpire (line : Nat)
  /-- HOST_MEMORY_READ (R155): read of n bytes through BAR4, or another BAR. -/
  | hostMemoryRead (bar addr n : Nat)
  /-- HOST_MEMORY_WRITE (R155): BAR4 write. -/
  | hostMemoryWrite (addr : Nat) (bytes : List (BitVec 8))
  /-- HOST_FETCHADD (R441): PCIe FetchAdd through BAR4. -/
  | hostFetchadd (addr : Nat) (w8 : Bool) (val : BitVec 64)
  /-- HOST_FILL_WRITE (R158): BAR6 write. -/
  | hostFillWrite (addr : Nat) (bytes : List (BitVec 8))
  /-- HOST_REGISTER_WRITE (R154): BAR2 write at a byte offset. -/
  | hostRegisterWrite (addr : Nat) (val : BitVec 64)
  /-- HOST_COMPLETION_ERROR (R159): a host read ends in error. -/
  | hostCompletionError (req : Nat)
  /-- HOST_WRITE_REJECTED (R159): a posted write is rejected by the host. -/
  | hostWriteRejected (addr : Nat)
  /-- RING_DOORBELL (R351): BAR2 doorbell write. -/
  | ringDoorbell (ring : Nat) (val : BitVec 64)
  /-- RING_CONSUME (R352): the Coachman serves the head slot of a ring. -/
  | ringConsume (ring : Nat)
  /-- STAMP_POLL (R352): 1 us poll of an unpublished head slot. -/
  | stampPoll (ring : Nat)
  /-- SPAWN_LIST_TIMEOUT (R327): 256 cycles after the oldest child. -/
  | spawnListTimeout (cluster gang entry : Nat)
  /-- CHILD_WARP_ISSUE (R327): a ready list forms a child warp. -/
  | childWarpIssue (cluster gang entry : Nat)
  /-- MPAIR_START (R290): both cores of the pair have posted. -/
  | mpairStart (pair : Nat)
  /-- MPAIR_TIMEOUT (R291): 65,536 cycles without a partner post. -/
  | mpairTimeout (core : Nat)
  /-- NOPRE_LIMIT (R375): a section open for 65,536 cycles. -/
  | nopreLimit (core slot : Nat)
  /-- DEADLINE_PASS (R396): a deadline passes. -/
  | deadlinePass (d : DeadlineRef)
  /-- SUMMARY_QUERY (R397): a party query from another device. -/
  | summaryQuery (dev : BitVec 22) (nid : BitVec 64)
  /-- COLLECTIVE_QUERY (R397): a collective query from another device. -/
  | collectiveQuery (dev : BitVec 22) (id : BitVec 64)
  /-- QUERY_ANSWER (R397): the answer to a walk's query. -/
  | queryAnswer (walk : Nat) (a : Answer)
  /-- QUERY_TIMEOUT (R397): no answer within SUMTO. -/
  | queryTimeout (walk : Nat)
  /-- TRACE_RECORD_WRITE (R386): the Brake van stores the oldest buffered record of a source. -/
  | traceRecordWrite (source : Nat)
  /-- TIME_LOCK_CHANGE (R390): lock to the grandmaster gained or lost. -/
  | timeLockChange (gained : Bool) (sec nsec : Nat) (offset : BitVec 32)
  /-- POWER_UP_SEQUENCE (R404): the power-up sequence. -/
  | powerUpSequence (r : PowerUp)
  /-- PCIE_FUNDAMENTAL_RESET (R407): reset, cause 2. -/
  | pcieFundamentalReset
  /-- MANAGEMENT_RESET (R407): reset, cause 3. -/
  | managementReset
  /-- POWER_FAULT (R407): reset, cause 5. -/
  | powerFault
  /-- THERMAL_TRIP (R408): reset, cause 4. -/
  | thermalTrip
  /-- THERMAL_THROTTLE (R408): the clock steps down or back up. -/
  | thermalThrottle (hot : Bool)
  /-- AGEING_REFIT (R409): a domain is refitted. -/
  | ageingRefit (domain : Nat) (fit : Fit)
  /-- IFT_START (R380): the next in-field test starts or is deferred. -/
  | iftStart
  /-- IFT_RESULT (R412): the in-field test ends. -/
  | iftResult (r : IftOutcome)
  /-- SPDM_ATTESTATION (R406): attestation is answered. -/
  | spdmAttestation
  /-- PLDM_SENSOR_READ (R411): a sensor is read. -/
  | pldmSensorRead (sensor : Sensor)
  /-- XINV_WRITE (R102): an invalidation starts. -/
  | xinvWrite (page : BitVec 48) (tag : BitVec 16)
  /-- INVALIDATION_COMPLETE (R102): the invalidation is complete. -/
  | invalidationComplete
  /-- PFACK_WRITE (R112): records are consumed. -/
  | pfackWrite (count : BitVec 64)
  /-- PFDONE_RESOLVE (R113): a fault is resolved. -/
  | pfdoneResolve (id : BitVec 32)
  /-- PFDONE_FAIL (R113): a fault is unresolvable. -/
  | pfdoneFail (id : BitVec 32)
  /-- KILL_WRITE (R379): a context is killed. -/
  | killWrite (tag : BitVec 16)
  /-- PWSEL_WRITE (R395): a privileged snapshot. -/
  | pwselWrite (val : BitVec 64)
  /-- RINGCTL_SKIP (R353): the head slot of the selected ring is skipped. -/
  | ringctlSkip
  /-- PQCFG_ERR_CLEAR (R354): the selected shadow queue leaves its error state. -/
  | pqcfgErrClear
  /-- CONDUCTOR_BARRIER_QUERY (R433): a barrier query from another device. -/
  | conductorBarrierQuery (dev : BitVec 22) (nid : BitVec 64)
deriving DecidableEq, Repr

end Sys2Proof
end

