-- ==== Sys2Proof/WellFormed.lean ====
section
/-! DEFINITION. Well-formed instructions: the operand limits that the encoding entries of R47-R49, R57, R58 and each
instruction's own entry state (a word outside them raises ILLEGAL_INSTRUCTION and names no instruction). -/

namespace Sys2Proof

/-- R208: a core barrier takes SCOPE 0-3, a memory barrier 3-6. -/
def badScope (mem : Bool) (scope : BitVec 3) : Bool :=
  scope == 7#3 || (if mem then scope.toNat < 3 else 3 < scope.toNat)

/-- R38, R39: a header names flags 0-11, and an unused flag index is zero. -/
def Header.wf (h : Header) : Bool :=
  (h.setaEn || h.seta == 0#4) && (h.setbEn || h.setb == 0#4) && h.seta.toNat ≤ 11 && h.setb.toNat ≤ 11

/-- The instruction's operands lie inside the limits its entry states. Steps that are no instruction words carry no
encoding and are always well-formed. -/
def Instr.wf : Instr → Bool
  | .clauseStart _ h => h.wf
  | .nop => true
  | .mov _ _ _ => true
  | .movi _ _ _ => true
  | .movhi _ _ _ _ => true
  | .rdlane _ _ _ _ _ => true
  | .wrlane _ _ _ _ => true
  | .sel _ _ _ _ _ => true
  | .iadd _ _ _ _ => true
  | .isub _ _ _ _ => true
  | .imul _ _ _ _ => true
  | .imulhi _ _ _ _ => true
  | .imulhn _ _ _ _ => true
  | .imad _ _ _ _ _ => true
  | .imin _ _ _ _ => true
  | .iminn _ _ _ _ => true
  | .imax _ _ _ _ => true
  | .imaxn _ _ _ _ => true
  | .iabs _ _ _ => true
  | .iaddi _ _ _ _ => true
  | .iadd64 _ _ _ _ => true
  | .imad64 _ _ _ _ _ => true
  | .iadds _ _ _ _ => true
  | .isubs _ _ _ _ => true
  | .andR _ _ _ _ => true
  | .orR _ _ _ _ => true
  | .xorR _ _ _ _ => true
  | .andn _ _ _ _ => true
  | .shl _ _ _ _ => true
  | .shr _ _ _ _ => true
  | .sar _ _ _ _ => true
  | .rotr _ _ _ _ => true
  | .shli _ _ _ imm => !decide (31 < imm.toNat)
  | .shri _ _ _ imm => !decide (31 < imm.toNat)
  | .sari _ _ _ imm => !decide (31 < imm.toNat)
  | .andi _ _ _ _ => true
  | .ori _ _ _ _ => true
  | .xori _ _ _ _ => true
  | .bfe _ _ _ _ => true
  | .bfi _ _ _ _ _ => true
  | .popc _ _ _ => true
  | .clz _ _ _ => true
  | .brev _ _ _ => true
  | .iset _ _ _ _ cond _ => !decide (11 < cond.toNat)
  | .iseti _ _ _ cond _ _ => !decide (11 < cond.toNat)
  | .fadd _ _ _ _ => true
  | .fsub _ _ _ _ => true
  | .fmul _ _ _ _ => true
  | .ffma _ _ _ _ _ => true
  | .fmin _ _ _ _ => true
  | .fmax _ _ _ _ => true
  | .fset _ _ _ _ cond _ => !decide (7 < cond.toNat)
  | .frcp _ _ _ => true
  | .frsq _ _ _ => true
  | .fsqrt _ _ _ => true
  | .fdiv _ _ _ _ => true
  | .fex2 _ _ _ => true
  | .flg2 _ _ _ => true
  | .fsinp _ _ _ => true
  | .fcosp _ _ _ => true
  | .ftanh _ _ _ => true
  | .hadd2 _ _ _ _ => true
  | .hmul2 _ _ _ _ => true
  | .hfma2 _ _ _ _ _ => true
  | .fscl _ _ _ _ => true
  | .frnd _ _ _ _ => true
  | .fclass _ _ _ => true
  | .cvtf _ pk _ _ b _ => !decide (pk = false ∧ b ≠ 0#10)
  | .i2f _ _ _ _ _ => true
  | .f2i _ _ _ _ _ => true
  | .bchk _ _ _ _ => true
  | .wfadd count _ _ _ _ _ _ => !decide (count = 0#12)
  | .wfmul count _ _ _ _ _ _ => !decide (count = 0#12)
  | .wffma count _ _ _ _ _ _ => !decide (count = 0#12)
  | .wfmax count _ _ _ _ _ _ => !decide (count = 0#12)
  | .wiadd count _ _ _ _ _ _ => !decide (count = 0#12)
  | .wmov count _ _ _ _ => !decide (count = 0#12)
  | .wcvt count _ _ _ _ _ => !decide (count = 0#12)
  | .ldrec _ _ _ _ _ _ => true
  | .ld _ _ _ _ _ _ _ => true
  | .st _ _ _ _ _ _ _ => true
  | .ldsx _ _ _ _ _ _ _ => true
  | .stsx _ _ _ _ _ _ _ => true
  | .ldb _ _ _ _ _ _ => true
  | .stb _ _ _ _ _ _ => true
  | .prf _ _ _ _ _ _ => true
  | .atom _ aop scope _ _ _ _ _ => !decide (scope = 7#3) && !decide (9 < aop.toNat)
  | .atomc _ scope _ _ _ _ _ => !decide (scope = 7#3)
  | .redm _ aop scope sem _ _ _ => !decide (scope = 7#3) && !decide (9 < aop.toNat) && !decide (sem.getLsbD 0 = true)
  | .fence scope sem => !decide (scope = 7#3) && !decide (sem = 0#2)
  | .qpop _ _ _ _ _ _ => true
  | .qpush _ _ _ _ _ _ => true
  | .give _ _ _ _ _ => true
  | .take _ _ _ _ => true
  | .relb _ _ _ _ => true
  | .bmapr _ _ _ => true
  | .trig _ _ => true
  | .evt _ _ _ => true
  | .atomw _ w8 aop scope _ _ _ _ => !decide (3 < scope.toNat) && !decide (9 < aop.toNat) && !decide (w8 = true ∧ aop = 9#4)
  | .shfl _ _ _ _ rel off _ => !decide (rel = true ∧ off.extractLsb' 3 4 ≠ 0#4) && !decide (rel = true ∧ off.extractLsb' 0 3 = 0#3)
  | .perm _ _ _ _ _ => true
  | .redw _ _ _ op => !decide (10 < op.toNat)
  | .scanw _ _ _ op _ => !decide (10 < op.toNat)
  | .ballot _ _ _ _ => true
  | .qswp _ _ _ mode _ => !decide (mode = 0#2)
  | .qbrd _ _ _ _ _ => true
  | .actmask _ _ => true
  | .bra _ _ => true
  | .bri _ _ _ => true
  | .call _ _ _ => true
  | .ret _ _ _ => true
  | .exit _ => true
  | .spawn _ _ _ _ _ => true
  | .fork _ m k => !decide (m = false ∧ k = false)
  | .binit _ mem n _ _ _ => !decide (mem = true ∧ n ≠ 0#6)
  | .arrive _ scope mem n _ b => !decide (mem = true ∧ n ≠ 0#6) && !decide (mem = false ∧ b ≠ 0#10) && !(badScope mem scope)
  | .expb _ _ _ => true
  | .waitph _ scope mem n _ b => !decide (mem = true ∧ n ≠ 0#6) && !decide (mem = false ∧ b ≠ 0#10) && !(badScope mem scope)
  | .binitMatrix mem n _ _ => !decide (mem = true ∧ n ≠ 0#6)
  | .arriveMatrix scope mem n _ mb => !decide (mem = true ∧ n ≠ 0#6) && !decide (mem = false ∧ mb ≠ 0#5) && !(badScope mem scope)
  | .expbMatrix _ _ => true
  | .waitphMatrix scope mem n _ mb => !decide (mem = true ∧ n ≠ 0#6) && !decide (mem = false ∧ mb ≠ 0#5) && !(badScope mem scope)
  | .binitCopy mem n _ _ => !decide (mem = true ∧ n ≠ 0#6)
  | .arriveCopy scope mem n _ kb => !decide (mem = true ∧ n ≠ 0#6) && !decide (mem = false ∧ kb ≠ 0#5) && !(badScope mem scope)
  | .expbCopy _ _ => true
  | .waitphCopy scope mem n _ kb => !decide (mem = true ∧ n ≠ 0#6) && !decide (mem = false ∧ kb ≠ 0#5) && !(badScope mem scope)
  | .trap _ _ _ => true
  | .rft g => decide (g = 0)
  | .rdsr _ _ _ => true
  | .wrsr _ addr _ => !decide (addr = 0x0A1#11)
  | .waitselWrite _ _ => true
  | .nopre _ on d => !decide (on = false ∧ d ≠ 0#10)
  | .tcfg _ _ _ => true
  | .tld _ _ _ _ _ _ => true
  | .tst _ _ _ _ => true
  | .mma _ _ _ _ _ => true
  | .mmaz _ _ _ _ _ => true
  | .mmas _ _ _ _ _ _ count _ => !decide (count = 0#12)
  | .mpair _ _ _ _ _ => true
  | .mdrn _ _ _ _ _ => true
  | .mdrnb _ _ _ _ _ => true
  | .mzero _ _ => true
  | .tmov _ _ _ => true
  | .ttrn _ _ _ => true
  | .mli _ _ _ => true
  | .madd _ _ => true
  | .mbr cond _ _ _ => !decide (cond = 7#3)
  | .mexit => true
  | .mprg _ => true
  | .maddi _ _ _ => true
  | .dcopy c _ _ => !decide (c.scope = 7#3) && !decide (c.acq = false ∧ c.rel = false ∧ c.scope ≠ 0#3)
  | .dmcast c _ _ _ _ _ _ _ => !decide (c.scope = 7#3) && !decide (c.acq = false ∧ c.rel = false ∧ c.scope ≠ 0#3)
  | .dfill c _ _ => !decide (c.scope = 7#3) && !decide (c.acq = false ∧ c.rel = false ∧ c.scope ≠ 0#3)
  | .dchain c _ _ _ _ => !decide (c.scope = 7#3) && !decide (c.acq = false ∧ c.rel = false ∧ c.scope ≠ 0#3)
  | .dred c op _ _ => !decide (op = 3#2) && !decide (c.scope = 7#3) && !decide (c.acq = false ∧ c.rel = false ∧ c.scope ≠ 0#3)
  | .dcoll c _ => !decide (c.scope = 7#3) && !decide (c.acq = false ∧ c.rel = false ∧ c.scope ≠ 0#3)
  | .dproxy c _ _ => !decide (c.scope = 7#3) && !decide (c.acq = false ∧ c.rel = false ∧ c.scope ≠ 0#3)
  | .dstat _ _ => true
  | .dresume _ _ => true
  | .dcancel _ _ => true
  | .kli _ _ _ => true
  | .kadd _ _ _ => true
  | .kaddi _ _ _ => true
  | .kbr cond _ _ _ => !decide (6 < cond.toNat)
  | .kexit => true
  | .kld acq scope _ _ _ => !decide (scope = 7#3) && !decide (acq = false ∧ scope ≠ 0#3)
  | .kst rel scope _ _ _ => !decide (scope = 7#3) && !decide (rel = false ∧ scope ≠ 0#3)
  | .kprg _ _ => true
  | .opComplete _ => true
  | .postedTrapTake _ _ => true
  | .gangSaveComplete _ => true
  | .gangRestore _ => true
  | .killMarkersDone _ => true
  | .gangRelaunch _ => true
  | .warpRetire _ _ => true
  | .groupRetire _ _ => true
  | .gangRetire _ => true
  | .gridRetire _ => true
  | .gridAdmit => true
  | .priorityAge _ => true
  | .counterStarve _ _ => true
  | .warpAgeLimit _ _ => true
  | .pendingWarpTimeout _ => true
  | .warpPromote _ => true
  | .drayCommandStart _ _ => true
  | .drayCommandEnd _ _ => true
  | .drayFaultResume _ _ => true
  | .hansomWalkStart _ _ => true
  | .turntableGrant _ _ => true
  | .byteLand _ _ => true
  | .scoreboardRetire _ _ => true
  | .giveAttach _ _ => true
  | .multicastRead _ _ => true
  | .multicastEntryClose _ => true
  | .streamEntryExpire _ _ => true
  | .flitReceive _ _ => true
  | .flitReplayTimeout _ => true
  | .linkRetrain _ _ => true
  | .packetDeliver _ => true
  | .packetResendTimeout _ _ => true
  | .pieceOffer _ => true
  | .admissionHintExpiry _ => true
  | .inboundRequest _ => true
  | .remoteRetry _ => true
  | .remoteTimeout _ => true
  | .mailBatchSend _ => true
  | .mailBatchTimeout _ => true
  | .collectiveCombine _ => true
  | .eccCorrectable _ => true
  | .eccUncorrectable _ => true
  | .weightHoldExpire _ => true
  | .hostMemoryRead _ _ _ => true
  | .hostMemoryWrite _ _ => true
  | .hostFetchadd _ _ _ => true
  | .hostFillWrite _ _ => true
  | .hostRegisterWrite _ _ => true
  | .hostCompletionError _ => true
  | .hostWriteRejected _ => true
  | .ringDoorbell _ _ => true
  | .ringConsume _ => true
  | .stampPoll _ => true
  | .spawnListTimeout _ _ _ => true
  | .childWarpIssue _ _ _ => true
  | .mpairStart _ => true
  | .mpairTimeout _ => true
  | .nopreLimit _ _ => true
  | .deadlinePass _ => true
  | .summaryQuery _ _ => true
  | .collectiveQuery _ _ => true
  | .queryAnswer _ _ => true
  | .queryTimeout _ => true
  | .traceRecordWrite _ => true
  | .timeLockChange _ _ _ _ => true
  | .powerUpSequence _ => true
  | .pcieFundamentalReset => true
  | .managementReset => true
  | .powerFault => true
  | .thermalTrip => true
  | .thermalThrottle _ => true
  | .ageingRefit _ _ => true
  | .iftStart => true
  | .iftResult _ => true
  | .spdmAttestation => true
  | .pldmSensorRead _ => true
  | .xinvWrite _ _ => true
  | .invalidationComplete => true
  | .pfackWrite _ => true
  | .pfdoneResolve _ => true
  | .pfdoneFail _ => true
  | .killWrite _ => true
  | .pwselWrite _ => true
  | .ringctlSkip => true
  | .pqcfgErrClear => true
  | .conductorBarrierQuery _ _ => true

end Sys2Proof
end

