-- ==== Sys2Proof/Decode.lean ====
section
/-! DEFINITION. Decoding: from 64-bit words to instructions, rejecting by syndrome and reason (R38-R40, R47-R50, R59, R60), and the
encoder written from the same tables. Every definition here is total and evaluates on numerals. -/

namespace Sys2Proof

/-- Why a word names no instruction: the reason of ILLEGAL_CLAUSE or of ILLEGAL_INSTRUCTION (R39, R40, R50). -/
inductive Illegal where
  | clause (reason : Nat)
  | instruction (reason : Nat)
deriving DecidableEq, Repr

/-- The least reason among the broken rules (R50), folded from the left. -/
def leastReason : List (Bool × Nat) → Option Nat
  | [] => none
  | (b, r) :: rest =>
    match leastReason rest with
    | none => if b then some r else none
    | some m => if b then some (min r m) else some m

/-- The instruction when no rule is broken, else the lowest reason (R50). -/
def lowest (checks : List (Bool × Nat)) (i : Instr) : Except Nat Instr :=
  match leastReason checks with
  | none => .ok i
  | some r => .error r

/-- R47, R48: the fields of the register format, below the opcode byte. -/
structure LR where
  g : BitVec 12
  d : BitVec 10
  a : BitVec 10
  b : BitVec 10
  c : BitVec 10
  fsel : BitVec 2
  ia : Bool
  hq : Bool
deriving DecidableEq, Repr

/-- The fields of a word. -/
def LR.ofNat (w : Nat) : LR where
  g := BitVec.ofNat 12 (w / 2 ^ 44)
  d := BitVec.ofNat 10 (w / 2 ^ 34)
  a := BitVec.ofNat 10 (w / 2 ^ 24)
  b := BitVec.ofNat 10 (w / 2 ^ 14)
  c := BitVec.ofNat 10 (w / 2 ^ 4)
  fsel := BitVec.ofNat 2 (w / 2 ^ 2)
  ia := w / 2 ^ 1 % 2 == 1
  hq := w % 2 == 1

/-- The word of an opcode and its fields. -/
def LR.toNat (op : Nat) (f : LR) : Nat :=
  op * 2 ^ 56 + f.g.toNat * 2 ^ 44 + f.d.toNat * 2 ^ 34 + f.a.toNat * 2 ^ 24 + f.b.toNat * 2 ^ 14 + f.c.toNat * 2 ^ 4 + f.fsel.toNat * 2 ^ 2 + f.ia.toNat * 2 ^ 1 + f.hq.toNat

/-- R47, R48: the fields of the immediate format, below the opcode byte. -/
structure LI where
  g : BitVec 12
  d : BitVec 10
  a : BitVec 10
  imm : BitVec 24
deriving DecidableEq, Repr

/-- The fields of a word. -/
def LI.ofNat (w : Nat) : LI where
  g := BitVec.ofNat 12 (w / 2 ^ 44)
  d := BitVec.ofNat 10 (w / 2 ^ 34)
  a := BitVec.ofNat 10 (w / 2 ^ 24)
  imm := BitVec.ofNat 24 (w)

/-- The word of an opcode and its fields. -/
def LI.toNat (op : Nat) (f : LI) : Nat :=
  op * 2 ^ 56 + f.g.toNat * 2 ^ 44 + f.d.toNat * 2 ^ 34 + f.a.toNat * 2 ^ 24 + f.imm.toNat

/-- R47, R48: the fields of the memory format, below the opcode byte. -/
structure LM where
  g : BitVec 12
  d : BitVec 10
  q : BitVec 5
  x : BitVec 10
  off : BitVec 15
  fsel : BitVec 2
  sz : BitVec 2
deriving DecidableEq, Repr

/-- The fields of a word. -/
def LM.ofNat (w : Nat) : LM where
  g := BitVec.ofNat 12 (w / 2 ^ 44)
  d := BitVec.ofNat 10 (w / 2 ^ 34)
  q := BitVec.ofNat 5 (w / 2 ^ 29)
  x := BitVec.ofNat 10 (w / 2 ^ 19)
  off := BitVec.ofNat 15 (w / 2 ^ 4)
  fsel := BitVec.ofNat 2 (w / 2 ^ 2)
  sz := BitVec.ofNat 2 (w)

/-- The word of an opcode and its fields. -/
def LM.toNat (op : Nat) (f : LM) : Nat :=
  op * 2 ^ 56 + f.g.toNat * 2 ^ 44 + f.d.toNat * 2 ^ 34 + f.q.toNat * 2 ^ 29 + f.x.toNat * 2 ^ 19 + f.off.toNat * 2 ^ 4 + f.fsel.toNat * 2 ^ 2 + f.sz.toNat

/-- R47, R48: the fields of the memory format of LDSX and STSX, below the opcode byte. -/
structure LX where
  g : BitVec 12
  d : BitVec 10
  q : BitVec 5
  x : BitVec 10
  off : BitVec 12
  fs : BitVec 3
  fsel : BitVec 2
  low : BitVec 2
deriving DecidableEq, Repr

/-- The fields of a word. -/
def LX.ofNat (w : Nat) : LX where
  g := BitVec.ofNat 12 (w / 2 ^ 44)
  d := BitVec.ofNat 10 (w / 2 ^ 34)
  q := BitVec.ofNat 5 (w / 2 ^ 29)
  x := BitVec.ofNat 10 (w / 2 ^ 19)
  off := BitVec.ofNat 12 (w / 2 ^ 7)
  fs := BitVec.ofNat 3 (w / 2 ^ 4)
  fsel := BitVec.ofNat 2 (w / 2 ^ 2)
  low := BitVec.ofNat 2 (w)

/-- The word of an opcode and its fields. -/
def LX.toNat (op : Nat) (f : LX) : Nat :=
  op * 2 ^ 56 + f.g.toNat * 2 ^ 44 + f.d.toNat * 2 ^ 34 + f.q.toNat * 2 ^ 29 + f.x.toNat * 2 ^ 19 + f.off.toNat * 2 ^ 7 + f.fs.toNat * 2 ^ 4 + f.fsel.toNat * 2 ^ 2 + f.low.toNat

/-- R47, R48: the fields of the atomic format, below the opcode byte. -/
structure LA where
  g : BitVec 12
  d : BitVec 10
  q : BitVec 5
  x : BitVec 10
  v : BitVec 10
  aop : BitVec 4
  scope : BitVec 3
  sem : BitVec 2
deriving DecidableEq, Repr

/-- The fields of a word. -/
def LA.ofNat (w : Nat) : LA where
  g := BitVec.ofNat 12 (w / 2 ^ 44)
  d := BitVec.ofNat 10 (w / 2 ^ 34)
  q := BitVec.ofNat 5 (w / 2 ^ 29)
  x := BitVec.ofNat 10 (w / 2 ^ 19)
  v := BitVec.ofNat 10 (w / 2 ^ 9)
  aop := BitVec.ofNat 4 (w / 2 ^ 5)
  scope := BitVec.ofNat 3 (w / 2 ^ 2)
  sem := BitVec.ofNat 2 (w)

/-- The word of an opcode and its fields. -/
def LA.toNat (op : Nat) (f : LA) : Nat :=
  op * 2 ^ 56 + f.g.toNat * 2 ^ 44 + f.d.toNat * 2 ^ 34 + f.q.toNat * 2 ^ 29 + f.x.toNat * 2 ^ 19 + f.v.toNat * 2 ^ 9 + f.aop.toNat * 2 ^ 5 + f.scope.toNat * 2 ^ 2 + f.sem.toNat

/-- R47, R48: the fields of the sweep format, below the opcode byte. -/
structure LW where
  count : BitVec 12
  sd : BitVec 6
  sa : BitVec 6
  sb : BitVec 6
  stepd : BitVec 8
  stepa : BitVec 8
  stepb : BitVec 8
  low : BitVec 2
deriving DecidableEq, Repr

/-- The fields of a word. -/
def LW.ofNat (w : Nat) : LW where
  count := BitVec.ofNat 12 (w / 2 ^ 44)
  sd := BitVec.ofNat 6 (w / 2 ^ 38)
  sa := BitVec.ofNat 6 (w / 2 ^ 32)
  sb := BitVec.ofNat 6 (w / 2 ^ 26)
  stepd := BitVec.ofNat 8 (w / 2 ^ 18)
  stepa := BitVec.ofNat 8 (w / 2 ^ 10)
  stepb := BitVec.ofNat 8 (w / 2 ^ 2)
  low := BitVec.ofNat 2 (w)

/-- The word of an opcode and its fields. -/
def LW.toNat (op : Nat) (f : LW) : Nat :=
  op * 2 ^ 56 + f.count.toNat * 2 ^ 44 + f.sd.toNat * 2 ^ 38 + f.sa.toNat * 2 ^ 32 + f.sb.toNat * 2 ^ 26 + f.stepd.toNat * 2 ^ 18 + f.stepa.toNat * 2 ^ 10 + f.stepb.toNat * 2 ^ 2 + f.low.toNat

/-- R47, R48: the fields of the matrix format, below the opcode byte. -/
structure MF where
  fsel : BitVec 2
  fs : BitVec 3
  td : BitVec 4
  ta : BitVec 4
  tb : BitVec 4
  ma : BitVec 5
  mb : BitVec 5
  mod : BitVec 5
  imm : BitVec 24
deriving DecidableEq, Repr

/-- The fields of a word. -/
def MF.ofNat (w : Nat) : MF where
  fsel := BitVec.ofNat 2 (w / 2 ^ 54)
  fs := BitVec.ofNat 3 (w / 2 ^ 51)
  td := BitVec.ofNat 4 (w / 2 ^ 47)
  ta := BitVec.ofNat 4 (w / 2 ^ 43)
  tb := BitVec.ofNat 4 (w / 2 ^ 39)
  ma := BitVec.ofNat 5 (w / 2 ^ 34)
  mb := BitVec.ofNat 5 (w / 2 ^ 29)
  mod := BitVec.ofNat 5 (w / 2 ^ 24)
  imm := BitVec.ofNat 24 (w)

/-- The word of an opcode and its fields. -/
def MF.toNat (op : Nat) (f : MF) : Nat :=
  op * 2 ^ 56 + f.fsel.toNat * 2 ^ 54 + f.fs.toNat * 2 ^ 51 + f.td.toNat * 2 ^ 47 + f.ta.toNat * 2 ^ 43 + f.tb.toNat * 2 ^ 39 + f.ma.toNat * 2 ^ 34 + f.mb.toNat * 2 ^ 29 + f.mod.toNat * 2 ^ 24 + f.imm.toNat

/-- R47, R48: the fields of the copy format, below the opcode byte. -/
structure CF where
  fsel : BitVec 2
  acq : Bool
  rel : Bool
  scope : BitVec 3
  queue : BitVec 3
  ka : BitVec 5
  kb : BitVec 5
  kc : BitVec 5
  kd : BitVec 5
  imm : BitVec 26
deriving DecidableEq, Repr

/-- The fields of a word. -/
def CF.ofNat (w : Nat) : CF where
  fsel := BitVec.ofNat 2 (w / 2 ^ 54)
  acq := w / 2 ^ 53 % 2 == 1
  rel := w / 2 ^ 52 % 2 == 1
  scope := BitVec.ofNat 3 (w / 2 ^ 49)
  queue := BitVec.ofNat 3 (w / 2 ^ 46)
  ka := BitVec.ofNat 5 (w / 2 ^ 41)
  kb := BitVec.ofNat 5 (w / 2 ^ 36)
  kc := BitVec.ofNat 5 (w / 2 ^ 31)
  kd := BitVec.ofNat 5 (w / 2 ^ 26)
  imm := BitVec.ofNat 26 (w)

/-- The word of an opcode and its fields. -/
def CF.toNat (op : Nat) (f : CF) : Nat :=
  op * 2 ^ 56 + f.fsel.toNat * 2 ^ 54 + f.acq.toNat * 2 ^ 53 + f.rel.toNat * 2 ^ 52 + f.scope.toNat * 2 ^ 49 + f.queue.toNat * 2 ^ 46 + f.ka.toNat * 2 ^ 41 + f.kb.toNat * 2 ^ 36 + f.kc.toNat * 2 ^ 31 + f.kd.toNat * 2 ^ 26 + f.imm.toNat

/-- The guard, IA and HQ fields of an LR word. -/
def LR.ctl (f : LR) : Ctl := { g := f.g, ia := f.ia, hq := f.hq }

/-- The command fields of a CF word. -/
def CF.ctl (f : CF) : CmdCtl := { fsel := f.fsel, acq := f.acq, rel := f.rel, scope := f.scope, queue := f.queue }

/-- The instruction that an opcode and the fields of a LR word name, or the lowest ILLEGAL_INSTRUCTION reason that the word breaks
(R49, R50); `none` for an opcode of another format. -/
def decodeLR (op : Nat) (f : LR) : Option (Except Nat Instr) :=
  match op with
  | 0x00 => some (lowest [(decide (f.fsel = 3#2), 2), (decide (f.fsel ≠ 0#2), 4), (decide (f.g ≠ 0#12), 7), (decide (f.d ≠ 0#10), 7), (decide (f.a ≠ 0#10), 7), (decide (f.b ≠ 0#10), 7), (decide (f.c ≠ 0#10), 7), (f.ia, 7), (f.hq, 7)] (.nop))
  | 0x01 => some (lowest [(decide (f.fsel = 3#2), 2), (decide (f.fsel ≠ 0#2), 4), (decide (f.b ≠ 0#10), 7), (decide (f.c ≠ 0#10), 7)] (.mov f.ctl f.d f.a))
  | 0x04 => some (lowest [(decide (f.fsel = 3#2), 2), (decide (f.fsel ≠ 0#2), 4)] (.rdlane f.ctl f.d f.a f.b f.c))
  | 0x05 => some (lowest [(decide (f.fsel = 3#2), 2), (decide (f.fsel ≠ 0#2), 4), (decide (f.c ≠ 0#10), 7)] (.wrlane f.ctl f.d f.a f.b))
  | 0x06 => some (lowest [(decide (f.fsel = 3#2), 2), (decide (f.fsel ≠ 0#2), 4)] (.sel f.ctl f.d f.a f.b f.c))
  | 0x08 => some (lowest [(decide (f.fsel = 3#2), 2), (decide (f.fsel ≠ 0#2), 4), (decide (f.c ≠ 0#10), 7)] (.iadd f.ctl f.d f.a f.b))
  | 0x09 => some (lowest [(decide (f.fsel = 3#2), 2), (decide (f.fsel ≠ 0#2), 4), (decide (f.c ≠ 0#10), 7)] (.isub f.ctl f.d f.a f.b))
  | 0x0A => some (lowest [(decide (f.fsel = 3#2), 2), (decide (f.fsel ≠ 0#2), 4), (decide (f.c ≠ 0#10), 7)] (.imul f.ctl f.d f.a f.b))
  | 0x0B => some (lowest [(decide (f.fsel = 3#2), 2), (decide (f.fsel ≠ 0#2), 4), (decide (f.c ≠ 0#10), 7)] (.imulhi f.ctl f.d f.a f.b))
  | 0x0C => some (lowest [(decide (f.fsel = 3#2), 2), (decide (f.fsel ≠ 0#2), 4), (decide (f.c ≠ 0#10), 7)] (.imulhn f.ctl f.d f.a f.b))
  | 0x0D => some (lowest [(decide (f.fsel = 3#2), 2), (decide (f.fsel ≠ 0#2), 4)] (.imad f.ctl f.d f.a f.b f.c))
  | 0x0E => some (lowest [(decide (f.fsel = 3#2), 2), (decide (f.fsel ≠ 0#2), 4), (decide (f.c ≠ 0#10), 7)] (.imin f.ctl f.d f.a f.b))
  | 0x0F => some (lowest [(decide (f.fsel = 3#2), 2), (decide (f.fsel ≠ 0#2), 4), (decide (f.c ≠ 0#10), 7)] (.iminn f.ctl f.d f.a f.b))
  | 0x10 => some (lowest [(decide (f.fsel = 3#2), 2), (decide (f.fsel ≠ 0#2), 4), (decide (f.c ≠ 0#10), 7)] (.imax f.ctl f.d f.a f.b))
  | 0x11 => some (lowest [(decide (f.fsel = 3#2), 2), (decide (f.fsel ≠ 0#2), 4), (decide (f.c ≠ 0#10), 7)] (.imaxn f.ctl f.d f.a f.b))
  | 0x12 => some (lowest [(decide (f.fsel = 3#2), 2), (decide (f.fsel ≠ 0#2), 4), (decide (f.b ≠ 0#10), 7), (decide (f.c ≠ 0#10), 7)] (.iabs f.ctl f.d f.a))
  | 0x14 => some (lowest [(decide (f.fsel = 3#2), 2), (decide (f.fsel ≠ 0#2), 4), (decide (f.c ≠ 0#10), 7)] (.iadd64 f.ctl f.d f.a f.b))
  | 0x15 => some (lowest [(decide (f.fsel = 3#2), 2), (decide (f.fsel ≠ 0#2), 4)] (.imad64 f.ctl f.d f.a f.b f.c))
  | 0x16 => some (lowest [(decide (f.fsel = 3#2), 2), (decide (f.fsel ≠ 0#2), 4), (decide (f.c ≠ 0#10), 7)] (.iadds f.ctl f.d f.a f.b))
  | 0x17 => some (lowest [(decide (f.fsel = 3#2), 2), (decide (f.fsel ≠ 0#2), 4), (decide (f.c ≠ 0#10), 7)] (.isubs f.ctl f.d f.a f.b))
  | 0x18 => some (lowest [(decide (f.fsel = 3#2), 2), (decide (f.fsel ≠ 0#2), 4), (decide (f.c ≠ 0#10), 7)] (.andR f.ctl f.d f.a f.b))
  | 0x19 => some (lowest [(decide (f.fsel = 3#2), 2), (decide (f.fsel ≠ 0#2), 4), (decide (f.c ≠ 0#10), 7)] (.orR f.ctl f.d f.a f.b))
  | 0x1A => some (lowest [(decide (f.fsel = 3#2), 2), (decide (f.fsel ≠ 0#2), 4), (decide (f.c ≠ 0#10), 7)] (.xorR f.ctl f.d f.a f.b))
  | 0x1B => some (lowest [(decide (f.fsel = 3#2), 2), (decide (f.fsel ≠ 0#2), 4), (decide (f.c ≠ 0#10), 7)] (.andn f.ctl f.d f.a f.b))
  | 0x1C => some (lowest [(decide (f.fsel = 3#2), 2), (decide (f.fsel ≠ 0#2), 4), (decide (f.c ≠ 0#10), 7)] (.shl f.ctl f.d f.a f.b))
  | 0x1D => some (lowest [(decide (f.fsel = 3#2), 2), (decide (f.fsel ≠ 0#2), 4), (decide (f.c ≠ 0#10), 7)] (.shr f.ctl f.d f.a f.b))
  | 0x1E => some (lowest [(decide (f.fsel = 3#2), 2), (decide (f.fsel ≠ 0#2), 4), (decide (f.c ≠ 0#10), 7)] (.sar f.ctl f.d f.a f.b))
  | 0x1F => some (lowest [(decide (f.fsel = 3#2), 2), (decide (f.fsel ≠ 0#2), 4), (decide (f.c ≠ 0#10), 7)] (.rotr f.ctl f.d f.a f.b))
  | 0x26 => some (lowest [(decide (f.fsel = 3#2), 2), (decide (f.fsel ≠ 0#2), 4), (decide (f.c ≠ 0#10), 7)] (.bfe f.ctl f.d f.a f.b))
  | 0x27 => some (lowest [(decide (f.fsel = 3#2), 2), (decide (f.fsel ≠ 0#2), 4)] (.bfi f.ctl f.d f.a f.b f.c))
  | 0x28 => some (lowest [(decide (f.fsel = 3#2), 2), (decide (f.fsel ≠ 0#2), 4), (decide (f.b ≠ 0#10), 7), (decide (f.c ≠ 0#10), 7)] (.popc f.ctl f.d f.a))
  | 0x29 => some (lowest [(decide (f.fsel = 3#2), 2), (decide (f.fsel ≠ 0#2), 4), (decide (f.b ≠ 0#10), 7), (decide (f.c ≠ 0#10), 7)] (.clz f.ctl f.d f.a))
  | 0x2A => some (lowest [(decide (f.fsel = 3#2), 2), (decide (f.fsel ≠ 0#2), 4), (decide (f.b ≠ 0#10), 7), (decide (f.c ≠ 0#10), 7)] (.brev f.ctl f.d f.a))
  | 0x2B => some (lowest [(decide (f.fsel = 3#2), 2), (decide (f.fsel ≠ 0#2), 4), (f.c.getLsbD 0, 7), (decide (11 < (f.c.extractLsb' 6 4).toNat), 9)] (.iset f.ctl f.d f.a f.b (f.c.extractLsb' 6 4) (f.c.extractLsb' 1 5)))
  | 0x40 => some (lowest [(decide (f.fsel = 3#2), 2), (decide (f.fsel ≠ 0#2), 4), (decide (f.c ≠ 0#10), 7)] (.fadd f.ctl f.d f.a f.b))
  | 0x41 => some (lowest [(decide (f.fsel = 3#2), 2), (decide (f.fsel ≠ 0#2), 4), (decide (f.c ≠ 0#10), 7)] (.fsub f.ctl f.d f.a f.b))
  | 0x42 => some (lowest [(decide (f.fsel = 3#2), 2), (decide (f.fsel ≠ 0#2), 4), (decide (f.c ≠ 0#10), 7)] (.fmul f.ctl f.d f.a f.b))
  | 0x43 => some (lowest [(decide (f.fsel = 3#2), 2), (decide (f.fsel ≠ 0#2), 4)] (.ffma f.ctl f.d f.a f.b f.c))
  | 0x44 => some (lowest [(decide (f.fsel = 3#2), 2), (decide (f.fsel ≠ 0#2), 4), (decide (f.c ≠ 0#10), 7)] (.fmin f.ctl f.d f.a f.b))
  | 0x45 => some (lowest [(decide (f.fsel = 3#2), 2), (decide (f.fsel ≠ 0#2), 4), (decide (f.c ≠ 0#10), 7)] (.fmax f.ctl f.d f.a f.b))
  | 0x46 => some (lowest [(decide (f.fsel = 3#2), 2), (decide (f.fsel ≠ 0#2), 4), (f.c.getLsbD 0, 7), (decide (7 < (f.c.extractLsb' 6 4).toNat), 9)] (.fset f.ctl f.d f.a f.b (f.c.extractLsb' 6 4) (f.c.extractLsb' 1 5)))
  | 0x47 => some (lowest [(decide (f.fsel = 3#2), 2), (decide (f.fsel ≠ 0#2), 4), (decide (f.b ≠ 0#10), 7), (decide (f.c ≠ 0#10), 7)] (.frcp f.ctl f.d f.a))
  | 0x48 => some (lowest [(decide (f.fsel = 3#2), 2), (decide (f.fsel ≠ 0#2), 4), (decide (f.b ≠ 0#10), 7), (decide (f.c ≠ 0#10), 7)] (.frsq f.ctl f.d f.a))
  | 0x49 => some (lowest [(decide (f.fsel = 3#2), 2), (decide (f.fsel ≠ 0#2), 4), (decide (f.b ≠ 0#10), 7), (decide (f.c ≠ 0#10), 7)] (.fsqrt f.ctl f.d f.a))
  | 0x4A => some (lowest [(decide (f.fsel = 3#2), 2), (decide (f.fsel ≠ 0#2), 4), (decide (f.c ≠ 0#10), 7)] (.fdiv f.ctl f.d f.a f.b))
  | 0x4B => some (lowest [(decide (f.fsel = 3#2), 2), (decide (f.fsel ≠ 0#2), 4), (decide (f.b ≠ 0#10), 7), (decide (f.c ≠ 0#10), 7)] (.fex2 f.ctl f.d f.a))
  | 0x4C => some (lowest [(decide (f.fsel = 3#2), 2), (decide (f.fsel ≠ 0#2), 4), (decide (f.b ≠ 0#10), 7), (decide (f.c ≠ 0#10), 7)] (.flg2 f.ctl f.d f.a))
  | 0x4D => some (lowest [(decide (f.fsel = 3#2), 2), (decide (f.fsel ≠ 0#2), 4), (decide (f.b ≠ 0#10), 7), (decide (f.c ≠ 0#10), 7)] (.fsinp f.ctl f.d f.a))
  | 0x4E => some (lowest [(decide (f.fsel = 3#2), 2), (decide (f.fsel ≠ 0#2), 4), (decide (f.b ≠ 0#10), 7), (decide (f.c ≠ 0#10), 7)] (.fcosp f.ctl f.d f.a))
  | 0x4F => some (lowest [(decide (f.fsel = 3#2), 2), (decide (f.fsel ≠ 0#2), 4), (decide (f.b ≠ 0#10), 7), (decide (f.c ≠ 0#10), 7)] (.ftanh f.ctl f.d f.a))
  | 0x50 => some (lowest [(decide (f.fsel = 3#2), 2), (decide (f.fsel ≠ 0#2), 4), (decide (f.c ≠ 0#10), 7)] (.hadd2 f.ctl f.d f.a f.b))
  | 0x51 => some (lowest [(decide (f.fsel = 3#2), 2), (decide (f.fsel ≠ 0#2), 4), (decide (f.c ≠ 0#10), 7)] (.hmul2 f.ctl f.d f.a f.b))
  | 0x52 => some (lowest [(decide (f.fsel = 3#2), 2), (decide (f.fsel ≠ 0#2), 4)] (.hfma2 f.ctl f.d f.a f.b f.c))
  | 0x53 => some (lowest [(decide (f.fsel = 3#2), 2), (decide (f.fsel ≠ 0#2), 4), (decide (f.c ≠ 0#10), 7)] (.fscl f.ctl f.d f.a f.b))
  | 0x54 => some (lowest [(decide (f.fsel = 3#2), 2), (decide (f.fsel ≠ 0#2), 4), (decide (f.b ≠ 0#10), 7), (decide (f.c.extractLsb' 2 8 ≠ 0#8), 7)] (.frnd f.ctl f.d f.a (f.c.extractLsb' 0 2)))
  | 0x55 => some (lowest [(decide (f.fsel = 3#2), 2), (decide (f.fsel ≠ 0#2), 4), (decide (f.b ≠ 0#10), 7), (decide (f.c ≠ 0#10), 7)] (.fclass f.ctl f.d f.a))
  | 0x58 => some (lowest [(decide (f.fsel = 3#2), 2), (decide (f.fsel ≠ 0#2), 4), (decide (f.c.extractLsb' 4 6 ≠ 0#6), 7), (!f.c.getLsbD 3 && decide (f.b ≠ 0#10), 7)] (.cvtf f.ctl (f.c.getLsbD 3) f.d f.a f.b (f.c.extractLsb' 0 3)))
  | 0x59 => some (lowest [(decide (f.fsel = 3#2), 2), (decide (f.fsel ≠ 0#2), 4), (decide (f.b ≠ 0#10), 7), (decide (f.c.extractLsb' 4 6 ≠ 0#6), 7)] (.i2f f.ctl (f.c.getLsbD 3) f.d f.a (f.c.extractLsb' 0 3)))
  | 0x5A => some (lowest [(decide (f.fsel = 3#2), 2), (decide (f.fsel ≠ 0#2), 4), (decide (f.b ≠ 0#10), 7), (decide (f.c.extractLsb' 4 6 ≠ 0#6), 7)] (.f2i f.ctl (f.c.getLsbD 3) f.d f.a (f.c.extractLsb' 0 3)))
  | 0x5B => some (lowest [(decide (f.fsel = 3#2), 2), (decide (f.fsel ≠ 0#2), 4), (decide (f.b ≠ 0#10), 7), (decide (f.c.extractLsb' 3 7 ≠ 0#7), 7)] (.bchk f.ctl f.d f.a (f.c.extractLsb' 0 3)))
  | 0x8C => some (lowest [(decide (f.fsel = 3#2), 2), (decide (f.a ≠ 0#10), 7), (f.ia, 7), (decide (f.c.extractLsb' 4 6 ≠ 0#6), 7)] (.qpop f.g f.hq f.fsel f.d f.b (f.c.extractLsb' 0 4)))
  | 0x8D => some (lowest [(decide (f.fsel = 3#2), 2), (decide (f.d ≠ 0#10), 7), (f.ia, 7), (decide (f.c.extractLsb' 4 6 ≠ 0#6), 7)] (.qpush f.g f.hq f.fsel f.a f.b (f.c.extractLsb' 0 4)))
  | 0x8E => some (lowest [(decide (f.fsel = 3#2), 2), (decide (f.c ≠ 0#10), 7), (f.ia, 7), (f.hq, 7)] (.give f.g f.fsel f.d f.a f.b))
  | 0x8F => some (lowest [(decide (f.fsel = 3#2), 2), (decide (f.b ≠ 0#10), 7), (decide (f.c ≠ 0#10), 7), (f.ia, 7), (f.hq, 7)] (.take f.g f.fsel f.d f.a))
  | 0x90 => some (lowest [(decide (f.fsel = 3#2), 2), (decide (f.b ≠ 0#10), 7), (decide (f.c ≠ 0#10), 7), (f.ia, 7), (f.hq, 7)] (.relb f.g f.fsel f.d f.a))
  | 0x91 => some (lowest [(decide (f.fsel = 3#2), 2), (decide (f.fsel ≠ 0#2), 4), (decide (f.a ≠ 0#10), 7), (decide (f.b ≠ 0#10), 7), (f.ia, 7), (f.hq, 7), (decide (f.c.extractLsb' 3 7 ≠ 0#7), 7)] (.bmapr f.g f.d (f.c.extractLsb' 0 3)))
  | 0x92 => some (lowest [(decide (f.fsel = 3#2), 2), (decide (f.d ≠ 0#10), 7), (decide (f.a ≠ 0#10), 7), (decide (f.b ≠ 0#10), 7), (decide (f.c ≠ 0#10), 7), (f.ia, 7), (f.hq, 7)] (.trig f.g f.fsel))
  | 0xA0 => some (lowest [(decide (f.fsel = 3#2), 2), (decide (f.fsel ≠ 0#2), 4), (f.b.getLsbD 7 && decide (f.b.extractLsb' 3 4 ≠ 0#4), 7), (f.b.getLsbD 7 && decide (f.b.extractLsb' 0 3 = 0#3), 9)] (.shfl f.ctl f.d f.a (f.b.extractLsb' 8 2) (f.b.getLsbD 7) (f.b.extractLsb' 0 7) f.c))
  | 0xA1 => some (lowest [(decide (f.fsel = 3#2), 2), (decide (f.fsel ≠ 0#2), 4)] (.perm f.ctl f.d f.a f.b f.c))
  | 0xA2 => some (lowest [(decide (f.fsel = 3#2), 2), (decide (f.fsel ≠ 0#2), 4), (decide (f.c ≠ 0#10), 7), (decide (f.b.extractLsb' 4 6 ≠ 0#6), 7), (decide (10 < (f.b.extractLsb' 0 4).toNat), 9)] (.redw f.ctl f.d f.a (f.b.extractLsb' 0 4)))
  | 0xA3 => some (lowest [(decide (f.fsel = 3#2), 2), (decide (f.fsel ≠ 0#2), 4), (decide (f.c ≠ 0#10), 7), (decide (f.b.extractLsb' 5 5 ≠ 0#5), 7), (decide (10 < (f.b.extractLsb' 0 4).toNat), 9)] (.scanw f.ctl f.d f.a (f.b.extractLsb' 0 4) (f.b.getLsbD 4)))
  | 0xA4 => some (lowest [(decide (f.fsel = 3#2), 2), (decide (f.fsel ≠ 0#2), 4), (decide (f.c ≠ 0#10), 7), (decide (f.b.extractLsb' 5 5 ≠ 0#5), 7)] (.ballot f.ctl f.d f.a (f.b.extractLsb' 0 5)))
  | 0xA5 => some (lowest [(decide (f.fsel = 3#2), 2), (decide (f.fsel ≠ 0#2), 4), (decide (f.b.extractLsb' 2 8 ≠ 0#8), 7), (decide (f.b.extractLsb' 0 2 = 0#2), 9)] (.qswp f.ctl f.d f.a (f.b.extractLsb' 0 2) f.c))
  | 0xA6 => some (lowest [(decide (f.fsel = 3#2), 2), (decide (f.fsel ≠ 0#2), 4), (decide (f.b.extractLsb' 2 8 ≠ 0#8), 7)] (.qbrd f.ctl f.d f.a (f.b.extractLsb' 0 2) f.c))
  | 0xA7 => some (lowest [(decide (f.fsel = 3#2), 2), (decide (f.fsel ≠ 0#2), 4), (decide (f.a ≠ 0#10), 7), (decide (f.b ≠ 0#10), 7), (decide (f.c ≠ 0#10), 7)] (.actmask f.ctl f.d))
  | 0xB1 => some (lowest [(decide (f.fsel = 3#2), 2), (decide (f.fsel ≠ 0#2), 4), (decide (f.d ≠ 0#10), 7), (decide (f.b ≠ 0#10), 7), (decide (f.c ≠ 0#10), 7), (f.hq, 7)] (.bri f.g f.ia f.a))
  | 0xB3 => some (lowest [(decide (f.fsel = 3#2), 2), (decide (f.fsel ≠ 0#2), 4), (decide (f.d ≠ 0#10), 7), (decide (f.b ≠ 0#10), 7), (decide (f.c ≠ 0#10), 7), (f.hq, 7)] (.ret f.g f.ia f.a))
  | 0xB4 => some (lowest [(decide (f.fsel = 3#2), 2), (decide (f.fsel ≠ 0#2), 4), (decide (f.d ≠ 0#10), 7), (decide (f.a ≠ 0#10), 7), (decide (f.b ≠ 0#10), 7), (decide (f.c ≠ 0#10), 7), (f.ia, 7), (f.hq, 7)] (.exit f.g))
  | 0xB5 => some (lowest [(decide (f.fsel = 3#2), 2), (decide (f.fsel ≠ 0#2), 4), (decide (f.b ≠ 0#10), 7), (f.ia, 7), (f.hq, 7), (f.c.getLsbD 9, 7)] (.spawn f.g f.d f.a (f.c.extractLsb' 0 3) (f.c.extractLsb' 3 6)))
  | 0xB6 => some (lowest [(decide (f.fsel = 3#2), 2), (decide (f.fsel ≠ 0#2), 4), (decide (f.g ≠ 0#12), 7), (decide (f.a ≠ 0#10), 7), (decide (f.b ≠ 0#10), 7), (f.ia, 7), (f.hq, 7), (decide (f.c.extractLsb' 2 8 ≠ 0#8), 7), (decide (f.c.extractLsb' 0 2 = 0#2), 9)] (.fork f.d (f.c.getLsbD 0) (f.c.getLsbD 1)))
  | 0xB7 => some (lowest [(decide (f.fsel = 3#2), 2), (decide (f.fsel ≠ 0#2), 4), (f.ia, 7), (f.hq, 7), (decide (f.c.extractLsb' 7 3 = 7#3), 5), (f.c.getLsbD 6 && decide (f.c.extractLsb' 0 6 ≠ 0#6), 7), (decide (f.c.extractLsb' 7 3 ≠ 0#3), 7)] (.binit f.g (f.c.getLsbD 6) (f.c.extractLsb' 0 6) f.d f.a f.b))
  | 0xB8 => some (lowest [(decide (f.fsel = 3#2), 2), (decide (f.fsel ≠ 0#2), 4), (decide (f.a ≠ 0#10), 7), (f.ia, 7), (f.hq, 7), (decide (f.c.extractLsb' 7 3 = 7#3), 5), (f.c.getLsbD 6 && decide (f.c.extractLsb' 0 6 ≠ 0#6), 7), (!f.c.getLsbD 6 && decide (f.b ≠ 0#10), 7), ((if f.c.getLsbD 6 then decide ((f.c.extractLsb' 7 3).toNat < 3) else decide (3 < (f.c.extractLsb' 7 3).toNat)), 9)] (.arrive f.g (f.c.extractLsb' 7 3) (f.c.getLsbD 6) (f.c.extractLsb' 0 6) f.d f.b))
  | 0xB9 => some (lowest [(decide (f.fsel = 3#2), 2), (decide (f.fsel ≠ 0#2), 4), (decide (f.d ≠ 0#10), 7), (decide (f.b ≠ 0#10), 7), (f.ia, 7), (f.hq, 7), (decide (f.c.extractLsb' 7 3 = 7#3), 5), (decide (f.c.extractLsb' 7 3 ≠ 0#3), 7), (f.c.getLsbD 6 && decide (f.c.extractLsb' 0 6 ≠ 0#6), 7), (f.c.getLsbD 6, 9)] (.expb f.g (f.c.extractLsb' 0 6) f.a))
  | 0xBA => some (lowest [(decide (f.fsel = 3#2), 2), (decide (f.fsel ≠ 0#2), 4), (decide (f.d ≠ 0#10), 7), (f.ia, 7), (f.hq, 7), (decide (f.c.extractLsb' 7 3 = 7#3), 5), (f.c.getLsbD 6 && decide (f.c.extractLsb' 0 6 ≠ 0#6), 7), (!f.c.getLsbD 6 && decide (f.b ≠ 0#10), 7), ((if f.c.getLsbD 6 then decide ((f.c.extractLsb' 7 3).toNat < 3) else decide (3 < (f.c.extractLsb' 7 3).toNat)), 9)] (.waitph f.g (f.c.extractLsb' 7 3) (f.c.getLsbD 6) (f.c.extractLsb' 0 6) f.a f.b))
  | 0xBC => some (lowest [(decide (f.fsel = 3#2), 2), (decide (f.fsel ≠ 0#2), 4), (decide (f.d ≠ 0#10), 7), (decide (f.a ≠ 0#10), 7), (decide (f.b ≠ 0#10), 7), (decide (f.c ≠ 0#10), 7), (f.ia, 7), (f.hq, 7), (decide (f.g ≠ 0), 7)] (.rft f.g))
  | _ => none

/-- The instruction that an opcode and the fields of a LI word name, or the lowest ILLEGAL_INSTRUCTION reason that the word breaks
(R49, R50); `none` for an opcode of another format. -/
def decodeLI (op : Nat) (f : LI) : Option (Except Nat Instr) :=
  match op with
  | 0x02 => some (lowest [(decide (f.a ≠ 0#10), 7)] (.movi f.g f.d f.imm))
  | 0x03 => some (lowest [] (.movhi f.g f.d f.a f.imm))
  | 0x13 => some (lowest [] (.iaddi f.g f.d f.a f.imm))
  | 0x20 => some (lowest [(decide (31 < f.imm.toNat), 9)] (.shli f.g f.d f.a f.imm))
  | 0x21 => some (lowest [(decide (31 < f.imm.toNat), 9)] (.shri f.g f.d f.a f.imm))
  | 0x22 => some (lowest [(decide (31 < f.imm.toNat), 9)] (.sari f.g f.d f.a f.imm))
  | 0x23 => some (lowest [] (.andi f.g f.d f.a f.imm))
  | 0x24 => some (lowest [] (.ori f.g f.d f.a f.imm))
  | 0x25 => some (lowest [] (.xori f.g f.d f.a f.imm))
  | 0x2C => some (lowest [(decide (11 < (f.imm.extractLsb' 20 4).toNat), 9)] (.iseti f.g f.d f.a (f.imm.extractLsb' 20 4) (f.imm.extractLsb' 15 5) (f.imm.extractLsb' 0 15)))
  | 0x94 => some (lowest [(decide (f.d ≠ 0#10), 7), (decide (f.imm.extractLsb' 12 12 ≠ 0#12), 7)] (.evt f.g f.a (f.imm.extractLsb' 0 12)))
  | 0xB0 => some (lowest [(decide (f.d ≠ 0#10), 7), (decide (f.a ≠ 0#10), 7)] (.bra f.g f.imm))
  | 0xB2 => some (lowest [(decide (f.a ≠ 0#10), 7)] (.call f.g f.d f.imm))
  | 0xBB => some (lowest [(decide (f.d ≠ 0#10), 7), (decide (f.a ≠ 0#10), 7), (decide (f.imm.extractLsb' 17 7 ≠ 0#7), 7)] (.trap f.g (f.imm.getLsbD 16) (f.imm.extractLsb' 0 16)))
  | 0xBD => some (lowest [(decide (f.a ≠ 0#10), 7), (decide (f.imm.extractLsb' 11 13 ≠ 0#13), 7)] (.rdsr f.g f.d (f.imm.extractLsb' 0 11)))
  | 0xBF => some (lowest [(decide (f.a ≠ 0#10), 7), (decide (f.imm.extractLsb' 1 23 ≠ 0#23), 7), (!f.imm.getLsbD 0 && decide (f.d ≠ 0#10), 7)] (.nopre f.g (f.imm.getLsbD 0) f.d))
  | 0xBE =>
    if f.imm = 0x0000A1#24 then some (lowest [(decide (f.d ≠ 0#10), 7)] (.waitselWrite f.g f.a))
    else some (lowest [(decide (f.d ≠ 0#10), 7), (decide (f.imm.extractLsb' 11 13 ≠ 0#13), 7)] (.wrsr f.g (f.imm.extractLsb' 0 11) f.a))
  | _ => none

/-- The instruction that an opcode and the fields of a LM word name, or the lowest ILLEGAL_INSTRUCTION reason that the word breaks
(R49, R50); `none` for an opcode of another format. -/
def decodeLM (op : Nat) (f : LM) : Option (Except Nat Instr) :=
  match op with
  | 0x80 => some (lowest [(decide (f.fsel = 3#2), 2), (decide (f.d.extractLsb' 5 5 ≠ 0#5), 9), (decide (f.sz ≠ 3#2), 9)] (.ldrec f.g f.fsel (f.d.extractLsb' 0 5) f.q f.x f.off))
  | 0x81 => some (lowest [(decide (f.fsel = 3#2), 2)] (.ld f.g f.fsel f.sz f.d f.q f.x f.off))
  | 0x82 => some (lowest [(decide (f.fsel = 3#2), 2)] (.st f.g f.fsel f.sz f.d f.q f.x f.off))
  | 0x85 => some (lowest [(decide (f.fsel = 3#2), 2), (decide (f.q ≠ 0#5), 7)] (.ldb f.g f.fsel f.sz f.d f.x f.off))
  | 0x86 => some (lowest [(decide (f.fsel = 3#2), 2), (decide (f.q ≠ 0#5), 7)] (.stb f.g f.fsel f.sz f.d f.x f.off))
  | 0x87 => some (lowest [(decide (f.fsel = 3#2), 2), (decide (f.d ≠ 0#10), 7)] (.prf f.g f.fsel f.sz f.q f.x f.off))
  | _ => none

/-- The instruction that an opcode and the fields of a LX word name, or the lowest ILLEGAL_INSTRUCTION reason that the word breaks
(R49, R50); `none` for an opcode of another format. -/
def decodeLX (op : Nat) (f : LX) : Option (Except Nat Instr) :=
  match op with
  | 0x83 => some (lowest [(decide (f.fsel = 3#2), 2), (decide (f.low ≠ 0#2), 7)] (.ldsx f.g f.fsel f.fs f.d f.q f.x f.off))
  | 0x84 => some (lowest [(decide (f.fsel = 3#2), 2), (decide (f.low ≠ 0#2), 7)] (.stsx f.g f.fsel f.fs f.d f.q f.x f.off))
  | _ => none

/-- The instruction that an opcode and the fields of a LA word name, or the lowest ILLEGAL_INSTRUCTION reason that the word breaks
(R49, R50); `none` for an opcode of another format. -/
def decodeLA (op : Nat) (f : LA) : Option (Except Nat Instr) :=
  match op with
  | 0x88 => some (lowest [(decide (f.scope = 7#3), 5), (decide (9 < f.aop.toNat), 6)] (.atom f.g f.aop f.scope f.sem f.d f.q f.x f.v))
  | 0x89 => some (lowest [(decide (f.aop ≠ 0#4), 7), (decide (f.scope = 7#3), 5), (decide (9 < f.aop.toNat), 6)] (.atomc f.g f.scope f.sem f.d f.q f.x f.v))
  | 0x8A => some (lowest [(decide (f.d ≠ 0#10), 7), (decide (f.scope = 7#3), 5), (decide (9 < f.aop.toNat), 6), (f.sem.getLsbD 0, 9)] (.redm f.g f.aop f.scope f.sem f.q f.x f.v))
  | 0x8B => some (lowest [(decide (f.g ≠ 0#12), 7), (decide (f.d ≠ 0#10), 7), (decide (f.q ≠ 0#5), 7), (decide (f.x ≠ 0#10), 7), (decide (f.v ≠ 0#10), 7), (decide (f.aop ≠ 0#4), 7), (decide (f.scope = 7#3), 5), (decide (9 < f.aop.toNat), 6), (decide (f.sem = 0#2), 9)] (.fence f.scope f.sem))
  | 0x95 => some (lowest [(decide (f.scope = 7#3), 5), (decide (9 < f.aop.toNat), 6), (decide (f.q.extractLsb' 1 4 ≠ 0#4), 7), (decide (3 < f.scope.toNat), 9), (f.q.getLsbD 0 && decide (f.aop = 9#4), 9)] (.atomw f.g (f.q.getLsbD 0) f.aop f.scope f.sem f.d f.x f.v))
  | _ => none

/-- The instruction that an opcode and the fields of a LW word name, or the lowest ILLEGAL_INSTRUCTION reason that the word breaks
(R49, R50); `none` for an opcode of another format. -/
def decodeLW (op : Nat) (f : LW) : Option (Except Nat Instr) :=
  match op with
  | 0x60 => some (lowest [(decide (f.low ≠ 0#2), 7), (decide (f.count = 0#12), 8)] (.wfadd f.count f.sd f.sa f.sb f.stepd f.stepa f.stepb))
  | 0x61 => some (lowest [(decide (f.low ≠ 0#2), 7), (decide (f.count = 0#12), 8)] (.wfmul f.count f.sd f.sa f.sb f.stepd f.stepa f.stepb))
  | 0x62 => some (lowest [(decide (f.low ≠ 0#2), 7), (decide (f.count = 0#12), 8)] (.wffma f.count f.sd f.sa f.sb f.stepd f.stepa f.stepb))
  | 0x63 => some (lowest [(decide (f.low ≠ 0#2), 7), (decide (f.count = 0#12), 8)] (.wfmax f.count f.sd f.sa f.sb f.stepd f.stepa f.stepb))
  | 0x64 => some (lowest [(decide (f.low ≠ 0#2), 7), (decide (f.count = 0#12), 8)] (.wiadd f.count f.sd f.sa f.sb f.stepd f.stepa f.stepb))
  | 0x65 => some (lowest [(decide (f.sb ≠ 0#6), 7), (decide (f.stepb ≠ 0#8), 7), (decide (f.low ≠ 0#2), 7), (decide (f.count = 0#12), 8)] (.wmov f.count f.sd f.sa f.stepd f.stepa))
  | 0x66 => some (lowest [(decide (f.stepb ≠ 0#8), 7), (decide (f.low ≠ 0#2), 7), (decide (f.sb.extractLsb' 3 3 ≠ 0#3), 7), (decide (f.count = 0#12), 8)] (.wcvt f.count f.sd f.sa (f.sb.extractLsb' 0 3) f.stepd f.stepa))
  | _ => none

/-- The instruction that an opcode and the fields of a MF word name, or the lowest ILLEGAL_INSTRUCTION reason that the word breaks
(R49, R50); `none` for an opcode of another format. -/
def decodeMF (op : Nat) (f : MF) : Option (Except Nat Instr) :=
  match op with
  | 0xB7 => some (lowest [(decide (f.fsel = 3#2), 2), (decide (f.fsel ≠ 0#2), 4), (decide (f.fs ≠ 0#3), 7), (decide (f.td ≠ 0#4), 7), (decide (f.ta ≠ 0#4), 7), (decide (f.tb ≠ 0#4), 7), (decide (f.mod ≠ 0#5), 7), (decide (f.imm.extractLsb' 7 3 = 7#3), 5), (decide (f.imm.extractLsb' 10 14 ≠ 0#14), 7), (f.imm.getLsbD 6 && decide (f.imm.extractLsb' 0 6 ≠ 0#6), 7), (decide (f.imm.extractLsb' 7 3 ≠ 0#3), 7)] (.binitMatrix (f.imm.getLsbD 6) (f.imm.extractLsb' 0 6) f.ma f.mb))
  | 0xB8 => some (lowest [(decide (f.fsel = 3#2), 2), (decide (f.fsel ≠ 0#2), 4), (decide (f.fs ≠ 0#3), 7), (decide (f.td ≠ 0#4), 7), (decide (f.ta ≠ 0#4), 7), (decide (f.tb ≠ 0#4), 7), (decide (f.mod ≠ 0#5), 7), (decide (f.imm.extractLsb' 7 3 = 7#3), 5), (decide (f.imm.extractLsb' 10 14 ≠ 0#14), 7), (f.imm.getLsbD 6 && decide (f.imm.extractLsb' 0 6 ≠ 0#6), 7), (!f.imm.getLsbD 6 && decide (f.mb ≠ 0#5), 7), ((if f.imm.getLsbD 6 then decide ((f.imm.extractLsb' 7 3).toNat < 3) else decide (3 < (f.imm.extractLsb' 7 3).toNat)), 9)] (.arriveMatrix (f.imm.extractLsb' 7 3) (f.imm.getLsbD 6) (f.imm.extractLsb' 0 6) f.ma f.mb))
  | 0xB9 => some (lowest [(decide (f.fsel = 3#2), 2), (decide (f.fsel ≠ 0#2), 4), (decide (f.fs ≠ 0#3), 7), (decide (f.td ≠ 0#4), 7), (decide (f.ta ≠ 0#4), 7), (decide (f.tb ≠ 0#4), 7), (decide (f.mb ≠ 0#5), 7), (decide (f.mod ≠ 0#5), 7), (decide (f.imm.extractLsb' 7 3 = 7#3), 5), (decide (f.imm.extractLsb' 10 14 ≠ 0#14), 7), (decide (f.imm.extractLsb' 7 3 ≠ 0#3), 7), (f.imm.getLsbD 6 && decide (f.imm.extractLsb' 0 6 ≠ 0#6), 7), (f.imm.getLsbD 6, 9)] (.expbMatrix (f.imm.extractLsb' 0 6) f.ma))
  | 0xBA => some (lowest [(decide (f.fsel = 3#2), 2), (decide (f.fsel ≠ 0#2), 4), (decide (f.fs ≠ 0#3), 7), (decide (f.td ≠ 0#4), 7), (decide (f.ta ≠ 0#4), 7), (decide (f.tb ≠ 0#4), 7), (decide (f.mod ≠ 0#5), 7), (decide (f.imm.extractLsb' 7 3 = 7#3), 5), (decide (f.imm.extractLsb' 10 14 ≠ 0#14), 7), (f.imm.getLsbD 6 && decide (f.imm.extractLsb' 0 6 ≠ 0#6), 7), (!f.imm.getLsbD 6 && decide (f.mb ≠ 0#5), 7), ((if f.imm.getLsbD 6 then decide ((f.imm.extractLsb' 7 3).toNat < 3) else decide (3 < (f.imm.extractLsb' 7 3).toNat)), 9)] (.waitphMatrix (f.imm.extractLsb' 7 3) (f.imm.getLsbD 6) (f.imm.extractLsb' 0 6) f.ma f.mb))
  | 0xC0 => some (lowest [(decide (f.fsel = 3#2), 2), (decide (f.fsel ≠ 0#2), 4), (decide (f.ta ≠ 0#4), 7), (decide (f.tb ≠ 0#4), 7), (decide (f.ma ≠ 0#5), 7), (decide (f.mb ≠ 0#5), 7), (decide (f.imm ≠ 0#24), 7), (decide (f.mod.extractLsb' 1 4 ≠ 0#4), 7)] (.tcfg (f.mod.getLsbD 0) f.td f.fs))
  | 0xC1 => some (lowest [(decide (f.fsel = 3#2), 2), (decide (f.ta ≠ 0#4), 7), (decide (f.tb ≠ 0#4), 7), (decide (f.mb ≠ 0#5), 7), (decide (f.mod.extractLsb' 1 4 ≠ 0#4), 7), (decide (f.imm.extractLsb' 6 18 ≠ 0#18), 7)] (.tld f.fsel (f.mod.getLsbD 0) f.td f.ma f.fs (f.imm.extractLsb' 0 6)))
  | 0xC2 => some (lowest [(decide (f.fsel = 3#2), 2), (decide (f.fs ≠ 0#3), 7), (decide (f.td ≠ 0#4), 7), (decide (f.tb ≠ 0#4), 7), (decide (f.mb ≠ 0#5), 7), (decide (f.mod ≠ 0#5), 7), (decide (f.imm.extractLsb' 6 18 ≠ 0#18), 7)] (.tst f.fsel f.ta f.ma (f.imm.extractLsb' 0 6)))
  | 0xC3 => some (lowest [(decide (f.fsel = 3#2), 2), (decide (f.fs ≠ 0#3), 7), (decide (f.ma ≠ 0#5), 7), (decide (f.mb ≠ 0#5), 7), (decide (f.mod ≠ 0#5), 7), (decide (f.td.extractLsb' 2 2 ≠ 0#2), 7), (decide (f.imm.extractLsb' 6 18 ≠ 0#18), 7)] (.mma f.fsel (f.td.extractLsb' 0 2) f.ta f.tb (f.imm.extractLsb' 0 6)))
  | 0xC4 => some (lowest [(decide (f.fsel = 3#2), 2), (decide (f.fs ≠ 0#3), 7), (decide (f.ma ≠ 0#5), 7), (decide (f.mb ≠ 0#5), 7), (decide (f.mod ≠ 0#5), 7), (decide (f.td.extractLsb' 2 2 ≠ 0#2), 7), (decide (f.imm.extractLsb' 6 18 ≠ 0#18), 7)] (.mmaz f.fsel (f.td.extractLsb' 0 2) f.ta f.tb (f.imm.extractLsb' 0 6)))
  | 0xC5 => some (lowest [(decide (f.fsel = 3#2), 2), (decide (f.ta ≠ 0#4), 7), (decide (f.tb ≠ 0#4), 7), (decide (f.td.extractLsb' 2 2 ≠ 0#2), 7), (decide (f.mod.extractLsb' 1 4 ≠ 0#4), 7), (decide (f.imm.extractLsb' 18 6 ≠ 0#6), 7), (decide (f.imm.extractLsb' 0 12 = 0#12), 9)] (.mmas f.fsel (f.mod.getLsbD 0) (f.td.extractLsb' 0 2) f.ma f.mb f.fs (f.imm.extractLsb' 0 12) (f.imm.extractLsb' 12 6)))
  | 0xC6 => some (lowest [(decide (f.fsel = 3#2), 2), (decide (f.fs ≠ 0#3), 7), (decide (f.ma ≠ 0#5), 7), (decide (f.mb ≠ 0#5), 7), (decide (f.mod ≠ 0#5), 7), (decide (f.td.extractLsb' 2 2 ≠ 0#2), 7), (decide (f.imm.extractLsb' 6 18 ≠ 0#18), 7)] (.mpair f.fsel (f.td.extractLsb' 0 2) f.ta f.tb (f.imm.extractLsb' 0 6)))
  | 0xC7 => some (lowest [(decide (f.fsel = 3#2), 2), (decide (f.td ≠ 0#4), 7), (decide (f.tb ≠ 0#4), 7), (decide (f.mb ≠ 0#5), 7), (decide (f.imm ≠ 0#24), 7), (decide (f.ta.extractLsb' 2 2 ≠ 0#2), 7), (decide (f.mod.extractLsb' 1 4 ≠ 0#4), 7)] (.mdrn f.fsel (f.mod.getLsbD 0) f.ma (f.ta.extractLsb' 0 2) f.fs))
  | 0xC8 => some (lowest [(decide (f.fsel = 3#2), 2), (decide (f.tb ≠ 0#4), 7), (decide (f.ma ≠ 0#5), 7), (decide (f.mb ≠ 0#5), 7), (decide (f.imm ≠ 0#24), 7), (decide (f.ta.extractLsb' 2 2 ≠ 0#2), 7), (decide (f.mod.extractLsb' 1 4 ≠ 0#4), 7)] (.mdrnb f.fsel (f.mod.getLsbD 0) f.td (f.ta.extractLsb' 0 2) f.fs))
  | 0xC9 => some (lowest [(decide (f.fsel = 3#2), 2), (decide (f.fs ≠ 0#3), 7), (decide (f.ta ≠ 0#4), 7), (decide (f.tb ≠ 0#4), 7), (decide (f.ma ≠ 0#5), 7), (decide (f.mb ≠ 0#5), 7), (decide (f.mod ≠ 0#5), 7), (decide (f.imm ≠ 0#24), 7), (decide (f.td.extractLsb' 2 2 ≠ 0#2), 7)] (.mzero f.fsel (f.td.extractLsb' 0 2)))
  | 0xCA => some (lowest [(decide (f.fsel = 3#2), 2), (decide (f.fs ≠ 0#3), 7), (decide (f.tb ≠ 0#4), 7), (decide (f.ma ≠ 0#5), 7), (decide (f.mb ≠ 0#5), 7), (decide (f.mod ≠ 0#5), 7), (decide (f.imm ≠ 0#24), 7)] (.tmov f.fsel f.td f.ta))
  | 0xCB => some (lowest [(decide (f.fsel = 3#2), 2), (decide (f.fs ≠ 0#3), 7), (decide (f.tb ≠ 0#4), 7), (decide (f.ma ≠ 0#5), 7), (decide (f.mb ≠ 0#5), 7), (decide (f.mod ≠ 0#5), 7), (decide (f.imm ≠ 0#24), 7)] (.ttrn f.fsel f.td f.ta))
  | 0xCC => some (lowest [(decide (f.fsel = 3#2), 2), (decide (f.fsel ≠ 0#2), 4), (decide (f.fs ≠ 0#3), 7), (decide (f.td ≠ 0#4), 7), (decide (f.ta ≠ 0#4), 7), (decide (f.tb ≠ 0#4), 7), (decide (f.mb ≠ 0#5), 7), (decide (f.mod.extractLsb' 1 4 ≠ 0#4), 7)] (.mli (f.mod.getLsbD 0) f.ma f.imm))
  | 0xCD => some (lowest [(decide (f.fsel = 3#2), 2), (decide (f.fsel ≠ 0#2), 4), (decide (f.fs ≠ 0#3), 7), (decide (f.td ≠ 0#4), 7), (decide (f.ta ≠ 0#4), 7), (decide (f.tb ≠ 0#4), 7), (decide (f.mod ≠ 0#5), 7), (decide (f.imm ≠ 0#24), 7)] (.madd f.ma f.mb))
  | 0xCE => some (lowest [(decide (f.fsel = 3#2), 2), (decide (f.fsel ≠ 0#2), 4), (decide (f.fs ≠ 0#3), 7), (decide (f.td ≠ 0#4), 7), (decide (f.ta ≠ 0#4), 7), (decide (f.tb ≠ 0#4), 7), (decide (f.mod.extractLsb' 3 2 ≠ 0#2), 7), (decide (f.mod.extractLsb' 0 3 = 7#3), 9)] (.mbr (f.mod.extractLsb' 0 3) f.ma f.mb f.imm))
  | 0xCF => some (lowest [(decide (f.fsel = 3#2), 2), (decide (f.fsel ≠ 0#2), 4), (decide (f.fs ≠ 0#3), 7), (decide (f.td ≠ 0#4), 7), (decide (f.ta ≠ 0#4), 7), (decide (f.tb ≠ 0#4), 7), (decide (f.ma ≠ 0#5), 7), (decide (f.mb ≠ 0#5), 7), (decide (f.mod ≠ 0#5), 7), (decide (f.imm ≠ 0#24), 7)] (.mexit))
  | 0xD0 => some (lowest [(decide (f.fsel = 3#2), 2), (decide (f.fsel ≠ 0#2), 4), (decide (f.fs ≠ 0#3), 7), (decide (f.td ≠ 0#4), 7), (decide (f.ta ≠ 0#4), 7), (decide (f.tb ≠ 0#4), 7), (decide (f.mb ≠ 0#5), 7), (decide (f.mod ≠ 0#5), 7), (decide (f.imm ≠ 0#24), 7)] (.mprg f.ma))
  | 0xD1 => some (lowest [(decide (f.fsel = 3#2), 2), (decide (f.fsel ≠ 0#2), 4), (decide (f.fs ≠ 0#3), 7), (decide (f.td ≠ 0#4), 7), (decide (f.ta ≠ 0#4), 7), (decide (f.tb ≠ 0#4), 7), (decide (f.mod ≠ 0#5), 7)] (.maddi f.ma f.mb f.imm))
  | _ => none

/-- The instruction that an opcode and the fields of a CF word name, or the lowest ILLEGAL_INSTRUCTION reason that the word breaks
(R49, R50); `none` for an opcode of another format. -/
def decodeCF (op : Nat) (f : CF) : Option (Except Nat Instr) :=
  match op with
  | 0xB7 => some (lowest [(decide (f.fsel = 3#2), 2), (decide (f.fsel ≠ 0#2), 4), (f.acq, 7), (f.rel, 7), (decide (f.scope ≠ 0#3), 7), (decide (f.queue ≠ 0#3), 7), (decide (f.kc ≠ 0#5), 7), (decide (f.kd ≠ 0#5), 7), (decide (f.scope = 7#3), 5), (decide (f.imm.extractLsb' 7 19 ≠ 0#19), 7), (f.imm.getLsbD 6 && decide (f.imm.extractLsb' 0 6 ≠ 0#6), 7)] (.binitCopy (f.imm.getLsbD 6) (f.imm.extractLsb' 0 6) f.ka f.kb))
  | 0xB8 => some (lowest [(decide (f.fsel = 3#2), 2), (decide (f.fsel ≠ 0#2), 4), (f.acq, 7), (f.rel, 7), (decide (f.queue ≠ 0#3), 7), (decide (f.kc ≠ 0#5), 7), (decide (f.kd ≠ 0#5), 7), (decide (f.scope = 7#3), 5), (decide (f.imm.extractLsb' 7 19 ≠ 0#19), 7), (f.imm.getLsbD 6 && decide (f.imm.extractLsb' 0 6 ≠ 0#6), 7), (!f.imm.getLsbD 6 && decide (f.kb ≠ 0#5), 7), ((if f.imm.getLsbD 6 then decide (f.scope.toNat < 3) else decide (3 < f.scope.toNat)), 9)] (.arriveCopy f.scope (f.imm.getLsbD 6) (f.imm.extractLsb' 0 6) f.ka f.kb))
  | 0xB9 => some (lowest [(decide (f.fsel = 3#2), 2), (decide (f.fsel ≠ 0#2), 4), (f.acq, 7), (f.rel, 7), (decide (f.scope ≠ 0#3), 7), (decide (f.queue ≠ 0#3), 7), (decide (f.kb ≠ 0#5), 7), (decide (f.kc ≠ 0#5), 7), (decide (f.kd ≠ 0#5), 7), (decide (f.scope = 7#3), 5), (decide (f.imm.extractLsb' 7 19 ≠ 0#19), 7), (f.imm.getLsbD 6 && decide (f.imm.extractLsb' 0 6 ≠ 0#6), 7), (f.imm.getLsbD 6, 9)] (.expbCopy (f.imm.extractLsb' 0 6) f.ka))
  | 0xBA => some (lowest [(decide (f.fsel = 3#2), 2), (decide (f.fsel ≠ 0#2), 4), (f.acq, 7), (f.rel, 7), (decide (f.queue ≠ 0#3), 7), (decide (f.kc ≠ 0#5), 7), (decide (f.kd ≠ 0#5), 7), (decide (f.scope = 7#3), 5), (decide (f.imm.extractLsb' 7 19 ≠ 0#19), 7), (f.imm.getLsbD 6 && decide (f.imm.extractLsb' 0 6 ≠ 0#6), 7), (!f.imm.getLsbD 6 && decide (f.kb ≠ 0#5), 7), ((if f.imm.getLsbD 6 then decide (f.scope.toNat < 3) else decide (3 < f.scope.toNat)), 9)] (.waitphCopy f.scope (f.imm.getLsbD 6) (f.imm.extractLsb' 0 6) f.ka f.kb))
  | 0xD8 => some (lowest [(decide (f.fsel = 3#2), 2), (decide (f.kc ≠ 0#5), 7), (decide (f.kd ≠ 0#5), 7), (decide (f.imm ≠ 0#26), 7), (decide (f.scope = 7#3), 5), (!f.acq && !f.rel && decide (f.scope ≠ 0#3), 7)] (.dcopy f.ctl f.ka f.kb))
  | 0xD9 => some (lowest [(decide (f.fsel = 3#2), 2), (decide (f.scope = 7#3), 5), (!f.acq && !f.rel && decide (f.scope ≠ 0#3), 7), (decide (f.imm.extractLsb' 11 15 ≠ 0#15), 7)] (.dmcast f.ctl f.ka f.kb f.kc f.kd (f.imm.extractLsb' 0 3) (f.imm.extractLsb' 3 6) (f.imm.extractLsb' 9 2)))
  | 0xDA => some (lowest [(decide (f.fsel = 3#2), 2), (decide (f.kc ≠ 0#5), 7), (decide (f.kd ≠ 0#5), 7), (decide (f.imm ≠ 0#26), 7), (decide (f.scope = 7#3), 5), (!f.acq && !f.rel && decide (f.scope ≠ 0#3), 7)] (.dfill f.ctl f.ka f.kb))
  | 0xDB => some (lowest [(decide (f.fsel = 3#2), 2), (decide (f.imm ≠ 0#26), 7), (decide (f.scope = 7#3), 5), (!f.acq && !f.rel && decide (f.scope ≠ 0#3), 7)] (.dchain f.ctl f.ka f.kb f.kc f.kd))
  | 0xDC => some (lowest [(decide (f.fsel = 3#2), 2), (decide (f.kc ≠ 0#5), 7), (decide (f.kd ≠ 0#5), 7), (decide (f.scope = 7#3), 5), (!f.acq && !f.rel && decide (f.scope ≠ 0#3), 7), (decide (f.imm.extractLsb' 2 24 ≠ 0#24), 7), (decide (f.imm.extractLsb' 0 2 = 3#2), 9)] (.dred f.ctl (f.imm.extractLsb' 0 2) f.ka f.kb))
  | 0xDD => some (lowest [(decide (f.fsel = 3#2), 2), (decide (f.kb ≠ 0#5), 7), (decide (f.kc ≠ 0#5), 7), (decide (f.kd ≠ 0#5), 7), (decide (f.imm ≠ 0#26), 7), (decide (f.scope = 7#3), 5), (!f.acq && !f.rel && decide (f.scope ≠ 0#3), 7)] (.dcoll f.ctl f.ka))
  | 0xDE => some (lowest [(decide (f.fsel = 3#2), 2), (decide (f.kb ≠ 0#5), 7), (decide (f.kc ≠ 0#5), 7), (decide (f.kd ≠ 0#5), 7), (decide (f.scope = 7#3), 5), (!f.acq && !f.rel && decide (f.scope ≠ 0#3), 7), (decide (f.imm.extractLsb' 6 20 ≠ 0#20), 7)] (.dproxy f.ctl f.ka (f.imm.extractLsb' 0 6)))
  | 0xDF => some (lowest [(decide (f.fsel = 3#2), 2), (decide (f.fsel ≠ 0#2), 4), (f.acq, 7), (f.rel, 7), (decide (f.scope ≠ 0#3), 7), (decide (f.kb ≠ 0#5), 7), (decide (f.kc ≠ 0#5), 7), (decide (f.kd ≠ 0#5), 7), (decide (f.imm ≠ 0#26), 7)] (.dstat f.ka f.queue))
  | 0xE0 => some (lowest [(decide (f.fsel = 3#2), 2), (decide (f.fsel ≠ 0#2), 4), (f.acq, 7), (f.rel, 7), (decide (f.scope ≠ 0#3), 7), (decide (f.kb ≠ 0#5), 7), (decide (f.kc ≠ 0#5), 7), (decide (f.kd ≠ 0#5), 7), (decide (f.imm ≠ 0#26), 7)] (.dresume f.ka f.queue))
  | 0xE1 => some (lowest [(decide (f.fsel = 3#2), 2), (decide (f.fsel ≠ 0#2), 4), (f.acq, 7), (f.rel, 7), (decide (f.scope ≠ 0#3), 7), (decide (f.kb ≠ 0#5), 7), (decide (f.kc ≠ 0#5), 7), (decide (f.kd ≠ 0#5), 7), (decide (f.imm ≠ 0#26), 7)] (.dcancel f.ka f.queue))
  | 0xE2 => some (lowest [(decide (f.fsel = 3#2), 2), (decide (f.fsel ≠ 0#2), 4), (f.acq, 7), (f.rel, 7), (decide (f.scope ≠ 0#3), 7), (decide (f.queue ≠ 0#3), 7), (decide (f.kc ≠ 0#5), 7), (decide (f.kd ≠ 0#5), 7), (decide (1 < f.kb.toNat), 9)] (.kli (f.kb.getLsbD 0) f.ka f.imm))
  | 0xE3 => some (lowest [(decide (f.fsel = 3#2), 2), (decide (f.fsel ≠ 0#2), 4), (f.acq, 7), (f.rel, 7), (decide (f.scope ≠ 0#3), 7), (decide (f.queue ≠ 0#3), 7), (decide (f.kd ≠ 0#5), 7), (decide (f.imm ≠ 0#26), 7)] (.kadd f.ka f.kb f.kc))
  | 0xE4 => some (lowest [(decide (f.fsel = 3#2), 2), (decide (f.fsel ≠ 0#2), 4), (f.acq, 7), (f.rel, 7), (decide (f.scope ≠ 0#3), 7), (decide (f.queue ≠ 0#3), 7), (decide (f.kc ≠ 0#5), 7), (decide (f.kd ≠ 0#5), 7)] (.kaddi f.ka f.kb f.imm))
  | 0xE5 => some (lowest [(decide (f.fsel = 3#2), 2), (decide (f.fsel ≠ 0#2), 4), (f.acq, 7), (f.rel, 7), (decide (f.scope ≠ 0#3), 7), (decide (f.queue ≠ 0#3), 7), (decide (f.kd ≠ 0#5), 7), (decide (6 < f.kc.toNat), 9)] (.kbr f.kc f.ka f.kb f.imm))
  | 0xE6 => some (lowest [(decide (f.fsel = 3#2), 2), (decide (f.fsel ≠ 0#2), 4), (f.acq, 7), (f.rel, 7), (decide (f.scope ≠ 0#3), 7), (decide (f.queue ≠ 0#3), 7), (decide (f.ka ≠ 0#5), 7), (decide (f.kb ≠ 0#5), 7), (decide (f.kc ≠ 0#5), 7), (decide (f.kd ≠ 0#5), 7), (decide (f.imm ≠ 0#26), 7)] (.kexit))
  | 0xE7 => some (lowest [(decide (f.fsel = 3#2), 2), (decide (f.fsel ≠ 0#2), 4), (f.rel, 7), (decide (f.queue ≠ 0#3), 7), (decide (f.kc ≠ 0#5), 7), (decide (f.kd ≠ 0#5), 7), (decide (f.scope = 7#3), 5), (!f.acq && decide (f.scope ≠ 0#3), 7)] (.kld f.acq f.scope f.ka f.kb f.imm))
  | 0xE8 => some (lowest [(decide (f.fsel = 3#2), 2), (decide (f.fsel ≠ 0#2), 4), (f.acq, 7), (decide (f.queue ≠ 0#3), 7), (decide (f.kc ≠ 0#5), 7), (decide (f.kd ≠ 0#5), 7), (decide (f.scope = 7#3), 5), (!f.rel && decide (f.scope ≠ 0#3), 7)] (.kst f.rel f.scope f.ka f.kb f.imm))
  | 0xE9 => some (lowest [(decide (f.fsel = 3#2), 2), (decide (f.fsel ≠ 0#2), 4), (f.acq, 7), (f.rel, 7), (decide (f.scope ≠ 0#3), 7), (decide (f.kb ≠ 0#5), 7), (decide (f.kc ≠ 0#5), 7), (decide (f.kd ≠ 0#5), 7), (decide (f.imm ≠ 0#26), 7)] (.kprg f.ka f.queue))
  | _ => none

/-- R59: the format in which an engine of class `cls` reads an opcode; `none` when the opcode is not assigned to that class. -/
def formatOf (cls : Class) (op : Nat) : Option Format :=
  match cls with
  | .lane =>
    if (0x00 ≤ op && op ≤ 0x01) || (0x04 ≤ op && op ≤ 0x06) || (0x08 ≤ op && op ≤ 0x12) || (0x14 ≤ op && op ≤ 0x1F) || (0x26 ≤ op && op ≤ 0x2B) || (0x40 ≤ op && op ≤ 0x55) || (0x58 ≤ op && op ≤ 0x5B) || (0x8C ≤ op && op ≤ 0x92) || (0xA0 ≤ op && op ≤ 0xA7) || op == 0xB1 || (0xB3 ≤ op && op ≤ 0xBA) || op == 0xBC then some .lr
    else if (0x02 ≤ op && op ≤ 0x03) || op == 0x13 || (0x20 ≤ op && op ≤ 0x25) || op == 0x2C || op == 0x94 || op == 0xB0 || op == 0xB2 || op == 0xBB || (0xBD ≤ op && op ≤ 0xBF) then some .li
    else if (0x80 ≤ op && op ≤ 0x82) || (0x85 ≤ op && op ≤ 0x87) then some .lm
    else if (0x83 ≤ op && op ≤ 0x84) then some .lx
    else if (0x88 ≤ op && op ≤ 0x8B) || op == 0x95 then some .la
    else if (0x60 ≤ op && op ≤ 0x66) then some .lw
    else none
  | .matrix => if (0xB7 ≤ op && op ≤ 0xBA) || (0xC0 ≤ op && op ≤ 0xD1) then some .mf else none
  | .copy => if (0xB7 ≤ op && op ≤ 0xBA) || (0xD8 ≤ op && op ≤ 0xE9) then some .cf else none

/-- R59, R60: the opcode is assigned in some class. -/
def assigned (op : Nat) : Bool :=
  (formatOf .lane op).isSome || (formatOf .matrix op).isSome || (formatOf .copy op).isSome

/-- The instruction of a word of a known format. -/
def decodeAs (fmt : Format) (op w : Nat) : Option (Except Nat Instr) :=
  match fmt with
  | .lr => decodeLR op (LR.ofNat w)
  | .li => decodeLI op (LI.ofNat w)
  | .lm => decodeLM op (LM.ofNat w)
  | .lx => decodeLX op (LX.ofNat w)
  | .la => decodeLA op (LA.ofNat w)
  | .lw => decodeLW op (LW.ofNat w)
  | .mf => decodeMF op (MF.ofNat w)
  | .cf => decodeCF op (CF.ofNat w)

/-- The opcode byte of a word. -/
def opcodeOf (w : Nat) : Nat := w / 2 ^ 56 % 256

/-- A word in the body of a clause of class `cls` (R40, R49, R50, R59, R60): the instruction, or the syndrome and reason. -/
def decodeWord (cls : Class) (w : Nat) : Except Illegal Instr :=
  let op := opcodeOf w
  if 0xF0 ≤ op && op ≤ 0xF3 then .error (.clause 7)
  else
    match formatOf cls op with
    | none => if assigned op then .error (.clause 8) else .error (.instruction 1)
    | some fmt =>
      match decodeAs fmt op w with
      | none => .error (.instruction 1)
      | some (.ok i) => .ok i
      | some (.error r) => .error (.instruction r)

/-- The class byte of a header (R37, R38). -/
def Class.byte : Class → Nat
  | .lane => 0xF0
  | .matrix => 0xF1
  | .copy => 0xF2

/-- R38: the fields of a header word. -/
def Header.ofNat (w : Nat) : Header where
  count := BitVec.ofNat 4 (w / 2 ^ 52)
  wait := BitVec.ofNat 12 (w / 2 ^ 40)
  setaEn := w / 2 ^ 39 % 2 == 1
  seta := BitVec.ofNat 4 (w / 2 ^ 35)
  setbEn := w / 2 ^ 34 % 2 == 1
  setb := BitVec.ofNat 4 (w / 2 ^ 30)
  trace := w / 2 ^ 29 % 2 == 1

/-- R38: the word of a header. -/
def Header.toNat (cls : Class) (h : Header) : Nat :=
  cls.byte * 2 ^ 56 + h.count.toNat * 2 ^ 52 + h.wait.toNat * 2 ^ 40 + h.setaEn.toNat * 2 ^ 39 + h.seta.toNat * 2 ^ 35
    + h.setbEn.toNat * 2 ^ 34 + h.setb.toNat * 2 ^ 30 + h.trace.toNat * 2 ^ 29

/-- R39: the word at a clause address, as an engine of class `cls` reads it; the checks in R39's order. -/
def decodeHeader (cls : Class) (w : Nat) : Except Illegal Instr :=
  let c := opcodeOf w
  let h := Header.ofNat w
  if c < 0xF0 || 0xF3 < c then .error (.clause 1)
  else if c == 0xF3 then .error (.clause 2)
  else if c != cls.byte then .error (.clause 3)
  else if w % 2 ^ 29 != 0 || (!h.setaEn && h.seta != 0#4) || (!h.setbEn && h.setb != 0#4) then .error (.clause 4)
  else if (h.setaEn && 11 < h.seta.toNat) || (h.setbEn && 11 < h.setb.toNat) then .error (.clause 5)
  else .ok (.clauseStart cls h)

/-- R40, R369: the words that must end their clause. -/
def mustEndClause (op : Nat) : Bool :=
  op == 0xB0 || op == 0xB1 || op == 0xB2 || op == 0xB3 || op == 0xB4 || op == 0xBC || op == 0xCE || op == 0xCF
    || op == 0xE5 || op == 0xE6

/-- R44: the FSEL field of a word, in the formats that have one. -/
def fselOf (fmt : Format) (w : Nat) : Option Nat :=
  match fmt with
  | .lr | .lm | .lx => some (w / 4 % 4)
  | .mf | .cf => some (w / 2 ^ 54 % 4)
  | .li | .la | .lw => none

/-- R44: FSEL names a flag that the clause header does not enable (reason 0x0003). -/
def fselDisabled (h : Header) (fmt : Format) (w : Nat) : Bool :=
  match fselOf fmt w with
  | some 1 => !h.setaEn
  | some 2 => !h.setbEn
  | _ => false

/-- A word at index `idx` of the body of a clause with header `h` (R40, R44, R50): the instruction, or the one syndrome that R50's
order selects. -/
def decodeIn (cls : Class) (h : Header) (idx : Nat) (w : Nat) : Except Illegal Instr :=
  let op := opcodeOf w
  if mustEndClause op && idx < h.count.toNat then .error (.clause 6)
  else
    match decodeWord cls w with
    | .error (.clause r) => .error (.clause r)
    | .error (.instruction r) =>
      match formatOf cls op with
      | some fmt => if fselDisabled h fmt w then .error (.instruction (min r 3)) else .error (.instruction r)
      | none => .error (.instruction r)
    | .ok i =>
      match formatOf cls op with
      | some fmt => if fselDisabled h fmt w then .error (.instruction 3) else .ok i
      | none => .ok i

/-- The words of a well-formed instruction, written from the encodings of R38, R47 and R48: the class whose clauses hold the
word, and the word. A step that is no instruction word has none. -/
def encode : Instr → Option (Class × Nat)
  | .clauseStart cls h => some (cls, h.toNat cls)
  | .nop => some (.lane, LR.toNat 0x00 { g := 0, d := 0, a := 0, b := 0, c := 0, fsel := 0, ia := false, hq := false })
  | .mov c d a => some (.lane, LR.toNat 0x01 { g := c.g, d := d, a := a, b := 0, c := 0, fsel := 0, ia := c.ia, hq := c.hq })
  | .movi g d imm => some (.lane, LI.toNat 0x02 { g := g, d := d, a := 0, imm := imm })
  | .movhi g d a imm => some (.lane, LI.toNat 0x03 { g := g, d := d, a := a, imm := imm })
  | .rdlane c d a b cc => some (.lane, LR.toNat 0x04 { g := c.g, d := d, a := a, b := b, c := cc, fsel := 0, ia := c.ia, hq := c.hq })
  | .wrlane c d a b => some (.lane, LR.toNat 0x05 { g := c.g, d := d, a := a, b := b, c := 0, fsel := 0, ia := c.ia, hq := c.hq })
  | .sel c d a b cc => some (.lane, LR.toNat 0x06 { g := c.g, d := d, a := a, b := b, c := cc, fsel := 0, ia := c.ia, hq := c.hq })
  | .iadd c d a b => some (.lane, LR.toNat 0x08 { g := c.g, d := d, a := a, b := b, c := 0, fsel := 0, ia := c.ia, hq := c.hq })
  | .isub c d a b => some (.lane, LR.toNat 0x09 { g := c.g, d := d, a := a, b := b, c := 0, fsel := 0, ia := c.ia, hq := c.hq })
  | .imul c d a b => some (.lane, LR.toNat 0x0A { g := c.g, d := d, a := a, b := b, c := 0, fsel := 0, ia := c.ia, hq := c.hq })
  | .imulhi c d a b => some (.lane, LR.toNat 0x0B { g := c.g, d := d, a := a, b := b, c := 0, fsel := 0, ia := c.ia, hq := c.hq })
  | .imulhn c d a b => some (.lane, LR.toNat 0x0C { g := c.g, d := d, a := a, b := b, c := 0, fsel := 0, ia := c.ia, hq := c.hq })
  | .imad c d a b cc => some (.lane, LR.toNat 0x0D { g := c.g, d := d, a := a, b := b, c := cc, fsel := 0, ia := c.ia, hq := c.hq })
  | .imin c d a b => some (.lane, LR.toNat 0x0E { g := c.g, d := d, a := a, b := b, c := 0, fsel := 0, ia := c.ia, hq := c.hq })
  | .iminn c d a b => some (.lane, LR.toNat 0x0F { g := c.g, d := d, a := a, b := b, c := 0, fsel := 0, ia := c.ia, hq := c.hq })
  | .imax c d a b => some (.lane, LR.toNat 0x10 { g := c.g, d := d, a := a, b := b, c := 0, fsel := 0, ia := c.ia, hq := c.hq })
  | .imaxn c d a b => some (.lane, LR.toNat 0x11 { g := c.g, d := d, a := a, b := b, c := 0, fsel := 0, ia := c.ia, hq := c.hq })
  | .iabs c d a => some (.lane, LR.toNat 0x12 { g := c.g, d := d, a := a, b := 0, c := 0, fsel := 0, ia := c.ia, hq := c.hq })
  | .iaddi g d a imm => some (.lane, LI.toNat 0x13 { g := g, d := d, a := a, imm := imm })
  | .iadd64 c d a b => some (.lane, LR.toNat 0x14 { g := c.g, d := d, a := a, b := b, c := 0, fsel := 0, ia := c.ia, hq := c.hq })
  | .imad64 c d a b cc => some (.lane, LR.toNat 0x15 { g := c.g, d := d, a := a, b := b, c := cc, fsel := 0, ia := c.ia, hq := c.hq })
  | .iadds c d a b => some (.lane, LR.toNat 0x16 { g := c.g, d := d, a := a, b := b, c := 0, fsel := 0, ia := c.ia, hq := c.hq })
  | .isubs c d a b => some (.lane, LR.toNat 0x17 { g := c.g, d := d, a := a, b := b, c := 0, fsel := 0, ia := c.ia, hq := c.hq })
  | .andR c d a b => some (.lane, LR.toNat 0x18 { g := c.g, d := d, a := a, b := b, c := 0, fsel := 0, ia := c.ia, hq := c.hq })
  | .orR c d a b => some (.lane, LR.toNat 0x19 { g := c.g, d := d, a := a, b := b, c := 0, fsel := 0, ia := c.ia, hq := c.hq })
  | .xorR c d a b => some (.lane, LR.toNat 0x1A { g := c.g, d := d, a := a, b := b, c := 0, fsel := 0, ia := c.ia, hq := c.hq })
  | .andn c d a b => some (.lane, LR.toNat 0x1B { g := c.g, d := d, a := a, b := b, c := 0, fsel := 0, ia := c.ia, hq := c.hq })
  | .shl c d a b => some (.lane, LR.toNat 0x1C { g := c.g, d := d, a := a, b := b, c := 0, fsel := 0, ia := c.ia, hq := c.hq })
  | .shr c d a b => some (.lane, LR.toNat 0x1D { g := c.g, d := d, a := a, b := b, c := 0, fsel := 0, ia := c.ia, hq := c.hq })
  | .sar c d a b => some (.lane, LR.toNat 0x1E { g := c.g, d := d, a := a, b := b, c := 0, fsel := 0, ia := c.ia, hq := c.hq })
  | .rotr c d a b => some (.lane, LR.toNat 0x1F { g := c.g, d := d, a := a, b := b, c := 0, fsel := 0, ia := c.ia, hq := c.hq })
  | .shli g d a imm => some (.lane, LI.toNat 0x20 { g := g, d := d, a := a, imm := imm })
  | .shri g d a imm => some (.lane, LI.toNat 0x21 { g := g, d := d, a := a, imm := imm })
  | .sari g d a imm => some (.lane, LI.toNat 0x22 { g := g, d := d, a := a, imm := imm })
  | .andi g d a imm => some (.lane, LI.toNat 0x23 { g := g, d := d, a := a, imm := imm })
  | .ori g d a imm => some (.lane, LI.toNat 0x24 { g := g, d := d, a := a, imm := imm })
  | .xori g d a imm => some (.lane, LI.toNat 0x25 { g := g, d := d, a := a, imm := imm })
  | .bfe c d a b => some (.lane, LR.toNat 0x26 { g := c.g, d := d, a := a, b := b, c := 0, fsel := 0, ia := c.ia, hq := c.hq })
  | .bfi c d a b cc => some (.lane, LR.toNat 0x27 { g := c.g, d := d, a := a, b := b, c := cc, fsel := 0, ia := c.ia, hq := c.hq })
  | .popc c d a => some (.lane, LR.toNat 0x28 { g := c.g, d := d, a := a, b := 0, c := 0, fsel := 0, ia := c.ia, hq := c.hq })
  | .clz c d a => some (.lane, LR.toNat 0x29 { g := c.g, d := d, a := a, b := 0, c := 0, fsel := 0, ia := c.ia, hq := c.hq })
  | .brev c d a => some (.lane, LR.toNat 0x2A { g := c.g, d := d, a := a, b := 0, c := 0, fsel := 0, ia := c.ia, hq := c.hq })
  | .iset c d a b cond pos => some (.lane, LR.toNat 0x2B { g := c.g, d := d, a := a, b := b, c := (cond ++ pos ++ 0#1), fsel := 0, ia := c.ia, hq := c.hq })
  | .iseti g d a cond pos imm => some (.lane, LI.toNat 0x2C { g := g, d := d, a := a, imm := (cond ++ pos ++ imm) })
  | .fadd c d a b => some (.lane, LR.toNat 0x40 { g := c.g, d := d, a := a, b := b, c := 0, fsel := 0, ia := c.ia, hq := c.hq })
  | .fsub c d a b => some (.lane, LR.toNat 0x41 { g := c.g, d := d, a := a, b := b, c := 0, fsel := 0, ia := c.ia, hq := c.hq })
  | .fmul c d a b => some (.lane, LR.toNat 0x42 { g := c.g, d := d, a := a, b := b, c := 0, fsel := 0, ia := c.ia, hq := c.hq })
  | .ffma c d a b cc => some (.lane, LR.toNat 0x43 { g := c.g, d := d, a := a, b := b, c := cc, fsel := 0, ia := c.ia, hq := c.hq })
  | .fmin c d a b => some (.lane, LR.toNat 0x44 { g := c.g, d := d, a := a, b := b, c := 0, fsel := 0, ia := c.ia, hq := c.hq })
  | .fmax c d a b => some (.lane, LR.toNat 0x45 { g := c.g, d := d, a := a, b := b, c := 0, fsel := 0, ia := c.ia, hq := c.hq })
  | .fset c d a b cond pos => some (.lane, LR.toNat 0x46 { g := c.g, d := d, a := a, b := b, c := (cond ++ pos ++ 0#1), fsel := 0, ia := c.ia, hq := c.hq })
  | .frcp c d a => some (.lane, LR.toNat 0x47 { g := c.g, d := d, a := a, b := 0, c := 0, fsel := 0, ia := c.ia, hq := c.hq })
  | .frsq c d a => some (.lane, LR.toNat 0x48 { g := c.g, d := d, a := a, b := 0, c := 0, fsel := 0, ia := c.ia, hq := c.hq })
  | .fsqrt c d a => some (.lane, LR.toNat 0x49 { g := c.g, d := d, a := a, b := 0, c := 0, fsel := 0, ia := c.ia, hq := c.hq })
  | .fdiv c d a b => some (.lane, LR.toNat 0x4A { g := c.g, d := d, a := a, b := b, c := 0, fsel := 0, ia := c.ia, hq := c.hq })
  | .fex2 c d a => some (.lane, LR.toNat 0x4B { g := c.g, d := d, a := a, b := 0, c := 0, fsel := 0, ia := c.ia, hq := c.hq })
  | .flg2 c d a => some (.lane, LR.toNat 0x4C { g := c.g, d := d, a := a, b := 0, c := 0, fsel := 0, ia := c.ia, hq := c.hq })
  | .fsinp c d a => some (.lane, LR.toNat 0x4D { g := c.g, d := d, a := a, b := 0, c := 0, fsel := 0, ia := c.ia, hq := c.hq })
  | .fcosp c d a => some (.lane, LR.toNat 0x4E { g := c.g, d := d, a := a, b := 0, c := 0, fsel := 0, ia := c.ia, hq := c.hq })
  | .ftanh c d a => some (.lane, LR.toNat 0x4F { g := c.g, d := d, a := a, b := 0, c := 0, fsel := 0, ia := c.ia, hq := c.hq })
  | .hadd2 c d a b => some (.lane, LR.toNat 0x50 { g := c.g, d := d, a := a, b := b, c := 0, fsel := 0, ia := c.ia, hq := c.hq })
  | .hmul2 c d a b => some (.lane, LR.toNat 0x51 { g := c.g, d := d, a := a, b := b, c := 0, fsel := 0, ia := c.ia, hq := c.hq })
  | .hfma2 c d a b cc => some (.lane, LR.toNat 0x52 { g := c.g, d := d, a := a, b := b, c := cc, fsel := 0, ia := c.ia, hq := c.hq })
  | .fscl c d a b => some (.lane, LR.toNat 0x53 { g := c.g, d := d, a := a, b := b, c := 0, fsel := 0, ia := c.ia, hq := c.hq })
  | .frnd c d a rm => some (.lane, LR.toNat 0x54 { g := c.g, d := d, a := a, b := 0, c := (0#8 ++ rm), fsel := 0, ia := c.ia, hq := c.hq })
  | .fclass c d a => some (.lane, LR.toNat 0x55 { g := c.g, d := d, a := a, b := 0, c := 0, fsel := 0, ia := c.ia, hq := c.hq })
  | .cvtf c pk d a b fs => some (.lane, LR.toNat 0x58 { g := c.g, d := d, a := a, b := b, c := (0#6 ++ BitVec.ofBool pk ++ fs), fsel := 0, ia := c.ia, hq := c.hq })
  | .i2f c u d a fs => some (.lane, LR.toNat 0x59 { g := c.g, d := d, a := a, b := 0, c := (0#6 ++ BitVec.ofBool u ++ fs), fsel := 0, ia := c.ia, hq := c.hq })
  | .f2i c u d a fs => some (.lane, LR.toNat 0x5A { g := c.g, d := d, a := a, b := 0, c := (0#6 ++ BitVec.ofBool u ++ fs), fsel := 0, ia := c.ia, hq := c.hq })
  | .bchk c d a fs => some (.lane, LR.toNat 0x5B { g := c.g, d := d, a := a, b := 0, c := (0#7 ++ fs), fsel := 0, ia := c.ia, hq := c.hq })
  | .wfadd count sd sa sb stepd stepa stepb => some (.lane, LW.toNat 0x60 { count := count, sd := sd, sa := sa, sb := sb, stepd := stepd, stepa := stepa, stepb := stepb, low := 0 })
  | .wfmul count sd sa sb stepd stepa stepb => some (.lane, LW.toNat 0x61 { count := count, sd := sd, sa := sa, sb := sb, stepd := stepd, stepa := stepa, stepb := stepb, low := 0 })
  | .wffma count sd sa sb stepd stepa stepb => some (.lane, LW.toNat 0x62 { count := count, sd := sd, sa := sa, sb := sb, stepd := stepd, stepa := stepa, stepb := stepb, low := 0 })
  | .wfmax count sd sa sb stepd stepa stepb => some (.lane, LW.toNat 0x63 { count := count, sd := sd, sa := sa, sb := sb, stepd := stepd, stepa := stepa, stepb := stepb, low := 0 })
  | .wiadd count sd sa sb stepd stepa stepb => some (.lane, LW.toNat 0x64 { count := count, sd := sd, sa := sa, sb := sb, stepd := stepd, stepa := stepa, stepb := stepb, low := 0 })
  | .wmov count sd sa stepd stepa => some (.lane, LW.toNat 0x65 { count := count, sd := sd, sa := sa, sb := 0, stepd := stepd, stepa := stepa, stepb := 0, low := 0 })
  | .wcvt count sd sa fs stepd stepa => some (.lane, LW.toNat 0x66 { count := count, sd := sd, sa := sa, sb := (0#3 ++ fs), stepd := stepd, stepa := stepa, stepb := 0, low := 0 })
  | .ldrec g fsel qd q x off => some (.lane, LM.toNat 0x80 { g := g, d := (0#5 ++ qd), q := q, x := x, off := off, fsel := fsel, sz := 3#2 })
  | .ld g fsel sz d q x off => some (.lane, LM.toNat 0x81 { g := g, d := d, q := q, x := x, off := off, fsel := fsel, sz := sz })
  | .st g fsel sz d q x off => some (.lane, LM.toNat 0x82 { g := g, d := d, q := q, x := x, off := off, fsel := fsel, sz := sz })
  | .ldsx g fsel fs d q x off => some (.lane, LX.toNat 0x83 { g := g, d := d, q := q, x := x, off := off, fs := fs, fsel := fsel, low := 0 })
  | .stsx g fsel fs d q x off => some (.lane, LX.toNat 0x84 { g := g, d := d, q := q, x := x, off := off, fs := fs, fsel := fsel, low := 0 })
  | .ldb g fsel sz d x off => some (.lane, LM.toNat 0x85 { g := g, d := d, q := 0, x := x, off := off, fsel := fsel, sz := sz })
  | .stb g fsel sz d x off => some (.lane, LM.toNat 0x86 { g := g, d := d, q := 0, x := x, off := off, fsel := fsel, sz := sz })
  | .prf g fsel sz q x off => some (.lane, LM.toNat 0x87 { g := g, d := 0, q := q, x := x, off := off, fsel := fsel, sz := sz })
  | .atom g aop scope sem d q x v => some (.lane, LA.toNat 0x88 { g := g, d := d, q := q, x := x, v := v, aop := aop, scope := scope, sem := sem })
  | .atomc g scope sem d q x v => some (.lane, LA.toNat 0x89 { g := g, d := d, q := q, x := x, v := v, aop := 0, scope := scope, sem := sem })
  | .redm g aop scope sem q x v => some (.lane, LA.toNat 0x8A { g := g, d := 0, q := q, x := x, v := v, aop := aop, scope := scope, sem := sem })
  | .fence scope sem => some (.lane, LA.toNat 0x8B { g := 0, d := 0, q := 0, x := 0, v := 0, aop := 0, scope := scope, sem := sem })
  | .qpop g hq fsel d b n => some (.lane, LR.toNat 0x8C { g := g, d := d, a := 0, b := b, c := (0#6 ++ n), fsel := fsel, ia := false, hq := hq })
  | .qpush g hq fsel a b n => some (.lane, LR.toNat 0x8D { g := g, d := 0, a := a, b := b, c := (0#6 ++ n), fsel := fsel, ia := false, hq := hq })
  | .give g fsel d a b => some (.lane, LR.toNat 0x8E { g := g, d := d, a := a, b := b, c := 0, fsel := fsel, ia := false, hq := false })
  | .take g fsel d a => some (.lane, LR.toNat 0x8F { g := g, d := d, a := a, b := 0, c := 0, fsel := fsel, ia := false, hq := false })
  | .relb g fsel d a => some (.lane, LR.toNat 0x90 { g := g, d := d, a := a, b := 0, c := 0, fsel := fsel, ia := false, hq := false })
  | .bmapr g d j => some (.lane, LR.toNat 0x91 { g := g, d := d, a := 0, b := 0, c := (0#7 ++ j), fsel := 0, ia := false, hq := false })
  | .trig g fsel => some (.lane, LR.toNat 0x92 { g := g, d := 0, a := 0, b := 0, c := 0, fsel := fsel, ia := false, hq := false })
  | .evt g a code => some (.lane, LI.toNat 0x94 { g := g, d := 0, a := a, imm := (0#12 ++ code) })
  | .atomw g w8 aop scope sem d x v => some (.lane, LA.toNat 0x95 { g := g, d := d, q := (0#4 ++ BitVec.ofBool w8), x := x, v := v, aop := aop, scope := scope, sem := sem })
  | .shfl c d a kind rel off cc => some (.lane, LR.toNat 0xA0 { g := c.g, d := d, a := a, b := (kind ++ BitVec.ofBool rel ++ off), c := cc, fsel := 0, ia := c.ia, hq := c.hq })
  | .perm c d a b cc => some (.lane, LR.toNat 0xA1 { g := c.g, d := d, a := a, b := b, c := cc, fsel := 0, ia := c.ia, hq := c.hq })
  | .redw c d a op => some (.lane, LR.toNat 0xA2 { g := c.g, d := d, a := a, b := (0#6 ++ op), c := 0, fsel := 0, ia := c.ia, hq := c.hq })
  | .scanw c d a op excl => some (.lane, LR.toNat 0xA3 { g := c.g, d := d, a := a, b := (0#5 ++ BitVec.ofBool excl ++ op), c := 0, fsel := 0, ia := c.ia, hq := c.hq })
  | .ballot c d a bit => some (.lane, LR.toNat 0xA4 { g := c.g, d := d, a := a, b := (0#5 ++ bit), c := 0, fsel := 0, ia := c.ia, hq := c.hq })
  | .qswp c d a mode cc => some (.lane, LR.toNat 0xA5 { g := c.g, d := d, a := a, b := (0#8 ++ mode), c := cc, fsel := 0, ia := c.ia, hq := c.hq })
  | .qbrd c d a pos cc => some (.lane, LR.toNat 0xA6 { g := c.g, d := d, a := a, b := (0#8 ++ pos), c := cc, fsel := 0, ia := c.ia, hq := c.hq })
  | .actmask c d => some (.lane, LR.toNat 0xA7 { g := c.g, d := d, a := 0, b := 0, c := 0, fsel := 0, ia := c.ia, hq := c.hq })
  | .bra g off => some (.lane, LI.toNat 0xB0 { g := g, d := 0, a := 0, imm := off })
  | .bri g ia a => some (.lane, LR.toNat 0xB1 { g := g, d := 0, a := a, b := 0, c := 0, fsel := 0, ia := ia, hq := false })
  | .call g d off => some (.lane, LI.toNat 0xB2 { g := g, d := d, a := 0, imm := off })
  | .ret g ia a => some (.lane, LR.toNat 0xB3 { g := g, d := 0, a := a, b := 0, c := 0, fsel := 0, ia := ia, hq := false })
  | .exit g => some (.lane, LR.toNat 0xB4 { g := g, d := 0, a := 0, b := 0, c := 0, fsel := 0, ia := false, hq := false })
  | .spawn g d a entry n => some (.lane, LR.toNat 0xB5 { g := g, d := d, a := a, b := 0, c := (0#1 ++ n ++ entry), fsel := 0, ia := false, hq := false })
  | .fork d m k => some (.lane, LR.toNat 0xB6 { g := 0, d := d, a := 0, b := 0, c := (0#8 ++ BitVec.ofBool k ++ BitVec.ofBool m), fsel := 0, ia := false, hq := false })
  | .binit g mem n d a b => some (.lane, LR.toNat 0xB7 { g := g, d := d, a := a, b := b, c := (0#3 ++ BitVec.ofBool mem ++ n), fsel := 0, ia := false, hq := false })
  | .arrive g scope mem n d b => some (.lane, LR.toNat 0xB8 { g := g, d := d, a := 0, b := b, c := (scope ++ BitVec.ofBool mem ++ n), fsel := 0, ia := false, hq := false })
  | .expb g n a => some (.lane, LR.toNat 0xB9 { g := g, d := 0, a := a, b := 0, c := (0#4 ++ n), fsel := 0, ia := false, hq := false })
  | .waitph g scope mem n a b => some (.lane, LR.toNat 0xBA { g := g, d := 0, a := a, b := b, c := (scope ++ BitVec.ofBool mem ++ n), fsel := 0, ia := false, hq := false })
  | .binitMatrix mem n ma mb => some (.matrix, MF.toNat 0xB7 { fsel := 0, fs := 0, td := 0, ta := 0, tb := 0, ma := ma, mb := mb, mod := 0, imm := (0#17 ++ BitVec.ofBool mem ++ n) })
  | .arriveMatrix scope mem n ma mb => some (.matrix, MF.toNat 0xB8 { fsel := 0, fs := 0, td := 0, ta := 0, tb := 0, ma := ma, mb := mb, mod := 0, imm := (0#14 ++ scope ++ BitVec.ofBool mem ++ n) })
  | .expbMatrix n ma => some (.matrix, MF.toNat 0xB9 { fsel := 0, fs := 0, td := 0, ta := 0, tb := 0, ma := ma, mb := 0, mod := 0, imm := (0#18 ++ n) })
  | .waitphMatrix scope mem n ma mb => some (.matrix, MF.toNat 0xBA { fsel := 0, fs := 0, td := 0, ta := 0, tb := 0, ma := ma, mb := mb, mod := 0, imm := (0#14 ++ scope ++ BitVec.ofBool mem ++ n) })
  | .binitCopy mem n ka kb => some (.copy, CF.toNat 0xB7 { fsel := 0, acq := false, rel := false, scope := 0, queue := 0, ka := ka, kb := kb, kc := 0, kd := 0, imm := (0#19 ++ BitVec.ofBool mem ++ n) })
  | .arriveCopy scope mem n ka kb => some (.copy, CF.toNat 0xB8 { fsel := 0, acq := false, rel := false, scope := scope, queue := 0, ka := ka, kb := kb, kc := 0, kd := 0, imm := (0#19 ++ BitVec.ofBool mem ++ n) })
  | .expbCopy n ka => some (.copy, CF.toNat 0xB9 { fsel := 0, acq := false, rel := false, scope := 0, queue := 0, ka := ka, kb := 0, kc := 0, kd := 0, imm := (0#20 ++ n) })
  | .waitphCopy scope mem n ka kb => some (.copy, CF.toNat 0xBA { fsel := 0, acq := false, rel := false, scope := scope, queue := 0, ka := ka, kb := kb, kc := 0, kd := 0, imm := (0#19 ++ BitVec.ofBool mem ++ n) })
  | .trap g bk code => some (.lane, LI.toNat 0xBB { g := g, d := 0, a := 0, imm := (0#7 ++ BitVec.ofBool bk ++ code) })
  | .rft g => some (.lane, LR.toNat 0xBC { g := g, d := 0, a := 0, b := 0, c := 0, fsel := 0, ia := false, hq := false })
  | .rdsr g d addr => some (.lane, LI.toNat 0xBD { g := g, d := d, a := 0, imm := (0#13 ++ addr) })
  | .wrsr g addr a => some (.lane, LI.toNat 0xBE { g := g, d := 0, a := a, imm := (0#13 ++ addr) })
  | .waitselWrite g a => some (.lane, LI.toNat 0xBE { g := g, d := 0, a := a, imm := 0x0000A1#24 })
  | .nopre g on d => some (.lane, LI.toNat 0xBF { g := g, d := d, a := 0, imm := (0#23 ++ BitVec.ofBool on) })
  | .tcfg b td fs => some (.matrix, MF.toNat 0xC0 { fsel := 0, fs := fs, td := td, ta := 0, tb := 0, ma := 0, mb := 0, mod := (0#4 ++ BitVec.ofBool b), imm := 0 })
  | .tld fsel b td ma fs kblk => some (.matrix, MF.toNat 0xC1 { fsel := fsel, fs := fs, td := td, ta := 0, tb := 0, ma := ma, mb := 0, mod := (0#4 ++ BitVec.ofBool b), imm := (0#18 ++ kblk) })
  | .tst fsel ta ma kblk => some (.matrix, MF.toNat 0xC2 { fsel := fsel, fs := 0, td := 0, ta := ta, tb := 0, ma := ma, mb := 0, mod := 0, imm := (0#18 ++ kblk) })
  | .mma fsel acc ta tb kblk => some (.matrix, MF.toNat 0xC3 { fsel := fsel, fs := 0, td := (0#2 ++ acc), ta := ta, tb := tb, ma := 0, mb := 0, mod := 0, imm := (0#18 ++ kblk) })
  | .mmaz fsel acc ta tb kblk => some (.matrix, MF.toNat 0xC4 { fsel := fsel, fs := 0, td := (0#2 ++ acc), ta := ta, tb := tb, ma := 0, mb := 0, mod := 0, imm := (0#18 ++ kblk) })
  | .mmas fsel z acc ma mb fs count kblk => some (.matrix, MF.toNat 0xC5 { fsel := fsel, fs := fs, td := (0#2 ++ acc), ta := 0, tb := 0, ma := ma, mb := mb, mod := (0#4 ++ BitVec.ofBool z), imm := (0#6 ++ kblk ++ count) })
  | .mpair fsel acc ta tb kblk => some (.matrix, MF.toNat 0xC6 { fsel := fsel, fs := 0, td := (0#2 ++ acc), ta := ta, tb := tb, ma := 0, mb := 0, mod := 0, imm := (0#18 ++ kblk) })
  | .mdrn fsel z ma acc fs => some (.matrix, MF.toNat 0xC7 { fsel := fsel, fs := fs, td := 0, ta := (0#2 ++ acc), tb := 0, ma := ma, mb := 0, mod := (0#4 ++ BitVec.ofBool z), imm := 0 })
  | .mdrnb fsel z td acc fs => some (.matrix, MF.toNat 0xC8 { fsel := fsel, fs := fs, td := td, ta := (0#2 ++ acc), tb := 0, ma := 0, mb := 0, mod := (0#4 ++ BitVec.ofBool z), imm := 0 })
  | .mzero fsel acc => some (.matrix, MF.toNat 0xC9 { fsel := fsel, fs := 0, td := (0#2 ++ acc), ta := 0, tb := 0, ma := 0, mb := 0, mod := 0, imm := 0 })
  | .tmov fsel td ta => some (.matrix, MF.toNat 0xCA { fsel := fsel, fs := 0, td := td, ta := ta, tb := 0, ma := 0, mb := 0, mod := 0, imm := 0 })
  | .ttrn fsel td ta => some (.matrix, MF.toNat 0xCB { fsel := fsel, fs := 0, td := td, ta := ta, tb := 0, ma := 0, mb := 0, mod := 0, imm := 0 })
  | .mli cat ma imm => some (.matrix, MF.toNat 0xCC { fsel := 0, fs := 0, td := 0, ta := 0, tb := 0, ma := ma, mb := 0, mod := (0#4 ++ BitVec.ofBool cat), imm := imm })
  | .madd ma mb => some (.matrix, MF.toNat 0xCD { fsel := 0, fs := 0, td := 0, ta := 0, tb := 0, ma := ma, mb := mb, mod := 0, imm := 0 })
  | .mbr cond ma mb off => some (.matrix, MF.toNat 0xCE { fsel := 0, fs := 0, td := 0, ta := 0, tb := 0, ma := ma, mb := mb, mod := (0#2 ++ cond), imm := off })
  | .mexit => some (.matrix, MF.toNat 0xCF { fsel := 0, fs := 0, td := 0, ta := 0, tb := 0, ma := 0, mb := 0, mod := 0, imm := 0 })
  | .mprg ma => some (.matrix, MF.toNat 0xD0 { fsel := 0, fs := 0, td := 0, ta := 0, tb := 0, ma := ma, mb := 0, mod := 0, imm := 0 })
  | .maddi ma mb imm => some (.matrix, MF.toNat 0xD1 { fsel := 0, fs := 0, td := 0, ta := 0, tb := 0, ma := ma, mb := mb, mod := 0, imm := imm })
  | .dcopy c ka kb => some (.copy, CF.toNat 0xD8 { fsel := c.fsel, acq := c.acq, rel := c.rel, scope := c.scope, queue := c.queue, ka := ka, kb := kb, kc := 0, kd := 0, imm := 0 })
  | .dmcast c ka kb kc kd slot bar cluster => some (.copy, CF.toNat 0xD9 { fsel := c.fsel, acq := c.acq, rel := c.rel, scope := c.scope, queue := c.queue, ka := ka, kb := kb, kc := kc, kd := kd, imm := (0#15 ++ cluster ++ bar ++ slot) })
  | .dfill c ka kb => some (.copy, CF.toNat 0xDA { fsel := c.fsel, acq := c.acq, rel := c.rel, scope := c.scope, queue := c.queue, ka := ka, kb := kb, kc := 0, kd := 0, imm := 0 })
  | .dchain c ka kb kc kd => some (.copy, CF.toNat 0xDB { fsel := c.fsel, acq := c.acq, rel := c.rel, scope := c.scope, queue := c.queue, ka := ka, kb := kb, kc := kc, kd := kd, imm := 0 })
  | .dred c op ka kb => some (.copy, CF.toNat 0xDC { fsel := c.fsel, acq := c.acq, rel := c.rel, scope := c.scope, queue := c.queue, ka := ka, kb := kb, kc := 0, kd := 0, imm := (0#24 ++ op) })
  | .dcoll c ka => some (.copy, CF.toNat 0xDD { fsel := c.fsel, acq := c.acq, rel := c.rel, scope := c.scope, queue := c.queue, ka := ka, kb := 0, kc := 0, kd := 0, imm := 0 })
  | .dproxy c ka shadow => some (.copy, CF.toNat 0xDE { fsel := c.fsel, acq := c.acq, rel := c.rel, scope := c.scope, queue := c.queue, ka := ka, kb := 0, kc := 0, kd := 0, imm := (0#20 ++ shadow) })
  | .dstat ka queue => some (.copy, CF.toNat 0xDF { fsel := 0, acq := false, rel := false, scope := 0, queue := queue, ka := ka, kb := 0, kc := 0, kd := 0, imm := 0 })
  | .dresume ka queue => some (.copy, CF.toNat 0xE0 { fsel := 0, acq := false, rel := false, scope := 0, queue := queue, ka := ka, kb := 0, kc := 0, kd := 0, imm := 0 })
  | .dcancel ka queue => some (.copy, CF.toNat 0xE1 { fsel := 0, acq := false, rel := false, scope := 0, queue := queue, ka := ka, kb := 0, kc := 0, kd := 0, imm := 0 })
  | .kli cat ka imm => some (.copy, CF.toNat 0xE2 { fsel := 0, acq := false, rel := false, scope := 0, queue := 0, ka := ka, kb := (0#4 ++ BitVec.ofBool cat), kc := 0, kd := 0, imm := imm })
  | .kadd ka kb kc => some (.copy, CF.toNat 0xE3 { fsel := 0, acq := false, rel := false, scope := 0, queue := 0, ka := ka, kb := kb, kc := kc, kd := 0, imm := 0 })
  | .kaddi ka kb imm => some (.copy, CF.toNat 0xE4 { fsel := 0, acq := false, rel := false, scope := 0, queue := 0, ka := ka, kb := kb, kc := 0, kd := 0, imm := imm })
  | .kbr cond ka kb off => some (.copy, CF.toNat 0xE5 { fsel := 0, acq := false, rel := false, scope := 0, queue := 0, ka := ka, kb := kb, kc := cond, kd := 0, imm := off })
  | .kexit => some (.copy, CF.toNat 0xE6 { fsel := 0, acq := false, rel := false, scope := 0, queue := 0, ka := 0, kb := 0, kc := 0, kd := 0, imm := 0 })
  | .kld acq scope ka kb imm => some (.copy, CF.toNat 0xE7 { fsel := 0, acq := acq, rel := false, scope := scope, queue := 0, ka := ka, kb := kb, kc := 0, kd := 0, imm := imm })
  | .kst rel scope ka kb imm => some (.copy, CF.toNat 0xE8 { fsel := 0, acq := false, rel := rel, scope := scope, queue := 0, ka := ka, kb := kb, kc := 0, kd := 0, imm := imm })
  | .kprg ka queue => some (.copy, CF.toNat 0xE9 { fsel := 0, acq := false, rel := false, scope := 0, queue := queue, ka := ka, kb := 0, kc := 0, kd := 0, imm := 0 })
  | .opComplete _ => none
  | .postedTrapTake _ _ => none
  | .gangSaveComplete _ => none
  | .gangRestore _ => none
  | .killMarkersDone _ => none
  | .gangRelaunch _ => none
  | .warpRetire _ _ => none
  | .groupRetire _ _ => none
  | .gangRetire _ => none
  | .gridRetire _ => none
  | .gridAdmit => none
  | .priorityAge _ => none
  | .counterStarve _ _ => none
  | .warpAgeLimit _ _ => none
  | .pendingWarpTimeout _ => none
  | .warpPromote _ => none
  | .drayCommandStart _ _ => none
  | .drayCommandEnd _ _ => none
  | .drayFaultResume _ _ => none
  | .hansomWalkStart _ _ => none
  | .turntableGrant _ _ => none
  | .byteLand _ _ => none
  | .scoreboardRetire _ _ => none
  | .giveAttach _ _ => none
  | .multicastRead _ _ => none
  | .multicastEntryClose _ => none
  | .streamEntryExpire _ _ => none
  | .flitReceive _ _ => none
  | .flitReplayTimeout _ => none
  | .linkRetrain _ _ => none
  | .packetDeliver _ => none
  | .packetResendTimeout _ _ => none
  | .pieceOffer _ => none
  | .admissionHintExpiry _ => none
  | .inboundRequest _ => none
  | .remoteRetry _ => none
  | .remoteTimeout _ => none
  | .mailBatchSend _ => none
  | .mailBatchTimeout _ => none
  | .collectiveCombine _ => none
  | .eccCorrectable _ => none
  | .eccUncorrectable _ => none
  | .weightHoldExpire _ => none
  | .hostMemoryRead _ _ _ => none
  | .hostMemoryWrite _ _ => none
  | .hostFetchadd _ _ _ => none
  | .hostFillWrite _ _ => none
  | .hostRegisterWrite _ _ => none
  | .hostCompletionError _ => none
  | .hostWriteRejected _ => none
  | .ringDoorbell _ _ => none
  | .ringConsume _ => none
  | .stampPoll _ => none
  | .spawnListTimeout _ _ _ => none
  | .childWarpIssue _ _ _ => none
  | .mpairStart _ => none
  | .mpairTimeout _ => none
  | .nopreLimit _ _ => none
  | .deadlinePass _ => none
  | .summaryQuery _ _ => none
  | .collectiveQuery _ _ => none
  | .queryAnswer _ _ => none
  | .queryTimeout _ => none
  | .traceRecordWrite _ => none
  | .timeLockChange _ _ _ _ => none
  | .powerUpSequence _ => none
  | .pcieFundamentalReset => none
  | .managementReset => none
  | .powerFault => none
  | .thermalTrip => none
  | .thermalThrottle _ => none
  | .ageingRefit _ _ => none
  | .iftStart => none
  | .iftResult _ => none
  | .spdmAttestation => none
  | .pldmSensorRead _ => none
  | .xinvWrite _ _ => none
  | .invalidationComplete => none
  | .pfackWrite _ => none
  | .pfdoneResolve _ => none
  | .pfdoneFail _ => none
  | .killWrite _ => none
  | .pwselWrite _ => none
  | .ringctlSkip => none
  | .pqcfgErrClear => none
  | .conductorBarrierQuery _ _ => none

/-- The class in which a word of the opcode table is read: a header's own, else the first class that assigns its opcode. -/
def tableClass (w : Nat) : Class :=
  let op := opcodeOf w
  if op == 0xF1 then .matrix
  else if op == 0xF2 then .copy
  else if (formatOf .lane op).isSome then .lane
  else if (formatOf .matrix op).isSome then .matrix
  else if (formatOf .copy op).isSome then .copy
  else .lane

/-- The decoder on a word of the opcode table. Every word is 64 bits; bits above `nbits` are zero. A word whose opcode byte is a
header's is read as a header (R39), any other as a word of a clause body (R40). -/
def decodeTableWord (nbits w : Nat) : Option Instr :=
  let word := w % 2 ^ (min nbits 64)
  let op := opcodeOf word
  let r := if 0xF0 ≤ op && op ≤ 0xF3 then decodeHeader (tableClass word) word else decodeWord (tableClass word) word
  match r with
  | .ok i => some i
  | .error _ => none

end Sys2Proof
end

