-- ==== Sys2Proof/Machine/Bits.lean ====
section
/-! DEFINITION. Bit and byte helpers of the meanings: signed readings, bytes of words, lane masks. -/

namespace Sys2Proof.Machine

open Sys2Proof

/-- Little-endian bytes of a number, `n` of them (R35, R105). -/
def bytesOf : Nat → Nat → List Byte
  | 0, _ => []
  | n + 1, v => BitVec.ofNat 8 v :: bytesOf n (v / 256)

/-- The number of little-endian bytes. -/
def natOfBytes : List Byte → Nat
  | [] => 0
  | b :: bs => b.toNat + 256 * natOfBytes bs

/-- A field of a number: `w` bits from bit `lo`. -/
def bitsAt (v lo w : Nat) : Nat := v / 2 ^ lo % 2 ^ w

/-- The two's-complement reading of the low `w` bits. -/
def signed (w v : Nat) : Int :=
  if v % 2 ^ w < 2 ^ (w - 1) then (v % 2 ^ w : Nat) else (v % 2 ^ w : Nat) - (2 ^ w : Nat)

/-- The low `w` bits of an integer. -/
def wrapInt (w : Nat) (i : Int) : Nat := (i % (2 ^ w : Nat)).toNat

/-- A 64-bit value as a special register or sequencer scalar reads it. -/
def dw (n : Nat) : DWord := BitVec.ofNat 64 n

/-- The lanes of a mask, ascending. -/
def lanesFrom (m : Nat) : Nat → Nat → List Nat
  | 0, _ => []
  | n + 1, i => if m / 2 ^ i % 2 = 1 then i :: lanesFrom m n (i + 1) else lanesFrom m n (i + 1)

/-- The lanes of a set, ascending. -/
def lanesOf (m : BitVec 64) : List Nat := lanesFrom m.toNat warpWidth 0

/-- The mask of one lane. -/
def laneBit (i : Nat) : BitVec 64 := BitVec.ofNat 64 (2 ^ i)

/-- The mask of a list of lanes. -/
def maskOf : List Nat → BitVec 64
  | [] => 0
  | i :: is => laneBit i ||| maskOf is

/-- The number of one bits below bit `n`. -/
def popCount (v : Nat) : Nat → Nat
  | 0 => 0
  | n + 1 => v / 2 ^ n % 2 + popCount v n

/-- The sum of a list. -/
def sumOf : List Nat → Nat
  | [] => 0
  | n :: ns => n + sumOf ns

/-- The least number of a list. -/
def leastOf : List Nat → Option Nat
  | [] => none
  | n :: ns => match leastOf ns with
    | none => some n
    | some k => some (min n k)

/-- The least multiple of `k` that is not below `n`. -/
def roundUp (n k : Nat) : Nat := (n + k - 1) / k * k

/-- `n` divided by `k`, rounded up. -/
def ceilDiv (n k : Nat) : Nat := (n + k - 1) / k

/-- Replace element `i` of a list. -/
def setAt {α : Type} (l : List α) (i : Nat) (a : α) : List α := l.set i a

/-- Change element `i` of a list. -/
def modAt {α : Type} : List α → Nat → (α → α) → List α
  | [], _, _ => []
  | a :: l, 0, f => f a :: l
  | a :: l, n + 1, f => a :: modAt l n f

end Sys2Proof.Machine
end

