-- ==== Sys2Proof/Machine/Float.lean ====
section
/-! DEFINITION. IEEE 754 values and their exact arithmetic: unpacking, rounding in the four modes, sums, products, quotients and
roots of FP32, BF16 and FP16 (R69-R71, R88-R90, R258, R260). -/

namespace Sys2Proof.Machine

open Sys2Proof

/-- An exact value: NaN, an infinity, or (-1)^neg * m * 2^e. -/
inductive FVal where
  | nan
  | inf (neg : Bool)
  | fin (neg : Bool) (m : Nat) (e : Int)
deriving DecidableEq, Repr

/-- Rounding modes, coded as the RND field of a slot (R76). -/
inductive Rnd where
  | rne | rtz | rup | rdn
deriving DecidableEq, Repr

/-- The mode of a two-bit code. -/
def rndOf (n : Nat) : Rnd := if n = 0 then .rne else if n = 1 then .rtz else if n = 2 then .rup else .rdn

/-- A binary interchange format: exponent bits and fraction bits (R69). -/
structure FSpec where
  eb : Nat
  fb : Nat
deriving DecidableEq, Repr

/-- FP32 (R69). -/
def fp32 : FSpec := { eb := 8, fb := 23 }
/-- BF16 (R69). -/
def bf16 : FSpec := { eb := 8, fb := 7 }
/-- FP16 (R69). -/
def fp16 : FSpec := { eb := 5, fb := 10 }

/-- The exponent of the least subnormal. -/
def FSpec.qmin (f : FSpec) : Int := 2 - (2 ^ (f.eb - 1) : Nat) - (f.fb : Nat)

/-- The encoding of +infinity. -/
def FSpec.infBits (f : FSpec) : Nat := (2 ^ f.eb - 1) * 2 ^ f.fb

/-- The sign bit of an encoding. -/
def FSpec.signBit (f : FSpec) (neg : Bool) : Nat := if neg then 2 ^ (f.eb + f.fb) else 0

/-- R71: the canonical quiet NaN. -/
def FSpec.nanBits (f : FSpec) : Nat := f.infBits + 2 ^ (f.fb - 1)

/-- The exact value of an encoding. -/
def FSpec.unpack (f : FSpec) (bits : Nat) : FVal :=
  let neg := bits / 2 ^ (f.eb + f.fb) % 2 == 1
  let ex := bits / 2 ^ f.fb % 2 ^ f.eb
  let fr := bits % 2 ^ f.fb
  if ex = 2 ^ f.eb - 1 then (if fr = 0 then .inf neg else .nan)
  else if ex = 0 then .fin neg fr f.qmin
  else .fin neg (2 ^ f.fb + fr) (f.qmin + (ex - 1 : Nat))

/-- m / 2^k rounded to an integer under a mode; `neg` is the sign of the value (R75: RoundInt acts on the signed value). -/
def roundShift (rnd : Rnd) (neg : Bool) (m k : Nat) : Nat :=
  let q := m / 2 ^ k
  let r := m % 2 ^ k
  match rnd with
  | .rne => if 2 ^ k < 2 * r || (2 * r == 2 ^ k && q % 2 == 1) then q + 1 else q
  | .rtz => q
  | .rup => if r ≠ 0 && !neg then q + 1 else q
  | .rdn => if r ≠ 0 && neg then q + 1 else q

/-- R71: the encoding of a magnitude that overflowed. -/
def FSpec.overflow (f : FSpec) (rnd : Rnd) (sat neg : Bool) : Nat :=
  let toMax := sat || (match rnd with
    | .rne => false
    | .rtz => true
    | .rup => neg
    | .rdn => !neg)
  f.signBit neg + (if toMax then f.infBits - 1 else f.infBits)

/-- The encoding of (-1)^neg * m * 2^e rounded under a mode; with `sticky`, of a value strictly between m and m + 1 in place of m
(m then has at least two bits more than the fraction). R71 for overflow and saturation, subnormals kept. -/
def FSpec.roundTo (f : FSpec) (rnd : Rnd) (sat neg : Bool) (m : Nat) (e : Int) (sticky : Bool) : Nat :=
  if m = 0 && !sticky then f.signBit neg
  else
    let m' := if sticky then 4 * m + 1 else m
    let e' := if sticky then e - 2 else e
    let top : Int := e' + (Nat.log2 m' : Nat)
    let q : Int := max f.qmin (top - (f.fb : Nat))
    let r :=
      if q ≤ e' then m' * 2 ^ (e' - q).toNat
      else roundShift rnd neg m' (min (q - e').toNat (Nat.log2 m' + 3))
    let bits := (q - f.qmin).toNat * 2 ^ f.fb + r
    if f.infBits ≤ bits then f.overflow rnd sat neg else f.signBit neg + bits

/-- R71: a value converted into a format: NaN becomes canonical, infinities pass. -/
def FSpec.pack (f : FSpec) (rnd : Rnd) (sat : Bool) : FVal → Nat
  | .nan => f.nanBits
  | .inf neg => f.signBit neg + f.infBits
  | .fin neg m e => f.roundTo rnd sat neg m e false

/-- The sign of a value; a NaN has none. -/
def FVal.neg : FVal → Bool
  | .nan => false
  | .inf n => n
  | .fin n _ _ => n

/-- Whether the value is NaN. -/
def FVal.isNan : FVal → Bool
  | .nan => true
  | .inf _ => false
  | .fin _ _ _ => false

/-- Whether the value is a zero. -/
def FVal.isZero : FVal → Bool
  | .nan => false
  | .inf _ => false
  | .fin _ m _ => m == 0

/-- The value with its sign flipped. -/
def FVal.negate : FVal → FVal
  | .nan => .nan
  | .inf n => .inf (!n)
  | .fin n m e => .fin (!n) m e

/-- The signed integer of a finite value at exponent `q`, which is not above its own. -/
def scaled (neg : Bool) (m : Nat) (e q : Int) : Int :=
  let v : Int := (m * 2 ^ (e - q).toNat : Nat)
  if neg then -v else v

/-- R258: the exact sum. An exact zero sum is +0, except that (-0) + (-0) is -0. -/
def FVal.add : FVal → FVal → FVal
  | .nan, _ => .nan
  | .inf _, .nan => .nan
  | .inf a, .inf b => if a = b then .inf a else .nan
  | .inf a, .fin _ _ _ => .inf a
  | .fin _ _ _, .nan => .nan
  | .fin _ _ _, .inf b => .inf b
  | .fin na ma ea, .fin nb mb eb =>
    if ma = 0 && mb = 0 then .fin (na && nb) 0 0
    else if ma = 0 then .fin nb mb eb
    else if mb = 0 then .fin na ma ea
    else
      let q := min ea eb
      let s := scaled na ma ea q + scaled nb mb eb q
      if s = 0 then .fin false 0 0 else .fin (decide (s < 0)) s.natAbs q

/-- R258: the exact product; 0 × infinity is invalid. -/
def FVal.mul : FVal → FVal → FVal
  | .nan, _ => .nan
  | .inf _, .nan => .nan
  | .inf a, .inf b => .inf (a != b)
  | .inf a, .fin nb mb _ => if mb = 0 then .nan else .inf (a != nb)
  | .fin _ _ _, .nan => .nan
  | .fin na ma _, .inf b => if ma = 0 then .nan else .inf (na != b)
  | .fin na ma ea, .fin nb mb eb => .fin (na != nb) (ma * mb) (ea + eb)

/-- Numeric comparison of values that are no NaN: -0 equals +0. -/
def FVal.compare (a b : FVal) : Ordering :=
  let key (v : FVal) : Int := match v with
    | .nan => 0
    | .inf n => if n then -2 else 2
    | .fin n m _ => if m = 0 then 0 else if n then -1 else 1
  match a, b with
  | .fin na ma ea, .fin nb mb eb =>
    if key a ≠ key b then Ord.compare (key a) (key b)
    else
      let q := min ea eb
      Ord.compare (scaled na ma ea q) (scaled nb mb eb q)
  | _, _ => Ord.compare (key a) (key b)

/-- `a < b`, false when either is NaN. -/
def FVal.lt (a b : FVal) : Bool := !a.isNan && !b.isNan && a.compare b == .lt
/-- `a = b`, false when either is NaN. -/
def FVal.eq (a b : FVal) : Bool := !a.isNan && !b.isNan && a.compare b == .eq

/-- The quotient of two positive numbers as m and e, and whether it is inexact: at least 30 bits of m. -/
def quotient (ma mb : Nat) (e : Int) : Nat × Int × Bool :=
  let s := Nat.log2 mb + 32
  (ma * 2 ^ s / mb, e - (s : Nat), ma * 2 ^ s % mb ≠ 0)

/-- Integer square root, one bit of the answer at a time. -/
def isqrtFrom (n : Nat) : Nat → Nat → Nat
  | 0, r => r
  | b + 1, r => if (r + 2 ^ b) * (r + 2 ^ b) ≤ n then isqrtFrom n b (r + 2 ^ b) else isqrtFrom n b r

/-- The integer square root. -/
def isqrt (n : Nat) : Nat := isqrtFrom n (Nat.log2 n / 2 + 1) 0

/-- R258: `FDIV`. -/
def FSpec.div (f : FSpec) (a b : FVal) : Nat :=
  match a, b with
  | .nan, _ => f.nanBits
  | _, .nan => f.nanBits
  | .inf _, .inf _ => f.nanBits
  | .inf n, .fin nb _ _ => f.signBit (n != nb) + f.infBits
  | .fin na _ _, .inf nb => f.signBit (na != nb)
  | .fin na ma ea, .fin nb mb eb =>
    if mb = 0 then (if ma = 0 then f.nanBits else f.signBit (na != nb) + f.infBits)
    else if ma = 0 then f.signBit (na != nb)
    else
      let (q, e, st) := quotient ma mb (ea - eb)
      f.roundTo .rne false (na != nb) q e st

/-- R259: `FSQRT`. -/
def FSpec.sqrt (f : FSpec) (a : FVal) : Nat :=
  match a with
  | .nan => f.nanBits
  | .inf n => if n then f.nanBits else f.infBits
  | .fin n m e =>
    if m = 0 then f.signBit n
    else if n then f.nanBits
    else
      let e1 : Int := if e % 2 = 0 then e - 64 else e - 65
      let m1 := m * 2 ^ (e - e1).toNat
      let r := isqrt m1
      f.roundTo .rne false false r (e1 / 2) (r * r ≠ m1)

/-- R259: `FRSQ`. -/
def FSpec.rsqrt (f : FSpec) (a : FVal) : Nat :=
  match a with
  | .nan => f.nanBits
  | .inf n => if n then f.nanBits else 0
  | .fin n m e =>
    if m = 0 then f.signBit n + f.infBits
    else if n then f.nanBits
    else
      let m1 := if e % 2 = 0 then m else 2 * m
      let e1 : Int := if e % 2 = 0 then e else e - 1
      let s := Nat.log2 m1 + 40
      let r := isqrt (2 ^ (2 * s) / m1)
      f.roundTo .rne false false r (-(e1 / 2) - (s : Nat)) (r * r * m1 ≠ 2 ^ (2 * s))

/-- R258: `FADD`, `FSUB`, `FMUL`, `FFMA` and the halves of R260: the exact value rounded once. -/
def FSpec.fadd (f : FSpec) (a b : Nat) : Nat := f.pack .rne false ((f.unpack a).add (f.unpack b))
/-- R258: A + (-B). -/
def FSpec.fsub (f : FSpec) (a b : Nat) : Nat := f.pack .rne false ((f.unpack a).add (f.unpack b).negate)
/-- R258: A × B. -/
def FSpec.fmul (f : FSpec) (a b : Nat) : Nat := f.pack .rne false ((f.unpack a).mul (f.unpack b))
/-- R258: A × B + C, one rounding. -/
def FSpec.ffma (f : FSpec) (a b c : Nat) : Nat := f.pack .rne false (((f.unpack a).mul (f.unpack b)).add (f.unpack c))

/-- R258: the order of `FMIN` and `FMAX`: numeric, with -0 below +0. -/
def FVal.below (a b : FVal) : Bool :=
  a.lt b || (a.isZero && b.isZero && a.neg && !b.neg)

/-- R258: minimumNumber and maximumNumber. -/
def FSpec.minMax (f : FSpec) (mx : Bool) (a b : Nat) : Nat :=
  let x := f.unpack a
  let y := f.unpack b
  if x.isNan && y.isNan then f.nanBits
  else if x.isNan then b
  else if y.isNan then a
  else if mx then (if x.below y then b else a)
  else (if y.below x then b else a)

/-- R257: the conditions of `FSET`. -/
def fcond (cond : Nat) (a b : FVal) : Bool :=
  let uno := a.isNan || b.isNan
  match cond with
  | 0 => a.eq b
  | 1 => uno || !a.eq b
  | 2 => a.lt b
  | 3 => a.lt b || a.eq b
  | 4 => b.lt a
  | 5 => b.lt a || a.eq b
  | 6 => uno
  | _ => !uno

/-- RoundInt (R75, R86, R89): a finite value rounded to an integer, as its magnitude. -/
def roundInt (rnd : Rnd) (neg : Bool) (m : Nat) (e : Int) : Nat :=
  if 0 ≤ e then m * 2 ^ e.toNat
  else roundShift rnd neg m (min (-e).toNat (Nat.log2 m + 3))

/-- R89: `FRND`. -/
def frndBits (rnd : Rnd) (a : Nat) : Nat :=
  match fp32.unpack a with
  | .nan => fp32.nanBits
  | .inf _ => a
  | .fin n m e => if 0 ≤ e then a else fp32.roundTo .rne false n (roundInt rnd n m e) 0 false

/-- R88: `FSCL`. -/
def fsclBits (a : Nat) (b : Int) : Nat :=
  match fp32.unpack a with
  | .nan => fp32.nanBits
  | .inf _ => a
  | .fin n m e => if m = 0 then a else fp32.roundTo .rne false n m (e + b) false

/-- R90: the bit that `FCLASS` sets. -/
def fclassBit (a : Nat) : Nat :=
  let neg := a / 2 ^ 31 % 2 == 1
  let ex := a / 2 ^ 23 % 256
  let fr := a % 2 ^ 23
  if ex = 255 then
    if fr = 0 then (if neg then 0 else 7)
    else if fr / 2 ^ 22 = 0 then 8 else 9
  else if ex = 0 then
    if fr = 0 then (if neg then 3 else 4)
    else if neg then 2 else 5
  else if neg then 1 else 6

end Sys2Proof.Machine
end

