-- ==== Sys2Proof/Machine/Special.lean ====
section
/-! DEFINITION. The transcendental functions of R259, each correctly rounded: a fixed-point enclosure of the exact result is widened to
both sides, and the result stands only where both ends round to the same FP32 value; otherwise the precision grows. -/

namespace Sys2Proof.Machine

open Sys2Proof

/-- The sum of y^(2k+1) / (2k+1), with alternating signs when `alt`, from term k on: `t` is the running odd power of y, `y2` its
square, all in fixed point with `p` fractional bits. -/
def oddSeries (p y2 : Nat) (alt : Bool) : Nat → Nat → Nat → Int → Int
  | 0, _, _, acc => acc
  | fuel + 1, k, t, acc =>
    let term : Int := (t / (2 * k + 1) : Nat)
    let acc' := if alt && k % 2 == 1 then acc - term else acc + term
    oddSeries p y2 alt fuel (k + 1) (t * y2 / 2 ^ p) acc'

/-- atanh(1/n) in fixed point. -/
def atanhInv (p n : Nat) : Int :=
  oddSeries p (2 ^ p / (n * n)) false (p / 2 + 2) 0 (2 ^ p / n) 0

/-- atan(1/n) in fixed point. -/
def atanInv (p n : Nat) : Int :=
  oddSeries p (2 ^ p / (n * n)) true (p / 4 + 2) 0 (2 ^ p / n) 0

/-- ln 2 = 2 atanh(1/3), in fixed point. -/
def lnTwo (p : Nat) : Nat := (2 * atanhInv p 3).toNat

/-- pi by Machin's formula, in fixed point. -/
def piFix (p : Nat) : Nat := (16 * atanInv p 5 - 4 * atanInv p 239).toNat

/-- The sum of t^k / k! from term k on, in fixed point. -/
def expSeries (p x : Nat) : Nat → Nat → Nat → Nat → Nat
  | 0, _, _, acc => acc
  | fuel + 1, k, t, acc => expSeries p x fuel (k + 1) (t * x / (2 ^ p * (k + 1))) (acc + t)

/-- 2^f for a fraction f of `p` bits, in fixed point: between 1 and 2. -/
def pow2Frac (p f : Nat) : Nat :=
  expSeries p (f * lnTwo p / 2 ^ p) (p / 2 + 8) 0 (2 ^ p) 0

/-- The sum of (-1)^k t^(2k+1) / (2k+1)!, in fixed point. -/
def sinSeries (p x2 : Nat) : Nat → Nat → Nat → Int → Int
  | 0, _, _, acc => acc
  | fuel + 1, k, t, acc =>
    let acc' : Int := if k % 2 == 1 then acc - (t : Nat) else acc + (t : Nat)
    sinSeries p x2 fuel (k + 1) (t * x2 / (2 ^ p * ((2 * k + 2) * (2 * k + 3)))) acc'

/-- sin(pi d) for d between 0 and 1/2 in fixed point. -/
def sinPi (p d : Nat) : Nat :=
  let x := d * piFix p / 2 ^ p
  (sinSeries p (x * x / 2 ^ p) (p / 4 + 8) 0 x 0).toNat

/-- log2 of a number between 1 and 2 in fixed point. -/
def log2Frac (p m : Nat) : Nat :=
  let y := (m - 2 ^ p) * 2 ^ p / (m + 2 ^ p)
  (2 * oddSeries p (y * y / 2 ^ p) false (p / 3 + 4) 0 y 0).toNat * 2 ^ p / lnTwo p

/-- The result at the first precision whose enclosure [v - 2^20, v + 2^20] × 2^e rounds to one value; `f p` is the approximation v at p
fractional bits with its sign, and e = base - p. -/
def enclose (f : Nat → Bool × Nat) (base : Int) : List Nat → Nat
  | [] => fp32.nanBits
  | p :: ps =>
    let (neg, v) := f p
    let lo := fp32.roundTo .rne false neg (v - 2 ^ 20) (base - (p : Nat)) true
    let hi := fp32.roundTo .rne false neg (v + 2 ^ 20) (base - (p : Nat)) true
    if 2 ^ 50 < v && lo == hi then lo else enclose f base ps

/-- The precisions tried. -/
def precisions : List Nat := [128, 288, 448, 1024]

/-- The value of a finite number as a signed fixed-point number of `p` fractional bits, rounded down; exact when p is at least -e. -/
def toFix (m : Nat) (e : Int) (p : Nat) : Nat :=
  let s := e + (p : Nat)
  if 0 ≤ s then m * 2 ^ s.toNat else m / 2 ^ (-s).toNat

/-- R259: `FEX2`. -/
def fex2Bits (a : Nat) : Nat :=
  match fp32.unpack a with
  | .nan => fp32.nanBits
  | .inf n => if n then 0 else fp32.infBits
  | .fin n m e =>
    if m = 0 then fp32.pack .rne false (.fin false 1 0)
    else if 8 < e + (Nat.log2 m : Nat) then (if n then 0 else fp32.infBits)
    else if e + (Nat.log2 m : Nat) < -27 then fp32.pack .rne false (.fin false 1 0)
    else
      -- x = k + f with 0 ≤ f < 1; e is at least -51 here
      let x := toFix m e 64
      let k : Int := if n then -(((x + 2 ^ 64 - 1) / 2 ^ 64 : Nat) : Int) else (x / 2 ^ 64 : Nat)
      let f := if n then (2 ^ 64 - x % 2 ^ 64) % 2 ^ 64 else x % 2 ^ 64
      if f = 0 then fp32.roundTo .rne false false 1 k false
      else enclose (fun p => (false, pow2Frac p (f * 2 ^ (p - 64)))) k precisions

/-- R259: `FLG2`. -/
def flg2Bits (a : Nat) : Nat :=
  match fp32.unpack a with
  | .nan => fp32.nanBits
  | .inf n => if n then fp32.nanBits else fp32.infBits
  | .fin n m e =>
    if m = 0 then fp32.signBit true + fp32.infBits
    else if n then fp32.nanBits
    else
      let l := Nat.log2 m
      let k : Int := e + (l : Nat)
      if m = 2 ^ l then fp32.pack .rne false (.fin (decide (k < 0)) k.natAbs 0)
      else
        enclose (fun p =>
          let v : Int := k * (2 ^ p : Nat) + (log2Frac p (m * 2 ^ (p - l)) : Nat)
          (decide (v < 0), v.natAbs)) 0 precisions

/-- sin(pi y) for y = q / 2^s between 0 and 1, and its sign given. -/
def sinPiBits (neg : Bool) (q s : Nat) : Nat :=
  -- reflect onto [0, 1/2]
  let d := if 2 ^ s < 2 * q then 2 ^ s - q else q
  if 2 * d = 2 ^ s then fp32.pack .rne false (.fin neg 1 0)
  else
    let sh := s - Nat.log2 d
    enclose (fun p => (neg, sinPi (p + sh) (if s ≤ p + sh then d * 2 ^ (p + sh - s) else d / 2 ^ (s - (p + sh)))))
      (-(sh : Nat)) precisions

/-- R259: `FSINP`. -/
def fsinpBits (a : Nat) : Nat :=
  match fp32.unpack a with
  | .nan => fp32.nanBits
  | .inf _ => fp32.nanBits
  | .fin n m e =>
    if m = 0 then fp32.signBit n
    else if 0 ≤ e then fp32.signBit n
    else
      let s := (-e).toNat
      let i := m / 2 ^ s
      let q := m % 2 ^ s
      if q = 0 then fp32.signBit n
      else sinPiBits (n != (i % 2 == 1)) q s

/-- R259: `FCOSP`: cos(pi x) = sin(pi (x + 1/2)), even in x. -/
def fcospBits (a : Nat) : Nat :=
  match fp32.unpack a with
  | .nan => fp32.nanBits
  | .inf _ => fp32.nanBits
  | .fin _ m e =>
    if m = 0 then fp32.pack .rne false (.fin false 1 0)
    else if 0 ≤ e then fp32.pack .rne false (.fin (e == 0 && m % 2 == 1) 1 0)
    else if e + (Nat.log2 m : Nat) < -14 then fp32.pack .rne false (.fin false 1 0)
    else
      let s := (-e).toNat
      let y := m + 2 ^ (s - 1)
      let i := y / 2 ^ s
      let q := y % 2 ^ s
      if q = 0 then 0 else sinPiBits (i % 2 == 1) q s

/-- R259: `FTANH`: (1 - E) / (1 + E) with E = 2^(-2x / ln 2). -/
def ftanhBits (a : Nat) : Nat :=
  match fp32.unpack a with
  | .nan => fp32.nanBits
  | .inf n => fp32.pack .rne false (.fin n 1 0)
  | .fin n m e =>
    if m = 0 then a
    else if e + (Nat.log2 m : Nat) < -13 then a
    else if 4 ≤ e + (Nat.log2 m : Nat) then fp32.pack .rne false (.fin n 1 0)
    else
      enclose (fun p =>
        let w := 2 * toFix m e p * 2 ^ p / lnTwo p
        let k := (w + 2 ^ p - 1) / 2 ^ p
        let f := k * 2 ^ p - w
        let ee := pow2Frac p f / 2 ^ k
        (n, (2 ^ p - ee) * 2 ^ p / (2 ^ p + ee))) 0 precisions

end Sys2Proof.Machine
end

