-- ==== Sys2Proof/Machine/Formats.lean ====
section
/-! DEFINITION. Number formats, shared-exponent blocks, format slots and bound registers (R69-R81). -/

namespace Sys2Proof.Machine

open Sys2Proof

/-- A format slot as its fields (R76). -/
structure Slot where
  fa : Nat
  fb : Nat
  sa : Int
  sb : Int
  rnd : Rnd
  sat : Bool
  bidx : Nat
  ben : Bool
deriving DecidableEq, Repr

/-- R76: the fields of a slot's 64 bits. -/
def Slot.ofNat (v : Nat) : Slot where
  fa := bitsAt v 0 4
  fb := bitsAt v 4 4
  sa := signed 8 (bitsAt v 8 8)
  sb := signed 8 (bitsAt v 16 8)
  rnd := rndOf (bitsAt v 24 4)
  sat := bitsAt v 28 1 == 1
  bidx := bitsAt v 32 4
  ben := bitsAt v 36 1 == 1

/-- R69: codes 3-5 are the SX formats. -/
def isSx (fmt : Nat) : Bool := 3 ≤ fmt && fmt ≤ 5

/-- R77: whether a slot of a kernel header is valid. -/
def slotValid (v : Nat) : Bool :=
  bitsAt v 37 27 == 0 && bitsAt v 29 3 == 0 && bitsAt v 0 4 < 8 && bitsAt v 4 4 < 8 && bitsAt v 24 4 < 4
    && (bitsAt v 8 8 == 0 || isSx (bitsAt v 0 4)) && (bitsAt v 16 8 == 0 || isSx (bitsAt v 4 4))

/-- A bound register (R79). -/
structure Bound where
  lo : Word
  hi : Word
  act : Nat
  nact : Nat
deriving DecidableEq, Repr

/-- R79: what a null pointer loads into every bound register. -/
def Bound.off : Bound := { lo := 0xFF800000#32, hi := 0x7F800000#32, act := 0, nact := 0 }

/-- R79: a 16-byte entry of the bound table. -/
def Bound.ofBytes (bs : List Byte) : Bound :=
  let v := natOfBytes bs
  { lo := BitVec.ofNat 32 v, hi := BitVec.ofNat 32 (v / 2 ^ 32), act := bitsAt v 64 2, nact := bitsAt v 66 2 }

/-- R79: whether an entry of the bound table lets the launch go on. -/
def boundValid (bs : List Byte) : Bool :=
  let v := natOfBytes bs
  let lo := fp32.unpack (bitsAt v 0 32)
  let hi := fp32.unpack (bitsAt v 32 32)
  !lo.isNan && !hi.isNan && !hi.lt lo && bitsAt v 66 2 != 3 && bitsAt v 68 60 == 0

/-- R69: the encoding of a scalar float format (0 FP32, 1 BF16, otherwise FP16). -/
def floatSpec (fmt : Nat) : FSpec := if fmt = 0 then fp32 else if fmt = 1 then bf16 else fp16

/-- The bytes of an element of a scalar format (R69). -/
def elemSize (fmt : Nat) : Nat := if fmt = 0 ∨ fmt = 7 then 4 else if fmt = 6 then 1 else 2

/-- R69, R72: the mantissa width of an SX format. -/
def sxWidth (fmt : Nat) : Nat := if fmt = 3 then 7 else if fmt = 4 then 4 else 2

/-- R72: the bytes of an SX block. -/
def sxSize (fmt : Nat) : Nat := 2 + 2 * (sxWidth fmt + 1)

/-- R70: the exact value of a scalar source, read from the low bits of a register. -/
def widen (fmt v : Nat) : FVal := (floatSpec fmt).unpack (v % 2 ^ ((floatSpec fmt).eb + (floatSpec fmt).fb + 1))

/-- R71: a value converted to a scalar float format under a slot. -/
def convertTo (fmt : Nat) (sl : Slot) (x : FVal) : Nat := (floatSpec fmt).pack sl.rnd sl.sat x

/-- Floor of log2 of the magnitude of a nonzero finite value. -/
def FVal.lg : FVal → Int
  | .nan => 0
  | .inf _ => 0
  | .fin _ m e => e + (Nat.log2 m : Nat)

/-- The sticky bits of SR.FPSTAT (R82), as a mask. -/
abbrev Flags := BitVec 5

/-- R82: BND. -/
def flagBND : Flags := 1#5
/-- R82: BNAN. -/
def flagBNAN : Flags := 2#5
/-- R82: SXOVF. -/
def flagSXOVF : Flags := 4#5
/-- R82: SXUNF. -/
def flagSXUNF : Flags := 8#5
/-- R82: ISAT. -/
def flagISAT : Flags := 16#5

/-- An SX block in its fields (R72): the shared exponent, the micro-exponents, and sign and magnitude of each element. -/
structure SxBlock where
  ex : Nat
  u : List Nat
  el : List (Bool × Nat)
deriving DecidableEq, Repr

/-- R75: the block of a NaN or infinite input. -/
def sxNan : SxBlock := { ex := 255, u := List.replicate 8 0, el := List.replicate 16 (false, 0) }
/-- R75: the zero block. -/
def sxZero : SxBlock := { ex := 0, u := List.replicate 8 0, el := List.replicate 16 (false, 0) }

/-- Bits of the element fields, element 0 lowest (R72). -/
def sxFields (w : Nat) : List (Bool × Nat) → Nat
  | [] => 0
  | (s, m) :: es => m + (if s then 2 ^ w else 0) + 2 ^ (w + 1) * sxFields w es

/-- The bits of a list, least first. -/
def bitsOf : List Nat → Nat
  | [] => 0
  | b :: bs => b + 2 * bitsOf bs

/-- R72: the bytes of a block. -/
def SxBlock.bytes (fmt : Nat) (b : SxBlock) : List Byte :=
  bytesOf (sxSize fmt) (b.ex + 256 * bitsOf b.u + 65536 * sxFields (sxWidth fmt) b.el)

/-- R73: the exact value of element j of a block's bytes, with scale S. -/
def sxElement (fmt : Nat) (s : Int) (bs : List Byte) (j : Nat) : FVal :=
  let v := natOfBytes bs
  let w := sxWidth fmt
  let ex := bitsAt v 0 8
  let u := bitsAt v (8 + j / 2) 1
  let f := bitsAt v (16 + j * (w + 1)) (w + 1)
  if ex = 0 then .fin false 0 0
  else if ex = 255 then .nan
  else .fin (f / 2 ^ w == 1) (f % 2 ^ w) ((ex : Int) - 127 - (u : Int) - ((w : Int) - 1) + s)

/-- R75: the micro-exponents, one per pair. -/
def sxMicro (e : Int) : List FVal → List Nat
  | a :: b :: rest =>
    (if (a.isZero || decide (a.lg < e - 1)) && (b.isZero || decide (b.lg < e - 1)) then 1 else 0) :: sxMicro e rest
  | _ => []

/-- R75: one element quantised at e. -/
def sxQuant (rnd : Rnd) (w : Nat) (e : Int) (u : Nat) : FVal → Bool × Nat
  | .nan => (false, 0)
  | .inf n => (n, 0)
  | .fin n m ex => (n, if m = 0 then 0 else roundInt rnd n m (ex - (e - (u : Int) - ((w : Int) - 1))))

/-- R75: Quantise(e), the elements from index `j` on. -/
def sxQuantAll (rnd : Rnd) (w : Nat) (e : Int) (us : List Nat) : Nat → List FVal → List (Bool × Nat)
  | _, [] => []
  | j, x :: xs => sxQuant rnd w e (us.getD (j / 2) 0) x :: sxQuantAll rnd w e us (j + 1) xs

/-- The greatest floor-log2 of the nonzero values. -/
def maxLg : List FVal → Option Int
  | [] => none
  | x :: xs =>
    match maxLg xs with
    | none => if x.isZero then none else some x.lg
    | some l => if x.isZero then some l else some (max l x.lg)

/-- Whether a value is NaN or infinite. -/
def FVal.special : FVal → Bool
  | .nan => true
  | .inf _ => true
  | .fin _ _ _ => false

/-- R75: `ToSX` of sixteen exact values, with the sticky bits it sets. -/
def toSX (fmt : Nat) (s : Int) (rnd : Rnd) (sat : Bool) (xs : List FVal) : SxBlock × Flags :=
  let w := sxWidth fmt
  if xs.any FVal.special then (sxNan, 0)
  else
    match maxLg xs with
    | none => (sxZero, 0)
    | some e0 =>
      let q0 := sxQuantAll rnd w e0 (sxMicro e0 xs) 0 xs
      let e := if q0.any (fun p => p.2 == 2 ^ w) then e0 + 1 else e0
      let ex := e + 127 - s
      if 254 < ex then
        if !sat then (sxNan, flagSXOVF)
        else
          let es := 127 + s
          let u := sxMicro es xs
          ({ ex := 254, u := u, el := (sxQuantAll rnd w es u 0 xs).map (fun p => (p.1, min p.2 (2 ^ w - 1))) }, flagSXOVF)
      else if ex < 1 then (sxZero, flagSXUNF)
      else
        let u := sxMicro e xs
        ({ ex := ex.toNat, u := u, el := sxQuantAll rnd w e u 0 xs }, 0)

/-- The outcome of a bound check: the value that goes on, with the sticky bits set; or a RANGE detail's [15:0] (R81). -/
inductive Checked where
  | pass (x : FVal) (clamped : Option Word) (flags : Flags)
  | range (detail : Nat)
deriving DecidableEq, Repr

/-- R81: `BoundCheck`. The clamp value is also given as its bits. -/
def boundCheck (bds : List Bound) (sl : Slot) (x : FVal) : Checked :=
  if !sl.ben then .pass x none 0
  else
    let b := bds.getD sl.bidx Bound.off
    if x.isNan then
      if b.nact = 2 then .range (sl.bidx * 2 ^ 12 + 2 * 2 ^ 8)
      else .pass x none (if b.nact = 1 then flagBNAN else 0)
    else
      let lo := fp32.unpack b.lo.toNat
      let hi := fp32.unpack b.hi.toNat
      if x.lt lo || hi.lt x then
        let below := x.lt lo
        if b.act = 3 then .range (sl.bidx * 2 ^ 12 + (if below then 0 else 2 ^ 8))
        else if b.act = 2 then
          (if below then .pass lo (some b.lo) flagBND else .pass hi (some b.hi) flagBND)
        else .pass x none (if b.act = 1 then flagBND else 0)
      else .pass x none 0

/-- R86: the value of `I2F`'s source. -/
def intSource (fa : Nat) (u : Bool) (v : Nat) : FVal :=
  let w := if fa = 6 then 8 else 32
  if u then .fin false (v % 2 ^ w) 0
  else .fin (decide (signed w v < 0)) (signed w v).natAbs 0

/-- R86: `F2I`: the 32-bit result and whether ISAT is set. -/
def floatToInt (fb : Nat) (u : Bool) (rnd : Rnd) (x : FVal) : Nat × Bool :=
  let w := if fb = 6 then 8 else 32
  let lo : Int := if u then 0 else -((2 ^ (w - 1) : Nat) : Int)
  let hi : Int := if u then ((2 ^ w : Nat) : Int) - 1 else ((2 ^ (w - 1) : Nat) : Int) - 1
  match x with
  | .nan => (0, true)
  | .inf n => (wrapInt 32 (if n then lo else hi), true)
  | .fin n m e =>
    -- a magnitude of 2^33 or more is out of every range
    if 33 < e + (Nat.log2 m : Nat) then (wrapInt 32 (if n then lo else hi), true)
    else
      let r : Int := if n then -(roundInt rnd n m e : Int) else (roundInt rnd n m e : Int)
      if r < lo then (wrapInt 32 lo, true)
      else if hi < r then (wrapInt 32 hi, true)
      else (wrapInt 32 r, false)

end Sys2Proof.Machine
end

