-- ==== Sys2Proof/Machine/State.lean ====
section
/-! DEFINITION. The state of the part as plain data: the compute side (Chip), the management side (Life) and the inputs not yet taken
(agenda); the reasons a step can stop; the state after power-up. INVENTORY.md names the rule of every field. -/

namespace Sys2Proof.Machine

open Sys2Proof

/-- Why the machine stops. -/
inductive Fault where
  /-- Raised by an access whose translation names a device offset at which the part has no memory (R96: reserved). Safe. -/
  | reservedOffset (offset : Nat)
deriving DecidableEq, Repr

/-- Why a step has no meaning. -/
inductive Refusal where
  /-- Raised by the dispatch for an instruction without a meaning. Safe. -/
  | notModelled (mnemonic : String)
deriving DecidableEq, Repr

/-- An engine that issues instruction words: a warp slot of a core, a matrix sequencer, a Dray stream. -/
inductive Eng where
  | warp (core slot : Nat)
  | matrix (core : Nat)
  | copy (core : Nat)
deriving DecidableEq, Repr

/-- R364: a position: clause address, index, entered bit. -/
structure Pos where
  addr : DWord
  idx : Nat
  entered : Bool
deriving DecidableEq, Repr

/-- A wait record (R392); `met` once the awaited phase has completed (R213). -/
structure WaitRec where
  on : DWord
  phase : BitVec 16
  state : Nat
  scope : Nat
  since : DWord
  cid : DWord
  met : Bool
deriving DecidableEq, Repr

/-- A lane of a warp (R18, R318, R329, R364, R392); `sync` is the operation its lane set waits for (R44), `held` the one it will wait for
again once its trap handler returns; `hdr` the header of the clause it has entered, fetched once (R39), `savedHdr` that of its saved
position; none where the header is still to be fetched. -/
structure Lane where
  pos : Pos
  exited : Bool
  saved : Pos
  join : Option (Nat × Nat)
  wait : Option WaitRec
  sync : Option Nat
  held : Option Nat
  hdr : Option Header
  savedHdr : Option Header
deriving DecidableEq, Repr

/-- The trap registers of a warp (R365) and the stream a SEQUENCER trap stopped (R366). -/
structure TrapRegs where
  pc : DWord
  idx : BitVec 5
  ent : Bool
  posted : Bool
  abandon : Bool
  syn : Word
  unit : Word
  tile : DWord
  addr : DWord
  mask0 : DWord
  inner : Word
  mask1 : DWord
  stopped : Nat
deriving DecidableEq, Repr

/-- A posted trap in a warp's queue (R363, R368), with the lane that met it and the cycle from which it may be taken: one posted in a cycle in
which a precise trap is taken waits for that one (R381); the causal ID of its cause, where it has one (R383). -/
structure Posted where
  syn : Word
  pos : Pos
  lane : Nat
  from_ : Nat
  kind : Nat
  queue : Nat
  addr : DWord
  inner : Word
  stopped : Nat
  cid : Option DWord := none
deriving DecidableEq, Repr

/-- A warp (R215-R217, R42, R82, R365, R374, R394, R356-R359). -/
structure Warp where
  gang : Nat
  grp : Nat
  windex : Nat
  child : Bool
  nregs : Nat
  nuregs : Nat
  lanes : List Lane
  v : AMap Word
  vp : AMap Bool
  u : AMap Word
  up : AMap Bool
  q : AMap (BitVec 256)
  qp : AMap Bool
  from_ : AMap Nat
  cf : AMap Nat
  fpstat : BitVec 5
  tr : TrapRegs
  handler : Bool
  posted : List Posted
  sectOpen : Bool
  sectCount : Nat
  waitsel : DWord
  waitr : BitVec 512
  start : Nat
  active : Bool
  joined : Nat
  unchosen : Nat
  lag : List (Pos × Nat)
  deferred : Option Pos
deriving DecidableEq, Repr

/-- A line of an L1 (R219, R220): translated line, context tag, masks, bytes; `pois` the poison mark; the POLICY of its latest store (R92). -/
structure L1Line where
  line : Nat
  tag : Nat
  valid : BitVec 64
  dirty : BitVec 64
  priv : Bool
  data : BitVec 512
  pois : Bool
  pol : Nat
deriving DecidableEq, Repr

/-- An entry of a translation cache (R108): the leaf's page number at its level, and the leaf. -/
structure TlbEntry where
  tag : Nat
  level : Nat
  page : Nat
  leaf : DWord
  entryAt : Nat
deriving DecidableEq, Repr

/-- A barrier object (R203) with what its keeper holds beside it: deadline, granted bytes, the first wait of the phase, whether the
deadline has passed in this phase (R131, R393, R396). -/
structure Barrier where
  phase : BitVec 16
  expect : BitVec 16
  arrived : BitVec 16
  flags : BitVec 16
  xbytes : BitVec 32
  lbytes : BitVec 32
  decl : BitVec 128
  arr : BitVec 128
  src : BitVec 128
  deadline : Nat
  granted : Nat
  since : DWord
  cid : DWord
  passed : Bool
deriving DecidableEq, Repr

/-- A physical window slot (R192); `resv` while a GIVE has reserved it. -/
structure Win where
  gen : Word
  w : Bool
  v : Bool
  bank : Nat
  resv : Bool
deriving DecidableEq, Repr

/-- An entry of the range scoreboard (R194): the copy and its gang, the physical slot and the offsets it writes, and whether it may retire. -/
structure ScoreEntry where
  gang : Nat
  core : Nat
  queue : Nat
  slot : Nat
  lo : Nat
  hi : Nat
  done : Bool
deriving DecidableEq, Repr

/-- A GIVE past its decision point (R197): the giver's slot, the receiver, the bank, the write right it attaches, and its operation. -/
structure Give where
  slot : Nat
  toCore : Nat
  toSlot : Nat
  bank : Nat
  w : Bool
  op : Nat
deriving DecidableEq, Repr

/-- A tile (R269): format, scale, bytes of each row by row * 256 + offset, rows marked as poisoned. -/
structure Tile where
  fmt : Nat
  scale : BitVec 8
  data : AMap Byte
  marks : AMap Bool
deriving DecidableEq, Repr

/-- A running MMAS (R288, R289): fields of the instruction, the operands as read at issue, the binding of its slots to banks, and its
operation. -/
structure Mmas where
  acc : Nat
  fs : Nat
  opA : DWord
  opB : DWord
  bankA : Nat
  bankB : Nat
  count : Nat
  kblk : Nat
  zero : Bool
  op : Nat
  pos : Pos
  hdr : Header
deriving DecidableEq, Repr

/-- A posted MPAIR (R290): its fields, the cycle and time of the post, its causal ID and its operation. -/
structure PairPost where
  acc : Nat
  ta : Nat
  tb : Nat
  kblk : Nat
  at_ : Nat
  since : DWord
  cid : DWord
  op : Nat
  pos : Pos
deriving DecidableEq, Repr

/-- A sequencer's stream: 0 never started, 1 running, 2 stopped by a trap, 3 ended; `hdr` the header of the clause it has entered (R39). -/
structure Stream where
  st : Nat
  pos : Pos
  forker : Nat
  gang : Nat
  grp : Nat
  cf : AMap Nat
  sync : Option Nat
  wait : Option WaitRec
  hdr : Option Header
deriving DecidableEq, Repr

/-- The matrix engine of a core (R268, R274, R275). -/
structure Mat where
  s : Stream
  m : AMap DWord
  tiles : AMap Tile
  acc : AMap Word
  mstat : BitVec 6
  prgState : Nat
  prgOp : Nat
  chunk : Nat
  mmas : Option Mmas
  post : Option PairPost
deriving DecidableEq, Repr

/-- A tensor map as read at a command's start (R168). -/
structure TMap where
  base : DWord
  esize : Nat
  kind : Nat
  pol : Nat
  core : Nat
  barrier : Nat
  fmt : Nat
  dims : List (Nat × Int)
deriving DecidableEq, Repr

/-- A Dray command (R161, R175): opcode, operands as read at issue, fields, its operation (none once restarted, R183), its word, the time
and causal ID of its issue, where it restarts (elements, and bytes landed at each target), whether it was cancelled while queued. -/
structure Cmd where
  op : Nat
  ka : DWord
  kb : DWord
  kc : DWord
  kd : DWord
  imm : Nat
  acq : Bool
  rel : Bool
  scope : Nat
  opId : Option Nat
  pos : Pos
  issued : Nat
  cid : DWord
  prog : Nat
  sentTo : List Nat
  cancelled : Bool
deriving DecidableEq, Repr

/-- One target of a bank-bound command (R131, R177): core, slot, barrier; bytes sent and landed; bytes in flight: bank offset, byte, mark. -/
structure Target where
  core : Nat
  slot : Nat
  barrier : Nat
  sent : Nat
  landed : Nat
  flight : List (Nat × Byte × Bool)
deriving DecidableEq, Repr

/-- A running DCOLL (R181): its descriptor packed (COUNT, P, KIND, OP, FMT), the devices of the ranks, its rank, its destination, the
time of its deadline and whether that has passed. -/
structure CollRun where
  id : DWord
  desc : Nat
  ranks : List Nat
  rank : Nat
  ordered : Bool
  dst : DWord
  deadline : Option Nat
  passed : Bool
deriving DecidableEq, Repr

/-- The running command of a queue: STATE of R166, whether it has started (R161, R194), its maps, progress, the element up to which its
walks have gone (its writes at peers may still be unanswered), elements, bytes fetched and not yet sent to every target with their marks,
its targets, the status, detail and address it is to end with, what peers have replied by address with its marks, the page it stalls on
(R171), the bytes of lines of memory that it has written, the lines whose fetched bytes came from a multicast entry, with the cycle in which that
was opened (R133). -/
structure Run where
  state : Nat
  begun : Bool
  src : Option TMap
  dst : Option TMap
  p : Nat
  upto : Nat
  count : Nat
  fetched : List (Byte × Bool)
  targets : List Target
  ending : Option (Nat × Nat × Nat)
  got : List (Nat × List (Byte × Bool))
  fault : Option Nat
  wrote : List (Nat × BitVec 64)
  via : List (Nat × Nat) := []
  coll : Option CollRun
deriving DecidableEq, Repr

/-- A command queue of a Dray (R160, R166): queued commands oldest first, the running one first among them. -/
structure Queue where
  cmds : List Cmd
  run : Option Run
  last : Option Cmd
  op : Nat
  status : Nat
  detail : Nat
  prog : Nat
  wait : Option WaitRec
deriving DecidableEq, Repr

/-- The Dray of a core (R160). -/
structure Dray where
  s : Stream
  k : AMap DWord
  kp : AMap Bool
  from_ : AMap Nat
  queues : AMap Queue
deriving DecidableEq, Repr

/-- A silent error of the array unit, an input of the model (R287): the row and group at which the checker will differ. -/
structure Upset where
  row : Nat
  grp : Nat
deriving DecidableEq, Repr

/-- A core (R11). -/
structure Core where
  warps : AMap (Option Warp)
  l1 : List L1Line
  tlb : List TlbEntry
  bars : AMap Barrier
  win : AMap Win
  score : List ScoreEntry
  gives : List Give
  mat : Mat
  dray : Dray
  impl : Word
  seqW : BitVec 30
  seqM : BitVec 30
  seqD : BitVec 30
  upset : Option Upset
deriving DecidableEq, Repr

/-- A bank of a pool (R189, R193): attached slot, the gang it is reserved to, the context tag of its last owner, bytes, poisoned granules. -/
structure Bank where
  at_ : Option (Nat × Nat)
  gang : Option Nat
  tag : Option Nat
  data : AMap Byte
  pois : AMap Bool
deriving DecidableEq, Repr

/-- A hardware queue (R233): owner tag and entries, oldest first. -/
structure HwQueue where
  owner : Nat
  entries : List DWord
deriving DecidableEq, Repr

/-- A pending child (R324); `due` once the 256 cycles of its list have passed (R327). -/
structure Child where
  gang : Nat
  entry : Nat
  join : Nat × Nat
  payload : List Word
  unit : Word
  cycle : Nat
  due : Bool
deriving DecidableEq, Repr

/-- A cluster (R11): hardware queues, spawn queue, bank pool. -/
structure Cluster where
  hwq : AMap HwQueue
  spawnQ : List Child
  banks : AMap Bank
deriving DecidableEq, Repr

/-- Who holds an intent (R300, R305); `remote` by device * 4096 + engine identifier. -/
inductive Owner where
  | core (n : Nat)
  | dray (n : Nat)
  | remote (who : Nat)
deriving DecidableEq, Repr

/-- An intent (R300): owner, tag, line, mask, cover scope, and the causal ID and warp slot of its latest store. -/
structure Intent where
  owner : Owner
  tag : Nat
  line : Nat
  mask : BitVec 64
  cover : Option Nat
  cid : DWord
  slot : Option Nat
deriving DecidableEq, Repr

/-- An entry of a reader filter (R301). -/
structure FilterEntry where
  slice : Nat
  line : Nat
  mask : BitVec 16
deriving DecidableEq, Repr

/-- A line present in a slice (R126): its bytes are those of the memory it homes. -/
structure SliceLine where
  slice : Nat
  line : Nat
  resident : Bool
deriving DecidableEq, Repr

/-- A multicast entry (R132): the line's bytes and mark as read; kept once closed for the count of second reads (R129). -/
structure McEntry where
  slice : Nat
  line : Nat
  tag : Nat
  opened : Nat
  closed : Bool
  data : BitVec 512
  pois : Bool
deriving DecidableEq, Repr

/-- A line in the half of a staging buffer that multicast entries leave (R128); it stays there for the rest of its cycle. Those of a slice beyond
the first 512 wait at its input. -/
structure StagedLine where
  slice : Nat
  line : Nat
deriving DecidableEq, Repr

/-- A requester's no-allocate request for a line that waits at a slice's input (R128), and the cycle in which it last asked. -/
structure SliceWait where
  slice : Nat
  requester : Nat
  line : Nat
  asked : Nat
deriving DecidableEq, Repr

/-- A walk of a Dray queue at a port's Hansom (R130, R131): the first sixteen of a port hold its contexts, the others wait. `upto` once its
bytes for banks are all fetched: the command's byte up to which they must be sent before the context is free. -/
structure HansomWalk where
  slice : Nat
  port : Nat
  core : Nat
  queue : Nat
  upto : Option Nat
deriving DecidableEq, Repr

/-- A peer at which an owner has written lines (R300), and the scope at which a release has covered them. -/
structure Owed where
  owner : Owner
  dev : Nat
  cover : Option Nat
deriving DecidableEq, Repr

/-- Who met a page fault (R109, R113, R171). -/
inductive Party where
  | lanes (core slot : Nat) (mask : BitVec 64)
  | matrix (core : Nat)
  | drayStream (core : Nat)
  | drayQueue (core queue : Nat)
  | coachman
  | mail (queue : Nat)
deriving DecidableEq, Repr

/-- An overlap that a peer has found for a party's system-scope release (R302), delivered once the instruction at `pos` has been performed: the
party's gang, the line in the peer's window. -/
structure PeerRace where
  who : Party
  gang : Nat
  pos : Pos
  line : Nat
deriving DecidableEq, Repr

/-- R303, R309: what a peer has found of bytes that a party's atomic is to change: the party, its gang and instruction, the bytes' address there, and
the reason for which they may not be changed, where there is one. -/
structure PeerCheck where
  who : Party
  gang : Nat
  pos : Pos
  line : Nat
  fail : Option Nat
deriving DecidableEq, Repr

/-- R383: the causal ID that a lane set or stream has taken for the instruction at `pos`, which waits for what it has asked for under that ID. -/
structure Drawn where
  who : Party
  gang : Nat
  pos : Pos
  cid : DWord
deriving DecidableEq, Repr

/-- What a request of the Coachman has brought, until the step that made it is performed: the step (a grid's, or 2^32 and a ring), the physical
address, the bytes; none where the request failed. -/
structure CoachGot where
  step : Nat
  pa : Nat
  bytes : Option (List Byte)
deriving DecidableEq, Repr

/-- An entry of a slice's poison list (R118). -/
structure HeldLine where
  slice : Nat
  line : Nat
  since : Nat
  expired : Bool
deriving DecidableEq, Repr

/-- An entry of a stream detector (R127). -/
structure StreamEntry where
  next : Nat
  run : Nat
  last : Nat
deriving DecidableEq, Repr

/-- A kernel header as launched (R340), with its format slots and bound registers. -/
structure Kernel where
  addr : DWord
  code : Nat
  regs : Nat
  uregs : Nat
  tiles : Nat
  banks : Nat
  barriers : Nat
  spawnWarps : Nat
  spawnMask : Nat
  matrix : Nat
  copy : Nat
  handler : Nat
  spawn : List Nat
  fs : List DWord
  bounds : List Bound
deriving DecidableEq, Repr

/-- A task record as read at its post (R337, R338). -/
structure Task where
  entry : DWord
  args : DWord
  tilex : BitVec 32
  tiley : BitVec 16
  tilez : BitVec 16
  succ0 : DWord
  succ1 : DWord
  width : Nat
  flags : BitVec 16
  count : Nat
  tag : Nat
  status : DWord
deriving DecidableEq, Repr

/-- A grid (R18, R344): phase 0 waiting, 1 running, 2 pre-empted, 3 ended, 4 stopping for pre-emption; `front` the time at which
it re-entered the front of its queue (R348); `dec` while the decrements of its successor counters are in progress, how many are done, with
the causal ID of the trigger (R315) or of its retirement; the causal ID of its retirement once that has begun, and `ended` once it has released
and written the status word (R349); `room` the grid for which it stops (R348). -/
structure Grid where
  task : Task
  kernel : Kernel
  recAddr : DWord
  recTag : Nat
  phase : Nat
  prio : Nat
  ring : Bool
  posted : Nat
  aged : Nat
  admitted : Nat
  triggered : Bool
  relaunches : Nat
  fail : Option Nat
  front : Option Nat
  dec : Option (Nat × DWord) := none
  retire : Option DWord := none
  ended : Bool := false
  room : Option Nat := none
deriving DecidableEq, Repr

/-- A group's placement (R189, R190, R25). -/
structure Group where
  core : Nat
  slots : List Nat
  bbase : Nat
  bcount : Nat
  nbase : Nat
  ncount : Nat
  retired : Bool
deriving DecidableEq, Repr

/-- What a frame set of a saved gang holds (R110): warps with their places, the sequencers of its cores, and its operations to reissue. -/
structure Frame where
  warps : List (Nat × Nat × Warp)
  mats : List (Nat × Mat)
  drays : List (Nat × Dray)
  races : List (Nat × Nat × Posted)
  count : Nat
deriving DecidableEq, Repr

/-- A gang (R27, R110, R376-R378): phase 0 running, 1 stopping, 2 saved out, 3 being killed, 4 awaiting relaunch, 5 retired; `out` where its
kill began while it was saved out. -/
structure Gang where
  grid : Nat
  index : Nat
  cluster : Nat
  groups : List Group
  childSlots : List (Nat × Nat)
  reserve : List Nat
  phase : Nat
  out : Bool
  whyPage : Bool
  whyPrio : Bool
  whyIft : Bool
  reserved : Nat
  frame : Option Frame
  kills : Nat
  refused : Word
  cause : Nat
  causeCid : DWord
  noRelaunch : Bool
  deferFail : Nat
  restored : Nat
deriving DecidableEq, Repr

/-- A page fault (R112, R113): `ring` false while it waits for a place in the fault ring, `failed` once declared unresolvable, `resolved` once
resolved while other faults of its gang are not (R111, R113); the position at which its party stands, and the lowest lane that met it (R8); `gone` once the
command that stalled on it has been cancelled (R174). -/
structure PageFault where
  id : Nat
  addr : DWord
  kind : Nat
  level : Nat
  tag : Nat
  engine : Nat
  cid : DWord
  op : Nat
  gang : Nat
  party : Party
  ring : Bool
  failed : Bool
  resolved : Bool
  pos : Pos
  lane : Nat := 0
  gone : Bool := false
deriving DecidableEq, Repr

/-- A range of bytes of a bank that an access touches, and the physical slot it was named by (R194, R197); whether it writes them. -/
structure Touch where
  slot : Nat
  bank : Nat
  lo : Nat
  hi : Nat
  w : Bool
deriving DecidableEq, Repr

/-- One lane's access to a bank (R202): the bank it is bound to, offset, bytes, and the value stored or the atomic's operand. -/
structure BankAcc where
  lane : Nat
  bank : Nat
  off : Nat
  n : Nat
  val : Nat
deriving DecidableEq, Repr

/-- What an atomic instruction is: opcode, operation (16 for compare and swap), scope, whether it releases, operand width, and its record's
POLICY and PRIVATE mark. -/
structure Atomic where
  op : Nat
  aop : Nat
  scope : Nat
  rel : Bool
  w : Nat
  pol : Nat
  priv : Bool
deriving DecidableEq, Repr

/-- R307: a lane's atomic that is still to be performed: its lane, its address before and after translation, its operands. -/
structure AtomLane where
  lane : Nat
  va : Nat
  pa : Nat
  v1 : Nat
  v2 : Nat
deriving DecidableEq, Repr

/-- Work issued and not yet performed: lane accesses (the atomic operation, destination, its registers, whether once, the scope to
acquire at), a sweep (lanes, rows, slot, operands as bank and offset, steps), a transfer or drain of the matrix engine (tile or
accumulator, slot, block columns, a flag of the word, the operand and its bank), the chunks of a running MMAS that are still to come, the
lanes of an atomic that follow one performed at a peer (the atomic, its context tag). -/
inductive Work where
  | lanes (aop : Nat) (accs : List BankAcc) (d nr : Nat) (once : Bool) (acq : Nat)
  | sweep (mask : BitVec 64) (count fs : Nat) (d a b : Nat × Nat) (stepd stepa stepb : Nat)
  | matrix (t u fs kblk : Nat) (fl : Bool) (operand : DWord) (bank : Nat)
  | chunks
  | atomics (a : Atomic) (tag : Nat) (lanes : List AtomLane)
deriving DecidableEq, Repr

/-- Work that waits under R194, R267 or R271, with the bytes it touches. -/
structure Late where
  touch : List Touch
  work : Work
deriving DecidableEq, Repr

/-- An operation in flight (R42, R43): its engine and lanes, flag, the register writes it will make (by reg * 64 + lane), uniform
writes, record write, its opcode and word, a failure it will deliver (syndrome, address, lane), whether it still waits for
something (a GIVE's attach, a memory reply), the gang, bank work not yet performed, the line at which its release found an overlap (R302),
the scope at which it acquires once performed; whether a flag that counts it is predicted long (R357), and whether its lane set has issued
further (R362). -/
structure Op where
  id : Nat
  eng : Eng
  mask : BitVec 64
  flag : Option Nat
  code : Nat
  pos : Pos
  gang : Nat
  writes : List (Nat × Word × Bool)
  uwrites : List (Nat × Word × Bool)
  qwrite : Option (Nat × BitVec 256 × Bool)
  kwrite : Option (Nat × DWord × Bool)
  fail : Option (Word × DWord × Nat)
  hold : Bool
  cid : DWord
  late : Option Late
  race : Option Nat
  src : List (Nat × Nat)
  acq : Nat
  long : Bool
  moved : Bool
deriving DecidableEq, Repr

/-- A kill in progress (R377): the gang, its cause class; a context kill counts one entry of SR.KILLST. -/
structure Kill where
  gang : Nat
  cause : Nat
  ctx : Option Nat
deriving DecidableEq, Repr

/-- R352, R353: the slot of a ring that the Coachman is consuming, which it finishes though EN is cleared: control block, number, RECORD, tag, the
causal ID of its decrement. -/
structure RingSlot where
  cb : Nat
  head : Nat
  rec_ : Nat
  tag : Nat
  cid : DWord
deriving DecidableEq, Repr

/-- A task ring (R353): control block, enable, tag, log2 of its slots, STATE, stale count, whether a TAIL write or poll has woken it, the slot in
progress. -/
structure Ring where
  cb : Nat
  en : Bool
  tag : Nat
  log2 : Nat
  state : Nat
  stale : DWord
  awake : Bool
  polled : Nat
  slot : Option RingSlot := none
deriving DecidableEq, Repr

/-- A batch that the Mail coach sends (R151): its entries, how far it is (0 its slots being reserved, 1 HEADSH awaited, 2 slots being
written, 3 TAIL being written), its first slot, its causal ID. -/
structure Batch where
  count : Nat
  stage : Nat
  ticket : Nat
  cid : DWord
deriving DecidableEq, Repr

/-- A proxy shadow queue (R151, R354): target, enable, error and its REMOTE reason, log2, entries oldest first with the time of their
arrival, the batch being sent. -/
structure Proxy where
  tgt : DWord
  en : Bool
  err : Bool
  why : Nat
  log2 : Nat
  entries : List (Nat × BitVec 512)
  batch : Option Batch
deriving DecidableEq, Repr

/-- A fabric link (R136, R147): width code, up, replay count, downs, next send and expected numbers, unacknowledged flits with the time of
their last sending and their replays, whether it is retraining, and whether its training has declared that the switches behind it keep the
canonical order (R150). -/
structure Link where
  width : Nat
  up : Bool
  replays : Nat
  downs : Nat
  sendSeq : Nat
  recvSeq : Nat
  buffer : List (Nat × Nat × Nat)
  training : Bool
  canonical : Bool := false
deriving DecidableEq, Repr

/-- What leaves on the fabric (R138, R139, R142-R144, R148, R397, R433): requests (a release flag with its N), their ends, the copy of a
late-delivery event, the end of a request that its target has refused to its end, a Conductor's queries and answers, a bare acknowledgement
of a flow. -/
inductive FabricMsg where
  | request (req off : Nat) (kind : ReqKind) (flag : Option Nat)
  | reply (req : Nat) (bytes : List Byte) (marked : Bool)
  | refuse (req hint : Nat)
  | failure (req reason : Nat)
  | late (payload : DWord)
  | query (node : DWord)
  | collQuery (coll : DWord)
  | barQuery (node : DWord)
  | answer (node : DWord) (a : Answer)
  | ended (reason : Nat)
  | ack (flow : Nat)
deriving DecidableEq, Repr

/-- A packet of an outbound flow (R138, R142, R143, R146): destination, class, number (none for a bare acknowledgement), the cumulative
acknowledgement of the opposite flow, context tag and generation, delivered-by time, causal ID, contents, payload bytes, when it was
given to its flow, how long it then waited here, when it was last sent and through which port. -/
structure OutPacket where
  dst : Nat
  cls : Nat
  seq : Option (BitVec 32)
  ack : BitVec 32
  tag : Nat
  gen : BitVec 8
  byNs : Nat
  cid : DWord
  msg : FabricMsg
  bytes : Nat
  given : Nat
  waited : Nat
  sentAt : Nat
  port : Nat
deriving DecidableEq, Repr

/-- An outbound flow (R137-R139). -/
structure OutFlow where
  next : BitVec 32
  port : Nat
  unacked : List OutPacket
  flagBytes : Nat
deriving DecidableEq, Repr

/-- An inbound flow (R138, R139): next number to deliver, packets ahead of a gap, bytes since the last applied flag. -/
structure InFlow where
  next : BitVec 32
  ahead : List Packet
  bytes : Nat
deriving DecidableEq, Repr

/-- A piece offered to a port (R141, R142): its class, bytes, port, the time of the next offer, delivered-by time once admitted. -/
structure Piece where
  id : Nat
  dst : Nat
  cls : Nat
  bytes : Nat
  port : Nat
  req : Nat
  hintAt : Option Nat
  admitted : Option Nat
deriving DecidableEq, Repr

/-- An outstanding remote request (R143, R144): its initiator's operation or command, refusals so far, retry time, delivered-by time, the
virtual address it was made for, the position of the word that made it, its class and bytes, whether an acquire of its core has made what
it will bring stale, a line's PRIVATE mark, whether it is a release flag (R139). -/
structure Remote where
  id : Nat
  dst : Nat
  off : Nat
  kind : ReqKind
  who : Party
  op : Option Nat
  lane : Nat
  opcode : Nat
  tag : Nat
  refusals : Nat
  retryAt : Option Nat
  byNs : Nat
  cid : DWord
  va : Nat
  pos : Pos
  cls : Nat
  bytes : Nat
  stale : Bool
  priv : Bool
  flag : Bool
deriving DecidableEq, Repr

/-- A collective at this device's Charabanc (R148, R181): the packed descriptor, whether one that differs has been met, the contributions
received by rank with their marks, the ranks of this device that have their result, the results that switches have returned for ranks (R150). -/
structure Coll where
  id : DWord
  desc : Nat
  bad : Bool
  got : List (Nat × List (Byte × Bool))
  ready : List Nat
  switched : List (Nat × List (Byte × Bool)) := []
deriving DecidableEq, Repr

/-- A Caseg record (R384). -/
structure Caseg where
  time : DWord
  cid : DWord
  source : Word
  type : BitVec 16
  flags : BitVec 16
  payload : DWord
deriving DecidableEq, Repr

/-- A trace source's buffer (R386): records not yet accepted and the drop mark. -/
structure TraceBuf where
  recs : List Caseg
  drop : Bool
deriving DecidableEq, Repr

/-- The trace store and its registers (R387-R389). -/
structure Trace where
  slots : AMap (Option Caseg)
  index : Nat
  wraps : Nat
  resets : Nat
  cause : Nat
  poweron : DWord
  count : Nat
  headerAt : Nat
  freeze : Bool
  frozen : Word
  dropped : Word
  win : BitVec 12
  bufs : AMap TraceBuf
deriving DecidableEq, Repr

/-- A Conductor's walk (R396): the node it stands at, nodes visited, the query it awaits and since when, its event's causal ID, the
barrier and phase that started it, the instant at which the deadline has passed, in ns. -/
structure Walk where
  id : Nat
  node : DWord
  visited : List DWord
  asked : Option (DWord × Nat)
  coll : Option DWord
  cid : DWord
  origin : DWord
  phase : BitVec 16
  passedAt : Nat
deriving DecidableEq, Repr

/-- What leaves through the host port (R154-R157): a completion of a read or atomic, an Unsupported Request, an MSI-X vector, a memory
write with the causal ID of its operation (R403), an AtomicOp. -/
inductive HostMsg where
  | data (bytes : List Byte)
  | unsupported
  | msix (vector : Nat)
  | outWrite (addr : Nat) (bytes : List Byte) (cid : Option DWord)
  | outAtomic (addr aop width : Nat) (operands : List Nat)
deriving DecidableEq, Repr

/-- The issue in progress: the engine, its lanes, the position of the word, the clause header. -/
structure Issue where
  eng : Eng
  lanes : BitVec 64
  pos : Pos
  hdr : Header
deriving DecidableEq, Repr

/-- One of the issues chosen for a cycle (R22): a counter of an engine and the lanes that stood there as the cycle began, or a chunk of a
core's running MMAS. -/
inductive Turn where
  | issue (e : Eng) (p : Pos) (lanes : BitVec 64)
  | chunk (core : Nat)
deriving DecidableEq, Repr

/-- The privileged registers that are plain cells (R101, R129, R147, R158, R353, R354, R379, R380, R395, R398, R411); whether an in-field test
has been made since reset. -/
structure PrivRegs where
  ctxtab : DWord
  xinv : DWord
  xpend : List Nat
  frpool : DWord
  pfring : DWord
  pfhead : DWord
  pfack : DWord
  pfdone : DWord
  slsel : BitVec 6
  gwdev : BitVec 22
  gwsel : BitVec 5
  gwcls : BitVec 32
  gwlim : BitVec 4
  gwdrop : DWord
  hfill : BitVec 2
  ringsel : BitVec 6
  pqsel : BitVec 6
  kill : BitVec 16
  killCount : Word
  iftEn : Bool
  iftPeriod : Word
  iftDefer : Word
  iftActive : Bool
  iftPair : BitVec 8
  iftTested : Bool
  iftAt : Nat
  pwsel : DWord
  pwr : BitVec 512
  condcfg : Word
  condQueries : Word
  condEvents : Word
  agesel : BitVec 9
deriving DecidableEq, Repr

/-- The enabled cores and slices (R16, R17, R124) as formed at power-up. -/
structure Fuse where
  config : Nat
  noCores : List Nat
  noSlices : List Nat
deriving DecidableEq, Repr

/-- The compute side of the part. -/
structure Chip where
  fuse : Fuse
  running : Bool
  cycle : Nat
  time : Nat
  slewPpm : Int
  slewFrac : Nat
  locked : Bool
  offset : Word
  cores : AMap Core
  clusters : AMap Cluster
  mem : AMap Byte
  hostMem : AMap Byte
  pois : AMap Bool
  owner : AMap Nat
  memBars : AMap (Option Barrier)
  intents : List Intent
  filter : List FilterEntry
  dir : List SliceLine
  mc : List McEntry
  staged : List StagedLine
  sliceWaits : List SliceWait
  drawn : List Drawn
  cleared : List PeerCheck
  moving : List Nat := []
  hansoms : List HansomWalk
  scoreWaits : List (Nat × Nat × Nat)
  owed : List Owed
  peerRaces : List PeerRace
  coachGot : List CoachGot
  held : List HeldLine
  detectors : AMap (List StreamEntry)
  eccCount : Nat
  stats : AMap DWord
  priv : PrivRegs
  faults : List PageFault
  ops : List Op
  nextOp : Nat
  grids : AMap (Option Grid)
  nextGrid : Nat
  gangs : AMap (Option Gang)
  nextGang : Nat
  kills : List Kill
  rings : AMap Ring
  proxies : AMap Proxy
  gens : AMap (BitVec 8)
  routes : AMap (List Nat)
  links : AMap Link
  outFlows : AMap OutFlow
  inFlows : AMap InFlow
  pieces : List Piece
  remotes : List Remote
  nextReq : Nat
  colls : List Coll
  unitSeq : AMap (BitVec 30)
  trace : Trace
  walks : List Walk
  nextWalk : Nat
  hostOut : List HostMsg
  fabricOut : List OutPacket
  fenced : List Nat
  iftGangs : List Nat
  resvFrames : Nat
  freeSeq : Nat
  cur : Option Issue
  plan : Option (List Turn)
deriving DecidableEq, Repr

/-- An entry of the wear log (R409): the time in ns, the delay in ps, the fitted voltage in mV, the junction temperature. -/
structure Wear where
  time : Nat
  delay : Nat
  mv : Nat
  temp : Nat
deriving DecidableEq, Repr

/-- A voltage domain (R409-R411): the voltage it is set to, its mark, its wear log, newest first. -/
structure Domain where
  mv : Nat
  marked : Bool
  log : List Wear
deriving DecidableEq, Repr

/-- An error record of BAR0 (R405). -/
structure ErrRec where
  time : DWord
  code : Nat
  unit : Nat
deriving DecidableEq, Repr

/-- Answers of the management controller (R406, R411): a sensor's value; measurements of the two firmware images, the fuse configuration,
SR.CORES and the wear log. -/
inductive MgmtMsg where
  | sensor (value : Nat)
  | attestation (images : List DWord) (config : Nat) (cores wearLog : DWord)
  | bytes (data : List Byte)
deriving DecidableEq, Repr

/-- The management side (R404-R413): part state, failed step, reset cause, error records, clock in MHz, domains, marked cores, marked
slice pairs, answers, fits that wait for the end of an in-field test. -/
structure Life where
  state : Nat
  step : Nat
  cause : Nat
  errors : List ErrRec
  clock : Nat
  domains : AMap Domain
  marks : List Nat
  sliceMarks : List Nat
  mgmtOut : List MgmtMsg
  dueFits : List (Nat × Fit)
deriving DecidableEq, Repr

/-- What the management controller reads over MCTP (R389, R402): bytes of the trace store, the wait registers under a selection, the Conductor's
registers, an error record of BAR0. -/
inductive MgmtRead where
  | trace (off n : Nat)
  | waits (sel : DWord)
  | conductor
  | error (n : Nat)
deriving DecidableEq, Repr

/-- An input or a step chosen from outside: a row of the opcode table that is no instruction word, an issue of one counter of an
engine, one chunk of a running MMAS, the end of a cycle, a silent error of an array unit, bytes the host stores in its own memory, the
ports that system software lists for a destination device (R137), what the training of a link declares of the switches behind it (R150), the
moving of an HBM frame by system software (R144), a read by the management controller (R389, R402), its discipline of SR.TIME by a step forward in ns
and a slew in ppm (R390). -/
inductive Act where
  | event (i : Instr)
  | issue (e : Eng) (p : Pos)
  | chunk (core : Nat)
  | tick
  | upset (core row grp : Nat)
  | hostStore (addr : Nat) (bytes : List Byte)
  | route (dst : Nat) (ports : List Nat)
  | declare (port : Nat) (canonical : Bool)
  | migrate (frame : Nat) (on : Bool)
  | mgmtRead (what : MgmtRead)
  | discipline (step : Nat) (ppm : Int)
deriving DecidableEq, Repr

/-- The machine. -/
structure State where
  chip : Chip
  life : Life
  agenda : List Act
deriving DecidableEq, Repr

/-- The position of a lane that stands nowhere. -/
def Pos.zero : Pos := { addr := 0, idx := 0, entered := false }

/-- R365: the trap registers at warp start. -/
def TrapRegs.zero : TrapRegs :=
  { pc := 0, idx := 0, ent := false, posted := false, abandon := false, syn := 0, unit := 0, tile := 0, addr := 0, mask0 := 0,
    inner := 0, mask1 := 0, stopped := 0 }

/-- R203: an object of zeros. -/
def Barrier.zero : Barrier :=
  { phase := 0, expect := 0, arrived := 0, flags := 0, xbytes := 0, lbytes := 0, decl := 0, arr := 0, src := 0, deadline := 0,
    granted := 0, since := 0, cid := 0, passed := false }

/-- R192: an empty slot. -/
def Win.zero : Win := { gen := 0, w := false, v := false, bank := 0, resv := false }

/-- R268: a tile at admission. -/
def Tile.zero : Tile := { fmt := 0, scale := 0, data := [], marks := [] }

/-- A stream that has not been started. -/
def Stream.zero : Stream :=
  { st := 0, pos := Pos.zero, forker := 0, gang := 0, grp := 0, cf := [], sync := none, wait := none, hdr := none }

/-- R268: a matrix engine at admission. -/
def Mat.zero : Mat :=
  { s := Stream.zero, m := [], tiles := [], acc := [], mstat := 0, prgState := 0, prgOp := 0, chunk := 0, mmas := none, post := none }

/-- R166: a queue at FORK. -/
def Queue.zero : Queue :=
  { cmds := [], run := none, last := none, op := 0, status := 0, detail := 0, prog := 0, wait := none }

/-- R160: a Dray at FORK. -/
def Dray.zero : Dray := { s := Stream.zero, k := [], kp := [], from_ := [], queues := [] }

/-- A core with nothing on it. -/
def Core.zero : Core :=
  { warps := [], l1 := [], tlb := [], bars := [], win := [], score := [], gives := [], mat := Mat.zero, dray := Dray.zero, impl := 0,
    seqW := 0, seqM := 0, seqD := 0, upset := none }

/-- A bank free in its pool that no context has owned. -/
def Bank.zero : Bank := { at_ := none, gang := none, tag := none, data := [], pois := [] }

/-- R233: an empty queue. -/
def HwQueue.zero : HwQueue := { owner := 0, entries := [] }

/-- A cluster with nothing pending. -/
def Cluster.zero : Cluster := { hwq := [], spawnQ := [], banks := [] }

/-- R353: a ring's registers at reset. -/
def Ring.zero : Ring :=
  { cb := 0, en := false, tag := 0, log2 := 4, state := 0, stale := 0, awake := false, polled := 0 }

/-- R354: a shadow queue at reset. -/
def Proxy.zero : Proxy :=
  { tgt := 0, en := false, err := false, why := 0, log2 := 4, entries := [], batch := none }

/-- R147: a link before training. -/
def Link.zero : Link :=
  { width := 0, up := false, replays := 0, downs := 0, sendSeq := 0, recvSeq := 0, buffer := [], training := false }

/-- A flow that has sent nothing. -/
def OutFlow.zero : OutFlow := { next := 0, port := 0, unacked := [], flagBytes := 0 }

/-- A flow that has delivered nothing. -/
def InFlow.zero : InFlow := { next := 0, ahead := [], bytes := 0 }

/-- An empty trace buffer. -/
def TraceBuf.zero : TraceBuf := { recs := [], drop := false }

/-- R388: the trace store as the Brake van sets it at power-up. -/
def Trace.reset : Trace :=
  { slots := [], index := 0, wraps := 0, resets := 0, cause := 1, poweron := 0, count := 0, headerAt := 0, freeze := false, frozen := 0,
    dropped := 0, win := 0, bufs := [] }

/-- R409: a domain before its first fit. -/
def Domain.zero : Domain := { mv := 0, marked := false, log := [] }

/-- The privileged registers at their reset values (R101, R129, R147, R158, R353, R354, R379, R380, R395, R398, R411). -/
def PrivRegs.reset : PrivRegs :=
  { ctxtab := 0, xinv := 0, xpend := [], frpool := 0, pfring := 0, pfhead := 0, pfack := 0, pfdone := 0, slsel := 0,
    gwdev := 0x3FFFFF#22, gwsel := 0, gwcls := 0x10806010#32, gwlim := 8, gwdrop := 0, hfill := 0, ringsel := 0, pqsel := 0,
    kill := 0, killCount := 0, iftEn := true, iftPeriod := 0x15180#32, iftDefer := 0, iftActive := false, iftPair := 0, iftTested := false, iftAt := 0,
    pwsel := 0, pwr := 0, condcfg := 0x03E84001#32, condQueries := 0, condEvents := 0, agesel := 0 }

/-- The compute side at power-up: nothing resident, nothing in flight. -/
def Chip.reset : Chip :=
  { fuse := { config := 0, noCores := [], noSlices := [] }, running := false, cycle := 0, time := 0, slewPpm := 0, slewFrac := 0,
    locked := false, offset := 0,
    cores := [], clusters := [], mem := [], hostMem := [], pois := [], owner := [], memBars := [], intents := [], filter := [],
    dir := [], mc := [], staged := [], sliceWaits := [], drawn := [], cleared := [], hansoms := [], scoreWaits := [], owed := [], peerRaces := [], coachGot := [],
    held := [], detectors := [], eccCount := 0, stats := [], priv := PrivRegs.reset, faults := [], ops := [], nextOp := 0,
    grids := [], nextGrid := 0, gangs := [], nextGang := 0, kills := [], rings := [], proxies := [], gens := [], routes := [],
    links := [], outFlows := [], inFlows := [], pieces := [], remotes := [], nextReq := 0, colls := [], unitSeq := [],
    trace := Trace.reset, walks := [], nextWalk := 0, hostOut := [], fabricOut := [], fenced := [], iftGangs := [], resvFrames := 0,
    freeSeq := 0, cur := none, plan := none }

/-- R405, R407, R408: the management side at power-up. -/
def Life.reset : Life :=
  { state := 0, step := 0, cause := 1, errors := [], clock := 1400, domains := [], marks := [], sliceMarks := [],
    mgmtOut := [], dueFits := [] }

/-- The machine right after power is applied, before the power-up sequence (R404, R405). -/
def State.reset : State := { chip := Chip.reset, life := Life.reset, agenda := [] }

end Sys2Proof.Machine
end

