-- ==== Sys2Proof/Machine/Ops.lean ====
section
/-! DEFINITION. The named operations over the machine: cores, warps and engines, causal IDs and Caseg records, completion flags and
operations in flight, taking a trap and returning from one, posting a trap, killing a gang (R42, R360-R377, R382-R386). -/

namespace Sys2Proof.Machine

open Sys2Proof

/-- Why an instruction does not complete: a precise trap (syndrome, lane, address, lane mask), the same on a chip that has recorded an
event, a page fault (address, kind, level, opcode, lane), a wait during which nothing is performed, an address at which no memory stands, a wait for something the chip has
been made to ask for. -/
inductive Stop where
  | trap (syn : Nat) (lane : Nat) (addr : Nat) (mask : BitVec 64)
  | trapOn (c : Chip) (syn : Nat) (lane : Nat) (addr : Nat) (mask : BitVec 64)
  | page (addr : Nat) (kind level : Nat) (op : Nat) (lane : Nat)
  | wait
  | absent (offset : Nat)
  | park (c : Chip)

/-- R360: a syndrome: class byte and detail. -/
def syndrome (cls detail : Nat) : Nat := cls * 2 ^ 24 + detail % 2 ^ 24

/-- A detail with the opcode in [23:16] and a reason in [15:0]. -/
def opReason (op reason : Nat) : Nat := op * 65536 + reason

/-- The core of a number. -/
def Chip.core (c : Chip) (n : Nat) : Core := aget Core.zero c.cores n
/-- The chip with a core replaced. -/
def Chip.setCore (c : Chip) (n : Nat) (k : Core) : Chip := { c with cores := aput Core.zero c.cores n k }
/-- The warp in a slot. -/
def Chip.warp (c : Chip) (n slot : Nat) : Option Warp := aget none (c.core n).warps slot
/-- The chip with a warp replaced. -/
def Chip.setWarp (c : Chip) (n slot : Nat) (w : Option Warp) : Chip :=
  c.setCore n { c.core n with warps := aput none (c.core n).warps slot w }
/-- The cluster of a number. -/
def Chip.cluster (c : Chip) (n : Nat) : Cluster := aget Cluster.zero c.clusters n
/-- The chip with a cluster replaced. -/
def Chip.setCluster (c : Chip) (n : Nat) (k : Cluster) : Chip := { c with clusters := aput Cluster.zero c.clusters n k }
/-- A gang, where it exists. -/
def Chip.gang (c : Chip) (g : Nat) : Option Gang := aget none c.gangs g
/-- The chip with a gang replaced. -/
def Chip.setGang (c : Chip) (g : Nat) (k : Gang) : Chip := { c with gangs := aput none c.gangs g (some k) }
/-- The chip with a gang changed, where it exists. -/
def Chip.modGang (c : Chip) (g : Nat) (f : Gang → Gang) : Chip :=
  match c.gang g with
  | none => c
  | some k => c.setGang g (f k)
/-- A grid, where it exists. -/
def Chip.grid (c : Chip) (g : Nat) : Option Grid := aget none c.grids g
/-- The chip with a grid replaced. -/
def Chip.setGrid (c : Chip) (g : Nat) (k : Grid) : Chip := { c with grids := aput none c.grids g (some k) }
/-- The chip with the matrix engine of a core replaced. -/
def Chip.setMat (c : Chip) (n : Nat) (m : Mat) : Chip := c.setCore n { c.core n with mat := m }
/-- The chip with the Dray of a core replaced. -/
def Chip.setDray (c : Chip) (n : Nat) (d : Dray) : Chip := c.setCore n { c.core n with dray := d }
/-- The grid of a gang. -/
def Chip.gridOf (c : Chip) (g : Nat) : Option Grid := (c.gang g).bind (fun k => c.grid k.grid)
/-- The kernel of a gang's grid. -/
def Chip.kernelOf (c : Chip) (g : Nat) : Option Kernel := (c.gridOf g).map (fun k => k.kernel)
/-- The context tag of a gang. -/
def Chip.tagOf (c : Chip) (g : Nat) : Nat := ((c.gridOf g).map (fun k => k.task.tag)).getD 0
/-- The placement of group `i` of a gang. -/
def Chip.groupOf (c : Chip) (g i : Nat) : Option Group := (c.gang g).bind (fun k => k.groups[i]?)

/-- R9: the cluster of a core. -/
def clusterOf (core : Nat) : Nat := core / 128
/-- R9: the die of a core. -/
def dieOf (core : Nat) : Nat := core / 256
/-- R17: whether a core is enabled. -/
def Chip.enabled (c : Chip) (n : Nat) : Bool := n < 512 && !c.fuse.noCores.contains n

/-- R390: SR.TIME from nanoseconds. -/
def timeWord (ns : Nat) : DWord := dw (ns / 1000000000 * 2 ^ 30 + ns % 1000000000)
/-- R390: SR.TIME. -/
def Chip.now (c : Chip) : DWord := timeWord c.time

/-- R382: a causal ID. -/
def Chip.cid (c : Chip) (engine : Nat) (seq : BitVec 30) : DWord :=
  dw (c.priv.gwdev.toNat * 2 ^ 42 + engine * 2 ^ 30 + seq.toNat)

/-- R382: the engine identifier of an issuing engine. -/
def Eng.ident : Eng → Nat
  | .warp n _ => n
  | .matrix n => 0x400 + n
  | .copy n => 0x800 + n

/-- The core of an engine. -/
def Eng.core : Eng → Nat
  | .warp n _ => n
  | .matrix n => n
  | .copy n => n

/-- R383: the engine's next sequence value, and the causal ID it gives. -/
def Chip.nextCid (c : Chip) (e : Eng) : Chip × DWord :=
  let k := c.core e.core
  match e with
  | .warp n _ => (c.setCore n { k with seqW := k.seqW + 1 }, c.cid e.ident (k.seqW + 1))
  | .matrix n => (c.setCore n { k with seqM := k.seqM + 1 }, c.cid e.ident (k.seqM + 1))
  | .copy n => (c.setCore n { k with seqD := k.seqD + 1 }, c.cid e.ident (k.seqD + 1))

/-- The party of an engine's lane set. -/
def partyOf (e : Eng) (mask : BitVec 64) : Party :=
  match e with
  | .warp n s => .lanes n s mask
  | .matrix n => .matrix n
  | .copy n => .drayStream n

/-- Whether a party is of a warp's lanes. -/
def Party.ofWarp (core slot : Nat) : Party → Bool
  | .lanes n s _ => n == core && s == slot
  | .matrix _ => false
  | .drayStream _ => false
  | .drayQueue _ _ => false
  | .coachman => false
  | .mail _ => false

/-- R382, R383: a device unit's next causal ID (index of R382). -/
def Chip.unitCid (c : Chip) (unit : Nat) : Chip × DWord :=
  let s := aget 0 c.unitSeq unit + 1
  ({ c with unitSeq := aput 0 c.unitSeq unit s }, c.cid (0xC00 + unit) s)

/-- R384, R386: a record joins its source's buffer; a clause-start record that finds no free place is dropped and counted. `source` is
the SOURCE field, `extra` the CHILD and RESOLVED bits and the REASON. -/
def Chip.emitAt (c : Chip) (time : DWord) (source type : Nat) (cid payload : DWord) (extra : Nat) : Chip :=
  let key := source % 4096
  let b := aget TraceBuf.zero c.trace.bufs key
  if type = 0x10 && 12 ≤ b.recs.length then
    { c with trace := { c.trace with
        dropped := if c.trace.dropped = 0xFFFFFFFF#32 then c.trace.dropped else c.trace.dropped + 1,
        bufs := aput TraceBuf.zero c.trace.bufs key { b with drop := true } } }
  else
    let r : Caseg := { time := time, cid := cid, source := BitVec.ofNat 32 source, type := BitVec.ofNat 16 type,
                       flags := BitVec.ofNat 16 ((if b.drop then 1 else 0) + (if c.locked then 0 else 2) + extra), payload := payload }
    { c with trace := { c.trace with bufs := aput TraceBuf.zero c.trace.bufs key { recs := b.recs ++ [r], drop := false } } }

/-- R384: a record of what occurs now. -/
def Chip.emit (c : Chip) (source type : Nat) (cid payload : DWord) (extra : Nat) : Chip := c.emitAt c.now source type cid payload extra

/-- R386: whether a source has a record that finds no place: the engine or unit that emitted it stalls behind it. -/
def Chip.traceFull (c : Chip) (source : Nat) : Bool := 16 < (aget TraceBuf.zero c.trace.bufs source).recs.length

/-- R383: a record of a device unit: with the causal ID of the operation that has led to it, else with a fresh one of the unit's own. -/
def Chip.emitUnit (c : Chip) (unit type : Nat) (payload : DWord) (cid : Option DWord := none) : Chip :=
  match cid with
  | some id => c.emit (0xC00 + unit) type id payload 0
  | none => let (c1, id) := c.unitCid unit; c1.emit (0xC00 + unit) type id payload 0

/-- R384: the SOURCE field of a warp's record. -/
def warpSource (core slot lane : Nat) : Nat := core + slot * 2 ^ 12 + lane * 2 ^ 17

/-- R157: an MSI-X vector is signalled. -/
def Chip.msix (c : Chip) (v : Nat) : Chip := { c with hostOut := c.hostOut ++ [.msix v] }

/-- The next free value of the model, where the spec leaves a value open. -/
def Chip.draw (c : Chip) : Chip × DWord := ({ c with freeSeq := c.freeSeq + 1 }, Sys2Proof.Config.freeValue c.freeSeq)

/-- Lanes of a warp that have not exited. -/
def liveLanes : Nat → List Lane → List Nat
  | _, [] => []
  | i, l :: ls => if l.exited then liveLanes (i + 1) ls else i :: liveLanes (i + 1) ls

/-- The lanes of a warp that have not exited, as a mask. -/
def Warp.live (w : Warp) : BitVec 64 := maskOf (liveLanes 0 w.lanes)

/-- A lane's record. -/
def Warp.lane (w : Warp) (i : Nat) : Lane :=
  w.lanes.getD i { pos := Pos.zero, exited := true, saved := Pos.zero, join := none, wait := none, sync := none, held := none,
                       hdr := none, savedHdr := none }

/-- Change every lane of a mask. -/
def mapLanes (m : BitVec 64) (f : Nat → Lane → Lane) : Nat → List Lane → List Lane
  | _, [] => []
  | i, l :: ls => (if m.getLsbD i then f i l else l) :: mapLanes m f (i + 1) ls

/-- The warp with the lanes of a mask changed. -/
def Warp.onLanes (w : Warp) (m : BitVec 64) (f : Nat → Lane → Lane) : Warp := { w with lanes := mapLanes m f 0 w.lanes }

/-- R42: a flag's count. -/
def cfGet (cf : AMap Nat) (i : Nat) : Nat := aget 0 cf i
/-- R42: a flag raised by one. -/
def cfUp (cf : AMap Nat) (i : Nat) : AMap Nat := aput 0 cf i (aget 0 cf i + 1)
/-- R42: a flag lowered by one. -/
def cfDown (cf : AMap Nat) (i : Nat) : AMap Nat := aput 0 cf i (aget 0 cf i - 1)

/-- The completion flags of an engine. -/
def Chip.flags (c : Chip) (e : Eng) : AMap Nat :=
  match e with
  | .warp n s => ((c.warp n s).map (fun w => w.cf)).getD []
  | .matrix n => (c.core n).mat.s.cf
  | .copy n => (c.core n).dray.s.cf

/-- The engine with its flags changed. -/
def Chip.modFlags (c : Chip) (e : Eng) (f : AMap Nat → AMap Nat) : Chip :=
  match e with
  | .warp n s => match c.warp n s with
    | none => c
    | some w => c.setWarp n s (some { w with cf := f w.cf })
  | .matrix n => let m := (c.core n).mat; c.setMat n { m with s := { m.s with cf := f m.s.cf } }
  | .copy n => let d := (c.core n).dray; c.setDray n { d with s := { d.s with cf := f d.s.cf } }

/-- The stream of a sequencer. -/
def Chip.stream (c : Chip) (e : Eng) : Stream :=
  match e with
  | .warp _ _ => Stream.zero
  | .matrix n => (c.core n).mat.s
  | .copy n => (c.core n).dray.s

/-- A sequencer with its stream changed. -/
def Chip.modStream (c : Chip) (e : Eng) (f : Stream → Stream) : Chip :=
  match e with
  | .warp _ _ => c
  | .matrix n => let m := (c.core n).mat; c.setMat n { m with s := f m.s }
  | .copy n => let d := (c.core n).dray; c.setDray n { d with s := f d.s }

/-- The gang of an engine. -/
def Chip.gangOf (c : Chip) (e : Eng) : Nat :=
  match e with
  | .warp n s => ((c.warp n s).map (fun w => w.gang)).getD 0
  | .matrix n => (c.core n).mat.s.gang
  | .copy n => (c.core n).dray.s.gang

/-- The group index of an engine in its gang. -/
def Chip.grpOf (c : Chip) (e : Eng) : Nat :=
  match e with
  | .warp n s => ((c.warp n s).map (fun w => w.grp)).getD 0
  | .matrix n => (c.core n).mat.s.grp
  | .copy n => (c.core n).dray.s.grp

/-- The placement of the group an engine belongs to; a child warp has none (R326). -/
def Chip.placement (c : Chip) (e : Eng) : Option Group :=
  match e with
  | .warp n s => (c.warp n s).bind (fun w => if w.child then none else c.groupOf w.gang w.grp)
  | .matrix _ => c.groupOf (c.gangOf e) (c.grpOf e)
  | .copy _ => c.groupOf (c.gangOf e) (c.grpOf e)

/-- Whether an engine is a child warp. -/
def Chip.isChild (c : Chip) (e : Eng) : Bool :=
  match e with
  | .warp n s => ((c.warp n s).map (fun w => w.child)).getD false
  | .matrix _ => false
  | .copy _ => false

/-- R14: SR.UNIT of a lane. -/
def unitWord (core slot lane : Nat) (child : Bool) : Nat :=
  (if child then 2 ^ 28 else 0) + dieOf core * 2 ^ 27 + clusterOf core * 2 ^ 25 + core * 2 ^ 16 + slot * 2 ^ 8 + lane

/-- R339: SR.TASKT of a task. -/
def Task.tile (t : Task) : DWord := dw (t.tilex.toNat + t.tiley.toNat * 2 ^ 32 + t.tilez.toNat * 2 ^ 48)

/-- The gangs of a chip whose record satisfies a test. -/
def Chip.gangsWhere (c : Chip) (f : Gang → Bool) : List Nat :=
  c.gangs.filterMap (fun p => match p.2 with
    | none => none
    | some k => if f k then some p.1 else none)

/-- End a stream as a kill does (R377). -/
def Stream.halt (s : Stream) : Stream := if s.st = 0 then s else { s with st := 3, sync := none, wait := none }

/-- What is left of a frame that a kill discards: the Dray commands in it, whose byte-source entries are still to be removed (R205, R377). -/
def Frame.commands (f : Frame) : Frame := { f with warps := [], mats := [], races := [], count := 0 }

/-- R377, step 1: one gang stops: its streams end, its Dray commands end without status or release, its children are removed, its frame
is discarded but for its Dray's commands, which have ended (R205), its operations are discarded, and the fence goes out; R376: the cause. R378:
a gang that is being killed already is not relaunched where the grid ends, and one that awaits its relaunch ends. -/
def Chip.killOne (c : Chip) (g cause : Nat) (ctx : Option Nat) (noRelaunch : Bool) (cid : Option DWord) : Chip :=
  match c.gang g with
  | none => c
  | some k =>
    if k.phase = 5 then c
    else if k.phase = 4 then (if noRelaunch then c.setGang g { k with phase := 5, noRelaunch := true } else c)
    else if k.phase = 3 then c.setGang g { k with noRelaunch := k.noRelaunch || noRelaunch }
    else
      let c1 := c.setGang g { k with phase := 3, frame := k.frame.map Frame.commands, kills := k.kills + 1, cause := cause,
                                     noRelaunch := k.noRelaunch || noRelaunch, out := k.phase == 2, whyPage := false, whyPrio := false, whyIft := false }
      let c2 := k.groups.foldl (fun (d : Chip) (gr : Group) =>
        let co := d.core gr.core
        let d1 := if co.mat.s.gang = g then d.setMat gr.core { co.mat with s := co.mat.s.halt, mmas := none, post := none } else d
        let co1 := d1.core gr.core
        if co1.dray.s.gang = g then d1.setDray gr.core { co1.dray with s := co1.dray.s.halt } else d1) c1
      let cl := c2.cluster k.cluster
      let c3 := c2.setCluster k.cluster { cl with spawnQ := cl.spawnQ.filter (fun ch => ch.gang != g) }
      let c4 : Chip := { c3 with
        ops := c3.ops.filter (fun o => o.gang != g), faults := c3.faults.filter (fun f => f.gang != g),
        kills := c3.kills ++ [{ gang := g, cause := cause, ctx := ctx }] }
      let what := dw (c4.tagOf g + cause * 2 ^ 16 + (k.index % 2 ^ 32) * 2 ^ 24)
      match cid with
      | some id => c4.emit 0xC00 0x12 id what 0
      | none => c4.emitUnit 0 0x12 what

/-- R376, R378: a gang is killed; every gang of its grid with it when the record is not restartable, the gang may not be relaunched, or this
is its seventeenth kill. `cid` is the causal ID of the cause. -/
def Chip.killGang (c : Chip) (g cause : Nat) (noRelaunch : Bool) (cid : Option DWord) : Chip :=
  match c.gang g, c.gridOf g with
  | some k, some gr =>
    let (c1, id) := match cid with
      | some x => (c, x)
      | none => c.unitCid 0
    if gr.task.flags.getLsbD 0 && !noRelaunch && k.kills < 16 then c1.killOne g cause none false (some id)
    else (c1.gangsWhere (fun x => x.grid == k.grid)).foldl (fun d x => d.killOne x cause none true (some id)) c1
  | _, _ => c

/-- What a trap brings into the trap registers (R365), and the causal ID of its cause where it has one (R377). -/
structure TrapInfo where
  syn : Nat
  pos : Pos
  posted : Bool
  kind : Nat
  queue : Nat
  lane : Nat
  addr : Nat
  mask : BitVec 64
  inner : Nat
  stopped : Nat
  cid : Option DWord := none
deriving DecidableEq, Repr

/-- Whether an entry is the causal ID of the instruction in issue. -/
def Drawn.of (d : Drawn) (c : Chip) (i : Issue) : Bool := d.who == partyOf i.eng i.lanes && d.gang == c.gangOf i.eng && d.pos == i.pos

/-- R383: the causal ID of the instruction in issue, one for all that it does: the one it has taken while it waited, or the engine's next. -/
def Chip.issueCid (c : Chip) (i : Issue) : Chip × DWord :=
  match c.drawn.find? (fun d => d.of c i) with
  | some d => ({ c with drawn := c.drawn.filter (fun x => !x.of c i) }, d.cid)
  | none => c.nextCid i.eng

/-- R383: a causal ID that an instruction has taken, kept for it. -/
def Chip.keepCid (c : Chip) (i : Issue) (id : DWord) : Chip :=
  if c.drawn.any (fun d => d.of c i) then c
  else { c with drawn := c.drawn ++ [{ who := partyOf i.eng i.lanes, gang := c.gangOf i.eng, pos := i.pos, cid := id }] }

/-- R383: the same, kept for the instruction, which will wait. -/
def Chip.holdCid (c : Chip) (i : Issue) : Chip × DWord :=
  match c.drawn.find? (fun d => d.of c i) with
  | some d => (c, d.cid)
  | none =>
    let (c1, id) := c.nextCid i.eng
    (c1.keepCid i id, id)

/-- R383: the causal ID that an instruction has taken while it waited, if it has; it is kept no longer. -/
def Chip.takeCid (c : Chip) (i : Issue) : Chip × Option DWord :=
  ({ c with drawn := c.drawn.filter (fun x => !x.of c i) }, (c.drawn.find? (fun d => d.of c i)).map (fun d => d.cid))

/-- R362: what the instructions of a party's warp or stream have taken and brought together while they waited is dropped. -/
def Chip.dropHeld (c : Chip) (mine : Party → Bool) : Chip :=
  { c with drawn := c.drawn.filter (fun d => !mine d.who), cleared := c.cleared.filter (fun r => !mine r.who) }

/-- R377, R383: the causal ID of a trap's cause; of one that has none, the trap entry's own. -/
def Chip.causeCid (c : Chip) (e : Eng) (cid : Option DWord) : Chip × DWord :=
  match cid with
  | some id => (c, id)
  | none => c.nextCid e

/-- R118, R385: where a mark comes from, as a number: the address of the line it was loaded from, and whether its data had failed after a hold; 0 for a
mark that no line of memory has given (DESIGN CHOICE, log 33: a mark read from a bank or a tile). -/
def markAt (va : Nat) (held : Bool) : Nat := va / 64 * 64 + 1 + (if held then 2 else 0)

/-- R385: the line address of a record of consumed poison; a free value where the mark has no line. -/
def Chip.poisonLine (c : Chip) (m : Nat) : Chip × DWord := if m.testBit 0 then (c, dw (m / 64 * 64)) else c.draw

/-- R364: taking a trap. A POISON cause, a warp in handler mode and a kernel without a handler kill the gang; otherwise every lane saves
its position and starts at the handler. -/
def Chip.trapEnter (c : Chip) (core slot : Nat) (t : TrapInfo) : Chip :=
  match c.warp core slot with
  | none => c
  | some w =>
    let cls := t.syn / 2 ^ 24
    match c.kernelOf w.gang, c.gridOf w.gang with
    | some kn, some gr =>
      if cls = 0x0C then
        let (c1, v) := c.poisonLine t.addr
        let (c2, id) := c1.causeCid (.warp core slot) t.cid
        (c2.emit (warpSource core slot t.lane) 0x42 id v (if w.child then 4 else 0)).killGang w.gang cls false (some id)
      else if w.handler || kn.handler = 0 then
        let (c1, id) := c.causeCid (.warp core slot) t.cid
        c1.killGang w.gang cls false (some id)
      else
        let hpos : Pos := { addr := kn.addr + dw kn.handler, idx := 0, entered := false }
        let lanes := mapLanes w.live (fun _ l => { l with saved := l.pos, savedHdr := l.hdr, pos := hpos, wait := none, held := l.sync, sync := none }) 0 w.lanes
        let tr : TrapRegs := { pc := t.pos.addr, idx := BitVec.ofNat 5 t.pos.idx, ent := t.pos.entered, posted := t.posted,
                               abandon := false, syn := BitVec.ofNat 32 t.syn,
                               unit := BitVec.ofNat 32 (t.kind * 2 ^ 30 + t.queue * 2 ^ 13 + unitWord core slot t.lane w.child % 2 ^ 13
            + unitWord core slot t.lane w.child / 2 ^ 16 * 2 ^ 16)
                               tile := gr.task.tile, addr := dw t.addr, mask0 := t.mask, inner := BitVec.ofNat 32 t.inner, mask1 := 0,
                               stopped := t.stopped }
        let c1 := (c.dropHeld (Party.ofWarp core slot)).setWarp core slot (some { w with lanes := lanes, tr := tr, handler := true, active := true, joined := if w.active then w.joined else c.cycle, deferred := none })
        let (c2, id) := c1.nextCid (.warp core slot)
        c2.emit (warpSource core slot t.lane) 0x11 id (dw (t.syn + (if t.posted then 2 ^ 32 else 0))) (if w.child then 4 else 0)
    | _, _ => c

/-- R313, R335: a failure that no thread can take: the event, and the kill without relaunch. -/
def Chip.failGang (c : Chip) (g cls : Nat) (cid : Option DWord) : Chip :=
  let (c1, id) := match cid with
    | some x => (c, x)
    | none => c.unitCid 0
  (c1.emit 0xC00 0x13 id (dw cls) 0).killGang g cls true (some id)

/-- R335, R368: the class of the failure that a posted trap brings: of a SEQUENCER trap the inner one. -/
def Posted.failClass (p : Posted) : Nat := (if p.kind = 0 then p.syn else p.inner).toNat / 2 ^ 24

/-- R363, R367: a trap is posted to a warp: it joins the queue of four; a full queue kills the gang; a warp whose lanes have all exited
cannot take it (R335, R313): the gang is killed without relaunch and the failure recorded. -/
def Chip.postTrap (c : Chip) (core slot : Nat) (p : Posted) : Chip :=
  match c.warp core slot with
  | none => c
  | some w =>
    if w.live = 0 then c.failGang w.gang p.failClass p.cid
    else if 4 ≤ w.posted.length then c.killGang w.gang (p.syn.toNat / 2 ^ 24) false p.cid
    else c.setWarp core slot (some { w with posted := w.posted ++ [p] })

/-- R335, R368: a SEQUENCER trap is posted to the forking warp; where that warp has retired, the group fails. -/
def Chip.postSeq (c : Chip) (core : Nat) (st : Stream) (p : Posted) : Chip :=
  match c.warp core st.forker with
  | none => c.failGang st.gang p.failClass p.cid
  | some w => if w.gang = st.gang && !w.child then c.postTrap core st.forker p else c.failGang st.gang p.failClass p.cid

/-- R368: a fault of a stream stops it and is posted to the forking warp as a SEQUENCER trap with source 1 or 2. `cid` is
the causal ID of its cause, where it has one. -/
def Chip.seqFault (c : Chip) (e : Eng) (pos : Pos) (inner addr : Nat) (cid : Option DWord := none) : Chip :=
  let src := match e with
    | .matrix _ => 1
    | .copy _ => 2
    | .warp _ _ => 0
  let st := c.stream e
  if inner / 2 ^ 24 = 0x0C then
    let (c1, v) := c.poisonLine addr
    let (c2, id) := c1.causeCid e cid
    (c2.emit e.ident 0x42 id v 0).killGang st.gang 0x0C false (some id)
  else
    let c1 := (c.dropHeld (fun p => p == partyOf e 0)).modStream e (fun s => { s with st := 2, pos := pos, sync := none, wait := none })
    let c2 := match e with
      | .matrix n => c1.setMat n { (c1.core n).mat with prgState := 3 }
      | .copy _ => c1
      | .warp _ _ => c1
    c2.postSeq e.core st { syn := BitVec.ofNat 32 (syndrome 0x15 (inner / 2 ^ 24 * 2 ^ 16 + src * 2 ^ 14)), pos := pos, kind := src,
                           lane := 0, from_ := c.cycle + 1, queue := 0, addr := dw addr, inner := BitVec.ofNat 32 inner, stopped := src, cid := cid }

/-- R368: a copy command's fault is posted with source 3 and its queue, under the command's causal ID; the stream is not stopped. -/
def Chip.cmdFault (c : Chip) (core queue : Nat) (cid : DWord) (pos : Pos) (inner addr : Nat) : Chip :=
  let st := (c.core core).dray.s
  c.postSeq core st { syn := BitVec.ofNat 32 (syndrome 0x15 (inner / 2 ^ 24 * 2 ^ 16 + 3 * 2 ^ 14 + queue * 2 ^ 11)), pos := pos,
                      kind := 2, lane := 0, from_ := c.cycle + 1, queue := queue, addr := dw addr, inner := BitVec.ofNat 32 inner, stopped := 0, cid := some cid }

/-- R335, R363: the oldest posted trap is taken; where every lane of the warp has exited none is left to take it, and the gang fails. -/
def Chip.takePosted (c : Chip) (core slot : Nat) : Chip :=
  match c.warp core slot with
  | none => c
  | some w =>
    match w.posted with
    | [] => c
    | p :: ps =>
      let c1 := c.setWarp core slot (some { w with posted := ps })
      if w.live = 0 then c1.failGang w.gang p.failClass p.cid
      else c1.trapEnter core slot { syn := p.syn.toNat, pos := p.pos, posted := true, kind := p.kind, queue := p.queue, lane := p.lane,
                                    addr := p.addr.toNat, mask := 0, inner := p.inner.toNat, stopped := p.stopped, cid := p.cid }

/-- A stop request to a gang (R110, R373); a gang already leaving only gains the reason. -/
def Chip.stopGang (c : Chip) (g : Nat) (f : Gang → Gang) : Chip :=
  c.modGang g (fun k => let k1 := f k; if k1.phase = 0 then { k1 with phase := 1 } else k1)

/-- R110, R111: the frames a save of the gang takes: one per group and one per core that holds child warps. -/
def Chip.framesFor (c : Chip) (k : Gang) : Nat :=
  k.groups.length + ((k.childSlots.filter (fun p => (c.warp p.1 p.2).isSome)).map (fun p => p.1)).eraseDups.length

/-- Frames of the pool in use by saved gangs. -/
def Chip.framesUsed (c : Chip) : Nat :=
  sumOf (c.gangs.map (fun p => match p.2 with
    | none => 0
    | some k => match k.frame with
      | none => if k.phase = 1 && k.whyPage && k.reserved = 0 then c.framesFor k else 0
      | some fr => fr.count))

/-- R101: frames in the pool. -/
def Chip.framePool (c : Chip) : Nat := c.priv.frpool.toNat % 65536

/-- R101, R112: the capacity of the fault ring. -/
def Chip.pfRingSize (c : Chip) : Nat := 64 * 2 ^ (min 10 (c.priv.pfring.toNat % 16))

/-- R133: the multicast entries of the lines in a range of offsets close. -/
def closeEntries (lo hi : Nat) (l : List McEntry) : List McEntry :=
  l.map (fun e => if e.line % 2 ^ 64 < hi && lo < e.line % 2 ^ 64 + 64 then { e with closed := true } else e)
/-- R112, R133: a fault record is written when the ring has room, the host is signalled, and `SR.PFHEAD` rises. -/
def Chip.writeFault (c : Chip) (f : PageFault) : Chip :=
  let n := c.priv.pfhead.toNat
  if c.pfRingSize ≤ n - c.priv.pfack.toNat then { c with faults := c.faults ++ [{ f with ring := false }] }
  else
    let base := c.priv.pfring.toNat / 4096 * 4096 % 2 ^ 42
    let rec_ := bytesOf 8 f.addr.toNat ++ bytesOf 4 n ++ bytesOf 2 f.tag ++ bytesOf 2 f.engine ++ bytesOf 1 f.kind ++ bytesOf 1 f.level
      ++ bytesOf 6 0 ++ bytesOf 8 f.cid.toNat
    let c1 : Chip := { c with
      mem := aputN 0 c.mem (base + 32 * (n % c.pfRingSize)) rec_,
      mc := closeEntries (base + 32 * (n % c.pfRingSize)) (base + 32 * (n % c.pfRingSize) + 32) c.mc,
      priv := { c.priv with pfhead := c.priv.pfhead + 1 },
      faults := c.faults ++ [{ f with id := n % 2 ^ 32, ring := true }] }
    c1.msix 0

/-- R110, R171, R343: whether a fault of a party takes its gang off the cores. -/
def Party.saves : Party → Bool
  | .lanes _ _ _ => true
  | .matrix _ => true
  | .drayStream _ => false
  | .drayQueue _ _ => false
  | .coachman => false
  | .mail _ => false

/-- R110, R111: the stop for the save of a fault that has been recorded, where the pool has the frames. -/
def Chip.saveFor (c : Chip) (g : Nat) : Chip :=
  match c.gang g with
  | none => c
  | some k =>
    if k.phase != 0 || c.framesUsed + c.resvFrames + c.framesFor k ≤ c.framePool then c.stopGang g (fun x => { x with whyPage := true }) else c

/-- R109-R111: a page fault of a lane set, the matrix sequencer or a fetch: the record is written; the gang is stopped for its save when
the pool has the frames, else the party waits in place. R383: the record carries the causal ID of the operation, `cid` where it has one
already. `lane` is the lowest lane that met it. -/
def Chip.pageFault (c : Chip) (e : Eng) (party : Party) (addr kind level op : Nat) (pos : Pos) (cid : Option DWord := none)
    (lane : Nat := 0) : Chip :=
  let g := c.gangOf e
  if c.faults.any (fun f => f.party == party && f.gang == g && f.pos == pos && !f.gone && (match cid with
      | none => true
      | some x => f.cid == x && f.addr == dw addr)) then c
  else
    let (c0, id) := match cid with
      | some x => (c, x)
      | none => c.nextCid e
    let c1 := c0.writeFault { id := 0, addr := dw addr, kind := kind, level := level, tag := c0.tagOf g, engine := e.ident, cid := id,
                              op := op, gang := g, party := party, ring := true, failed := false, resolved := false, pos := pos, lane := lane }
    if !party.saves || c1.priv.pfhead = c0.priv.pfhead then c1 else c1.saveFor g

/-- The engine of a party; lane sets of one warp count as one. -/
def Party.seat : Party → Nat × Nat
  | .lanes n s _ => (n, s)
  | .matrix n => (n, 32)
  | .drayStream n => (n, 33)
  | .drayQueue n q => (n, 34 + q)
  | .coachman => (512, 0)
  | .mail q => (513, q)

/-- R362, R364, R368: a precise trap of an issue: taken by its warp, or posted by its sequencer to the forking warp. -/
def Chip.trapFor (c : Chip) (i : Issue) (syn lane addr : Nat) (mask : BitVec 64) : Chip :=
  match i.eng with
  | .warp n s => c.trapEnter n s { syn := syn, pos := i.pos, posted := false, kind := 0, queue := 0, lane := lane, addr := addr,
                                   mask := mask, inner := 0, stopped := 0 }
  | .matrix _ => c.seqFault i.eng i.pos syn addr
  | .copy _ => c.seqFault i.eng i.pos syn addr

/-- R8, R109, R362, R368: what a stop does to the machine as it stood before the instruction: a precise trap, a SEQUENCER trap, a page
fault, poison's kill, or nothing. -/
def Chip.stopAt (c : Chip) (i : Issue) (st : Stop) : Except Nat Chip :=
  match st with
  | .absent off => .error off
  | .wait => .ok c
  | .park c' => .ok c'
  | .page a k l op lane => .ok (c.pageFault i.eng (partyOf i.eng i.lanes) a k l op i.pos none lane)
  | .trap syn lane addr mask => .ok (c.trapFor i syn lane addr mask)
  | .trapOn c' syn lane addr mask => .ok (c'.trapFor i syn lane addr mask)

/-- A meaning on the compute side, run for the issue in progress: its chip, or what its stop makes of the chip before it. With no issue
in progress nothing issues. -/
def runIssue (s : State) (f : Issue → Chip → Except Stop Chip) : Host.Outcome State Fault Refusal :=
  match s.chip.cur with
  | none => .next s
  | some i =>
    match f i s.chip with
    | .ok c => .next { s with chip := c }
    | .error st =>
      match s.chip.stopAt i st with
      | .ok c => .next { s with chip := c }
      | .error off => .fault (.reservedOffset off)

/-- A step of a unit on the compute side. -/
def runChip (s : State) (f : Chip → Chip) : Host.Outcome State Fault Refusal := .next { s with chip := f s.chip }

/-- R39, R40: the position after word `p.idx` of a clause with header `h`: the next word, or the next clause address. -/
def Pos.after (p : Pos) (h : Header) : Pos :=
  if p.idx < h.count.toNat then { p with idx := p.idx + 1 }
  else { addr := p.addr + dw (8 * (h.count.toNat + 2)), idx := 0, entered := false }

/-- The position of a clause address. -/
def Pos.at (a : DWord) : Pos := { addr := a, idx := 0, entered := false }

/-- The lane set of a warp, or the stream, moves past its word; a wait it held ends. -/
def Chip.advance (c : Chip) (i : Issue) : Chip :=
  match i.eng with
  | .warp n s =>
    match c.warp n s with
    | none => c
    | some w => c.setWarp n s (some (w.onLanes i.lanes (fun _ l => { l with pos := i.pos.after i.hdr, wait := none })))
  | .matrix _ => c.modStream i.eng (fun s => { s with pos := i.pos.after i.hdr, wait := none })
  | .copy _ => c.modStream i.eng (fun s => { s with pos := i.pos.after i.hdr, wait := none })

/-- R44: the flag that an FSEL selects in a clause. -/
def flagOf (h : Header) (fsel : Nat) : Option Nat :=
  if fsel = 1 && h.setaEn then some h.seta.toNat else if fsel = 2 && h.setbEn then some h.setb.toNat else none

/-- R45: the flag of a format without FSEL. -/
def flagSeta (h : Header) : Option Nat := if h.setaEn then some h.seta.toNat else none

/-- R42: whether raising a flag would take it above 63. -/
def Chip.flagFull (c : Chip) (e : Eng) (flag : Option Nat) : Bool :=
  match flag with
  | none => false
  | some f => 63 ≤ cfGet (c.flags e) f

/-- R42-R44: a long-latency operation is issued: its flag rises, or its lane set or stream waits for it; the word is passed. -/
def Chip.issueOp (c : Chip) (i : Issue) (o : Op) : Chip :=
  let o1 := { o with id := c.nextOp, eng := i.eng, mask := i.lanes, pos := i.pos, gang := c.gangOf i.eng }
  let c1 := { c with ops := c.ops ++ [o1], nextOp := c.nextOp + 1 }
  let c2 := c1.advance i
  match o.flag with
  | some f => c2.modFlags i.eng (fun cf => cfUp cf f)
  | none =>
    match i.eng with
    | .warp n s =>
      match c2.warp n s with
      | none => c2
      | some w => c2.setWarp n s (some (w.onLanes i.lanes (fun _ l => { l with sync := some c.nextOp })))
    | .matrix _ => c2.modStream i.eng (fun s => { s with sync := some c.nextOp })
    | .copy _ => c2.modStream i.eng (fun s => { s with sync := some c.nextOp })

/-- An operation with nothing left to do. R357: sweeps, queue operations, GIVE, TAKE, RELB and TRIG are predicted long; for other accesses to
memory their meanings say. -/
def Op.blank (code : Nat) (flag : Option Nat) (cid : DWord) : Op :=
  { id := 0, eng := .matrix 0, mask := 0, flag := flag, code := code, pos := Pos.zero, gang := 0, writes := [], uwrites := [],
    qwrite := none, kwrite := none, fail := none, hold := false, cid := cid, late := none, race := none, src := [], acq := 0,
    long := (0x60 ≤ code && code ≤ 0x66) || (0x8C ≤ code && code ≤ 0x90) || code = 0x92, moved := false }

/-- R271: whether an opcode runs in the array unit of a matrix engine. -/
def isArrayOp (op : Nat) : Bool := 0xC3 ≤ op && op ≤ 0xCB

/-- R271: operations of a core's matrix engine for the gang its stream belongs to. -/
def Chip.matOps (c : Chip) (core : Nat) (p : Op → Bool) : Bool :=
  c.ops.any (fun o => o.eng == .matrix core && o.gang == (c.core core).mat.s.gang && p o)

/-- R288, R289: whether an `MMAS` of a core is running. -/
def Chip.mmasBusy (c : Chip) (core : Nat) : Bool :=
  match (c.core core).mat.mmas with
  | none => false
  | some m => c.matOps core (fun o => o.id == m.op)

/-- R275, R279: SR.MPRG.STATE as its stream and the operations of its array unit have it; a stopped stream keeps its 3. -/
def Chip.matSettle (c : Chip) (core : Nat) : Chip :=
  let m := (c.core core).mat
  if m.s.st = 2 then c
  else
    let st := if m.post.isSome then 2
      else if c.matOps core (fun o => isArrayOp o.code) then 1
      else if m.s.st = 3 && !c.matOps core (fun _ => true) then 4
      else 0
    c.setMat core { m with prgState := st }

/-- R289, R366: the record of an `MMAS` that failed is kept only for a stream that is resumed at that word. -/
def Chip.keepMmas (c : Chip) (core : Nat) : Chip :=
  let m := (c.core core).mat
  match m.mmas with
  | none => c
  | some r => if c.mmasBusy core || (m.s.st = 1 && m.s.pos == r.pos) then c else c.setMat core { m with mmas := none }

/-- R366: an end or a resumption of the stream that a trap stopped. -/
def Chip.resumeStream (c : Chip) (core : Nat) (t : TrapRegs) : Chip :=
  if t.stopped = 0 then c
  else
    let e : Eng := if t.stopped = 1 then .matrix core else .copy core
    let c1 := c.modStream e (fun s =>
      if t.abandon then { s with st := 3, sync := none, wait := none }
      else { s with st := 1, pos := { addr := t.pc, idx := if t.ent then t.idx.toNat else 0, entered := t.ent }, hdr := none })
    if t.stopped = 1 then (c1.keepMmas core).matSettle core else c1

/-- R366: the return from a trap, once every live lane stands at an RFT: the trapping lanes resume at the trap registers' position, the
others at their saved positions, and handler mode ends. `h` is the header at the trap registers' position, where it has been fetched. -/
def Chip.trapReturn (c : Chip) (core slot : Nat) (h : Option Header) : Chip :=
  match c.warp core slot with
  | none => c
  | some w =>
    let back : Pos := { addr := w.tr.pc, idx := if w.tr.ent then w.tr.idx.toNat else 0, entered := w.tr.ent }
    let lanes := mapLanes w.live (fun k l =>
      if !w.tr.posted && w.tr.mask0.getLsbD k then { l with pos := back, hdr := h, wait := none, sync := none, held := none }
      else { l with pos := l.saved, hdr := l.savedHdr, wait := none, sync := l.held, held := none }) 0 w.lanes
    (c.setWarp core slot (some { w with lanes := lanes, handler := false, tr := { w.tr with stopped := 0 } })).resumeStream
      core w.tr

end Sys2Proof.Machine
end

