-- ==== Sys2Proof/Machine/Slices.lean ====
section
/-! DEFINITION. Home slices: which slice homes a line, the stream detectors, present, resident and staged lines, the statistics (R92-R94,
R123, R124, R126-R129). A physical address is tier * 2^64 + address. -/

namespace Sys2Proof.Machine

open Sys2Proof

/-- The tier of a physical address. -/
def tierOf (pa : Nat) : Nat := pa / 2 ^ 64

/-- R123, R124: the home slice of a physical address, as die * 32 + slice. -/
def Chip.home (c : Chip) (pa : Nat) : Nat :=
  let a := pa % 2 ^ 42
  let g := a / 2 ^ 13
  let s := (g ^^^ g / 2 ^ 5 ^^^ g / 2 ^ 10 ^^^ g / 2 ^ 15 ^^^ g / 2 ^ 20) % 32 ^^^ bitsAt g 25 4
  let d := if tierOf pa < 2 then (if a < 0x6000000000 || (0x10000000000 ≤ a && a < 0x13E00000000) then 0 else 1) else g % 2
  if c.fuse.noSlices.contains (d * 32 + s) then d * 32 + (s ^^^ 16) else d * 32 + s

/-- The line of a physical address. -/
def lineOf (pa : Nat) : Nat := pa / 64 * 64

/-- A counter of a slice raised by one (R129): 1 SLHIT to 7 SLNOENT. -/
def Chip.stat (c : Chip) (slice k : Nat) : Chip := { c with stats := aput 0 c.stats (slice * 8 + k) (aget 0 c.stats (slice * 8 + k) + 1) }

/-- R127: a requester's detector after a request for a line: whether its run marks the request, and the entries; an entry without a request for
1,024 cycles is gone. DESIGN CHOICE (log 84): the request that brings its entry's run to 16 is marked itself. -/
def detect (cyc line : Nat) (es : List StreamEntry) : Bool × List StreamEntry :=
  let live := es.filter (fun e => cyc < e.last + 1024)
  match live.find? (fun e => e.next == line) with
  | some e => (16 ≤ e.run + 1, live.filter (fun x => x.next != line) ++ [{ next := line + 64, run := e.run + 1, last := cyc }])
  | none => (false, (if 8 ≤ live.length then live.drop 1 else live) ++ [{ next := line + 64, run := 1, last := cyc }])

/-- R127: a request of a requester for a line noted in its detector: whether its run marks it. -/
def Chip.detected (c : Chip) (requester line : Nat) : Bool × Chip :=
  let (mark, es) := detect c.cycle line (aget [] c.detectors requester)
  (mark, { c with detectors := aput [] c.detectors requester es })

/-- R94: resident lines of a slice. -/
def Chip.residentCount (c : Chip) (s : Nat) : Nat := (c.dir.filter (fun l => l.slice == s && l.resident)).length

/-- A slice's line without another's place: the lines of a slice but one. -/
def dirDrop (s line : Nat) (d : List SliceLine) : List SliceLine := d.filter (fun l => !(l.slice == s && l.line == line))

/-- R126: a line allocates in its slice. Where the sixteen ways of its set are taken, the least recently used line that is not resident makes
room; with sixteen resident ones a resident line takes the place of the least recently used, and another is not allocated. -/
def Chip.sliceAlloc (c : Chip) (s line : Nat) (res : Bool) : Chip :=
  let set := c.dir.filter (fun l => l.slice == s && Sys2Proof.Config.sliceSet l.line == Sys2Proof.Config.sliceSet line)
  let new : SliceLine := { slice := s, line := line, resident := res }
  if set.length < 16 then { c with dir := c.dir ++ [new] }
  else
    match set.find? (fun l => !l.resident) with
    | some v => { c with dir := dirDrop s v.line c.dir ++ [new] }
    | none => if res then { c with dir := dirDrop s ((set.map (fun l => l.line)).headD 0) c.dir ++ [new] } else c

/-- R92-R94, R129: a line read from memory allocates as its POLICY says; a resident allocation beyond the limit falls back. DESIGN CHOICE (log 84):
at the limit it falls back also where it would take the place of a resident line of its set, and then nothing is allocated. -/
def Chip.sliceFill (c : Chip) (s line pol : Nat) : Chip :=
  if pol != 2 then c.sliceAlloc s line false
  else if c.residentCount s < 16384 then c.sliceAlloc s line true
  else (c.stat s 4).sliceAlloc s line false

/-- R93: the POLICY under which a tier's lines are requested. -/
def policyOf (line pol : Nat) : Nat := if tierOf line = 1 && (pol = 1 || pol = 2) then 0 else pol

/-- R132: whether a multicast entry is open. -/
def McEntry.isOpen (e : McEntry) (cyc : Nat) : Bool := !e.closed && cyc < e.opened + 2800

/-- The open multicast entry of a line, where its home has one (R132). -/
def Chip.openEntry (c : Chip) (s line : Nat) : Option McEntry :=
  c.mc.find? (fun e => e.slice == s && e.line == line && e.isOpen c.cycle)

/-- R126: whether a line is present in its slice. -/
def Chip.present (c : Chip) (s line : Nat) : Bool := c.dir.any (fun l => l.slice == s && l.line == line)

/-- R128: whether a line is in its slice's staging buffer. -/
def Chip.inStaging (c : Chip) (s line : Nat) : Bool :=
  c.staged.any (fun l => l.slice == s && l.line == line) || (c.openEntry s line).isSome

/-- A present line served: a hit, and the most recently used. -/
def Chip.sliceHit (c : Chip) (s line : Nat) : Chip :=
  let c1 := c.stat s 1
  { c1 with dir := dirDrop s line c1.dir ++ c1.dir.filter (fun l => l.slice == s && l.line == line) }

/-- R128: whether a slice's input holds a new no-allocate request for a line back: its half of the staging buffer is full, or another request has
waited longer. -/
def Chip.inputHeld (c : Chip) (s requester line : Nat) : Bool :=
  512 ≤ (c.staged.filter (fun l => l.slice == s)).length
    || (match c.sliceWaits.find? (fun w => w.slice == s) with
      | some w => !(w.requester == requester && w.line == line)
      | none => false)

/-- R128: a request waits at a slice's input, in its place in the order of arrival. -/
def Chip.waitSlice (c : Chip) (line requester : Nat) : Chip :=
  let s := c.home line
  let mine (w : SliceWait) : Bool := w.slice == s && w.requester == requester && w.line == line
  if c.sliceWaits.any mine then { c with sliceWaits := c.sliceWaits.map (fun (w : SliceWait) => if mine w then { w with asked := c.cycle } else w) }
  else { c with sliceWaits := c.sliceWaits ++ [{ slice := s, requester := requester, line := line, asked := c.cycle }] }

/-- R128: a request that has been served waits no more. -/
def Chip.unwait (c : Chip) (s requester line : Nat) : Chip :=
  { c with sliceWaits := c.sliceWaits.filter (fun w => !(w.slice == s && w.requester == requester && w.line == line)) }

/-- R128: a line that passes through its slice's staging buffer without allocation. -/
def Chip.stage (c : Chip) (s requester line : Nat) : Chip :=
  { (c.stat s 3).unwait s requester line with staged := c.staged ++ [{ slice := s, line := line }] }

/-- R128: the staging buffers once their lines have left: of each slice the first 512 go, and those behind them, which waited at its input,
follow in their order. -/
def stagedAfter : List StagedLine → (Nat → Nat) → List StagedLine
  | [], _ => []
  | l :: ls, left =>
    if left l.slice = 0 then l :: stagedAfter ls left
    else stagedAfter ls (fun s => if s = l.slice then left s - 1 else left s)

/-- R92-R94, R126-R129: a requester's read of a line under a POLICY at its home slice; none where it must wait at the slice's input, which
one that does not wait (`waits` false) does in the staging buffer's order alone. R386: a slice whose trace buffer is full serves none that waits. -/
def Chip.sliceServe (c : Chip) (requester line pol : Nat) (waits : Bool) : Option Chip :=
  let (mark, c1) := c.detected requester line
  if 2 ≤ tierOf line then some c1
  else
    let s := c.home line
    let p := policyOf line pol
    if waits && c.traceFull (0xC40 + s) then none
    else if c.present s line then some ((c1.unwait s requester line).sliceHit s line)
    else if c.inStaging s line then some ((c1.unwait s requester line).stat s 1)
    else if p = 1 || (mark && p != 2) then
      if waits && c.inputHeld s requester line then none else some ((c1.stat s 2).stage s requester line)
    else some (((c1.unwait s requester line).stat s 2).sliceFill s line p)

/-- A read by a requester that waits where it must. -/
def Chip.sliceRead (c : Chip) (requester line pol : Nat) : Option Chip := c.sliceServe requester line pol true

/-- A read whose requester does not wait: a host or fabric port's, a unit's. -/
def Chip.sliceTouch (c : Chip) (requester line pol : Nat) : Chip := (c.sliceServe requester line pol false).getD c

/-- R92-R94, R126-R129: a write of a line, all of it or part, under a POLICY at its home slice, noted by the detector of a requester that has one. A
partial write of an absent line reads the line from memory; a no-allocate write passes through the staging buffer. -/
def Chip.sliceWrite (c : Chip) (requester : Option Nat) (line pol : Nat) (full : Bool) : Chip :=
  let (mark, c0) := match requester with
    | none => (false, c)
    | some r => c.detected r line
  if 2 ≤ tierOf line then c0
  else
    let s := c.home line
    if c.present s line then c0.sliceHit s line
    else if c.staged.any (fun l => l.slice == s && l.line == line) then c0.stat s 1
    else
      let c1 := if full then c0 else c0.stat s 2
      if pol = 1 || (mark && pol != 2) then c1.stage s (requester.getD 0) line else c1.sliceFill s line pol

/-- R97, R129: the part's read of an entry of a translation table at its home slice. -/
def Chip.tableTouch (c : Chip) (off : Nat) : Chip :=
  let line := lineOf off
  let s := c.home line
  if c.present s line then c.sliceHit s line
  else if c.inStaging s line then c.stat s 1
  else (c.stat s 2).sliceFill s line 0

end Sys2Proof.Machine
end

