-- ==== Sys2Proof/Machine/Xlate.lean ====
section
/-! DEFINITION. Addresses and translation: canonical addresses, the four-level walk, translation caches, page permissions, frame zeroing
(R91-R102, R108, R119). -/

namespace Sys2Proof.Machine

open Sys2Proof

/-- Why a translation or a fetch fails: a trap class and reason, a page fault at a level, an offset without memory, a line at a peer device
that is still to be read, a line that its slice holds (R118). -/
inductive XErr where
  | trap (cls reason : Nat)
  | fault (level : Nat)
  | absent (offset : Nat)
  | peer (pa : Nat)
  | held
deriving DecidableEq, Repr

/-- Kinds of access (R112). -/
inductive Acc where
  | read | write | atomic | fetch | cas
deriving DecidableEq, Repr

/-- R112: the kind code of a fault record. -/
def Acc.code : Acc → Nat
  | .read => 0
  | .write => 1
  | .atomic => 2
  | .fetch => 3
  | .cas => 2

/-- Write-type accesses (R99). -/
def Acc.writes : Acc → Bool
  | .read => false
  | .write => true
  | .atomic => true
  | .fetch => false
  | .cas => true

/-- R100: accesses that certainly dirty the page; a comparison that fails writes nothing. -/
def Acc.dirties : Acc → Bool
  | .read => false
  | .write => true
  | .atomic => true
  | .fetch => false
  | .cas => false

/-- R95. -/
def canonical (va : Nat) : Bool := va / 2 ^ 57 % 128 == (if va / 2 ^ 56 % 2 = 1 then 127 else 0)

/-- `n` bytes of device memory at an offset. -/
def Chip.rdMem (c : Chip) (off n : Nat) : Nat := natOfBytes (agetN 0 c.mem off n)
/-- `n` bytes of device memory written. -/
def Chip.wrMem (c : Chip) (off n v : Nat) : Chip :=
  { c with mem := aputN 0 c.mem off (bytesOf n v), mc := closeEntries off (off + n) c.mc }

/-- R101: the root table of a context tag; none where its entry is invalid or malformed. -/
def Chip.ctxRoot (c : Chip) (tag : Nat) : Option Nat :=
  let base := c.priv.ctxtab.toNat / 2 ^ 20 * 2 ^ 20 % 2 ^ 42
  let lo := c.rdMem (base + 16 * tag) 8
  if lo % 2 = 1 && c.rdMem (base + 16 * tag + 8) 8 == 0 && bitsAt lo 1 13 == 0 && lo / 2 ^ 42 == 0 && tag != 0xFFFF then
    some (lo / 2 ^ 14 * 2 ^ 14) else none

/-- R97: the levels of a walk: number, lowest index bit, index bits. -/
def walkLevels : List (Nat × Nat × Nat) := [(3, 46, 11), (2, 36, 10), (1, 26, 10), (0, 16, 10)]

/-- R98, R99: whether a leaf at a level (lowest index bit `lo`) is malformed. -/
def leafBad (lvl lo e : Nat) : Bool :=
  let tier := bitsAt e 6 2
  lvl == 3 || bitsAt e 10 6 != 0 || e / 2 ^ 16 * 2 ^ 16 % 2 ^ lo != 0
    || (tier < 2 && e / 2 ^ 42 != 0) || (tier == 2 && e / 2 ^ 58 != 0) || (tier == 1 && bitsAt e 2 1 == 1)

/-- R97-R99: the walk from a table: the leaf, its level, its lowest index bit and the offset of its entry. -/
def Chip.walk (c : Chip) (va : Nat) : Nat → List (Nat × Nat × Nat) → Except XErr (Nat × Nat × Nat × Nat)
  | _, [] => .error (.trap 5 3)
  | table, (lvl, lo, n) :: rest =>
    let at_ := table + 8 * bitsAt va lo n
    let e := c.rdMem at_ 8
    if e % 2 = 0 then .error (.fault lvl)
    else if bitsAt e 1 1 = 1 then (if leafBad lvl lo e then .error (.trap 5 3) else .ok (e, lvl, lo, at_))
    else if lvl = 0 || bitsAt e 10 3 != 0 || e / 2 ^ 42 != 0 then .error (.trap 5 3)
    else Chip.walk c va (e / 2 ^ 13 * 2 ^ 13) rest

/-- R97, R129: the table entries that a walk reads, through their home slices. -/
def Chip.walkTouch (c : Chip) (va : Nat) : Nat → List (Nat × Nat × Nat) → Chip
  | _, [] => c
  | table, (lvl, lo, n) :: rest =>
    let at_ := table + 8 * bitsAt va lo n
    let e := c.rdMem at_ 8
    if e % 2 = 0 || bitsAt e 1 1 = 1 || lvl = 0 || bitsAt e 10 3 != 0 || e / 2 ^ 42 != 0 then c.tableTouch at_
    else (c.tableTouch at_).walkTouch va (e / 2 ^ 13 * 2 ^ 13) rest

/-- The lowest index bit of a level (R97). -/
def levelBit (lvl : Nat) : Nat := 16 + 10 * lvl

/-- R108: a translation cache's entry for an address. -/
def tlbFind (t : List TlbEntry) (tag va : Nat) : Option TlbEntry :=
  t.find? (fun e => e.tag == tag && e.page == va / 2 ^ levelBit e.level)

/-- R96: whether a local offset lies in the weight tier. -/
def weightOffset (off : Nat) : Bool := 0x10000000000 ≤ off && off < 0x17C00000000

/-- R98: the physical address of an address under a leaf. DESIGN CHOICE (log 13): local memory is of the tier in which the offset lies, also
where the leaf's TIER names the other. -/
def leafAddr (leaf lo va : Nat) : Nat :=
  let tier := bitsAt leaf 6 2
  let w := if tier < 2 then 42 else if tier = 2 then 58 else 64
  let a := leaf % 2 ^ w / 2 ^ lo * 2 ^ lo + va % 2 ^ lo
  (if 2 ≤ tier then tier else if weightOffset a then 1 else 0) * 2 ^ 64 + a

/-- R96: whether memory stands at a local offset. -/
def offsetExists (off : Nat) : Bool := off < 0xC000000000 || weightOffset off

/-- R91, R93, R99: the permission a leaf refuses for an access at `pa`, as the PROTECTION reason; R92: `pol` is the record's POLICY. DESIGN
CHOICE (log 14): where several hold, the lowest reason is reported. -/
def permBad (leaf pa : Nat) (a : Acc) (pol : Nat) : Option Nat :=
  let tier := bitsAt leaf 6 2
  if a.writes && (tier == 1 || tierOf pa == 1) then some 1
  else if a.writes && bitsAt leaf 2 1 == 0 then some 3
  else if a == .fetch && bitsAt leaf 3 1 == 0 then some 4
  else if pol == 3 && tier != 1 then some 5
  else none

/-- Entries of a byte map outside a range of keys. -/
def eraseRange {α : Type} (lo hi : Nat) (m : AMap α) : AMap α := m.filter (fun p => p.1 < lo || hi ≤ p.1)

/-- R119: the owner tag of no context. -/
def noOwner : Nat := 65536

/-- R119: whether a frame's owner is a context of which a killed gang's retire markers are still to come. -/
def Chip.frameHeld (c : Chip) (off tag : Nat) : Bool :=
  let o := aget noOwner c.owner (off / 65536)
  o != tag && o != 0xFFFF && c.kills.any (fun k => c.tagOf k.gang == o)

/-- R119: a context's access to an HBM frame: a frame of another owner is zeroed and changes owner; shared frames stay. -/
def Chip.claimFrame (c : Chip) (off tag : Nat) : Chip :=
  let f := off / 65536
  let o := aget noOwner c.owner f
  if o = tag || o = 0xFFFF then c
  else { c with mc := closeEntries (f * 65536) ((f + 1) * 65536) c.mc,
                mem := eraseRange (f * 65536) ((f + 1) * 65536) c.mem,
                pois := eraseRange (f * 65536) ((f + 1) * 65536) c.pois,
                owner := aput noOwner c.owner f tag }

/-- R100: an accessed or dirty bit set in an entry by an atomic OR. -/
def Chip.orEntry (c : Chip) (at_ bit : Nat) : Chip :=
  if (c.rdMem at_ 1).testBit bit then c else c.wrMem at_ 1 (c.rdMem at_ 1 + 2 ^ bit)

/-- R95-R100, R108, R119: the translation of an address under a context, through a core's translation cache. DESIGN CHOICE (log 84): a full cache
replaces the leaf that it entered first. -/
def Chip.xlate (c : Chip) (core tag va : Nat) (a : Acc) (pol : Nat) : Except XErr (Nat × Chip) :=
  if !canonical va then .error (.trap 5 1)
  else
    let k := c.core core
    let found : Except XErr (TlbEntry × Chip) :=
      match tlbFind k.tlb tag va with
      | some e => .ok (e, c)
      | none =>
        match c.ctxRoot tag with
        | none => .error (.trap 5 4)
        | some root =>
          match c.walk va root walkLevels with
          | .error e => .error e
          | .ok (leaf, lvl, _, at_) =>
            let e : TlbEntry := { tag := tag, level := lvl, page := va / 2 ^ levelBit lvl, leaf := dw leaf, entryAt := at_ }
            let t := if 512 ≤ k.tlb.length then k.tlb.drop 1 else k.tlb
            .ok (e, (((c.walkTouch va root walkLevels).setCore core { k with tlb := t ++ [e] }).orEntry at_ 4))
    match found with
    | .error e => .error e
    | .ok (e, c1) =>
      let pa := leafAddr e.leaf.toNat (levelBit e.level) va
      match permBad e.leaf.toNat pa a pol with
      | some r => .error (.trap 6 r)
      | none =>
        let c2 := if a.dirties then c1.orEntry e.entryAt 5 else c1
        if tierOf pa < 2 then
          let off := pa % 2 ^ 64
          if !offsetExists off then .error (.absent off)
          else if tierOf pa = 0 && c.frameHeld off tag then .error .held
          else if tierOf pa = 0 then .ok (pa, c2.claimFrame off tag) else .ok (pa, c2)
        else .ok (pa, c2)

/-- R100: the dirty bit of a page whose bytes under a mask have just been written, through the entry its access used. -/
def Chip.dirtied (c : Chip) (core tag va : Nat) (m : BitVec 64) : Chip :=
  if m = 0 then c
  else match tlbFind (c.core core).tlb tag va with
    | some e => c.orEntry e.entryAt 5
    | none =>
      match c.ctxRoot tag with
      | none => c
      | some root =>
        match c.walk va root walkLevels with
        | .error _ => c
        | .ok (_, _, _, at_) => c.orEntry at_ 5

/-- A translation failure as a stop: `op` the opcode, `addr` what TR.ADDR holds. -/
def XErr.stop (e : XErr) (i : Issue) (op lane addr paddr : Nat) (a : Acc) : Stop :=
  match e with
  | .trap cls r => laneTrapAt i (syndrome cls (opReason op r)) lane (if cls = 6 then paddr else addr)
  | .fault lvl => .page addr a.code lvl op lane
  | .absent off => .absent off
  | .peer _ => .wait
  | .held => .wait
where
  laneTrapAt (i : Issue) (syn lane addr : Nat) : Stop := .trap syn lane addr i.lanes

end Sys2Proof.Machine
end

