-- ==== Sys2Proof/Machine/Cache.lean ====
section
/-! DEFINITION. Lines: their bytes at home, intents and the reader filter, the L1 of a core, requests to peers, releases and acquires (R115,
R118, R143, R219-R224, R300-R305, R351). -/

namespace Sys2Proof.Machine

open Sys2Proof

/-- A 512-bit line of 64 bytes. -/
def lineBits (bs : List Byte) : BitVec 512 := BitVec.ofNat 512 (natOfBytes bs)

/-- Byte `i` of a line. -/
def lineByte (d : BitVec 512) (i : Nat) : Byte := d.extractLsb' (8 * i) 8

/-- The bytes of `new` where the mask has ones, of `old` elsewhere, as a number, from byte `i` on. -/
def mergeFrom (mask old new : Nat) : Nat → Nat → Nat
  | 0, _ => 0
  | n + 1, i => (if mask.testBit i then new / 2 ^ (8 * i) % 256 else old / 2 ^ (8 * i) % 256) + 256 * mergeFrom mask old new n (i + 1)

/-- The bytes of `new` where the mask has ones, of `old` elsewhere. -/
def merge (mask : BitVec 64) (old new : BitVec 512) : BitVec 512 := BitVec.ofNat 512 (mergeFrom mask.toNat old.toNat new.toNat 64 0)

/-- The bytes of a line at its memory. -/
def Chip.homeBytes (c : Chip) (line : Nat) : BitVec 512 :=
  if tierOf line = 2 then lineBits (agetN 0 c.hostMem (line % 2 ^ 64) 64) else lineBits (agetN 0 c.mem (line % 2 ^ 64) 64)

/-- R115: whether a line is marked. -/
def Chip.linePois (c : Chip) (line : Nat) : Bool := tierOf line < 2 && aget false c.pois (line % 2 ^ 64)

/-- Masked bytes written into a byte map. -/
def writeMasked (mask : Nat) (d : BitVec 512) (base : Nat) : Nat → Nat → AMap Byte → AMap Byte
  | 0, _, m => m
  | n + 1, i, m => writeMasked mask d base n (i + 1) (if mask.testBit i then aput 0 m (base + i) (lineByte d i) else m)

/-- R351: the ring whose control block is a line. -/
def Chip.ringAt (c : Chip) (line : Nat) : Option Nat :=
  if tierOf line != 0 then none else (c.rings.find? (fun r => r.2.cb == line)).map (fun r => r.1)

/-- R351: a ring is woken, one TAIL write counted as stale or discarded. -/
def Chip.tailStale (c : Chip) (r : Nat) : Chip :=
  let k := aget Ring.zero c.rings r
  { c with rings := aput Ring.zero c.rings r { k with stale := k.stale + 1, awake := true } }

/-- R352: a ring is woken. -/
def Chip.wakeRing (c : Chip) (r : Nat) : Chip :=
  let k := aget Ring.zero c.rings r
  { c with rings := aput Ring.zero c.rings r { k with awake := true } }

/-- R133: the multicast entries of a line close. -/
def closeLine (line : Nat) (l : List McEntry) : List McEntry := l.map (fun e => if e.line == line then { e with closed := true } else e)

/-- A masked write of a line at its home (R115, R133, R143, R155, R351): a full-line write clears or sets the line's mark, an open multicast
entry closes, bytes of a ring's TAIL are discarded, host lines leave through the host port, with the writing operation's causal ID (R403). -/
def Chip.homeWrite (c : Chip) (line : Nat) (mask : BitVec 64) (d : BitVec 512) (pois : Bool) (cid : Option DWord := none) : Chip :=
  if mask = 0 then c
  else
    let off := line % 2 ^ 64
    if tierOf line = 2 then
      { c with hostMem := writeMasked mask.toNat d off 64 0 c.hostMem,
               hostOut := c.hostOut ++ (lanesOf mask).map (fun i => .outWrite (off + i) [lineByte d i] cid) }
    else
      let tail : BitVec 64 := 0xFF0000#64
      match c.ringAt line with
      | some r =>
        let c1 : Chip := { c with mem := writeMasked (mask &&& ~~~tail).toNat d off 64 0 c.mem, mc := closeLine line c.mc }
        if mask &&& tail = 0 then c1
        else (c1.tailStale r).emitUnit 0 0x28 (dw (r * 2 ^ 58 + (d.toNat / 2 ^ 128) % 2 ^ 58)) cid
      | none =>
        { c with mem := writeMasked mask.toNat d off 64 0 c.mem,
                 pois := if mask = BitVec.allOnes 64 then aput false c.pois off pois
                   else if pois then aput false c.pois off true else c.pois,
                 mc := closeLine line c.mc }

/-- R297: whether a cover scope of an owner reaches a core. -/
def coverReaches (cover : Option Nat) (o : Owner) (core : Nat) : Bool :=
  match cover, o with
  | none, _ => false
  | some _, .remote _ => false
  | some sc, .core n => if sc = 3 then clusterOf n == clusterOf core else if sc = 4 then dieOf n == dieOf core else true
  | some sc, .dray n => if sc = 3 then clusterOf n == clusterOf core else if sc = 4 then dieOf n == dieOf core else true

/-- Whether an intent is another party's for the lanes of a core (R303, R304: a core's intents are those of its warps and its Dray). -/
def Owner.foreign (o : Owner) (core : Nat) : Bool :=
  match o with
  | .core n => n != core
  | .dray n => n != core
  | .remote _ => true

/-- R303: an intent that a lane access of a core to these bytes meets. -/
def Chip.meets (c : Chip) (core line : Nat) (mask : BitVec 64) : Option Intent :=
  c.intents.find? (fun t => t.line == line && (t.mask &&& mask) != 0 && t.owner.foreign core && !coverReaches t.cover t.owner core)

/-- R303, R382: the RACE record of a home slice, carrying the owner's causal ID. -/
def Chip.raceEvent (c : Chip) (line : Nat) (cid : DWord) (t : Intent) : Chip :=
  c.emit (0xC00 + 64 + c.home line) 0x40 cid t.cid 0

/-- R301: bytes of a line under another core's intents. -/
def foreignMask (core line : Nat) : List Intent → BitVec 64
  | [] => 0
  | t :: ts => (if t.line == line && t.owner.foreign core then t.mask else 0) ||| foreignMask core line ts

/-- An L1's line under a tag. -/
def l1Find (l : List L1Line) (line tag : Nat) : Option L1Line := l.find? (fun e => e.line == line && e.tag == tag)

/-- An L1 without a line. -/
def l1Drop (l : List L1Line) (line tag : Nat) : List L1Line := l.filter (fun e => !(e.line == line && e.tag == tag))

/-- The lines of an L1 after the clean bytes of one line are invalidated. -/
def cleanLines (line : Nat) (l : List L1Line) : List L1Line :=
  (l.map (fun e => if e.line == line then { e with valid := e.valid &&& e.dirty } else e)).filter (fun e => e.valid != 0)

/-- R302: the clean bytes of a line are invalidated in the L1s that a filter mask names. -/
def Chip.invalidate (c : Chip) (line : Nat) (mask : BitVec 16) : Chip :=
  { c with cores := c.cores.map (fun p =>
      if mask.getLsbD (p.1 / 32) then
        (p.1, { p.2 with l1 := cleanLines line p.2.l1 })
      else p) }

/-- R301: the filter's mask for a line. -/
def Chip.filterMask (c : Chip) (line : Nat) : BitVec 16 :=
  match c.filter.find? (fun f => f.line == line) with
  | some f => f.mask
  | none => 0

/-- R301: a fill sets the filler's bit; a full filter first evicts its least recently used entry. -/
def Chip.filterFill (c : Chip) (core line : Nat) : Chip :=
  let s := c.home line
  let bit : BitVec 16 := BitVec.ofNat 16 (2 ^ (core / 32))
  match c.filter.find? (fun f => f.line == line) with
  | some f => { c with filter := c.filter.filter (fun x => x.line != line) ++ [{ f with mask := f.mask ||| bit }] }
  | none =>
    let c1 := if (c.filter.filter (fun f => f.slice == s)).length < 65536 then c else
      match c.filter.find? (fun f => f.slice == s) with
      | some v => ({ c with filter := c.filter.filter (fun x => x.line != v.line) } : Chip).invalidate v.line v.mask
      | none => c
    { c1 with filter := c1.filter ++ [{ slice := s, line := line, mask := bit }] }

/-- R221, R300: an evicted or released line writes its dirty bytes to its home and widens its intent's mask. -/
def Chip.writeBack (c : Chip) (core : Nat) (e : L1Line) : Chip :=
  let c1 : Chip := { c with intents := c.intents.map (fun (t : Intent) =>
    if t.line == e.line && t.tag == e.tag && t.owner == .core core then { t with mask := t.mask ||| e.dirty } else t) }
  if e.dirty = 0 then c1 else (c1.sliceWrite none e.line e.pol (e.dirty == BitVec.allOnes 64)).homeWrite e.line e.dirty e.data e.pois

/-- R219, R221: room for one more line: the least recently used line of its set is evicted when the set is full. -/
def Chip.l1Room (c : Chip) (core line : Nat) : Chip :=
  let k := c.core core
  if k.l1.length < 16 then c
  else if (k.l1.filter (fun e => Sys2Proof.Config.l1Set e.line == Sys2Proof.Config.l1Set line)).length < 16 then c
  else match k.l1.find? (fun e => Sys2Proof.Config.l1Set e.line == Sys2Proof.Config.l1Set line) with
    | none => c
    | some v =>
      let c1 := c.writeBack core v
      c1.setCore core { c1.core core with l1 := l1Drop (c1.core core).l1 v.line v.tag }

/-- R219: a line put into the L1 as the most recently used. -/
def Chip.l1Put (c : Chip) (core : Nat) (e : L1Line) : Chip :=
  c.setCore core { c.core core with l1 := l1Drop (c.core core).l1 e.line e.tag ++ [e] }

/-- What a read of a line's bytes ends in. -/
inductive LineRead where
  | ok (d : BitVec 512) (pois : Bool) (c : Chip)
  | race (t : Intent)
  | held
  | peer
  | full

/-- R219: room for a line in the L1, where it is not there yet. -/
def Chip.l1For (c : Chip) (core line tag : Nat) : Chip :=
  if ((l1Find (c.core core).l1 line tag).isSome) then c else c.l1Room core line

/-- R118, R220, R222, R301, R303: a lane read of the bytes of `need` in a line: from the L1 where all are valid, else from the home, which
fills only bytes that are not dirty and lie under no other core's intent. -/
def Chip.lineRead (c : Chip) (core tag line : Nat) (need : BitVec 64) (priv : Bool) (pol : Nat) : LineRead :=
  let e := (l1Find (c.core core).l1 line tag).getD
    { line := line, tag := tag, valid := 0, dirty := 0, priv := priv, data := 0, pois := false, pol := pol }
  let e1 := { e with priv := e.priv && priv }
  if need &&& ~~~e.valid = 0 then .ok e.data e.pois (c.l1Put core e1)
  else if tierOf line = 3 then .peer
  else
    match c.meets core line (need &&& ~~~e.valid) with
    | some t => .race t
    | none =>
      if c.held.any (fun h => h.line == line && !h.expired) then .held
      else
        let bad := c.linePois line || c.held.any (fun h => h.line == line && h.expired)
        let d := merge e.dirty (c.homeBytes line) e.data
        match c.sliceRead core line pol with
        | none => .full
        | some c0 =>
          let c1 := (c0.l1For core line tag).filterFill core line
          .ok d (e.pois || bad) (c1.l1Put core { e1 with valid := e.dirty ||| ~~~(foreignMask core line c.intents), data := d,
                                                         pois := e.pois || bad })

/-- R304: intents held by a core and its Dray. -/
def Chip.intentCount (c : Chip) (core : Nat) : Nat :=
  ((c.intents.filter (fun t => !t.owner.foreign core)).map (fun t => (t.owner, t.tag, t.line))).eraseDups.length

/-- The dirty lines of an L1. -/
def Core.dirtyLines (k : Core) : List L1Line := k.l1.filter (fun e => e.dirty != 0)

/-- R302, step 2: the intents of other writers that a write-back of a line meets. -/
def Chip.overlaps (c : Chip) (own : Owner) (core line : Nat) (mask : BitVec 64) : List (Nat × Intent) :=
  (c.intents.filter (fun t => t.line == line && t.owner != own && (t.mask &&& mask) != 0 && !coverReaches t.cover t.owner core)).map
    (fun t => (line, t))

/-- R302, R303: every overlap found is recorded, with the causal ID of the release. -/
def Chip.recordRaces (c : Chip) (fresh : Chip → Chip × DWord) (rs : List (Nat × Intent)) : Chip :=
  if rs = [] then c
  else
    let (c1, id) := fresh c
    rs.foldl (fun (x : Chip) r => x.raceEvent r.1 id r.2) c1

/-- Bytes of lines as masks: those of one line. -/
def bytesKept (keep : List (Nat × BitVec 64)) (line : Nat) : BitVec 64 :=
  keep.foldl (fun (m : BitVec 64) k => if k.1 = line then m ||| k.2 else m) 0

/-- R296, R302: whether a release of an owner on a core covers an intent: its own, and another party's whose cover already reaches the core,
since that write may happen-before the release. DEDUCED (log 16). -/
def Chip.coveredBy (own : Owner) (core : Nat) (t : Intent) : Bool :=
  if t.owner = own then true else coverReaches t.cover t.owner core

/-- R163, R186: what a release leaves of an intent that it covers, but for the bytes in `keep`, which a command that is still running has written: an
intent of those bytes alone, and one of the released bytes under the scope where it does not end. -/
def Intent.released (t : Intent) (ends : Bool) (scope : Nat) (keep : BitVec 64) : List Intent :=
  let done := t.mask &&& ~~~keep
  let now : Intent := { t with mask := done, cover := some (max scope (t.cover.getD 0)) }
  (if t.mask &&& keep = 0 then [] else [{ t with mask := t.mask &&& keep }]) ++ (if ends || (done = 0 && t.mask != 0) then [] else [now])

/-- R300, R302, steps 3 and 4: the intents that a release covers are cleared (system scope; device scope but for lines that lanes have
written through, whose intents the system-scope release clears, R300, R305; `all` at an implicit release, R304) or take its scope as their cover; their lines' clean bytes are
invalidated in the readers' L1s. What is owed to peers is covered with them (R300). -/
def Chip.settle (c : Chip) (own : Owner) (core scope : Nat) (keep : List (Nat × BitVec 64)) (all : Bool) : Chip :=
  let cov (t : Intent) : Bool := Chip.coveredBy own core t
  let kept (t : Intent) : BitVec 64 := if t.owner = own then bytesKept keep t.line else 0
  let c1 := (c.intents.filter (fun t => cov t && t.mask &&& ~~~(kept t) != 0)).foldl (fun (d : Chip) t => d.invalidate t.line (d.filterMask t.line)) c
  let dray := match own with
    | .dray _ => true
    | .core _ => false
    | .remote _ => false
  let ends (t : Intent) : Bool := cov t && (6 ≤ scope || (scope == 5 && (tierOf t.line < 2 || (dray && t.owner == own))) || (all && t.owner == own))
  { c1 with
    intents := c1.intents.flatMap (fun (t : Intent) => if cov t then t.released (ends t) scope (kept t) else [t]),
    owed := c1.owed.map (fun (w : Owed) =>
      if w.owner = own || coverReaches w.cover w.owner core then { w with cover := some (max scope (w.cover.getD 0)) } else w) }

/-- The line of the first overlap found, for TR.ADDR (R303). -/
def firstLine (rs : List (Nat × Intent)) : Option Nat := rs.head?.map (fun r => r.1 % 2 ^ 64)

/-- R223, R302: a release at a scope by the lanes of a core: every dirty byte is written back and becomes clean; the chip and the line of an
overlap found. Scopes 0-2 do nothing. `fresh` gives the causal ID of the release. -/
def Chip.release (c : Chip) (core scope : Nat) (fresh : Chip → Chip × DWord) (all : Bool := false) : Chip × Option Nat :=
  if scope < 3 then (c, none)
  else
    let ds := (c.core core).dirtyLines
    let rs := ds.flatMap (fun e => c.overlaps (.core core) core e.line e.dirty)
    let c1 := ds.foldl (fun (d : Chip) e => d.writeBack core e) (c.recordRaces fresh rs)
    let c2 := c1.setCore core { c1.core core with l1 := (c1.core core).l1.map (fun e => { e with dirty := 0 }) }
    (c2.settle (.core core) core scope [] all, firstLine rs)

/-- R163, R186, R211, R305: the bytes that running commands of a core's Dray have written, one queue apart. -/
def Chip.drayOpen (c : Chip) (core : Nat) (but : Option Nat) : List (Nat × BitVec 64) :=
  (c.core core).dray.queues.flatMap (fun q => if but = some q.1 then [] else (match q.2.run with
    | none => []
    | some r => r.wrote))

/-- R305: a release by a core's Dray: the intents that no earlier release has covered are compared, then all are cleared or covered. -/
def Chip.releaseDray (c : Chip) (core scope : Nat) (keep : List (Nat × BitVec 64)) (fresh : Chip → Chip × DWord) (all : Bool := false) :
    Chip × Option Nat :=
  if scope < 3 then (c, none)
  else
    let rs := (c.intents.filter (fun t => t.owner == .dray core && t.cover.isNone)).flatMap (fun t =>
      c.overlaps (.dray core) core t.line (t.mask &&& ~~~(bytesKept keep t.line)))
    ((c.recordRaces fresh rs).settle (.dray core) core scope keep all, firstLine rs)

/-- Whether a request brings a peer's line into the L1 of a core. -/
def Remote.lineOf (r : Remote) (core : Nat) : Bool :=
  match r.who, r.kind with
  | .lanes n _ _, .read n' => n == core && n' == 64
  | .lanes n _ _, .prefetch => n == core
  | _, _ => false

/-- R224: an acquire by the lanes of a core: at cluster scope or wider, valid bytes that are not dirty are invalidated in every line
without the PRIVATE mark, and what peers' lines still under way will bring is stale. -/
def Chip.acquire (c : Chip) (core scope : Nat) : Chip :=
  if scope < 3 then c
  else
    let c1 := c.setCore core { c.core core with
      l1 := ((c.core core).l1.map (fun e => if e.priv then e else { e with valid := e.valid &&& e.dirty })).filter (fun e => e.valid != 0) }
    { c1 with remotes := c1.remotes.map (fun (r : Remote) => if r.lineOf core && !r.priv then { r with stale := true } else r) }

/-- The device a tier 3 address names, and the offset there (R98). -/
def peerOf (pa : Nat) : Nat × Nat := (pa % 2 ^ 64 / 2 ^ 42, pa % 2 ^ 42)

/-- R141, R143: a request to a peer device, offered to a port as a piece. -/
def Chip.ask (c : Chip) (pa : Nat) (kind : ReqKind) (who : Party) (op : Option Nat) (lane code tag cls bytes : Nat) (cid : DWord)
    (va : Nat := 0) (pos : Pos := Pos.zero) (priv : Bool := false) (flag : Bool := false) : Chip :=
  let r : Remote := { id := c.nextReq, dst := (peerOf pa).1, off := (peerOf pa).2, kind := kind, who := who, op := op, lane := lane,
                      opcode := code, tag := tag, refusals := 0, retryAt := none, byNs := 0, cid := cid, va := va,
                      pos := pos, cls := cls, bytes := bytes, stale := false, priv := priv, flag := flag }
  let p : Piece := { id := c.nextReq, dst := (peerOf pa).1, cls := cls, bytes := bytes, port := 0, req := c.nextReq, hintAt := none,
                     admitted := none }
  { c with remotes := c.remotes ++ [r], pieces := c.pieces ++ [p], nextReq := c.nextReq + 1 }

/-- Who holds the intents that an engine's release covers (R302). A matrix sequencer's own writes are in its banks (R297); its release covers
what its core's warps have written before it (R296). -/
def Eng.owner : Eng → Owner
  | .warp n _ => .core n
  | .matrix n => .core n
  | .copy n => .dray n

/-- Whether a request tells a peer of a release. -/
def isRelease : ReqKind → Bool
  | .release _ => true
  | _ => false

/-- R296, R300: the writers at peers that a release of an owner on a core covers there. -/
def Chip.owedBy (c : Chip) (own : Owner) (core : Nat) : List Owed :=
  c.owed.filter (fun w => w.owner == own || coverReaches w.cover w.owner core)

/-- R382: the engine identifier of an owner of intents. -/
def Owner.ident : Owner → Nat
  | .core n => n
  | .dray n => 0x800 + n
  | .remote n => n % 4096

/-- R223, R300, R302, R304, R305: a release is asked of every peer where a writer that it covers has left intents; those are the peers' to compare
and to clear. The request names the writer by its engine identifier, and the writers of this device whose intents a cover has already made
visible to the core, which are not compared. `id` is the operation that waits for the peers, where there is one. -/
def Chip.tellPeers (c : Chip) (own : Owner) (core : Nat) (who : Party) (op tag : Nat) (cid : DWord) (pos : Pos) (id : Option Nat := none) :
    Chip :=
  let told := c.owedBy own core
  told.foldl (fun (x : Chip) w =>
    x.ask (3 * 2 ^ 64 + w.dev * 2 ^ 42 + w.owner.ident) (.release ((told.filter (fun o => o.dev == w.dev && o.owner != w.owner)).map (fun o => o.owner.ident)))
      who id 0 op tag 0 0 cid 0 pos)
    { c with owed := c.owed.filter (fun w => !told.contains w) }

/-- R302 step 5: RACE 0x0002 posted to the releasing warp, naming its instruction, whose lane set stands at the word after it: it is taken
before that word issues. R303: TR.ADDR holds the line's address. DESIGN CHOICE (log 17): the slice knows the line by its physical address. -/
def Chip.postRace (c : Chip) (core slot : Nat) (op : Nat) (pos : Pos) (line : Nat) : Chip :=
  c.postTrap core slot { syn := BitVec.ofNat 32 (syndrome 8 (opReason op 2)), pos := pos, lane := 0, from_ := c.cycle, kind := 0, queue := 0,
                         addr := dw line, inner := 0, stopped := 0 }

/-- A release by an engine (R296, R302): by a lane set, or by the matrix stream for the writes that happen before it, of its core's L1, by a Dray
stream of its Dray's lines. The chip and the line of an overlap found. `cid` is the instruction's causal ID, where it has taken one. -/
def Chip.releaseBy (c : Chip) (e : Eng) (scope : Nat) (cid : Option DWord) : Chip × Option Nat :=
  let fresh (x : Chip) : Chip × DWord := match cid with
    | some id => (x, id)
    | none => x.nextCid e
  match e with
  | .warp n _ => c.release n scope fresh
  | .matrix n => c.release n scope fresh
  | .copy n => c.releaseDray n scope (c.drayOpen n none) fresh

/-- R302, step 5: an overlap is delivered once the releasing instruction has completed: posted to the releasing warp, or as a trap of the
stream, which stops after the instruction. -/
def Chip.overlapAt (c : Chip) (e : Eng) (op : Nat) (pos : Pos) (line : Option Nat) : Chip :=
  match line with
  | none => c
  | some l =>
    match e with
    | .warp n s => c.postRace n s op pos l
    | .matrix _ => c.seqFault e (c.stream e).pos (syndrome 8 (opReason op 2)) l
    | .copy _ => c.seqFault e (c.stream e).pos (syndrome 8 (opReason op 2)) l

/-- R302, step 5, of an instruction that stands completed as it issues. -/
def Chip.raceAfter (c : Chip) (line : Option Nat) (i : Issue) (op : Nat) : Chip := c.overlapAt i.eng op i.pos line

/-- Who performs a store or copy at the quota: its party, opcode, context tag, position, and the operation that it belongs to, where it has one. -/
structure Storer where
  who : Party
  op : Nat
  tag : Nat
  pos : Pos
  id : Option Nat
deriving DecidableEq, Repr

/-- R304: the implicit device-scope release that a store at the quota performs, counted in SR.ISTAT; the peers that the core's lanes and its Dray
have written to are told to clear their intents too. -/
def Chip.implicit (c : Chip) (core : Nat) (cid : DWord) (who : Storer) : Chip × Option Nat :=
  let (c1, r1) := c.release core 5 (fun x => (x, cid)) true
  let (c2, r2) := c1.releaseDray core 5 [] (fun x => (x, cid)) true
  let tell (own : Owner) (x : Chip) : Chip := x.tellPeers own core who.who who.op who.tag cid who.pos who.id
  let c3 := tell (.dray core) (tell (.core core) c2)
  (c3.setCore core { c3.core core with impl := (c3.core core).impl + 1 }, r1.or r2)

/-- R304: whether another intent of an owner on a core would exceed its quota. -/
def Chip.quotaFull (c : Chip) (own : Owner) (core tag line : Nat) : Bool :=
  !(c.intents.any (fun t => t.owner == own && t.tag == tag && t.line == line)) && 4096 ≤ c.intentCount core

/-- R300: a peer at which an owner writes a line, where its intent stands until a system-scope release has told it. -/
def Chip.owe (c : Chip) (own : Owner) (dev : Nat) : Chip :=
  if c.owed.any (fun w => w.owner == own && w.dev == dev) then c
  else { c with owed := c.owed ++ [{ owner := own, dev := dev, cover := none }] }

/-- R300, R305: an owner's intent for bytes of a line: registered, widened, or registered afresh where it carries a cover. `dirty` is the
mask of a fresh registration. -/
def Chip.intend (c : Chip) (own : Owner) (tag line : Nat) (mask dirty : BitVec 64) (cid : DWord) : Chip :=
  let mine (t : Intent) : Bool := t.owner == own && t.tag == tag && t.line == line
  if c.intents.any (fun t => mine t && t.cover.isNone) then
    { c with intents := (c.intents.filter (fun t => !(mine t && t.cover.isSome))).map (fun t =>
        if mine t then { t with mask := t.mask ||| mask, cid := cid } else t) }
  else if c.intents.any mine then
    { c with intents := c.intents.map (fun t => if mine t then { t with mask := dirty, cover := none, cid := cid } else t) }
  else { c with intents := c.intents ++ [{ owner := own, tag := tag, line := line, mask := dirty, cover := none, cid := cid,
                                                slot := none }] }

/-- R317: the warp whose store has widened intents under a causal ID. -/
def Chip.intendedBy (c : Chip) (slot : Nat) (cid : DWord) : Chip :=
  { c with intents := c.intents.map (fun (t : Intent) => if t.cid = cid then { t with slot := some slot } else t) }

/-- R220, R222: bytes that a write through leaves valid and clean in the L1, where the line is. -/
def Chip.l1Through (c : Chip) (core tag line : Nat) (mask : BitVec 64) (d : BitVec 512) (priv : Bool) : Chip :=
  match l1Find (c.core core).l1 line tag with
  | none => c
  | some e => c.l1Put core { e with valid := e.valid ||| mask, data := merge mask e.data d, priv := e.priv && priv }

/-- R222: bytes of a line that an atomic at a peer is about to change leave the L1. -/
def Chip.l1Forget (c : Chip) (core tag line : Nat) (mask : BitVec 64) (priv : Bool) : Chip :=
  match l1Find (c.core core).l1 line tag with
  | none => c
  | some e => c.setCore core { c.core core with l1 := (c.core core).l1.map (fun (x : L1Line) =>
      if x = e then { x with valid := x.valid &&& ~~~mask, priv := x.priv && priv } else x) }

/-- The bytes of a line that a request touches, as a mask. -/
def Remote.bytesIn (r : Remote) (line n : Nat) : BitVec 64 :=
  if r.dst != 2 ^ 22 && 3 * 2 ^ 64 + r.dst * 2 ^ 42 + r.off / 64 * 64 == line then BitVec.ofNat 64 ((2 ^ n - 1) * 2 ^ (r.off % 64)) else 0

/-- R222: the bytes of a peer's line that stores of a core's lanes have written and that the peer has not acknowledged. -/
def Chip.storing (c : Chip) (core line : Nat) : BitVec 64 :=
  c.remotes.foldl (fun (m : BitVec 64) r => match r.who, r.kind with
    | .lanes n _ _, .write bs _ => if n = core then m ||| r.bytesIn line bs.length else m
    | _, _ => m) 0

/-- R222, R307: the bytes of a peer's line that atomics of a core's lanes are to change and have not been answered. -/
def Chip.changing (c : Chip) (core line : Nat) : BitVec 64 :=
  c.remotes.foldl (fun (m : BitVec 64) r => match r.who, r.kind with
    | .lanes n _ _, .atomic _ w8 _ => if n = core then m ||| r.bytesIn line (if w8 then 8 else 4) else m
    | .lanes n _ _, .cas w8 _ _ => if n = core then m ||| r.bytesIn line (if w8 then 8 else 4) else m
    | _, _ => m) 0

/-- R222: what an atomic has left at a peer stays in the L1, where the line is: but for bytes that another atomic is still to change, which stay
invalid, and bytes that a store under way has written since. -/
def Chip.l1Late (c : Chip) (core tag line : Nat) (mask : BitVec 64) (d : BitVec 512) : Chip :=
  match l1Find (c.core core).l1 line tag with
  | none => c
  | some e =>
    let m := mask &&& ~~~(c.storing core line) &&& ~~~(c.changing core line)
    c.l1Put core { e with valid := e.valid ||| m, data := merge m e.data d }

/-- R219, R220, R222, R301: a line brought from a peer or from the host fills the bytes that are neither dirty, nor under another core's intent, nor
under a store or an atomic of the core that the peer has still to perform. -/
def Chip.fillLine (c : Chip) (core tag line : Nat) (d : BitVec 512) (pois priv : Bool) (pol : Nat) : Chip :=
  let c1 := (c.l1For core line tag).filterFill core line
  let e := (l1Find (c1.core core).l1 line tag).getD
    { line := line, tag := tag, valid := 0, dirty := 0, priv := priv, data := 0, pois := false, pol := pol }
  let busy := c1.storing core line ||| c1.changing core line
  let new := ~~~e.dirty &&& ~~~(foreignMask core line c1.intents) &&& ~~~busy
  c1.l1Put core { e with valid := new ||| e.dirty ||| (e.valid &&& busy), priv := e.priv && priv, data := merge new e.data d,
                         pois := e.pois || pois }

/-- R220, R222, R300, R304: a lane store of masked bytes into a line through a record's PRIVATE mark and POLICY; the chip, and the line of an
overlap that an implicit release found. A tier 2 line is written through; the write of a tier 3 line is sent by its caller. -/
def Chip.lineWrite (c : Chip) (core tag line : Nat) (mask : BitVec 64) (d : BitVec 512) (priv : Bool) (pol : Nat) (cid : DWord)
    (who : Storer) : Chip × Option Nat :=
  let (c0, race) := if c.quotaFull (.core core) core tag line then c.implicit core cid who else (c, none)
  let c1 := c0.l1For core line tag
  let e := (l1Find (c1.core core).l1 line tag).getD
    { line := line, tag := tag, valid := 0, dirty := 0, priv := priv, data := 0, pois := false, pol := pol }
  let e1 := { e with valid := e.valid ||| mask, data := merge mask e.data d, priv := e.priv && priv, pol := pol,
                     pois := if mask = BitVec.allOnes 64 then false else e.pois }
  if 2 ≤ tierOf line then
    let c2 := (c1.l1Put core e1).intend (.core core) tag line mask mask cid
    (if tierOf line = 2 then c2.homeWrite line mask d false (some cid) else c2.owe (.core core) (line % 2 ^ 64 / 2 ^ 42), race)
  else
    let e2 := { e1 with dirty := e.dirty ||| mask }
    ((c1.l1Put core e2).intend (.core core) tag line mask e2.dirty cid, race)

/-- R306: before an atomic at a home slice, the issuing core's dirty bytes of the line are written back and the line leaves its L1. -/
def Chip.flushLine (c : Chip) (core tag line : Nat) : Chip :=
  match l1Find (c.core core).l1 line tag with
  | none => c
  | some e =>
    let c1 := if e.dirty = 0 then c else c.writeBack core e
    c1.setCore core { c1.core core with l1 := l1Drop (c1.core core).l1 line tag }

end Sys2Proof.Machine
end

