-- ==== Sys2Proof/Machine/Operands.lean ====
section
/-! DEFINITION. Operand codes, guards, helper lanes, checks at issue and the interlock of lane instructions (R20, R21, R46, R50-R55, R116, R237). -/

namespace Sys2Proof.Machine

open Sys2Proof

/-- A source operand: its code, its field code of R50, how many consecutive registers it names, whether IA applies. -/
structure Src where
  code : Reg
  field : Nat
  n : Nat
  ia : Bool
deriving DecidableEq, Repr

/-- R53: whether a code names a uniform register. -/
def isU (code : Nat) : Bool := 960 ≤ code

/-- R53: whether `n` registers from a code lie within the warp's allocation. -/
def Warp.has (w : Warp) (code n : Nat) : Bool :=
  if isU code then code - 960 + n ≤ w.nuregs else code + n ≤ w.nregs

/-- A register's word in a lane. -/
def Warp.reg (w : Warp) (code lane : Nat) : Nat :=
  if isU code then (aget 0 w.u (code - 960)).toNat else (aget 0 w.v (code * 64 + lane)).toNat

/-- A register's poison mark in a lane (R116). -/
def Warp.pois (w : Warp) (code lane : Nat) : Bool :=
  if isU code then aget false w.up (code - 960) else aget false w.vp (code * 64 + lane)

/-- A lane register written in one lane; overwriting clears or sets its mark. -/
def Warp.setV (w : Warp) (code lane v : Nat) (p : Bool) : Warp :=
  { w with v := aput 0 w.v (code * 64 + lane) (BitVec.ofNat 32 v), vp := aput false w.vp (code * 64 + lane) p }

/-- A uniform register written. -/
def Warp.setU (w : Warp) (j v : Nat) (p : Bool) : Warp :=
  { w with u := aput 0 w.u j (BitVec.ofNat 32 v), up := aput false w.up j p }

/-- A destination of `n` registers written in a lane, low word first, or once where the code is uniform. -/
def Warp.setD (w : Warp) (code lane : Nat) : Nat → Nat → Warp
  | 0, _ => w
  | n + 1, v =>
    let w1 := if isU code then w.setU (code - 960) v false else w.setV code lane v false
    Warp.setD w1 (code + 1) lane n (v / 2 ^ 32)

/-- The value of `n` registers from a code in a lane, low word first. -/
def Warp.regs (w : Warp) (code lane : Nat) : Nat → Nat
  | 0 => 0
  | n + 1 => w.reg code lane + 2 ^ 32 * Warp.regs w (code + 1) lane n

/-- Whether any of `n` registers from a code is marked in a lane. -/
def Warp.poisN (w : Warp) (code lane : Nat) : Nat → Bool
  | 0 => false
  | n + 1 => w.pois code lane || Warp.poisN w (code + 1) lane n

/-- The place of a register's mark among the marks' lines: a lane's, or a uniform one's. -/
def markKey (code lane : Nat) : Nat := code * 64 + (if isU code then 0 else lane)

/-- R118, R385: where the first marked one of `n` registers from a code has its mark from in a lane. -/
def Warp.markN (w : Warp) (code lane : Nat) : Nat → Nat
  | 0 => 0
  | n + 1 => if w.pois code lane then aget 0 w.from_ (markKey code lane) else Warp.markN w (code + 1) lane n

/-- R51: whether a guard holds in a lane. -/
def Warp.guard (w : Warp) (g : Guard) (lane : Nat) : Bool :=
  g == 0 || ((w.reg (g.toNat / 32 % 64) lane).testBit (g.toNat % 32) != g.getLsbD 11)

/-- R21: the helper lanes of an issued lane set. -/
def Warp.helpers (w : Warp) (lanes : BitVec 64) : BitVec 64 :=
  maskOf ((liveLanes 0 w.lanes).filter (fun i => !lanes.getLsbD i &&
    (lanes.toNat / 2 ^ (i / 4 * 4) % 16 != 0)))

/-- R46: whether an incomplete operation of the engine will still write one of these registers (uniform codes from 960 on). -/
def Chip.pending (c : Chip) (e : Eng) (code n : Nat) : Bool :=
  c.ops.any (fun o => o.eng == e &&
    (o.writes.any (fun wr => !isU code && code ≤ wr.1 / 64 && wr.1 / 64 < code + n)
      || o.uwrites.any (fun wr => isU code && code - 960 ≤ wr.1 && wr.1 < code - 960 + n)))

/-- ILLEGAL_REGISTER (R50). -/
def regSyn (op field code : Nat) : Nat := syndrome 3 (op * 65536 + field * 4096 + code)

/-- A trap raised for the lane set that issued: its mask is the lane set. -/
def laneTrap (i : Issue) (syn lane addr : Nat) : Stop := .trap syn lane addr i.lanes

/-- The lowest lane of a mask; 0 for the empty mask. -/
def lowLane (m : BitVec 64) : Nat := (lanesOf m).headD 0

/-- What an instruction may do with a uniform destination: the rule of R54, always (RDLANE and the like), never. -/
inductive UDest where
  | rule
  | always
  | never
deriving DecidableEq, Repr

/-- The operands of a lane instruction as it issues; `also` are further lane registers it writes, with their field codes; `extra` are
sources that it reads only in lanes of its own choice; `low` where only the lowest executing lane reads the sources. -/
structure Form where
  op : Nat
  g : Guard
  hq : Bool
  d : Option (Reg × Nat)
  ud : UDest
  srcs : List Src
  also : List (Reg × Nat) := []
  extra : List Src := []
  low : Bool := false
deriving DecidableEq, Repr

/-- What passed the checks at issue: the engine's place, the warp, the lanes that execute (helper lanes among them), those of them that
write, those that are active, whether the instruction runs once on the uniform unit, and the lowest active lane in which an operand
faults, with its syndrome and what TR.ADDR holds or where its mark comes from. -/
structure Prep where
  core : Nat
  slot : Nat
  w : Warp
  exec : BitVec 64
  wr : BitVec 64
  act : BitVec 64
  once : Bool
  bad : Option (Nat × Nat × Nat)
deriving DecidableEq, Repr

/-- R50, R53-R55: the ILLEGAL_REGISTER checks made for the whole lane set, as (field, broken, code). DESIGN CHOICE (log 12): of an operand of
several registers the code reported is that of the first. -/
def Form.regChecks (f : Form) (w : Warp) : List (Nat × Bool × Nat) :=
  let allU := f.srcs.all (fun s => isU s.code.toNat)
  (match f.d with
    | none => []
    | some (d, n) =>
      [(0, !w.has d.toNat n || (isU d.toNat && (match f.ud with
        | .rule => !allU
        | .always => false
        | .never => true)), d.toNat)])
  ++ (f.srcs ++ f.extra).map (fun s =>
    (s.field, !w.has s.code.toNat (if s.ia then 1 else s.n) || (s.ia && isU s.code.toNat), s.code.toNat))
  ++ f.also.map (fun r => (r.2, !w.has r.1.toNat 1 || isU r.1.toNat, r.1.toNat))
  ++ (if f.g == 0 then [] else [(6, !w.has (f.g.toNat / 32 % 64) 1, f.g.toNat / 32 % 64)])

/-- The broken check with the lowest field code. -/
def lowestField : List (Nat × Bool × Nat) → Option (Nat × Nat)
  | [] => none
  | (f, bad, code) :: r =>
    match lowestField r with
    | none => if bad then some (f, code) else none
    | some (f', code') => if bad && f ≤ f' then some (f, code) else some (f', code')

/-- R55: the code that a source names in a lane. -/
def Src.codeIn (s : Src) (w : Warp) (lane : Nat) : Nat := if s.ia then w.reg s.code.toNat lane % 1024 else s.code.toNat

/-- R55: whether the code a source names in a lane lies within the allocation. -/
def Src.okIn (s : Src) (w : Warp) (lane : Nat) : Bool := !s.ia || w.has (s.codeIn w lane) s.n

/-- The value of a source in a lane. -/
def Src.val (s : Src) (w : Warp) (lane : Nat) : Nat := w.regs (s.codeIn w lane) lane s.n

/-- R116: whether a source, or the register through which it is named, is marked in a lane. -/
def Src.poisIn (s : Src) (w : Warp) (lane : Nat) : Bool :=
  w.poisN (s.codeIn w lane) lane s.n || (s.ia && w.pois s.code.toNat lane)

/-- R20, R51: the active lanes of an issued lane set in which the guard holds. -/
def Form.active (f : Form) (i : Issue) (w : Warp) : BitVec 64 := maskOf ((lanesOf i.lanes).filter (fun l => w.guard f.g l))

/-- R21, R237: its helper lanes in which the guard holds and whose indirect codes lie in the allocation. -/
def Form.helping (f : Form) (i : Issue) (w : Warp) : BitVec 64 :=
  if f.hq then maskOf ((lanesOf (w.helpers i.lanes)).filter (fun l => w.guard f.g l && f.srcs.all (fun s => s.okIn w l))) else 0

/-- The lanes that compute. -/
def Form.computing (f : Form) (i : Issue) (w : Warp) : BitVec 64 := f.active i w ||| f.helping i w

/-- R116: whether a lane reads a mark: in a source it reads or in its guard. -/
def Form.marked (f : Form) (w : Warp) (l : Nat) : Bool := f.srcs.any (fun s => s.poisIn w l) || (f.g != 0 && w.pois (f.g.toNat / 32 % 64) l)

/-- R21, R116: the lanes that write: the active ones, and the helper lanes that read no mark. -/
def Form.reached (f : Form) (i : Issue) (w : Warp) : BitVec 64 :=
  f.active i w ||| maskOf ((lanesOf (f.helping i w)).filter (fun l => !f.marked w l))

/-- R52: whether the instruction runs once, on the uniform unit. -/
def Form.once (f : Form) : Bool :=
  match f.d with
  | none => f.srcs.all (fun s => isU s.code.toNat)
  | some (d, _) => isU d.toNat

/-- R46: whether an operation in flight will write D. -/
def Form.dstBusy (f : Form) (c : Chip) (e : Eng) : Bool :=
  match f.d with
  | none => false
  | some (d, n) => c.pending e d.toNat n

/-- R118, R385: where the mark comes from that a source, or the register through which it is named, carries in a lane. -/
def Src.mark (s : Src) (w : Warp) (lane : Nat) : Nat :=
  if s.ia && w.pois s.code.toNat lane then aget 0 w.from_ (markKey s.code.toNat lane) else w.markN (s.codeIn w lane) lane s.n

/-- R116, R118: POISON consumed in a lane, the reason by its mark. -/
def poisonBy (op m : Nat) : Nat := syndrome 0x0C (opReason op (if m.testBit 1 then 4 else 1))

/-- POISON consumed in a lane (R116). -/
def poisonSyn (op : Nat) : Nat := poisonBy op 0

/-- R116: the trap of a lane that consumes a mark. -/
def poisonTrap (i : Issue) (op m lane : Nat) : Stop := laneTrap i (poisonBy op m) lane m

/-- R118, R385: where the mark comes from that an active lane reads: in a source, else in its guard. -/
def Form.mark (f : Form) (w : Warp) (l : Nat) : Nat :=
  match f.srcs.find? (fun s => s.poisIn w l) with
  | some s => s.mark w l
  | none => aget 0 w.from_ (markKey (f.g.toNat / 32 % 64) l)

/-- R55, R116: the syndrome of an active lane whose operands fault, and what TR.ADDR holds or, for poison, where the mark comes from. DESIGN CHOICE
(log 12): in one lane the code that lies outside the allocation is reported before a mark. -/
def Form.laneFault (f : Form) (i : Issue) (w : Warp) (l : Nat) : Option (Nat × Nat) :=
  let reads := !f.low || l == lowLane (f.active i w)
  if reads && f.srcs.any (fun s => !s.okIn w l) then
    some (regSyn f.op 7 (((f.srcs.filter (fun s => s.ia)).map (fun s => s.codeIn w l)).headD 0), 0)
  else if (reads && f.srcs.any (fun s => s.poisIn w l)) || (f.g != 0 && w.pois (f.g.toNat / 32 % 64) l) then
    (let m := f.mark w l; some (poisonBy f.op m, m))
  else none

/-- The lowest lane of a list in which something is found. -/
def firstLane {α : Type} (f : Nat → Option α) : List Nat → Option (Nat × α)
  | [] => none
  | l :: ls => match f l with
    | some a => some (l, a)
    | none => firstLane f ls

/-- The checks at issue of a lane instruction, in R50's order: the whole-set register checks, the interlock of R46, and what lanes' operands
bring, for the instruction to weigh against its own faults (R8). -/
def prepLanes (f : Form) (i : Issue) (c : Chip) : Except Stop Prep :=
  match i.eng with
  | .matrix _ => .error .wait
  | .copy _ => .error .wait
  | .warp core slot =>
    match c.warp core slot with
    | none => .error .wait
    | some w =>
      match lowestField (f.regChecks w) with
      | some (fld, code) => .error (laneTrap i (regSyn f.op fld code) (lowLane i.lanes) 0)
      | none =>
        if (f.g != 0 && c.pending i.eng (f.g.toNat / 32 % 64) 1) || (f.srcs ++ f.extra).any (fun s => c.pending i.eng s.code.toNat s.n)
            || f.also.any (fun r => c.pending i.eng r.1.toNat 1) || f.dstBusy c i.eng
            || f.srcs.any (fun s => s.ia && (lanesOf (f.computing i w)).any (fun l => c.pending i.eng (s.codeIn w l) s.n)) then
          .error .wait
        else .ok { core := core, slot := slot, w := w, exec := f.computing i w, wr := f.reached i w, act := f.active i w, once := f.once,
                   bad := firstLane (f.laneFault i w) (lanesOf (f.active i w)) }

/-- The checks at issue of an instruction with no further faults of its lanes: the lowest lane whose operands fault stops it. -/
def prep (f : Form) (i : Issue) (c : Chip) : Except Stop Prep :=
  match prepLanes f i c with
  | .error e => .error e
  | .ok p => match p.bad with
    | none => .ok p
    | some (l, syn, a) => .error (laneTrap i syn l a)

/-- R8: of the faults of lanes' operands and those that `f` finds in lanes (syndrome and what TR.ADDR holds), the one in the lowest lane; in
one lane the operands' comes first. -/
def Prep.lowest (p : Prep) (f : Nat → Option (Nat × Nat)) (lanes : List Nat) : Option (Nat × Nat × Nat) :=
  match p.bad with
  | none => firstLane f lanes
  | some b => match firstLane f (lanes.filter (fun l => l < b.1)) with
    | some x => some x
    | none => some b

/-- R8: a fault of the whole instruction, reported in the lowest active lane; that lane's operands' fault comes first. -/
def Prep.atLow (p : Prep) (i : Issue) (syn addr : Nat) : Stop :=
  match p.lowest (fun _ => some (syn, addr)) [lowLane p.act] with
  | some (l, x, a) => laneTrap i x l a
  | none => laneTrap i syn (lowLane p.act) addr

/-- R8: what an instruction does whose lanes all raise a fault, where there is one; else their operands' fault, else its work. -/
def Prep.orTrap (p : Prep) (i : Issue) (whole : Option (Nat × Nat)) (work : Except Stop Chip) : Except Stop Chip :=
  match whole, p.bad with
  | some (syn, addr), _ => .error (p.atLow i syn addr)
  | none, some (l, syn, a) => .error (laneTrap i syn l a)
  | none, none => work

/-- The chip after the instruction's register writes: the warp replaced and the word passed. -/
def finish (i : Issue) (p : Prep) (w : Warp) (c : Chip) : Except Stop Chip :=
  .ok ((c.setWarp p.core p.slot (some w)).advance i)

/-- Results written lane by lane. -/
def writeEach (w : Warp) (d n : Nat) (f : Nat → Nat) : List Nat → Warp
  | [] => w
  | l :: ls => writeEach (w.setD d l n (f l)) d n f ls

/-- R21, R52: results written in every lane that writes, or once. -/
def Prep.write (p : Prep) (d n : Nat) (f : Nat → Nat) : Warp :=
  if p.once then (if p.act = 0 then p.w else p.w.setD d 0 n (f (lowLane p.act)))
  else writeEach p.w d n f (lanesOf p.wr)

/-- An instruction that computes a result from its sources in each executing lane and writes D; every source is read before any lane is
written (R52, R248, R252). -/
def aluOp (op : Nat) (ct : Ctl) (d : Reg) (n : Nat) (srcs : List Src) (f : List Nat → Nat) (i : Issue) (c : Chip) : Except Stop Chip :=
  match prep { op := op, g := ct.g, hq := ct.hq, d := some (d, n), ud := .rule, srcs := srcs } i c with
  | .error e => .error e
  | .ok p => finish i p (p.write d.toNat n (fun l => f (srcs.map (fun s => s.val p.w l)))) c

/-- The A operand of an LR instruction. -/
def srcA (ct : Ctl) (a : Reg) (n : Nat) : Src := { code := a, field := 1, n := n, ia := ct.ia }
/-- The B operand. -/
def srcB (b : Reg) (n : Nat) : Src := { code := b, field := 2, n := n, ia := false }
/-- The C operand. -/
def srcC (r : Reg) (n : Nat) : Src := { code := r, field := 3, n := n, ia := false }
/-- D read as a source (R257). -/
def srcD (d : Reg) : Src := { code := d, field := 0, n := 1, ia := false }
/-- The control of a format without IA and HQ. -/
def Ctl.ofGuard (g : Guard) : Ctl := { g := g, ia := false, hq := false }

/-- Two-source instruction. -/
def alu2 (op : Nat) (ct : Ctl) (d a b : Reg) (f : Nat → Nat → Nat) : Issue → Chip → Except Stop Chip :=
  aluOp op ct d 1 [srcA ct a 1, srcB b 1] (fun v => f (v.getD 0 0) (v.getD 1 0))
/-- One-source instruction. -/
def alu1 (op : Nat) (ct : Ctl) (d a : Reg) (f : Nat → Nat) : Issue → Chip → Except Stop Chip :=
  aluOp op ct d 1 [srcA ct a 1] (fun v => f (v.getD 0 0))
/-- Three-source instruction. -/
def alu3 (op : Nat) (ct : Ctl) (d a b r : Reg) (f : Nat → Nat → Nat → Nat) : Issue → Chip → Except Stop Chip :=
  aluOp op ct d 1 [srcA ct a 1, srcB b 1, srcC r 1] (fun v => f (v.getD 0 0) (v.getD 1 0) (v.getD 2 0))

end Sys2Proof.Machine
end

