-- ==== Sys2Proof/Machine/Flags.lean ====
section
/-! DEFINITION. Predicate bits and sticky bits: the conditions of ISET and ISETI, the bit they write, and SR.FPSTAT (R82, R83, R257). -/

namespace Sys2Proof.Machine

open Sys2Proof

/-- R257: the conditions of `ISET` and `ISETI`. -/
def icond (cond a b : Nat) : Bool :=
  match cond with
  | 0 => a == b
  | 1 => a != b
  | 2 => signed 32 a < signed 32 b
  | 3 => signed 32 a ≤ signed 32 b
  | 4 => signed 32 b < signed 32 a
  | 5 => signed 32 b ≤ signed 32 a
  | 6 => a < b
  | 7 => a ≤ b
  | 8 => b < a
  | 9 => b ≤ a
  | 10 => (a &&& b) != 0
  | _ => (a &&& b) == 0

/-- R257: one bit of D written, the other 31 kept. -/
def putBit (d pos : Nat) (b : Bool) : Nat :=
  d - (if d.testBit pos then 2 ^ pos else 0) + (if b then 2 ^ pos else 0)

/-- R82, R83: sticky bits set in SR.FPSTAT. -/
def Warp.sticky (w : Warp) (f : Flags) : Warp := { w with fpstat := w.fpstat ||| f }

/-- The union of sticky bits. -/
def orFlags : List Flags → Flags
  | [] => 0
  | f :: fs => f ||| orFlags fs

end Sys2Proof.Machine
end

