-- ==== Sys2Proof/Machine/Convert.lean ====
section
/-! DEFINITION. Conversion through format slots: CVTF, I2F, F2I, BCHK (R78, R81, R85-R87). -/

namespace Sys2Proof.Machine

open Sys2Proof

/-- R76, R326: a format slot as the engine's grid loaded it. -/
def Chip.slot (c : Chip) (e : Eng) (fs : Nat) : Slot :=
  Slot.ofNat (((c.kernelOf (c.gangOf e)).map (fun k => (k.fs.getD fs 0).toNat)).getD 0)

/-- R79: the bound registers of the engine's grid. -/
def Chip.bounds (c : Chip) (e : Eng) : List Bound := ((c.kernelOf (c.gangOf e)).map (fun k => k.bounds)).getD []

/-- R78: FORMAT. -/
def formatSyn (op fs : Nat) (sl : Slot) : Nat := syndrome 0x0A (op * 65536 + fs * 256 + sl.fa * 16 + sl.fb)

/-- The scalar float formats. -/
def isFloat (f : Nat) : Bool := f < 3

/-- A value checked in one lane (R81): what goes on with its sticky bits, or the RANGE detail. -/
abbrev LaneCheck := Nat × Checked

/-- The first check of a lane that traps: its RANGE syndrome, and 0 for TR.ADDR. -/
def rangeIn (op : Nat) (l : Nat) : List LaneCheck → Option (Nat × Nat)
  | [] => none
  | (k, .range d) :: r => if k = l then some (syndrome 9 (op * 65536 + d), 0) else rangeIn op l r
  | (_, .pass _ _ _) :: r => rangeIn op l r

/-- The value that a lane's check passed on. -/
def checkedVal (cs : List LaneCheck) (l : Nat) : Option (FVal × Option Word) :=
  match cs.find? (fun p => p.1 == l) with
  | some (_, .pass x cl _) => some (x, cl)
  | _ => none

/-- The sticky bits of the checks in the lanes of a mask. -/
def checkFlags (m : BitVec 64) (cs : List LaneCheck) : Flags :=
  orFlags (cs.map (fun p => match p.2 with
    | .pass _ _ f => if m.getLsbD p.1 then f else 0
    | .range _ => 0))

/-- R85, R86, R87: the lanes that a conversion serves: those that write (R21), helpers among them, or the one lane of the uniform unit. -/
def Prep.lanes (p : Prep) : List Nat := if p.once then (if p.act = 0 then [] else [lowLane p.act]) else lanesOf p.wr

/-- A conversion's common path: FORMAT when the pair is not accepted (R78), the checks of every executing lane, the fault of the lowest
active lane (R8), then the writes; `res` gives a lane's result and sticky bits from the checked values, or none to write nothing. -/
def cvtOp (op fs : Nat) (f : Form) (ok : Slot → Bool) (chk : Slot → List Bound → Prep → Nat → List Checked)
    (res : Slot → Prep → List LaneCheck → Nat → Option (Nat × Flags)) (i : Issue) (c : Chip) : Except Stop Chip :=
  match prepLanes f i c with
  | .error e => .error e
  | .ok p =>
    let sl := c.slot i.eng fs
    if !ok sl then (if p.act = 0 then finish i p p.w c else .error (p.atLow i (formatSyn op fs sl) 0))
    else
      let cs : List LaneCheck := p.lanes.flatMap (fun l => (chk sl (c.bounds i.eng) p l).map (fun k => (l, k)))
      match p.lowest (fun l => rangeIn op l cs) (lanesOf p.act) with
      | some (l, syn, a) => .error (laneTrap i syn l a)
      | none =>
        let bad := (cs.filter (fun q => match q.2 with
          | .range _ => true
          | .pass _ _ _ => false)).map (fun q => q.1)
        let good := cs.filter (fun q => !bad.contains q.1)
        let d := (match f.d with
          | none => 0
          | some (r, _) => r.toNat)
        let outs := p.lanes.map (fun l => (l, if bad.contains l then none else res sl p good l))
        let w1 := outs.foldl (fun (w : Warp) (o : Nat × Option (Nat × Flags)) => match o.2 with
          | none => w
          | some (v, _) => w.setD d o.1 1 v) p.w
        let fl := orFlags (outs.map (fun o => match o.2 with
          | none => 0
          | some (_, k) => if p.act.getLsbD o.1 then k else 0))
        finish i p (w1.sticky (fl ||| checkFlags p.act good)) c

/-- R85: the value in lane `l` of the block of its sixteen lanes, quantised. DESIGN CHOICE (log 15): a block's overflow or underflow is the
condition of each lane that the block serves, so that SXOVF and SXUNF are set where one of these is active. -/
def sxLane (sl : Slot) (p : Prep) (cs : List LaneCheck) (l : Nat) : Nat × Flags :=
  let base := if p.once then l else l / 16 * 16
  let xs := (List.range 16).map (fun j => match checkedVal cs (base + j) with
    | some (x, _) => if p.once && j != 0 then .fin false 0 0 else x
    | none => .fin false 0 0)
  let b := toSX sl.fb sl.sb sl.rnd sl.sat xs
  (fp32.pack .rne false (sxElement sl.fb sl.sb (b.1.bytes sl.fb) (l - base)), b.2)

/-- CVTF (R85). -/
def execCvtf (ct : Ctl) (pk : Bool) (d a b : Reg) (fs : BitVec 3) (s : State) : Host.Outcome State Fault Refusal :=
  runIssue s (fun i c =>
    let f : Form := { op := 0x58, g := ct.g, hq := ct.hq, d := some (d, 1), ud := .rule,
                      srcs := if pk then [srcA ct a 1, srcB b 1] else [srcA ct a 1] }
    let pairOk (sl : Slot) : Bool := isFloat sl.fa && sl.fb < 6 && (!isSx sl.fb || sl.fa = 0)
    let sl0 := c.slot i.eng fs.toNat
    if pk && pairOk sl0 && !(sl0.fa = 0 && (sl0.fb = 1 || sl0.fb = 2)) then
      .error (laneTrap i (syndrome 1 (opReason 0x58 9)) (lowLane i.lanes) 0)
    else cvtOp 0x58 fs.toNat f pairOk
      (fun sl bds p l => [boundCheck bds sl (widen sl.fa ((srcA ct a 1).val p.w l))]
        ++ (if pk then [boundCheck bds sl (widen sl.fa ((srcB b 1).val p.w l))] else []))
      (fun sl p cs l =>
        if isSx sl.fb then some (sxLane sl p cs l)
        else
          let vs := (cs.filter (fun q => q.1 == l)).map (fun q => match q.2 with
            | .pass x _ _ => convertTo sl.fb sl x
            | .range _ => 0)
          some (vs.getD 0 0 + (if pk then vs.getD 1 0 * 65536 else 0), 0)) i c)

/-- I2F (R86). -/
def execI2f (ct : Ctl) (u : Bool) (d a : Reg) (fs : BitVec 3) (s : State) : Host.Outcome State Fault Refusal :=
  runIssue s (cvtOp 0x59 fs.toNat { op := 0x59, g := ct.g, hq := ct.hq, d := some (d, 1), ud := .rule, srcs := [srcA ct a 1] }
    (fun sl => (sl.fa = 6 || sl.fa = 7) && isFloat sl.fb) (fun _ _ _ _ => [])
    (fun sl p _ l => some (convertTo sl.fb sl (intSource sl.fa u ((srcA ct a 1).val p.w l)), 0)))

/-- F2I (R86). -/
def execF2i (ct : Ctl) (u : Bool) (d a : Reg) (fs : BitVec 3) (s : State) : Host.Outcome State Fault Refusal :=
  runIssue s (cvtOp 0x5A fs.toNat { op := 0x5A, g := ct.g, hq := ct.hq, d := some (d, 1), ud := .rule, srcs := [srcA ct a 1] }
    (fun sl => isFloat sl.fa && (sl.fb = 6 || sl.fb = 7)) (fun _ _ _ _ => [])
    (fun sl p _ l =>
      let r := floatToInt sl.fb u sl.rnd (widen sl.fa ((srcA ct a 1).val p.w l))
      some (r.1, if r.2 then flagISAT else 0)))

/-- BCHK (R87): the value bit for bit, or the bound that clamps it. -/
def execBchk (ct : Ctl) (d a : Reg) (fs : BitVec 3) (s : State) : Host.Outcome State Fault Refusal :=
  runIssue s (cvtOp 0x5B fs.toNat { op := 0x5B, g := ct.g, hq := ct.hq, d := some (d, 1), ud := .rule, srcs := [srcA ct a 1] }
    (fun sl => sl.fa = 0) (fun sl bds p l => [boundCheck bds sl (widen 0 ((srcA ct a 1).val p.w l))])
    (fun _ p cs l => match checkedVal cs l with
      | some (_, some k) => some (k.toNat, 0)
      | _ => some ((srcA ct a 1).val p.w l, 0)))

end Sys2Proof.Machine
end

