-- ==== Sys2Proof/Machine/LoadStore.lean ====
section
/-! DEFINITION. Loads and stores through buffer records (R103-R107, R227-R232), and the requests they send to peer devices (R143, R144). -/

namespace Sys2Proof.Machine

open Sys2Proof

/-- A buffer record in its fields (R103). -/
structure Rec where
  base : Nat
  stride : Nat
  extent : Nat
  esize : Nat
  pol : Nat
  priv : Bool
  oob : Bool
  wp : Bool
  swz : Nat
  rest : Nat
deriving DecidableEq, Repr

/-- R103: the fields of a record's 32 bytes. -/
def Rec.ofBits (b : BitVec 256) : Rec where
  base := bitsAt b.toNat 0 64
  stride := bitsAt b.toNat 64 32
  extent := bitsAt b.toNat 96 32
  esize := bitsAt b.toNat 128 8
  pol := bitsAt b.toNat 136 2
  priv := bitsAt b.toNat 138 1 == 1
  oob := bitsAt b.toNat 139 1 == 1
  wp := bitsAt b.toNat 140 1 == 1
  swz := bitsAt b.toNat 141 3
  rest := bitsAt b.toNat 144 112

/-- R104: the syndrome of a record that an access may not use. -/
def Rec.bad (r : Rec) (op : Nat) (write : Bool) : Option Nat :=
  if !canonical r.base || r.base % min r.esize 8 != 0 || r.esize = 0 || 128 < r.esize || 4 ≤ r.swz || r.rest != 0 then
    some (syndrome 4 (opReason op 3))
  else if write && !r.wp then some (syndrome 6 (opReason op 2))
  else none

/-- R106: the swizzle of an offset. -/
def swizzle (o mode : Nat) : Nat :=
  match mode with
  | 1 => o ^^^ bitsAt o 7 3 * 2 ^ 4
  | 2 => o ^^^ bitsAt o 8 3 * 2 ^ 5
  | 3 => o ^^^ bitsAt o 9 3 * 2 ^ 6
  | _ => o

/-- R105: where a lane's access falls: out of bounds under zero-fill, an address, or the fault with what TR.ADDR holds. -/
inductive LaneAddr where
  | oob
  | hit (a : Nat)
  | bad (syn addr : Nat)
deriving DecidableEq, Repr

/-- R105: the address a lane forms from its index register's value. The address is taken modulo 2^64. -/
def Rec.addr (r : Rec) (op x : Nat) (off : Int) (sz : Nat) : LaneAddr :=
  let idx := (x : Int) + off
  if idx < 0 ∨ (r.extent : Int) ≤ idx then (if r.oob then .bad (syndrome 4 (opReason op 1)) (wrapInt 64 idx) else .oob)
  else if r.esize < sz then .bad (syndrome 4 (opReason op 2)) (wrapInt 64 idx)
  else
    let a := (r.base + swizzle (idx.toNat * r.stride) r.swz) % 2 ^ 64
    if a % min sz 8 ≠ 0 then .bad (syndrome 0x0B (opReason op 0)) a else .hit a

/-- The fault of a lane's address. -/
def LaneAddr.fault : LaneAddr → Option (Nat × Nat)
  | .bad syn a => some (syn, a)
  | .oob => none
  | .hit _ => none

/-- The address of a lane's access, none where it is out of bounds. -/
def LaneAddr.addr? : LaneAddr → Option Nat
  | .hit a => some a
  | .oob => none
  | .bad _ _ => none

/-- The lanes that address memory, each with its address; the lowest faulting lane stops all (R8, R105). -/
def Prep.addrs (p : Prep) (i : Issue) (f : Nat → LaneAddr) (lanes : List Nat) : Except Stop (List (Nat × Option Nat)) :=
  match p.lowest (fun l => (f l).fault) lanes with
  | some (l, syn, a) => .error (laneTrap i syn l a)
  | none => .ok (lanes.map (fun l => (l, (f l).addr?)))

/-- An access of one lane inside memory: lane, address, bytes. -/
structure Hit where
  lane : Nat
  addr : Nat
  n : Nat
deriving DecidableEq, Repr

/-- The lanes that hit, as accesses of `n` bytes. -/
def hitsOf (n : Nat) (as : List (Nat × Option Nat)) : List Hit :=
  as.filterMap (fun p => p.2.map (fun a => { lane := p.1, addr := a, n := n }))

/-- Insert a number into a rising list without repeats. -/
def insertRising (x : Nat) : List Nat → List Nat
  | [] => [x]
  | y :: ys => if x < y then x :: y :: ys else if x = y then y :: ys else y :: insertRising x ys

/-- The lines an access touches. -/
def Hit.lines (h : Hit) : List Nat :=
  (List.range ((h.addr % 64 + h.n + 63) / 64)).map (fun k => (h.addr / 64 + k) * 64 % 2 ^ 64)

/-- R105: the distinct lines, ascending. -/
def linesOf (hs : List Hit) : List Nat := (hs.flatMap Hit.lines).foldl (fun r l => insertRising l r) []

/-- The bytes of a line that an access touches, as a mask. -/
def Hit.mask (h : Hit) (line : Nat) : BitVec 64 :=
  if h.addr ≤ line then BitVec.ofNat 64 (2 ^ min 64 (h.addr + h.n - line) - 1)
  else BitVec.ofNat 64 ((2 ^ min 64 (h.addr + h.n - line) - 1) / 2 ^ (h.addr - line) * 2 ^ (h.addr - line))

/-- The bytes of a line that a list of accesses touches. -/
def needMask (line : Nat) : List Hit → BitVec 64
  | [] => 0
  | h :: hs => (if h.lines.contains line then h.mask line else 0) ||| needMask line hs

/-- The lowest access that touches a line. -/
def lowestHit (line : Nat) (hs : List Hit) : Hit := (hs.find? (fun h => h.lines.contains line)).getD { lane := 0, addr := line, n := 0 }

/-- R105, R108: the translation of every line, in order; the first that fails stops the instruction. -/
def translateAll (i : Issue) (op core tag : Nat) (acc : Acc) (pol : Nat) (hs : List Hit) :
    List Nat → Chip → Except Stop (List (Nat × Nat) × Chip)
  | [], c => .ok ([], c)
  | l :: ls, c =>
    match c.xlate core tag l acc pol with
    | .error e => .error (e.stop i op (lowestHit l hs).lane l (lowestHit l hs).addr acc)
    | .ok (pa, c1) =>
      match translateAll i op core tag acc pol hs ls c1 with
      | .error e => .error e
      | .ok (r, c2) => .ok ((l, pa) :: r, c2)

/-- Whether a party's read of a line at a peer is outstanding. -/
def Chip.asked (c : Chip) (pa : Nat) (who : Party) : Bool :=
  c.remotes.any (fun r => r.dst == (peerOf pa).1 && r.off == (peerOf pa).2 && r.who == who && r.op == none && r.kind == .read 64
    && !r.stale)

/-- R127, R222: a read of a line at a peer for a lane is asked for, once; it is awaited before anything is performed. -/
def Chip.askLine (c : Chip) (i : Issue) (op lane tag pa va : Nat) (priv : Bool) : Stop :=
  if c.asked pa (partyOf i.eng i.lanes) then .wait
  else
    let (c1, cid) := (c.detected i.eng.core (lineOf pa)).2.holdCid i
    .park (c1.ask pa (.read 64) (partyOf i.eng i.lanes) none lane op tag 2 64 cid va i.pos priv)

/-- R303: the RACE trap of an access: the record of the home slice with both causal IDs, and the trap in the lane. -/
def Chip.raceStop (c : Chip) (i : Issue) (op reason lane va pa : Nat) (t : Intent) : Stop :=
  let (c1, cid) := c.issueCid i
  .trapOn (c1.raceEvent (lineOf pa) cid t) (syndrome 8 (opReason op reason)) lane va i.lanes

/-- What a read of several lines brought: by line address, the line's bytes and its mark. -/
abbrev LineData := List (Nat × BitVec 512 × Bool)

/-- R107, R220: the reads of an instruction's lines, in ascending order. `c0` is the chip a stop goes back to. -/
def readLines (i : Issue) (op core tag : Nat) (priv : Bool) (pol : Nat) (hs : List Hit) (c0 : Chip) :
    List (Nat × Nat) → Chip → Except Stop (LineData × Chip)
  | [], c => .ok ([], c)
  | (va, pa) :: ls, c =>
    match c.lineRead core tag (lineOf pa) (needMask va hs) priv pol with
    | .race t => .error (c0.raceStop i op 1 (lowestHit va hs).lane va pa t)
    | .held => .error .wait
    | .full => .error (.park (c0.waitSlice (lineOf pa) core))
    | .peer => .error (c0.askLine i op (lowestHit va hs).lane tag (lineOf pa) va priv)
    | .ok d p c1 =>
      match readLines i op core tag priv pol hs c0 ls c1 with
      | .error e => .error e
      | .ok (r, c2) => .ok ((va, d, p) :: r, c2)

/-- The byte at an address among lines read. -/
def LineData.byte (ld : LineData) (a : Nat) : Nat :=
  match ld.find? (fun e => e.1 == a / 64 * 64) with
  | some (_, d, _) => (lineByte d (a % 64)).toNat
  | none => 0

/-- `n` bytes at an address among lines read, low byte first. -/
def LineData.bytes (ld : LineData) (a : Nat) : Nat → Nat
  | 0 => 0
  | n + 1 => ld.byte a + 256 * LineData.bytes ld (a + 1) n

/-- R116: whether an access read marked bytes. -/
def LineData.pois (ld : LineData) (h : Hit) : Bool := ld.any (fun e => h.lines.contains e.1 && e.2.2)

/-- R118: whether a line's data has failed after a hold. -/
def Chip.afterHold (c : Chip) (line : Nat) : Bool := c.held.any (fun h => h.line == line && h.expired)

/-- R116, R385: where the mark comes from that an access has read: its first marked line. -/
def LineData.mark (ld : LineData) (c : Chip) (pas : List (Nat × Nat)) (h : Hit) : Nat :=
  match ld.find? (fun e => h.lines.contains e.1 && e.2.2) with
  | none => 0
  | some e => markAt e.1 (pas.any (fun p => p.1 == e.1 && c.afterHold (lineOf p.2)))

/-- The lanes of an instruction's accesses that have read marks, with where these come from. -/
def LineData.marks (ld : LineData) (c : Chip) (pas : List (Nat × Nat)) (hs : List Hit) : List (Nat × Nat) :=
  (hs.filter ld.pois).map (fun h => (h.lane, ld.mark c pas h))

/-- Bytes of a line that accesses with values write, later accesses over earlier ones (R107): mask and data. -/
def storeLine (line : Nat) : List (Hit × Nat) → BitVec 64 × Nat
  | [] => (0, 0)
  | (h, v) :: r =>
    let (m, d) := storeLine line r
    if h.lines.contains line then
      let mine := h.mask line
      let sh := if line ≤ h.addr then v * 2 ^ (8 * (h.addr - line)) else v / 2 ^ (8 * (line - h.addr))
      (m ||| mine, mergeFrom (mine &&& ~~~m).toNat d (sh % 2 ^ 512) 64 0)
    else (m, d)

/-- Runs of consecutive ones of a mask from bit `i`: first bit and length. -/
def maskRuns (m : Nat) : Nat → Nat → List (Nat × Nat)
  | 0, _ => []
  | n + 1, i =>
    if m.testBit i then
      match maskRuns m n (i + 1) with
      | (j, k) :: r => if j = i + 1 then (i, k + 1) :: r else (i, 1) :: (j, k) :: r
      | [] => [(i, 1)]
    else maskRuns m n (i + 1)

/-- R43: whether a peer has still to answer a request of an operation. -/
def Chip.opAsks (c : Chip) (id : Nat) : Bool := c.remotes.any (fun r => r.op == some id && r.dst != 2 ^ 22)

/-- R107, R220, R222: the writes of an instruction's lines, in ascending order; a tier 3 line's bytes are sent to the peer for operation
`opId`. The chip, and the line of an overlap that an implicit release found. -/
def writeLines (who : Party) (op core tag opId : Nat) (pos : Pos) (priv : Bool) (pol : Nat) (cid : DWord) (sts : List (Hit × Nat)) :
    List (Nat × Nat) → Chip → Chip × Option Nat
  | [], c => (c, none)
  | (va, pa) :: ls, c =>
    let (m, d) := storeLine va sts
    let by_ : Storer := { who := who, op := op, tag := tag, pos := pos, id := some opId }
    let (c1, race) := c.lineWrite core tag (lineOf pa) m (BitVec.ofNat 512 d) priv pol cid by_
    let lane := (lowestHit va (sts.map (fun s => s.1))).lane
    let c2 := if tierOf pa = 3 then (maskRuns m.toNat 64 0).foldl (fun (x : Chip) r =>
        x.ask (lineOf pa + r.1) (.write (bytesOf r.2 (d / 2 ^ (8 * r.1))) false) who (some opId) lane op tag 2 r.2 cid va) c1 else c1
    let (c3, race') := writeLines who op core tag opId pos priv pol cid sts ls c2
    (c3, race.or race')

/-- R46: whether an operation will still write a buffer record. -/
def Chip.pendingQ (c : Chip) (e : Eng) (q : Nat) : Bool :=
  c.ops.any (fun o => o.eng == e && (match o.qwrite with
    | none => false
    | some (k, _, _) => k == q))

/-- The lanes that take part in a memory instruction: the executing lanes, or one for the uniform unit. Helper lanes do not (R105). -/
def Prep.parts (p : Prep) : List Nat := if p.once then (if p.act = 0 then [] else [lowLane p.act]) else lanesOf p.act

/-- R116, R385: where the mark of a buffer record comes from. -/
def Warp.recMark (w : Warp) (q : BitVec 5) : Nat := aget 0 w.from_ (2 ^ 20 + q.toNat)

/-- R116: the trap of an instruction whose buffer record is marked. -/
def Prep.atQ (p : Prep) (i : Issue) (op : Nat) (q : BitVec 5) : Stop := p.atLow i (poisonBy op (p.w.recMark q)) (p.w.recMark q)

/-- R46, R104, R116: the record an instruction uses, for its executing lanes. -/
def recFor (i : Issue) (c : Chip) (p : Prep) (op : Nat) (q : BitVec 5) (write : Bool) : Except Stop Rec :=
  let r := Rec.ofBits (aget 0 p.w.q q.toNat)
  if c.pendingQ i.eng q.toNat then .error .wait
  else if aget false p.w.qp q.toNat then .error (p.atQ i op q)
  else
    match r.bad op write with
    | some syn => .error (p.atLow i syn r.base)
    | none => .ok r

/-- The X operand of the memory formats. -/
def srcX (x : Reg) : Src := { code := x, field := 4, n := 1, ia := false }

/-- R42: an instruction that selects a flag waits while the flag stands at 63. -/
def withFlag (c : Chip) (i : Issue) (flag : Option Nat) (r : Except Stop Chip) : Except Stop Chip :=
  if c.flagFull i.eng flag then .error .wait else r

/-- A read of host memory is outstanding until it completes (R155, R159), with its operation where it has one. -/
def Chip.noteHostAt (c : Chip) (who : Party) (op : Option Nat) (code lane tag off : Nat) (cid : DWord) (pos : Pos) (va : Nat := 0) : Chip :=
  { c with nextReq := c.nextReq + 1,
           remotes := c.remotes ++ [{ id := c.nextReq, dst := 2 ^ 22, off := off, kind := .read 64, who := who, op := op,
                                      lane := lane, opcode := code, tag := tag, refusals := 0, retryAt := none, byNs := 0, cid := cid,
                                      va := va, pos := pos, cls := 0, bytes := 0, stale := false, priv := false, flag := false }] }

/-- The host reads of an instruction's lanes, one for each line. -/
def Chip.noteHost (c : Chip) (who : Party) (op code tag : Nat) (cid : DWord) (hs : List Hit) (pas : List (Nat × Nat)) : Chip :=
  (pas.filter (fun p => tierOf p.2 == 2)).foldl (fun (x : Chip) p =>
    x.noteHostAt who (some op) code (lowestHit p.1 hs).lane tag (p.2 % 2 ^ 64) cid Pos.zero) c

/-- The register writes of a load, one lane's value over `n` registers. -/
def loadWrites (d : Reg) (lane v : Nat) (p : Bool) : Nat → Nat → List (Nat × Word × Bool)
  | 0, _ => []
  | n + 1, k => ((d.toNat + k) * 64 + lane, BitVec.ofNat 32 (v / 2 ^ (32 * k)), p) :: loadWrites d lane v p n (k + 1)

/-- The same for a uniform destination. -/
def loadUWrites (d : Reg) (v : Nat) (p : Bool) : Nat → Nat → List (Nat × Word × Bool)
  | 0, _ => []
  | n + 1, k => (d.toNat - 960 + k, BitVec.ofNat 32 (v / 2 ^ (32 * k)), p) :: loadUWrites d v p n (k + 1)

/-- An operation that writes a destination of `n` registers with each lane's value and mark. -/
def Op.dest (o : Op) (d : Reg) (n : Nat) (once : Bool) (vs : List (Nat × Nat × Bool)) : Op :=
  if once then { o with uwrites := vs.flatMap (fun v => loadUWrites d v.2.1 v.2.2 n 0) }
  else { o with writes := vs.flatMap (fun v => loadWrites d v.1 v.2.1 v.2.2 n 0) }

/-- Words of a value written into an operation's register writes of a lane, in their order. -/
def fillWords (lane v : Nat) : Nat → List (Nat × Word × Bool) → List (Nat × Word × Bool)
  | _, [] => []
  | j, w :: ws =>
    if w.1 % 64 = lane then (w.1, BitVec.ofNat 32 (v / 2 ^ (32 * j)), w.2.2) :: fillWords lane v (j + 1) ws
    else w :: fillWords lane v j ws

/-- The words of a value written into an operation's uniform writes, in their order. -/
def fillUniform (v : Nat) (l : List (Nat × Word × Bool)) : List (Nat × Word × Bool) :=
  l.zipIdx.map (fun (x : (Nat × Word × Bool) × Nat) => (x.1.1, BitVec.ofNat 32 (v / 2 ^ (32 * x.2)), x.1.2.2))

/-- A value that an operation gives to a lane, in the registers it writes. -/
def Op.fill (o : Op) (lane v : Nat) : Op := { o with writes := fillWords lane v 0 o.writes, uwrites := fillUniform v o.uwrites }

/-- R357: whether some line of an access is not in the L1, with the bytes the access needs valid, before it. -/
def Chip.misses (c : Chip) (core tag : Nat) (hs : List Hit) (pas : List (Nat × Nat)) : Bool :=
  pas.any (fun p => match l1Find (c.core core).l1 (lineOf p.2) tag with
    | none => true
    | some e => needMask p.1 hs &&& ~~~e.valid != 0)

/-- A load: each lane's bytes at its address, `n` of them, given to `val` to make what its `nr` registers receive. -/
def loadOp (op : Nat) (flag : Option Nat) (d : Reg) (nr : Nat) (q : BitVec 5) (x : Reg) (off : Int) (n : Nat) (val : Nat → Nat → Nat)
    (p : Prep) (i : Issue) (c : Chip) : Except Stop Chip :=
  if p.act = 0 then .ok (c.issueOp i (Op.blank op flag (c.nextCid i.eng).2))
  else
    match recFor i c p op q false with
    | .error e => .error e
    | .ok r =>
      match p.addrs i (fun l => r.addr op ((srcX x).val p.w l) off n) p.parts with
      | .error e => .error e
      | .ok as =>
        let hs := hitsOf n as
        let tag := c.tagOf p.w.gang
        match translateAll i op p.core tag .read r.pol hs (linesOf hs) c with
        | .error e => .error e
        | .ok (pas, c1) =>
          match readLines i op p.core tag r.priv r.pol hs c pas c1 with
          | .error e => .error e
          | .ok (ld, c2) =>
            let (c3, cid) := c2.issueCid i
            let vs := as.map (fun a => match a.2 with
              | none => (a.1, 0, false)
              | some va => (a.1, val a.1 (ld.bytes va n), ld.pois { lane := a.1, addr := va, n := n }))
            .ok ((c3.noteHost (partyOf i.eng i.lanes) c3.nextOp op tag cid hs pas).issueOp i
              { (Op.blank op flag cid).dest d nr p.once vs with long := c.misses p.core tag hs pas, src := ld.marks c2 pas hs })

/-- A store of each access's bytes, through record `q` for its PRIVATE mark and POLICY. -/
def storeOp (op : Nat) (flag : Option Nat) (r : Rec) (sts : List (Hit × Nat)) (p : Prep) (i : Issue) (c : Chip) : Except Stop Chip :=
  let hs := sts.map (fun s => s.1)
  let tag := c.tagOf p.w.gang
  match translateAll i op p.core tag .write r.pol hs (linesOf hs) c with
  | .error e => .error e
  | .ok (pas, c1) =>
    let (c2, cid) := c1.nextCid i.eng
    let (c3, race) := writeLines (partyOf i.eng i.lanes) op p.core tag c2.nextOp i.pos r.priv r.pol cid sts pas c2
    .ok ((c3.intendedBy p.slot cid).issueOp i { Op.blank op flag cid with
      hold := c3.opAsks c2.nextOp, race := race, long := c.misses p.core tag hs pas || pas.any (fun a => 2 ≤ tierOf a.2) })

/-- R47: the access size of an SZ code. -/
def szBytes (sz : BitVec 2) : Nat := 2 ^ sz.toNat

/-- LD (R228). -/
def execLd (g : Guard) (fsel sz : BitVec 2) (d : Reg) (q : BitVec 5) (x : Reg) (off : BitVec 15) (s : State) :
    Host.Outcome State Fault Refusal :=
  runIssue s (fun i c =>
    let nr := if sz = 3#2 then 2 else 1
    let flag := flagOf i.hdr fsel.toNat
    withFlag c i flag (match prepLanes { op := 0x81, g := g, hq := false, d := some (d, nr), ud := .rule, srcs := [srcX x] } i c with
      | .error e => .error e
      | .ok p => loadOp 0x81 flag d nr q x off.toInt (szBytes sz) (fun _ v => v) p i c))

/-- R228: the bytes a lane stores. -/
def execStCore (flag : Option Nat) (sz : BitVec 2) (d : Reg) (q : BitVec 5) (x : Reg) (off : BitVec 15) (p : Prep) (i : Issue) (c : Chip) :
    Except Stop Chip :=
  if p.act = 0 then .ok (c.issueOp i (Op.blank 0x82 flag (c.nextCid i.eng).2))
  else
    match recFor i c p 0x82 q true with
    | .error e => .error e
    | .ok r =>
      match p.addrs i (fun l => r.addr 0x82 ((srcX x).val p.w l) off.toInt (szBytes sz)) p.parts with
      | .error e => .error e
      | .ok as =>
        storeOp 0x82 flag r ((hitsOf (szBytes sz) as).map (fun h => (h, p.w.regs d.toNat h.lane (if sz = 3#2 then 2 else 1) % 2 ^ (8 * h.n))))
          p i c

/-- ST (R228). -/
def execSt (g : Guard) (fsel sz : BitVec 2) (d : Reg) (q : BitVec 5) (x : Reg) (off : BitVec 15) (s : State) :
    Host.Outcome State Fault Refusal :=
  runIssue s (fun i c =>
    let flag := flagOf i.hdr fsel.toNat
    let nr := if sz = 3#2 then 2 else 1
    withFlag c i flag (match prepLanes { op := 0x82, g := g, hq := false, d := none, ud := .rule,
                                         srcs := [{ code := d, field := 0, n := nr, ia := false }, srcX x] } i c with
      | .error e => .error e
      | .ok p => execStCore flag sz d q x off p i c))

/-- LDREC (R229): the lowest executing lane loads 32 bytes into a record. -/
def execLdrec (g : Guard) (fsel : BitVec 2) (qd q : BitVec 5) (x : Reg) (off : BitVec 15) (s : State) :
    Host.Outcome State Fault Refusal :=
  runIssue s (fun i c =>
    let flag := flagOf i.hdr fsel.toNat
    withFlag c i flag (match prepLanes { op := 0x80, g := g, hq := false, d := none, ud := .rule, srcs := [srcX x], low := true } i c with
      | .error e => .error e
      | .ok p =>
        if c.pendingQ i.eng qd.toNat then .error .wait
        else if p.act = 0 then .ok (c.issueOp i (Op.blank 0x80 flag (c.nextCid i.eng).2))
        else
          match recFor i c p 0x80 q false with
          | .error e => .error e
          | .ok r =>
            match p.addrs i (fun k => r.addr 0x80 ((srcX x).val p.w k) off.toInt 32) [lowLane p.act] with
            | .error e => .error e
            | .ok as =>
              let hs := hitsOf 32 as
              let tag := c.tagOf p.w.gang
              match translateAll i 0x80 p.core tag .read r.pol hs (linesOf hs) c with
              | .error e => .error e
              | .ok (pas, c1) =>
                match readLines i 0x80 p.core tag r.priv r.pol hs c pas c1 with
                | .error e => .error e
                | .ok (ld, c2) =>
                  let (c3, cid) := c2.issueCid i
                  let v := match hs with
                    | [] => (0#256, false)
                    | h :: _ => (BitVec.ofNat 256 (ld.bytes h.addr 32), ld.pois h)
                  .ok ((c3.noteHost (partyOf i.eng i.lanes) c3.nextOp 0x80 tag cid hs pas).issueOp i
                    { Op.blank 0x80 flag cid with qwrite := some (qd.toNat, v.1, v.2), long := c.misses p.core tag hs pas,
                                                  src := ld.marks c2 pas hs })))

/-- LDSX (R230): each lane decodes one element of the block at its address. -/
def execLdsx (g : Guard) (fsel : BitVec 2) (fs : BitVec 3) (d : Reg) (q : BitVec 5) (x : Reg) (off : BitVec 12) (s : State) :
    Host.Outcome State Fault Refusal :=
  runIssue s (fun i c =>
    let flag := flagOf i.hdr fsel.toNat
    let sl := c.slot i.eng fs.toNat
    withFlag c i flag (match prepLanes { op := 0x83, g := g, hq := false, d := some (d, 1), ud := .never, srcs := [srcX x] } i c with
      | .error e => .error e
      | .ok p =>
        if p.act != 0 && !(isSx sl.fa && isFloat sl.fb) then .error (p.atLow i (formatSyn 0x83 fs.toNat sl) 0)
        else loadOp 0x83 flag d 1 q x off.toInt (sxSize sl.fa)
          (fun l v => convertTo sl.fb sl (sxElement sl.fa sl.sa (bytesOf (sxSize sl.fa) v) (l % 16))) { p with once := false } i c))

/-- R231: the lowest executing lane of each group of sixteen. -/
def groupLeads (ls : List Nat) : List Nat := ls.filter (fun l => !ls.any (fun k => k / 16 == l / 16 && k < l))

/-- STSX (R231): sixteen lanes' values make one block, stored at the address of the group's lowest executing lane. -/
def execStsx (g : Guard) (fsel : BitVec 2) (fs : BitVec 3) (d : Reg) (q : BitVec 5) (x : Reg) (off : BitVec 12) (s : State) :
    Host.Outcome State Fault Refusal :=
  runIssue s (fun i c =>
    let flag := flagOf i.hdr fsel.toNat
    let sl := c.slot i.eng fs.toNat
    withFlag c i flag (
      if isU d.toNat then .error (laneTrap i (regSyn 0x84 0 d.toNat) (lowLane i.lanes) 0)
      else match prepLanes { op := 0x84, g := g, hq := false, d := none, ud := .rule, srcs := [{ code := d, field := 0, n := 1, ia := false }],
                             extra := [srcX x] } i c with
      | .error e => .error e
      | .ok p =>
        if p.act = 0 then .ok (c.issueOp i (Op.blank 0x84 flag (c.nextCid i.eng).2))
        else if !(isFloat sl.fa && isSx sl.fb) then .error (p.atLow i (formatSyn 0x84 fs.toNat sl) 0)
        else
          let leads := groupLeads (lanesOf p.act)
          let bds := c.bounds i.eng
          let cs : List LaneCheck := (lanesOf p.act).map (fun l => (l, boundCheck bds sl (widen sl.fa (p.w.reg d.toNat l))))
          match recFor i c p 0x84 q true with
          | .error e => .error e
          | .ok r =>
            let at_ (l : Nat) : LaneAddr := r.addr 0x84 ((srcX x).val p.w l) off.toInt (sxSize sl.fb)
            -- only the lowest lane of a group reads X
            match p.lowest (fun l => match rangeIn 0x84 l cs with
                | some f => some f
                | none => if !leads.contains l then none
                  else if (srcX x).poisIn p.w l then (let m := (srcX x).mark p.w l; some (poisonBy 0x84 m, m)) else (at_ l).fault) (lanesOf p.act) with
            | some (l, syn, a) => .error (laneTrap i syn l a)
            | none =>
              let blocks := leads.map (fun l => (l, toSX sl.fb sl.sb sl.rnd sl.sat ((List.range 16).map (fun j =>
                match checkedVal cs (l / 16 * 16 + j) with
                | some (v, _) => v
                | none => .fin false 0 0))))
              let sts := (hitsOf (sxSize sl.fb) (leads.map (fun l => (l, (at_ l).addr?)))).map (fun h =>
                (h, match blocks.find? (fun b => b.1 == h.lane) with
                  | some b => natOfBytes (b.2.1.bytes sl.fb)
                  | none => 0))
              let fl := orFlags (blocks.map (fun b => b.2.2)) ||| checkFlags p.act cs
              match storeOp 0x84 flag r sts p i c with
              | .error e => .error e
              | .ok c1 =>
                match c1.warp p.core p.slot with
                | none => .ok c1
                | some w => .ok (c1.setWarp p.core p.slot (some (w.sticky fl)))))

/-- R232: the lines of a prefetch, each brought into the L1, asked of a peer for operation `opId`, or dropped; whether a peer was asked. `c0` is
the chip a stop goes back to. -/
def prefetchLines (i : Issue) (core tag opId : Nat) (cid : DWord) (r : Rec) (hs : List Hit) (c0 : Chip) :
    List Nat → Chip → Except Stop (Chip × Bool)
  | [], c => .ok (c, false)
  | va :: ls, c =>
    match c.xlate core tag va .read r.pol with
    | .error .held => .error .wait
    | .error _ => prefetchLines i core tag opId cid r hs c0 ls c
    | .ok (pa, c1) =>
      match c1.lineRead core tag (lineOf pa) (needMask va hs) r.priv r.pol with
      | .ok _ _ c2 => prefetchLines i core tag opId cid r hs c0 ls c2
      | .race _ => prefetchLines i core tag opId cid r hs c0 ls c1
      | .held => .error .wait
      | .full => .error (.park (c0.waitSlice (lineOf pa) core))
      | .peer =>
        match prefetchLines i core tag opId cid r hs c0 ls ((c1.detected core (lineOf pa)).2.ask (lineOf pa) .prefetch (partyOf i.eng i.lanes) (some opId)
          (lowestHit va hs).lane 0x87 tag 2 64 cid va i.pos r.priv) with
        | .error e => .error e
        | .ok (c2, _) => .ok (c2, true)

/-- R357: whether a prefetch had to go beyond the L1 of its core: a peer is asked, or a line the L1 did not hold has come. -/
def Chip.prefetched (c c0 : Chip) (core : Nat) : Bool :=
  c.nextReq != c0.nextReq || (c.core core).l1.any (fun e => match l1Find (c0.core core).l1 e.line e.tag with
    | none => true
    | some o => e.valid != o.valid)

/-- PRF (R232). -/
def execPrf (g : Guard) (fsel sz : BitVec 2) (q : BitVec 5) (x : Reg) (off : BitVec 15) (s : State) : Host.Outcome State Fault Refusal :=
  runIssue s (fun i c =>
    let flag := flagOf i.hdr fsel.toNat
    withFlag c i flag (match prepLanes { op := 0x87, g := g, hq := false, d := none, ud := .rule, srcs := [srcX x] } i c with
      | .error e => .error e
      | .ok p =>
        if c.pendingQ i.eng q.toNat then .error .wait
        else if p.act != 0 && aget false p.w.qp q.toNat then .error (p.atQ i 0x87 q)
        else match p.bad with
        | some (l, syn, a) => .error (laneTrap i syn l a)
        | none =>
          let (c1, cid) := c.nextCid i.eng
          let r := Rec.ofBits (aget 0 p.w.q q.toNat)
          let hs := if (r.bad 0x87 false).isSome then [] else
            ((lanesOf p.act).filterMap (fun l => match r.addr 0x87 ((srcX x).val p.w l) off.toInt (szBytes sz) with
              | .hit a => some { lane := l, addr := a, n := szBytes sz }
              | .oob => none
              | .bad _ _ => none) : List Hit)
          match prefetchLines i p.core (c.tagOf p.w.gang) c1.nextOp cid r hs c (linesOf hs) c1 with
          | .error e => .error e
          | .ok (c2, sent) => .ok (c2.issueOp i { Op.blank 0x87 flag cid with hold := sent, long := c2.prefetched c1 p.core })))

end Sys2Proof.Machine
end

