-- ==== Sys2Proof/Machine/Atomics.lean ====
section
/-! DEFINITION. Atomics, reductions and fences on memory (R306-R314, R156). -/

namespace Sys2Proof.Machine

open Sys2Proof

/-- R309: `Apply`, on patterns of `w` bytes. -/
def applyAop (aop w x v : Nat) : Nat :=
  match aop with
  | 0 => (x + v) % 2 ^ (8 * w)
  | 1 => if signed (8 * w) v < signed (8 * w) x then v else x
  | 2 => if signed (8 * w) x < signed (8 * w) v then v else x
  | 3 => min x v
  | 4 => max x v
  | 5 => x &&& v
  | 6 => x ||| v
  | 7 => x ^^^ v
  | 8 => v
  | _ => fp32.fadd x v

/-- What a lane's atomic makes of the old value: the new value, or nothing where a comparison fails (R309, R310). -/
abbrev LaneRmw := Nat → Nat → Option Nat

/-- R307: the lanes of one line, in ascending lane order, over the line's bytes: old values by lane, new bytes, the mask written. -/
def rmwLine (f : LaneRmw) : List Hit → Nat → BitVec 64 → List (Nat × Nat) × Nat × BitVec 64
  | [], d, m => ([], d, m)
  | h :: hs, d, m =>
    let o := h.addr % 64
    let old := bitsAt d (8 * o) (8 * h.n)
    let (d1, m1) := match f h.lane old with
      | none => (d, m)
      | some v => (d - old * 2 ^ (8 * o) + v % 2 ^ (8 * h.n) * 2 ^ (8 * o), m ||| h.mask (h.addr / 64 * 64))
    let (r, d2, m2) := rmwLine f hs d1 m1
    ((h.lane, old) :: r, d2, m2)

/-- A lane's read of a line for a read-modify-write that has passed its checks: what a full staging buffer holds back is timing only. -/
def Chip.lineReadNow (c : Chip) (core tag line : Nat) (need : BitVec 64) (priv : Bool) (pol : Nat) : LineRead :=
  match c.lineRead core tag line need priv pol with
  | .full => ({ c with staged := c.staged.filter (fun l => l.slice != c.home line),
                       sliceWaits := c.sliceWaits.filter (fun w => w.slice != c.home line) } : Chip).lineRead core tag line need priv pol
  | .ok d p c1 => .ok d p c1
  | .race t => .race t
  | .held => .held
  | .peer => .peer

/-- R303, R306, R309: why a lane's atomic may not be performed on its line (`c0` the chip before the instruction, `c1` after its translations): a
host AOP, an intent (those at a peer's line are the peer's to check), a poisoned line, a slice's full input. -/
def Atomic.blocked (a : Atomic) (i : Issue) (core tag : Nat) (h : Hit) (c0 c1 : Chip) (va pa : Nat) : Option Stop :=
  let raced : Option Stop := if 3 ≤ a.scope then
    (c1.meets core (lineOf pa) (needMask va [h])).map (fun t => c0.raceStop i a.op 3 h.lane va pa t) else none
  if tierOf pa = 2 ∧ ¬(a.aop = 0 ∨ a.aop = 8 ∨ a.aop = 16) then some (laneTrap i (syndrome 6 (opReason a.op 6)) h.lane h.addr)
  else if 2 ≤ tierOf pa then raced
  else if 3 ≤ a.scope then
    raced.or (if c1.linePois (lineOf pa) then some (poisonTrap i a.op (markAt va false) h.lane) else none)
  else
    match c1.lineRead core tag (lineOf pa) (needMask va [h]) a.priv a.pol with
    | .race t => some (c0.raceStop i a.op 1 h.lane va pa t)
    | .held => some .wait
    | .full => some (.park (c0.waitSlice (lineOf pa) core))
    | .peer => none
    | .ok _ p _ => if p then some (poisonTrap i a.op (markAt va false) h.lane) else none

/-- Whether a stop is a trap. -/
def Stop.isTrap : Stop → Bool
  | .trap _ _ _ _ => true
  | .trapOn _ _ _ _ _ => true
  | _ => false

/-- What a peer has found of the bytes of a lane's atomic, of the instruction in issue. -/
def Chip.checkedAt (c : Chip) (i : Issue) (pa : Nat) : Option PeerCheck :=
  c.cleared.find? (fun x => x.who == partyOf i.eng i.lanes && x.gang == c.gangOf i.eng && x.pos == i.pos && x.line == pa)

/-- R116, R144, R303: the syndrome that a peer's check of an atomic's bytes brings: RACE, POISON, REMOTE. -/
def Atomic.checkSyndrome (a : Atomic) (reason : Nat) : Nat :=
  if reason = 0x800C then poisonSyn a.op
  else if 0x8000 ≤ reason then syndrome 8 (opReason a.op (if 3 ≤ a.scope then 3 else 1)) else syndrome 0x0D (opReason a.op reason)

/-- R303, R309: the checks of every lane's line, by lane, before any lane is performed; those of a peer's lines have been answered. -/
def Atomic.stops (a : Atomic) (i : Issue) (core tag : Nat) (hs : List Hit) (c0 c1 : Chip) (pas : List (Nat × Nat)) : List (Nat × Stop) :=
  hs.filterMap (fun h => (pas.find? (fun p => p.1 == h.addr / 64 * 64)).bind (fun p =>
    (match (c0.checkedAt i (lineOf p.2 + h.addr % 64)).bind (fun x => x.fail) with
      | some why => some (laneTrap i (a.checkSyndrome why) h.lane (if why = 0x800C then markAt p.1 false else if 0x8000 ≤ why then p.1 else 0))
      | none => a.blocked i core tag h c0 c1 p.1 p.2).map (fun st => (h.lane, st))))

/-- R8, R303, R309: what the checks of every line come to: the fault of the lowest faulting lane, else a wait. -/
def Atomic.check (a : Atomic) (i : Issue) (core tag : Nat) (hs : List Hit) (c0 c1 : Chip) (pas : List (Nat × Nat)) : Option Stop :=
  let l := a.stops i core tag hs c0 c1 pas
  match l.foldl (fun (r : Option (Nat × Stop)) x => if !x.2.isTrap then r else match r with
      | none => some x
      | some y => if x.1 < y.1 then some x else some y) none with
  | some x => some x.2
  | none => l.head?.map (fun x => x.2)

/-- The request a lane's atomic makes of a peer. -/
def Atomic.request (a : Atomic) (v1 v2 : Nat) : ReqKind :=
  if a.aop = 16 then .cas (a.w == 8) (dw v1) (dw v2) else .atomic (BitVec.ofNat 4 a.aop) (a.w == 8) (dw v1)

/-- R351: whether a lane's access touches the TAIL of a control block. -/
def Hit.tail (h : Hit) : Bool := decide (h.addr % 64 < 24) && decide (16 < h.addr % 64 + h.n)

/-- R351: whether an atomic of a lane counts as a write of TAIL. -/
def Atomic.tails (a : Atomic) (h : Hit) : Bool := a.op = 0x88 && (a.aop = 4 || a.aop = 8) && a.w = 8 && h.addr % 64 = 16

/-- R351: lanes at a ring's control block: a counted write takes the maximum, another write of TAIL is discarded. -/
def Atomic.tailRmw (a : Atomic) (mine : List Hit) (v1 : Nat → Nat) (f : LaneRmw) : LaneRmw := fun l old =>
  match mine.find? (fun h => h.lane == l) with
  | none => f l old
  | some h => if a.tails h then some (max old (v1 l)) else if h.tail then none else f l old

/-- R351: TAIL after the lanes of an atomic, each of which wakes the ring; the stale and the discarded ones are counted. -/
def Chip.tailDone (c : Chip) (ring line : Nat) (a : Atomic) (mine : List Hit) (v1 : Nat → Nat) (olds : List (Nat × Nat)) (d : Nat) (cid : DWord) : Chip :=
  olds.foldl (fun (x : Chip) o => match mine.find? (fun h => h.lane == o.1) with
    | none => x
    | some h =>
      if a.tails h then (if v1 o.1 ≤ o.2 then x.tailStale ring else x.wakeRing ring)
      else if h.tail then (x.tailStale ring).emitUnit 0 0x28 (dw (ring * 2 ^ 58 + v1 o.1 % 2 ^ 58)) (some cid) else x)
    (c.wrMem (line + 16) 8 (bitsAt d 128 64))

/-- R309, R310: what a lane's atomic makes of the old value, its operands given by lane. -/
def Atomic.rmw (a : Atomic) (v1 v2 : Nat → Nat) : LaneRmw := fun l old =>
  if a.aop = 16 then (if old = v1 l then some (v2 l) else none) else some (applyAop a.aop a.w old (v1 l))

/-- R306, R307: the lanes of one line of this device or of the host, performed where scope and address say; the chip, old values by lane, the
line of an overlap that an implicit release found. R222: a written-through line's bytes stay valid in the L1. -/
def Atomic.line (a : Atomic) (core tag : Nat) (cid : DWord) (who : Storer) (v1 v2 : Nat → Nat) (mine : List Hit) (va pa : Nat) (c : Chip) :
    Chip × List (Nat × Nat) × Option Nat :=
  let line := lineOf pa
  let f := a.rmw v1 v2
  if tierOf pa = 2 then
    let (olds, d, m) := rmwLine f mine (c.homeBytes line).toNat 0
    let c1 := (c.dirtied core tag va m).l1Through core tag line m (BitVec.ofNat 512 d) a.priv
    ({ c1 with hostMem := writeMasked m.toNat (BitVec.ofNat 512 d) (line % 2 ^ 64) 64 0 c1.hostMem,
               hostOut := c1.hostOut ++ mine.map (fun h => .outAtomic (line % 2 ^ 64 + h.addr % 64) a.aop a.w
                 (if a.aop = 16 then [v1 h.lane, v2 h.lane] else [v1 h.lane])) }, olds, none)
  else if 3 ≤ a.scope then
    let c1 := (c.flushLine core tag line).sliceTouch core line a.pol
    let ring := c1.ringAt line
    let (olds, d, m) := rmwLine (if ring.isSome then a.tailRmw mine v1 f else f) mine (c1.homeBytes line).toNat 0
    let c1d := c1.dirtied core tag va m
    let c2 := match ring with
      | none => c1d.homeWrite line m (BitVec.ofNat 512 d) false (some cid)
      | some r => (c1d.homeWrite line (m &&& ~~~0xFF0000#64) (BitVec.ofNat 512 d) false (some cid)).tailDone r line a mine v1 olds d cid
    (c2.invalidate line (c2.filterMask line), olds, none)
  else
    match c.lineReadNow core tag line (needMask va mine) a.priv a.pol with
    | .ok d0 _ c1 =>
      let (olds, d, m) := rmwLine f mine d0.toNat 0
      if m = 0 then (c1, olds, none)
      else
        let (c2, race) := (c1.dirtied core tag va m).lineWrite core tag line m (BitVec.ofNat 512 d) a.priv a.pol cid who
        (c2, olds, race)
    | .race _ => (c, [], none)
    | .held => (c, [], none)
    | .peer => (c, [], none)
    | .full => (c, [], none)

/-- R307: the lanes of an atomic in the order in which they are performed: by line, lanes on one line by lane. -/
def atomLanes (hs : List Hit) (v1 v2 : Nat → Nat) (pas : List (Nat × Nat)) : List AtomLane :=
  pas.flatMap (fun p => (hs.filter (fun h => h.addr / 64 * 64 == p.1)).map (fun h =>
    { lane := h.lane, va := h.addr, pa := lineOf p.2 + h.addr % 64, v1 := v1 h.lane, v2 := v2 h.lane }))

/-- A lane's operand among those still to be performed. -/
def operandOf (l : List AtomLane) (f : AtomLane → Nat) (lane : Nat) : Nat := ((l.find? (fun x => x.lane == lane)).map f).getD 0

/-- R222, R306, R307: the lanes of an atomic in order, line by line, as far as one that a peer performs, which is asked for operation `who.id`; the
chip, old values by lane, the line of an overlap that an implicit release found, and the lanes that follow. The first number bounds the
lines. -/
def Atomic.run (a : Atomic) (core tag : Nat) (cid : DWord) (who : Storer) : Nat → List AtomLane → Chip →
    Chip × List (Nat × Nat) × Option Nat × List AtomLane
  | 0, ls, c => (c, [], none, ls)
  | _, [], c => (c, [], none, [])
  | n + 1, x :: xs, c =>
    if tierOf x.pa = 3 then
      ((c.l1Forget core tag (lineOf x.pa) (needMask (x.va / 64 * 64) [{ lane := x.lane, addr := x.va, n := a.w }]) a.priv).ask x.pa
        (a.request x.v1 x.v2) who.who who.id x.lane a.op tag (if 6 ≤ a.scope && !a.rel then 0 else 2) a.w cid (x.va / 64 * 64) who.pos
        false a.rel, [], none, xs)
    else
      let here (y : AtomLane) : Bool := y.va / 64 == x.va / 64
      let mine := (x :: xs).filter here
      let (c1, o1, r1) := a.line core tag cid who (operandOf mine (fun y => y.v1)) (operandOf mine (fun y => y.v2))
        (mine.map (fun y => { lane := y.lane, addr := y.va, n := a.w })) (x.va / 64 * 64) x.pa c
      let (c2, o2, r2, rest) := Atomic.run a core tag cid who n (xs.filter (fun y => !here y)) c1
      (c2, o1 ++ o2, r1.or r2, rest)

/-- R303, R309: an atomic has each of its lines at a peer checked there before any lane is performed: what is still to be asked, or awaited; none once
all of it has been answered. -/
def Atomic.peerCheck (a : Atomic) (i : Issue) (tag : Nat) (hs : List Hit) (pas : List (Nat × Nat)) (c : Chip) : Option Stop :=
  let who := partyOf i.eng i.lanes
  let pa (h : Hit) : Nat := ((pas.find? (fun p => p.1 == h.addr / 64 * 64)).map (fun p => lineOf p.2)).getD 0 + h.addr % 64
  let todo := hs.filter (fun h => tierOf (pa h) == 3 && (c.checkedAt i (pa h)).isNone)
  if todo = [] then none
  else
    let (c1, cid) := c.holdCid i
    some (.park (todo.foldl (fun (x : Chip) h =>
      if x.remotes.any (fun r => r.who == who && r.pos == i.pos && r.kind == .check a.w && r.dst == (peerOf (pa h)).1 && r.off == (peerOf (pa h)).2)
      then x else x.ask (pa h) (.check a.w) who none h.lane a.op tag 2 a.w cid (h.addr / 64 * 64) i.pos) c1))

/-- The lines of an atomic that peers have checked are used. -/
def Chip.useChecked (c : Chip) (i : Issue) : Chip :=
  { c with cleared := c.cleared.filter (fun x => !(x.who == partyOf i.eng i.lanes && x.pos == i.pos)) }

/-- R138, R223: whether a peer write or atomic of a core is still unacknowledged. -/
def Chip.peerBusy (c : Chip) (core : Nat) : Bool :=
  c.remotes.any (fun r => r.dst != 2 ^ 22 && (match r.kind with
    | .read _ => false
    | .waitph _ => false
    | .check _ => false
    | .prefetch => false
    | _ => true) && (match r.who with
    | .lanes n _ _ => n == core
    | .matrix n => n == core
    | .drayStream n => n == core
    | .drayQueue n _ => n == core
    | .coachman => false
    | .mail _ => false))

/-- R302, step 5: what peers have found for the release of a party of a gang that is now performed. -/
def Chip.takePeerRace (c : Chip) (who : Party) (gang : Nat) (pos : Pos) : Chip × Option Nat :=
  ({ c with peerRaces := c.peerRaces.filter (fun r => !(r.who == who && r.gang == gang && r.pos == pos)) },
   (c.peerRaces.find? (fun r => r.who == who && r.gang == gang && r.pos == pos)).map (fun r => r.line))

/-- A release by a lane set or stream at a scope: at system scope it waits for the core's peer writes (R223) and for the peers that it has
told (R302, step 4). `cid` is the instruction's causal ID, where it has taken one. The chip and the line of an overlap. -/
def Chip.releaseFor (c : Chip) (i : Issue) (op scope : Nat) (cid : Option DWord) : Except Stop (Chip × Option Nat) :=
  if scope < 6 then .ok (c.releaseBy i.eng scope cid)
  else if c.peerBusy i.eng.core then .error .wait
  else
    let done : Chip × Option Nat :=
      let (c0, kept) := c.takeCid i
      let (c1, r1) := c0.releaseBy i.eng scope (cid.or kept)
      let (c2, r2) := c1.takePeerRace (partyOf i.eng i.lanes) (c.gangOf i.eng) i.pos
      (c2, r1.or r2)
    if c.owedBy i.eng.owner i.eng.core = [] then .ok done
    else
      let (c1, id) := match cid with
        | some x => (c.keepCid i x, x)
        | none => c.holdCid i
      .error (.park (c1.tellPeers i.eng.owner i.eng.core (partyOf i.eng i.lanes) op (c.tagOf (c.gangOf i.eng)) id i.pos))

/-- An acquire by a lane set (R224); a Dray or matrix stream reads at the home slices and the banks. -/
def Chip.acquireBy (c : Chip) (e : Eng) (scope : Nat) : Chip :=
  match e with
  | .warp n _ => c.acquire n scope
  | .matrix _ => c
  | .copy _ => c

/-- A release where SEM asks for it (R309). -/
def semRelease (op : Nat) (sem : BitVec 2) (scope : Nat) (cid : Option DWord) (i : Issue) (c : Chip) : Except Stop (Chip × Option Nat) :=
  if sem = 2#2 ∨ sem = 3#2 then c.releaseFor i op scope cid else .ok (c, none)

/-- An acquire where SEM asks for it (R309). -/
def semAcquire (sem : BitVec 2) (scope : Nat) (i : Issue) (c : Chip) : Chip :=
  if sem = 1#2 ∨ sem = 3#2 then c.acquireBy i.eng scope else c

/-- R308: the operand width of a record. -/
def atomWidth (aop : Nat) (r : Rec) : Nat := if aop = 9 then 4 else if 8 ≤ r.esize then 8 else 4

/-- R307: whether an earlier atomic of the lanes in issue has not been performed yet: at a peer, or on a bank held by its scoreboard. -/
def Chip.atomicBusy (c : Chip) (i : Issue) : Bool :=
  c.ops.any (fun o => o.eng == i.eng && (o.mask &&& i.lanes) != 0 && (o.hold || o.late.isSome)
    && (o.code == 0x88 || o.code == 0x89 || o.code == 0x8A || o.code == 0x95))

/-- R308-R310, R312, R313: an atomic instruction. `d` is the destination, absent for REDM; `k` is how many operands of the width V holds. -/
def atomOp (op aop : Nat) (scope : BitVec 3) (sem : BitVec 2) (g : Guard) (d : Option Reg) (q : BitVec 5) (x v : Reg) (k : Nat) (i : Issue)
    (c : Chip) : Except Stop Chip :=
  let flag := flagSeta i.hdr
  let form (n nv : Nat) : Form := { op := op, g := g, hq := false, d := d.map (fun r => (r, n)), ud := .rule,
                                    srcs := [srcX x, { code := v, field := 5, n := nv, ia := false }] }
  withFlag c i flag (match prepLanes (form 1 1) i c with
    | .error e => .error e
    | .ok p0 =>
      if p0.act = 0 then .ok (c.issueOp i (Op.blank op flag (c.nextCid i.eng).2))
      else
        match recFor i c p0 op q true with
        | .error e => .error e
        | .ok r =>
          let w := atomWidth aop r
          if r.esize < 4 then .error (p0.atLow i (syndrome 4 (opReason op 2)) ((srcX x).val p0.w (lowLane p0.act)))
          else
            match prepLanes (form (w / 4) (k * (w / 4))) i c with
            | .error e => .error e
            | .ok p =>
              if c.atomicBusy i then .error .wait
              else
              match p.addrs i (fun l => r.addr op ((srcX x).val p.w l) 0 w) p.parts with
              | .error e => .error e
              | .ok as =>
                let hs := hitsOf w as
                let tag := c.tagOf p.w.gang
                let a : Atomic := { op := op, aop := aop, scope := scope.toNat, rel := sem.getLsbD 1, w := w, pol := r.pol, priv := r.priv }
                match translateAll i op p.core tag (if aop = 16 then .cas else .atomic) r.pol hs (linesOf hs) c with
                | .error e => .error e
                | .ok (pas, c1) =>
                  match a.peerCheck i tag hs pas c with
                  | some st => .error st
                  | none =>
                  match a.check i p.core tag hs c c1 pas, d, flag with
                  -- R313: a reduction whose lane set goes on issuing fails after it has been posted
                  | some (.trapOn c' syn ln ad _), none, some f =>
                    .ok ((c'.useChecked i).issueOp i { Op.blank op (some f) (c'.nextCid i.eng).2 with fail := some (BitVec.ofNat 32 syn, dw ad, ln) })
                  | some (.trap syn ln ad m), none, some f =>
                    if syn / 2 ^ 24 = 0x0C then
                      .ok ((c1.useChecked i).issueOp i { Op.blank op (some f) (c1.nextCid i.eng).2 with fail := some (BitVec.ofNat 32 syn, dw ad, ln) })
                    else .error (.trap syn ln ad m)
                  | some st, _, _ => .error st
                  | none, _, _ =>
                    let (c2, cid) := c1.issueCid i
                    match semRelease op sem scope.toNat (some cid) i c2 with
                    | .error e => .error e
                    | .ok (c3r, race0) =>
                      let c3 := c3r.useChecked i
                      let operand (j l : Nat) : Nat := p.w.regs (v.toNat + j * (w / 4)) l (w / 4)
                      let who : Storer := { who := partyOf i.eng i.lanes, op := op, tag := tag, pos := i.pos, id := some c3.nextOp }
                      let todo := atomLanes hs (operand 0) (operand 1) pas
                      let (c4, olds, race, rest) := a.run p.core tag cid who todo.length todo c3
                      let sent := c4.opAsks c3.nextOp
                      let old (l : Nat) : Nat := ((olds.find? (fun o => o.1 == l)).map (fun o => o.2)).getD 0
                      let vs := as.map (fun t => (t.1, old t.1, false))
                      -- the acquire follows the last lane, at a peer when it has replied
                      let o := { Op.blank op flag cid with hold := sent, race := race0.or race,
                                                           late := if rest = [] then none else some { touch := [], work := .atomics a tag rest },
                                                           acq := if sent && sem.getLsbD 0 then scope.toNat else 0,
                                                           long := 3 ≤ a.scope || pas.any (fun t => 2 ≤ tierOf t.2) || c.misses p.core tag hs pas }
                      let c5 := c4.intendedBy p.slot cid
                      .ok ((if sent then c5 else semAcquire sem scope.toNat i c5).issueOp i (match d with
                        | none => o
                        | some r => o.dest r (w / 4) p.once vs)))

/-- ATOM (R309). -/
def execAtom (g : Guard) (aop : BitVec 4) (scope : BitVec 3) (sem : BitVec 2) (d : Reg) (q : BitVec 5) (x v : Reg) (s : State) :
    Host.Outcome State Fault Refusal :=
  runIssue s (atomOp 0x88 aop.toNat scope sem g (some d) q x v 1)

/-- ATOMC (R310). -/
def execAtomc (g : Guard) (scope : BitVec 3) (sem : BitVec 2) (d : Reg) (q : BitVec 5) (x v : Reg) (s : State) :
    Host.Outcome State Fault Refusal :=
  runIssue s (atomOp 0x89 16 scope sem g (some d) q x v 2)

/-- REDM (R312). -/
def execRedm (g : Guard) (aop : BitVec 4) (scope : BitVec 3) (sem : BitVec 2) (q : BitVec 5) (x v : Reg) (s : State) :
    Host.Outcome State Fault Refusal :=
  runIssue s (atomOp 0x8A aop.toNat scope sem g none q x v 1)

/-- R314: whether an access of the lanes in issue has not been performed yet: it waits for a peer, or for its bank. -/
def Chip.laneBusy (c : Chip) (i : Issue) : Bool :=
  c.ops.any (fun o => o.eng == i.eng && (o.mask &&& i.lanes) != 0 && (o.late.isSome || (o.hold && 0x80 ≤ o.code && o.code < 0x8B)))

/-- FENCE (R314): once every earlier access of the lanes has been performed, release, then acquire, once per issued lane set. -/
def execFence (scope : BitVec 3) (sem : BitVec 2) (s : State) : Host.Outcome State Fault Refusal :=
  runIssue s (fun i c =>
    let flag := flagSeta i.hdr
    withFlag c i flag (
      if c.laneBusy i then .error .wait
      else
        match semRelease 0x8B sem scope.toNat none i c with
        | .error e => .error e
        | .ok (c1, race) =>
          .ok ((semAcquire sem scope.toNat i c1).issueOp i { Op.blank 0x8B flag (c.nextCid i.eng).2 with
            race := race, long := 3 ≤ scope.toNat })))

end Sys2Proof.Machine
end

