-- ==== Sys2Proof/Machine/Banks.lean ====
section
/-! DEFINITION. Banks: their bytes, window slots, the range scoreboard, bank loads, stores and atomics, GIVE, TAKE, RELB and BMAPR (R189-R202,
R311). -/

namespace Sys2Proof.Machine

open Sys2Proof

/-- A bank of a cluster's pool. -/
def Chip.bank (c : Chip) (cl b : Nat) : Bank := aget Bank.zero (c.cluster cl).banks b
/-- The chip with a bank replaced. -/
def Chip.setBank (c : Chip) (cl b : Nat) (k : Bank) : Chip :=
  c.setCluster cl { c.cluster cl with banks := aput Bank.zero (c.cluster cl).banks b k }
/-- A window slot of a core. -/
def Chip.win (c : Chip) (core slot : Nat) : Win := aget Win.zero (c.core core).win slot
/-- The chip with a window slot replaced. -/
def Chip.setWin (c : Chip) (core slot : Nat) (w : Win) : Chip :=
  c.setCore core { c.core core with win := aput Win.zero (c.core core).win slot w }

/-- R198: the bank attached at a window slot, as a landing byte finds it: a bank that a GIVE is draining is still there. -/
def Chip.bankAt (c : Chip) (core slot : Nat) : Option Nat :=
  ((c.cluster (clusterOf core)).banks.find? (fun p => p.2.at_ == some (core, slot))).map (fun p => p.1)

/-- `n` bytes of a bank. -/
def Bank.read (b : Bank) (off n : Nat) : Nat := natOfBytes (agetN 0 b.data off n)

/-- R115: whether a range of a bank holds a marked granule. -/
def Bank.marked (b : Bank) (off n : Nat) : Bool :=
  b.pois.any (fun p => p.2 && off / 64 ≤ p.1 && p.1 ≤ (off + n - 1) / 64)

/-- Bytes written one by one. -/
def putBytes : AMap Byte → List (Nat × Byte) → AMap Byte
  | m, [] => m
  | m, (a, b) :: r => putBytes (aput 0 m a b) r

/-- R115, R116: bytes of one instruction or copy written into a bank: a granule in `marks` becomes marked; another that is written whole
loses its mark. -/
def Bank.write (b : Bank) (bytes : List (Nat × Byte)) (marks : List Nat) : Bank :=
  let gs := ((marks ++ b.pois.map (fun p => p.1)).eraseDups).filter (fun g => bytes.any (fun p => p.1 / 64 == g))
  { b with data := putBytes b.data bytes,
           pois := gs.foldl (fun m g =>
             if marks.contains g then aput false m g true
             else
               let mine := bytes.filter (fun p => p.1 / 64 == g)
               if (List.range 64).all (fun k => mine.any (fun p => p.1 == g * 64 + k)) then aput false m g false else m) b.pois }

/-- The bytes of a value at an offset. -/
def bytesAt (off n v : Nat) : List (Nat × Byte) := (bytesOf n v).zipIdx.map (fun p => (off + p.2, p.1))

/-- Whether two accesses to a bank meet in bytes that one of them writes. -/
def Touch.meets (t u : Touch) : Bool := t.bank == u.bank && t.lo ≤ u.hi && u.lo ≤ t.hi && (t.w || u.w)

/-- R191, R194, R267: whether bank work of a core may be performed: no live scoreboard entry holds an offset it touches, and no earlier
work of the core on the same bytes is still to be performed. -/
def Chip.bankReady (c : Chip) (core opId : Nat) (ts : List Touch) : Bool :=
  !(c.core core).score.any (fun e => ts.any (fun t => t.slot == e.slot && t.lo ≤ e.hi && e.lo ≤ t.hi))
  && !c.ops.any (fun o => o.id < opId && o.eng.core == core && (match o.late with
    | none => false
    | some l => l.touch.any (fun t => ts.any (fun u => t.meets u))))

/-- R190: the declared slots of an engine's group; a child has none. -/
def Chip.bcount (c : Chip) (e : Eng) : Nat := ((c.placement e).map (fun g => g.bcount)).getD 0
/-- R189: the physical slot of a group's slot index. -/
def Chip.physSlot (c : Chip) (e : Eng) (j : Nat) : Nat := ((c.placement e).map (fun g => g.bbase)).getD 0 + j

/-- R202: where a bank address leads: its slot and bank, or the fault's syndrome. `write` asks for W. -/
def Chip.bankCheck (c : Chip) (e : Eng) (op a n : Nat) (write : Bool) : Except Nat (Nat × Nat) :=
  if 2 ^ 32 ≤ a || bitsAt a 20 9 != 0 then .error (syndrome 4 (opReason op 4))
  else if a % n ≠ 0 then .error (syndrome 0x0B (opReason op 0))
  else if c.bcount e ≤ a / 2 ^ 29 then .error (syndrome 7 (opReason op 2))
  else
    let s := c.physSlot e (a / 2 ^ 29)
    let w := c.win e.core s
    if !w.v then .error (syndrome 7 (opReason op 1))
    else if write && !w.w then .error (syndrome 6 (opReason op 7))
    else .ok (s, w.bank)

/-- R202: where a lane's bank address leads, or the fault with what TR.ADDR holds. -/
def Chip.bankAddr (c : Chip) (e : Eng) (op n : Nat) (write : Bool) (a : Int) : Except (Nat × Nat) (Nat × Nat) :=
  if a < 0 then .error (syndrome 4 (opReason op 4), wrapInt 64 a)
  else match c.bankCheck e op a.toNat n write with
    | .error syn => .error (syn, a.toNat)
    | .ok r => .ok r

/-- The fault of a lane's bank address. -/
def bankFault : Except (Nat × Nat) (Nat × Nat) → Option (Nat × Nat)
  | .error f => some f
  | .ok _ => none

/-- R202: the lanes' bank accesses; the lowest faulting lane stops all (R8). -/
def Prep.bankAccs (p : Prep) (i : Issue) (c : Chip) (op n : Nat) (write : Bool) (addr val : Nat → Int) : Except Stop (List (Touch × BankAcc)) :=
  match p.lowest (fun l => bankFault (c.bankAddr i.eng op n write (addr l))) p.parts with
  | some (l, syn, a) => .error (laneTrap i syn l a)
  | none => .ok (p.parts.filterMap (fun l => match c.bankAddr i.eng op n write (addr l) with
    | .error _ => none
    | .ok (s, b) =>
      let off := (addr l).toNat % 2 ^ 20
      some ({ slot := s, bank := b, lo := off, hi := off + n - 1, w := write },
            { lane := l, bank := b, off := off, n := n, val := (val l).toNat })))

/-- R202: the stores of an instruction, in ascending lane order, bank by bank. -/
def Chip.bankStore (c : Chip) (cl : Nat) (accs : List BankAcc) : Chip :=
  ((accs.map (fun a => a.bank)).eraseDups).foldl (fun (d : Chip) b =>
    d.setBank cl b ((d.bank cl b).write ((accs.filter (fun a => a.bank == b)).flatMap (fun a => bytesAt a.off a.n a.val)) [])) c

/-- R311: the atomics of an instruction, lane by lane: old values by lane. -/
def Chip.bankAtomics (cl aop : Nat) : List BankAcc → Chip → Chip × List (Nat × Nat × Bool)
  | [], c => (c, [])
  | a :: as, c =>
    let old := (c.bank cl a.bank).read a.off a.n
    let c1 := c.setBank cl a.bank ((c.bank cl a.bank).write (bytesAt a.off a.n (applyAop aop a.n old a.val)) [])
    let (c2, r) := Chip.bankAtomics cl aop as c1
    (c2, (a.lane, old, false) :: r)

/-- R191, R202, R311, R116: lane accesses performed in the banks: the chip, the operation with its register writes, and the lowest lane whose
atomic met a marked granule. -/
def Chip.bankPerform (c : Chip) (o : Op) (aop : Nat) (accs : List BankAcc) (d nr : Nat) (once : Bool) (acq : Nat) : Chip × Op × Option Nat :=
  let core := o.eng.core
  let cl := clusterOf core
  let reg : Reg := BitVec.ofNat 10 d
  if o.code = 0x85 then
    (c, ({ o with late := none } : Op).dest reg nr once (accs.map (fun (a : BankAcc) =>
      (a.lane, (c.bank cl a.bank).read a.off a.n, (c.bank cl a.bank).marked a.off a.n))), none)
  else if o.code = 0x86 then (c.bankStore cl accs, { o with late := none }, none)
  else match accs.find? (fun a => (c.bank cl a.bank).marked a.off a.n) with
    | some a => (c, { o with late := none }, some a.lane)
    | none =>
      let (c1, olds) := Chip.bankAtomics cl aop accs c
      (c1.acquire core acq, ({ o with late := none } : Op).dest reg nr once olds, none)

/-- Lane accesses to banks, performed at issue where R191 and R194 let them be, else with their operation. Until they are, the registers
they will write stand in the operation's writes, so that R46's interlock sees them. -/
def bankIssue (i : Issue) (c : Chip) (o : Op) (aop : Nat) (as : List (Touch × BankAcc)) (d nr : Nat) (once : Bool) (acq : Nat) :
    Except Stop Chip :=
  let ts := as.map (fun a => a.1)
  let accs := as.map (fun a => a.2)
  let o1 := { o with eng := i.eng }
  if c.bankReady i.eng.core c.nextOp ts then
    match c.bankPerform o1 aop accs d nr once acq with
    | (c1, o2, none) => .ok (c1.issueOp i o2)
    | (_, _, some l) => .error (laneTrap i (poisonSyn o.code) l 0)
  else
    let o2 := if o.code = 0x86 then o1 else o1.dest (BitVec.ofNat 10 d) nr once (accs.map (fun a => (a.lane, 0, false)))
    .ok (c.issueOp i { o2 with late := some { touch := ts, work := .lanes aop accs d nr once acq } })

/-- LDB (R202). -/
def execLdb (g : Guard) (fsel sz : BitVec 2) (d x : Reg) (off : BitVec 15) (s : State) : Host.Outcome State Fault Refusal :=
  runIssue s (fun i c =>
    let flag := flagOf i.hdr fsel.toNat
    let nr := if sz = 3#2 then 2 else 1
    withFlag c i flag (match prepLanes { op := 0x85, g := g, hq := false, d := some (d, nr), ud := .rule, srcs := [srcX x] } i c with
      | .error e => .error e
      | .ok p =>
        match p.bankAccs i c 0x85 (szBytes sz) false (fun l => ((srcX x).val p.w l : Nat) + off.toInt * (szBytes sz : Nat)) (fun _ => 0) with
        | .error e => .error e
        | .ok as =>
          let (c1, cid) := c.nextCid i.eng
          bankIssue i c1 (Op.blank 0x85 flag cid) 0 as d.toNat nr p.once 0))

/-- STB (R202). -/
def execStb (g : Guard) (fsel sz : BitVec 2) (d x : Reg) (off : BitVec 15) (s : State) : Host.Outcome State Fault Refusal :=
  runIssue s (fun i c =>
    let flag := flagOf i.hdr fsel.toNat
    let nr := if sz = 3#2 then 2 else 1
    withFlag c i flag (match prepLanes { op := 0x86, g := g, hq := false, d := none, ud := .rule,
                                         srcs := [{ code := d, field := 0, n := nr, ia := false }, srcX x] } i c with
      | .error e => .error e
      | .ok p =>
        match p.bankAccs i c 0x86 (szBytes sz) true (fun l => ((srcX x).val p.w l : Nat) + off.toInt * (szBytes sz : Nat))
            (fun l => (p.w.regs d.toNat l nr % 2 ^ (8 * szBytes sz) : Nat)) with
        | .error e => .error e
        | .ok as =>
          let (c1, cid) := c.nextCid i.eng
          bankIssue i c1 (Op.blank 0x86 flag cid) 0 as d.toNat nr p.once 0))

/-- ATOMW (R311). -/
def execAtomw (g : Guard) (w8 : Bool) (aop : BitVec 4) (scope : BitVec 3) (sem : BitVec 2) (d x v : Reg) (s : State) :
    Host.Outcome State Fault Refusal :=
  runIssue s (fun i c =>
    let flag := flagSeta i.hdr
    let w := if w8 then 8 else 4
    withFlag c i flag (match prepLanes { op := 0x95, g := g, hq := false, d := some (d, w / 4), ud := .rule,
                                         srcs := [srcX x, { code := v, field := 5, n := w / 4, ia := false }] } i c with
      | .error e => .error e
      | .ok p =>
        match p.bankAccs i c 0x95 w true (fun l => ((srcX x).val p.w l : Nat)) (fun l => (p.w.regs v.toNat l (w / 4) : Nat)) with
        | .error e => .error e
        | .ok as =>
          if c.atomicBusy i then .error .wait else
          let (c0, cid) := c.nextCid i.eng
          match semRelease 0x95 sem scope.toNat (some cid) i c0 with
          | .error e => .error e
          | .ok (c1, race) =>
            bankIssue i c1 { Op.blank 0x95 flag cid with race := race } aop.toNat as d.toNat (w / 4) p.once
              (if sem = 1#2 ∨ sem = 3#2 then scope.toNat else 0)))

/-- R196: the status a bank-map instruction writes when it completes. -/
def statusOp (code : Nat) (flag : Option Nat) (cid : DWord) (d : Reg) (st : Nat) : Op :=
  { Op.blank code flag cid with uwrites := [(d.toNat - 960, BitVec.ofNat 32 st, false)] }

/-- R195: the common path of GIVE, TAKE and RELB: uniform operands, run once; `f` answers the operation from the chip and A's value. -/
def bankMapOp (op : Nat) (g : Guard) (fsel : BitVec 2) (d : Reg) (srcs : List Src) (i : Issue) (c : Chip)
    (f : Prep → Chip → DWord → Option Nat → Except Stop Chip) : Except Stop Chip :=
  let flag := flagOf i.hdr fsel.toNat
  withFlag c i flag (
    if !isU d.toNat then .error (laneTrap i (regSyn op 0 d.toNat) (lowLane i.lanes) 0)
    else
      match prep { op := op, g := g, hq := false, d := some (d, 1), ud := .rule, srcs := srcs } i c with
      | .error e => .error e
      | .ok p =>
        let (c1, cid) := c.nextCid i.eng
        if p.act = 0 then .ok (c.issueOp i (Op.blank op flag cid)) else f p c1 cid flag)

/-- R197: whether no bank may be attached at a slot: one is, a GIVE has reserved it, or one is being drained there. -/
def Chip.slotTaken (c : Chip) (core slot : Nat) : Bool :=
  (c.win core slot).v || (c.win core slot).resv || (c.bankAt core slot).isSome

/-- R196, R197: the checks at the Turntable: the status that refuses, or none. -/
def Chip.giveCheck (c : Chip) (core gang b : Nat) : Option Nat :=
  let rc := b % 512
  let rs := b / 2 ^ 16 % 8
  let mine := (((c.gang gang).map (fun k => k.groups)).getD []).filter (fun gr => !gr.retired)
  if bitsAt b 9 7 != 0 || bitsAt b 19 5 != 0 || bitsAt b 25 7 != 0 || !c.enabled rc || clusterOf rc != clusterOf core
      || !mine.any (fun gr => gr.core == rc) then some 4
  else if !mine.any (fun gr => gr.core == rc && gr.bbase ≤ rs && rs < gr.bbase + gr.bcount) then some 5
  else if c.slotTaken rc rs then some 1
  else none

/-- R192, R197, R199: a bank attached at a slot: GEN rises by one. -/
def Chip.attach (c : Chip) (core slot bank : Nat) (w : Bool) : Chip :=
  let cl := clusterOf core
  let c1 := c.setBank cl bank { c.bank cl bank with at_ := some (core, slot) }
  c1.setWin core slot { gen := (c.win core slot).gen + 1, w := w, v := true, bank := bank, resv := false }

/-- R192: a slot emptied; GEN stays. -/
def Chip.detach (c : Chip) (core slot : Nat) : Chip :=
  c.setWin core slot { c.win core slot with w := false, v := false, bank := 0 }

/-- GIVE (R197): past the decision point the bank is drained, and attached by GIVE_ATTACH. -/
def execGive (g : Guard) (fsel : BitVec 2) (d a b : Reg) (s : State) : Host.Outcome State Fault Refusal :=
  runIssue s (fun i c => bankMapOp 0x8E g fsel d [{ code := a, field := 1, n := 1, ia := false }, srcB b 1] i c (fun p c1 cid flag =>
    let j := p.w.reg a.toNat 0
    let bv := p.w.reg b.toNat 0
    let g0 := c.physSlot i.eng j
    let wn := c.win p.core g0
    if c.bcount i.eng ≤ j then .ok (c1.issueOp i (statusOp 0x8E flag cid d 3))
    else if !wn.v then .ok (c1.issueOp i (statusOp 0x8E flag cid d 2))
    else
      match c.giveCheck p.core p.w.gang bv with
      | some st => .ok (c1.issueOp i (statusOp 0x8E flag cid d st))
      | none =>
        let rc := bv % 512
        let rs := bv / 2 ^ 16 % 8
        let c2 := c1.setWin rc rs { c1.win rc rs with resv := true }
        let (c2r, race) := c2.releaseBy i.eng 3 (some cid)
        let c3 := c2r.detach p.core g0
        let gv : Give := { slot := g0, toCore := rc, toSlot := rs, bank := wn.bank, w := wn.w && !bv.testBit 24, op := c3.nextOp }
        let c4 := c3.setCore p.core { c3.core p.core with gives := (c3.core p.core).gives ++ [gv] }
        .ok (c4.issueOp i { statusOp 0x8E flag cid d 0 with hold := true, race := race })))

/-- R193: a bank zeroed before it passes to another context. -/
def Chip.claimBank (c : Chip) (cl b tag : Nat) : Chip :=
  let k := c.bank cl b
  if k.tag = some tag then c else c.setBank cl b { k with data := [], pois := [], tag := some tag }

/-- TAKE (R199). -/
def execTake (g : Guard) (fsel : BitVec 2) (d a : Reg) (s : State) : Host.Outcome State Fault Refusal :=
  runIssue s (fun i c => bankMapOp 0x8F g fsel d [{ code := a, field := 1, n := 1, ia := false }] i c (fun p c1 cid flag =>
    let j := p.w.reg a.toNat 0
    let s0 := c.physSlot i.eng j
    if c.bcount i.eng ≤ j then .ok (c1.issueOp i (statusOp 0x8F flag cid d 3))
    else if c.slotTaken p.core s0 then .ok (c1.issueOp i (statusOp 0x8F flag cid d 1))
    else
      match ((c.gang p.w.gang).map (fun k => k.reserve)).getD [] with
      | [] => .ok (c1.issueOp i (statusOp 0x8F flag cid d 6))
      | b :: rest =>
        let c2 := (c1.modGang p.w.gang (fun k => { k with reserve := rest })).claimBank (clusterOf p.core) b (c.tagOf p.w.gang)
        .ok ((c2.attach p.core s0 b true).issueOp i (statusOp 0x8F flag cid d 0))))

/-- RELB (R199): the slot is drained as by GIVE and the bank returns to the gang's reserve (receiver 512). -/
def execRelb (g : Guard) (fsel : BitVec 2) (d a : Reg) (s : State) : Host.Outcome State Fault Refusal :=
  runIssue s (fun i c => bankMapOp 0x90 g fsel d [{ code := a, field := 1, n := 1, ia := false }] i c (fun p c1 cid flag =>
    let j := p.w.reg a.toNat 0
    let s0 := c.physSlot i.eng j
    let wn := c.win p.core s0
    if c.bcount i.eng ≤ j then .ok (c1.issueOp i (statusOp 0x90 flag cid d 3))
    else if !wn.v then .ok (c1.issueOp i (statusOp 0x90 flag cid d 2))
    else
      let c2 := c1.detach p.core s0
      let gv : Give := { slot := s0, toCore := 512, toSlot := 0, bank := wn.bank, w := false, op := c2.nextOp }
      let c3 := c2.setCore p.core { c2.core p.core with gives := (c2.core p.core).gives ++ [gv] }
      .ok (c3.issueOp i { statusOp 0x90 flag cid d 0 with hold := true })))

/-- R192: the 64 bits of a bank-map register. -/
def Win.word (w : Win) : Nat := w.gen.toNat * 2 ^ 32 + (if w.v then (if w.w then 2 ^ 9 else 0) + 2 ^ 8 + w.bank else 0)

/-- BMAPR (R200): an acquire at cluster scope where it returns V = 1 (R197). -/
def execBmapr (g : Guard) (d : Reg) (j : BitVec 3) (s : State) : Host.Outcome State Fault Refusal :=
  runIssue s (fun i c =>
    if c.bcount i.eng ≤ j.toNat then .error (laneTrap i (syndrome 1 (opReason 0x91 9)) (lowLane i.lanes) 0)
    else
      match prep { op := 0x91, g := g, hq := false, d := some (d, 2), ud := .always, srcs := [] } i c with
      | .error e => .error e
      | .ok p =>
        let wn := c.win p.core (c.physSlot i.eng j.toNat)
        finish i p (p.write d.toNat 2 (fun _ => wn.word)) (if wn.v && p.act != 0 then c.acquire p.core 3 else c))

/-- R197: whether a drain is over: no work issued before, the chunks of a running MMAS among it, is still to be performed in the bank. -/
def Chip.drained (c : Chip) (core : Nat) (gv : Give) : Bool :=
  !c.ops.any (fun o => o.eng.core == core && (match o.late with
    | none => false
    | some l => l.touch.any (fun t => t.bank == gv.bank && t.slot == gv.slot)))

/-- An operation changed by its number. -/
def Chip.modOp (c : Chip) (id : Nat) (f : Op → Op) : Chip := { c with ops := c.ops.map (fun o => if o.id = id then f o else o) }

/-- GIVE_ATTACH (R197, R199): the drained bank of a slot attaches at its receiver, or returns to the gang's reserve; the status is then
written with the operation. -/
def execGiveAttach (core slot : Nat) (s : State) : Host.Outcome State Fault Refusal :=
  runChip s (fun c =>
    match (c.core core).gives.find? (fun gv => gv.slot == slot) with
    | none => c
    | some gv =>
      if !c.drained core gv || !((c.bank (clusterOf core) gv.bank).gang.bind c.gang).any (fun k => k.phase < 2) then c
      else
        let c1 := c.setCore core { c.core core with gives := (c.core core).gives.filter (fun x => x.op != gv.op) }
        let cl := clusterOf core
        let c2 := if gv.toCore = 512 then
            let b := c1.bank cl gv.bank
            let c3 := c1.setBank cl gv.bank { b with at_ := none }
            (match b.gang with
              | none => c3
              | some g => c3.modGang g (fun k => { k with reserve := k.reserve ++ [gv.bank] }))
          else c1.attach gv.toCore gv.toSlot gv.bank gv.w
        c2.modOp gv.op (fun o => { o with hold := false }))

end Sys2Proof.Machine
end

