-- ==== Sys2Proof/Machine/Barriers.lean ====
section
/-! DEFINITION. Barriers of cores and of memory: objects, phases, waiters, and the four barrier instructions of the three clause classes
(R203-R214, R391, R392). -/

namespace Sys2Proof.Machine

open Sys2Proof

/-- Where a barrier stands: a core's physical slot, an offset of device memory, an address at a peer. -/
inductive BarAt where
  | core (core slot : Nat)
  | mem (off : Nat)
  | peer (pa : Nat)
deriving DecidableEq, Repr

/-- R391: the node identifier of a core barrier. -/
def nidCore (dev core slot : Nat) : Nat := dev * 2 ^ 42 + 2 ^ 40 + slot * 2 ^ 9 + core
/-- R391: the node identifier of a memory barrier. -/
def nidMem (dev off : Nat) : Nat := dev * 2 ^ 42 + 2 * 2 ^ 40 + off / 64 % 2 ^ 36
/-- R391: the node identifier of a party. -/
def nidParty (dev core party set : Nat) : Nat := dev * 2 ^ 42 + 3 * 2 ^ 40 + set * 2 ^ 15 + party * 2 ^ 9 + core

/-- R391: the node identifier of a barrier. -/
def Chip.nidBar (c : Chip) (b : BarAt) : DWord :=
  match b with
  | .core n s => dw (nidCore c.priv.gwdev.toNat n s)
  | .mem off => dw (nidMem c.priv.gwdev.toNat off)
  | .peer pa => dw (nidMem (peerOf pa).1 (peerOf pa).2)

/-- R203: the 64 bytes of an object, as a number. -/
def Barrier.word (b : Barrier) : Nat :=
  b.phase.toNat + b.expect.toNat * 2 ^ 16 + b.arrived.toNat * 2 ^ 32 + b.flags.toNat * 2 ^ 48 + b.xbytes.toNat * 2 ^ 64
    + b.lbytes.toNat * 2 ^ 96 + b.decl.toNat * 2 ^ 128 + b.arr.toNat * 2 ^ 256 + b.src.toNat * 2 ^ 384

/-- R203: an object's fields from its 64 bytes, beside what its keeper holds. -/
def Barrier.ofWord (side : Barrier) (v : Nat) : Barrier :=
  { side with phase := BitVec.ofNat 16 v, expect := BitVec.ofNat 16 (v / 2 ^ 16), arrived := BitVec.ofNat 16 (v / 2 ^ 32),
              flags := BitVec.ofNat 16 (v / 2 ^ 48), xbytes := BitVec.ofNat 32 (v / 2 ^ 64), lbytes := BitVec.ofNat 32 (v / 2 ^ 96),
              decl := BitVec.ofNat 128 (v / 2 ^ 128), arr := BitVec.ofNat 128 (v / 2 ^ 256), src := BitVec.ofNat 128 (v / 2 ^ 384) }

/-- A barrier's object, its fields in memory where it is memory-resident. -/
def Chip.bar (c : Chip) (b : BarAt) : Barrier :=
  match b with
  | .core n s => aget Barrier.zero (c.core n).bars s
  | .mem off => Barrier.ofWord ((aget none c.memBars off).getD Barrier.zero) (c.homeBytes off).toNat
  | .peer _ => Barrier.zero

/-- The chip with a barrier's object replaced. -/
def Chip.setBar (c : Chip) (b : BarAt) (k : Barrier) : Chip :=
  match b with
  | .core n s => c.setCore n { c.core n with bars := aput Barrier.zero (c.core n).bars s k }
  | .mem off =>
    let c1 : Chip := { c with memBars := aput none c.memBars off (some k) }
    -- R115: a barrier operation is no store, so the line's mark stays
    ({ c1.homeWrite off (BitVec.allOnes 64) (BitVec.ofNat 512 k.word) false with pois := c.pois } : Chip).invalidate off (c.filterMask off)
  | .peer _ => c

/-- The device unit that keeps a barrier (R382): its cluster's Turntable or its home slice. -/
def Chip.barUnit (c : Chip) (b : BarAt) : Nat :=
  match b with
  | .core n _ => 8 + clusterOf n
  | .mem off => 64 + c.home off
  | .peer _ => 3

/-- R207: the check of a phase: the object, and whether the phase completed. -/
def Barrier.check (b : Barrier) : Barrier × Bool :=
  if b.arrived = b.expect && b.flags &&& 0xFFF = 0 && b.lbytes = b.xbytes then
    ({ b with phase := b.phase + 1, arrived := 0, xbytes := 0, lbytes := 0, arr := 0, since := 0, cid := 0, passed := false }, true)
  else (b, false)

/-- A wait record whose barrier is woken. -/
def WaitRec.wake (on : DWord) (w : WaitRec) : WaitRec := if w.state = 1 ∧ w.on = on then { w with met := true } else w

/-- The lanes of a warp with their waits woken. -/
def Warp.wake (on : DWord) (w : Warp) : Warp := { w with lanes := w.lanes.map (fun l => { l with wait := l.wait.map (WaitRec.wake on) }) }

/-- A stream with its wait woken. -/
def Stream.wake (on : DWord) (s : Stream) : Stream := { s with wait := s.wait.map (WaitRec.wake on) }

/-- The core with its waits woken. -/
def Core.wake (on : DWord) (k : Core) : Core :=
  { k with warps := k.warps.map (fun p => (p.1, p.2.map (Warp.wake on))),
           mat := { k.mat with s := k.mat.s.wake on }, dray := { k.dray with s := k.dray.s.wake on } }

/-- A saved gang with its waits woken. -/
def Frame.wake (on : DWord) (f : Frame) : Frame :=
  { f with warps := f.warps.map (fun x => (x.1, x.2.1, x.2.2.wake on)),
           mats := f.mats.map (fun (x : Nat × Mat) => (x.1, { x.2 with s := x.2.s.wake on })),
           drays := f.drays.map (fun (x : Nat × Dray) => (x.1, { x.2 with s := x.2.s.wake on })) }

/-- R207: every waiter of a barrier is woken, saved ones too. -/
def Chip.wake (c : Chip) (on : DWord) : Chip :=
  { c with cores := c.cores.map (fun p => (p.1, p.2.wake on)),
           gangs := c.gangs.map (fun (p : Nat × Option Gang) => (p.1, p.2.map (fun g => { g with frame := g.frame.map (Frame.wake on) }))) }

/-- R207: an object written, its phase checked, its waiters woken where the phase completed. -/
def Chip.putBar (c : Chip) (b : BarAt) (k : Barrier) : Chip :=
  let (k1, fin) := k.check
  let c1 := c.setBar b k1
  if fin then c1.wake (c.nidBar b) else c1

/-- R204: bit of a flag of FLAGS. -/
def barFlag (n : Nat) : BitVec 16 := BitVec.ofNat 16 (2 ^ n)

/-- R211: an arrival by a party: the phase it arrived in. A party without an index counts only in ARRIVED. -/
def Chip.arrive (c : Chip) (b : BarAt) (party : Option Nat) (cid : DWord) : Chip × Nat :=
  let k := c.bar b
  if k.arrived = k.expect then
    ((c.setBar b { k with flags := k.flags ||| barFlag 15 }).emitUnit (c.barUnit b) 0x30 (c.nidBar b) (some cid), k.phase.toNat)
  else
    (c.putBar b { k with arrived := k.arrived + 1, arr := match party with
      | none => k.arr
      | some p => k.arr ||| BitVec.ofNat 128 (2 ^ p) }, k.phase.toNat)

/-- R204, R330: a child's exit lowers CHILD on its join barrier. -/
def Chip.childExit (c : Chip) (core slot : Nat) : Chip :=
  let k := c.bar (.core core slot)
  c.putBar (.core core slot) { k with flags := k.flags - 1 }

/-- R212: bytes armed for the current phase. -/
def Chip.expectBytes (c : Chip) (b : BarAt) (n : Nat) : Chip :=
  let k := c.bar b
  if 2 ^ 32 ≤ k.xbytes.toNat + n then c.setBar b { k with flags := k.flags ||| barFlag 15 }
  else c.setBar b { k with xbytes := k.xbytes + BitVec.ofNat 32 n }

/-- R203: whether a byte-source entry is valid. -/
def Barrier.srcValid (b : Barrier) : Bool := (List.range 8).any (fun j => b.src.getLsbD (16 * j + 15))

/-- R210: a barrier set up; the status. -/
def Chip.binit (c : Chip) (b : BarAt) (a : Nat) (decl : BitVec 128) : Chip × Nat :=
  let k := c.bar b
  if k.srcValid || k.flags &&& 0xFFF != 0 || k.granted != 0 then (c, 1)
  else
    (c.setBar b { k with expect := BitVec.ofNat 16 a, deadline := bitsAt a 16 16, decl := decl, arrived := 0, xbytes := 0, lbytes := 0,
                         arr := 0, flags := 0 }, 0)

/-- R206: entry `p` of a memory barrier's party table. -/
def Chip.partyEntry (c : Chip) (off p : Nat) : Nat := c.rdMem (off + 64 + 8 * p) 8

/-- R206, R210: a party-table entry that must not stand. -/
def entryBad (e : Nat) : Bool :=
  let kind := bitsAt e 29 2
  kind == 3 || bitsAt e 62 1 != 0 || bitsAt e 0 24 != 0 || (kind != 0 && bitsAt e 24 5 != 0)

/-- R206: the table index of an arriving party. -/
def Chip.tableParty (c : Chip) (off dev core kind slot : Nat) : Option Nat :=
  (List.range 128).find? (fun p => c.partyEntry off p == 2 ^ 63 + dev * 2 ^ 40 + core * 2 ^ 31 + kind * 2 ^ 29 + slot * 2 ^ 24)

/-- R210: BINIT of a memory barrier, its table read once. -/
def Chip.binitMem (c : Chip) (off a : Nat) : Chip × Nat :=
  let es := (List.range 128).map (c.partyEntry off)
  let k := c.bar (.mem off)
  if k.srcValid || k.flags &&& 0xFFF != 0 || k.granted != 0 then (c, 1)
  else if es.any entryBad then (c, 3)
  else c.binit (.mem off) a (BitVec.ofNat 128 (bitsOf (es.map (fun e => bitsAt e 63 1))))

/-- R206: an engine as an arriving party: kind and warp slot, and its index on its core's barriers (R204). -/
def Eng.party : Eng → Nat × Nat × Nat
  | .warp _ s => (0, s, s)
  | .matrix _ => (1, 0, 32)
  | .copy _ => (2, 0, 33)

/-- R190, R208: the physical slot of the group's barrier N; none at or above NCOUNT. -/
def Chip.barSlot (c : Chip) (e : Eng) (n : Nat) : Option Nat :=
  match c.placement e with
  | none => none
  | some g => if n < g.ncount then some (g.nbase + n) else none

/-- ILLEGAL_INSTRUCTION, reason 0x0009, of an issue. -/
def illegal9 (i : Issue) (op : Nat) : Stop := laneTrap i (syndrome 1 (opReason op 9)) (lowLane i.lanes) 0

/-- R391: the barrier of this device or of a peer that a node names. -/
def Chip.barNamed (c : Chip) (n : DWord) : BarAt :=
  let dev := n.toNat / 2 ^ 42
  if bitsAt n.toNat 40 2 = 1 then .core (bitsAt n.toNat 0 9) (bitsAt n.toNat 9 6)
  else if dev = c.priv.gwdev.toNat then .mem (bitsAt n.toNat 0 36 * 64)
  else .peer (3 * 2 ^ 64 + dev * 2 ^ 42 + bitsAt n.toNat 0 36 * 64)

/-- R99, R100, R206: a barrier operation needs a page with W = 1; an arrival writes it for certain, a BINIT only where it succeeds, a WAITPH not. -/
def barAcc (op : Nat) : Acc := if op = 0xB8 then .atomic else .cas

/-- R206: the barrier at an address: alignment, translation, tier; a dirty line of the issuing core is written back first. -/
def memBarrier (i : Issue) (op addr : Nat) (c : Chip) : Except Stop (BarAt × Chip) :=
  let lane := lowLane i.lanes
  let tag := c.tagOf (c.gangOf i.eng)
  if addr % 64 ≠ 0 then .error (laneTrap i (syndrome 0x0B (opReason op 0)) lane addr)
  else
    match c.xlate i.eng.core tag addr (barAcc op) 0 with
    | .error e => .error (e.stop i op lane addr addr .atomic)
    | .ok (pa, c1) =>
      if tierOf pa = 2 then .error (laneTrap i (syndrome 6 (opReason op 6)) lane addr)
      else if tierOf pa = 3 then .ok (.peer pa, c1.flushLine i.eng.core tag pa)
      else .ok (.mem (pa % 2 ^ 64), c1.flushLine i.eng.core tag pa)

/-- How a barrier instruction reads its operands and writes its result: A, the address or mask of B, and the write of D. -/
structure BarIO where
  a : Nat
  b : Nat
  put : Nat → Chip → Chip
  late : Op → Op

/-- Where the instruction's barrier stands. -/
def barrierAt (i : Issue) (op : Nat) (mem : Bool) (n addr : Nat) (c : Chip) : Except Stop (BarAt × Chip) :=
  if mem then memBarrier i op addr c
  else match c.barSlot i.eng n with
    | none => .error (illegal9 i op)
    | some s => .ok (.core i.eng.core s, c)

/-- R139, R144, R206: a barrier operation at a peer: asked for, its lane set or stream waits, its result is the reply; an arrival is a release
flag. `race` is the line of an overlap that its release found. -/
def askBarrier (i : Issue) (op pa : Nat) (kind : ReqKind) (race : Option Nat) (io : BarIO) (cid : DWord) (c : Chip) : Chip :=
  let c2 := c.ask pa kind (partyOf i.eng i.lanes) (some c.nextOp) (lowLane i.lanes) op (c.tagOf (c.gangOf i.eng)) 2 0 cid io.b i.pos false
    (op == 0xB8)
  c2.issueOp i (io.late { Op.blank op none cid with hold := true, race := race })

/-- BINIT (R210), for any engine. -/
def doBinit (mem : Bool) (n : Nat) (io : BarIO) (i : Issue) (c : Chip) : Except Stop Chip :=
  match barrierAt i 0xB7 mem n io.b c with
  | .error e => .error e
  | .ok (b, c1) =>
    match b with
    | .core _ _ =>
      let (c2, st) := if io.b / 2 ^ 34 ≠ 0 && !((c1.bar b).srcValid || (c1.bar b).flags &&& 0xFFF != 0 || (c1.bar b).granted != 0)
        then (c1, 2) else c1.binit b io.a (BitVec.ofNat 128 io.b)
      .ok ((io.put st (c2.nextCid i.eng).1).advance i)
    | .mem off =>
      let (c2, st) := c1.binitMem off io.a
      let c3 := if st = 0 then c2.dirtied i.eng.core (c.tagOf (c.gangOf i.eng)) io.b 1 else c2
      .ok ((io.put st (c3.nextCid i.eng).1).advance i)
    | .peer pa =>
      let (c2, cid) := c1.nextCid i.eng
      .ok (askBarrier i 0xB7 pa (.binit (BitVec.ofNat 16 io.a) (BitVec.ofNat 16 (io.a / 2 ^ 16))) none io cid c2)

/-- ARRIVE (R211), for any engine. -/
def doArrive (scope : Nat) (mem : Bool) (n : Nat) (io : BarIO) (i : Issue) (c : Chip) : Except Stop Chip :=
  match barrierAt i 0xB8 mem n io.b c with
  | .error e => .error e
  | .ok (b, c1) =>
    let (c0, cid) := c1.issueCid i
    match c0.releaseFor i 0xB8 scope (some cid) with
    | .error e => .error e
    | .ok (c2, race) =>
      let (kind, slot, party) := i.eng.party
      match b with
      | .core _ _ =>
        let (c3, ph) := c2.arrive b (some party) cid
        .ok (((io.put ph c3).advance i).raceAfter race i 0xB8)
      | .mem off =>
        let (c3, ph) := c2.arrive b (c2.tableParty off c2.priv.gwdev.toNat i.eng.core kind slot) cid
        .ok (((io.put ph c3).advance i).raceAfter race i 0xB8)
      | .peer pa => .ok (askBarrier i 0xB8 pa (.arrive i.eng.core kind slot) race io cid c2)

/-- EXPB (R212), for any engine. -/
def doExpb (n : Nat) (io : BarIO) (i : Issue) (c : Chip) : Except Stop Chip :=
  match c.barSlot i.eng n with
  | none => .error (illegal9 i 0xB9)
  | some s => .ok (((c.expectBytes (.core i.eng.core s) io.a).nextCid i.eng).1.advance i)

/-- The wait record of the lane set or stream in issue. -/
def Chip.waitOf (c : Chip) (i : Issue) : Option WaitRec :=
  match i.eng with
  | .warp n s => (c.warp n s).bind (fun w => (w.lane (lowLane i.lanes)).wait)
  | .matrix _ => (c.stream i.eng).wait
  | .copy _ => (c.stream i.eng).wait

/-- The chip with the wait record of the lane set or stream in issue. -/
def Chip.setWait (c : Chip) (i : Issue) (r : WaitRec) : Chip :=
  match i.eng with
  | .warp n s => match c.warp n s with
    | none => c
    | some w => c.setWarp n s (some (w.onLanes i.lanes (fun _ l => { l with wait := some r })))
  | .matrix _ => c.modStream i.eng (fun s => { s with wait := some r })
  | .copy _ => c.modStream i.eng (fun s => { s with wait := some r })

/-- R393, R396: a WAITPH on a memory barrier of this device waits from now: the first of its phase is kept with its causal ID. -/
def Chip.waitFrom (c : Chip) (off : Nat) (cid : DWord) : Chip :=
  let k := c.bar (.mem off)
  if k.since = 0 then { c with memBars := aput none c.memBars off (some { k with since := c.now, cid := cid }) } else c

/-- R213: whether a request asks a peer whether its barrier still stands in the phase that its lane set or stream awaits. -/
def Remote.isPoll (r : Remote) : Bool :=
  match r.kind with
  | .waitph _ => true
  | _ => false

/-- R213: the peer is asked once more whether its barrier stands in a phase. -/
def Chip.poll (c : Chip) (i : Issue) (pa p : Nat) (cid : DWord) : Chip :=
  c.ask pa (.waitph (BitVec.ofNat 16 p)) (partyOf i.eng i.lanes) none (lowLane i.lanes) 0xBA (c.tagOf (c.gangOf i.eng)) 2 0 cid 0 i.pos

/-- R213, R392: a wait begins: its record, and the barrier's first wait of the phase. -/
def Chip.beginWait (c : Chip) (i : Issue) (b : BarAt) (p scope : Nat) : Chip :=
  let (c1, cid) := c.nextCid i.eng
  let k := c1.bar b
  let c2 := match b with
    | .peer _ => c1
    | .core _ _ => if k.since = 0 then c1.setBar b { k with since := c.now, cid := cid } else c1
    | .mem off => c1.waitFrom off cid
  c2.setWait i { on := c.nidBar b, phase := BitVec.ofNat 16 p, state := 1, scope := scope, since := c.now, cid := cid, met := false }

/-- The issue of WAITPH (R213), for any engine: p and the barrier are read here and nowhere later. -/
def doWaitph (scope : Nat) (mem : Bool) (n : Nat) (io : BarIO) (i : Issue) (c : Chip) : Except Stop Chip :=
  if c.isChild i.eng then .error (laneTrap i (syndrome 0x10 (opReason 0xBA 0)) (lowLane i.lanes) 0)
  else
    match barrierAt i 0xBA mem n io.b c with
    | .error e => .error e
    | .ok (b, c1) =>
      let p := io.a % 65536
      match b with
      | .peer pa => .error (.park ((c1.beginWait i b p scope).poll i pa p (c1.nextCid i.eng).2))
      | _ =>
        if (c1.bar b).phase.toNat != p then .ok (((c1.nextCid i.eng).1.acquireBy i.eng scope).advance i)
        else .error (.park (c1.beginWait i b p scope))

/-- R213: a wait that has begun: it ends with a completion after its issue, or once its barrier stands in another phase than the one read at issue. -/
def goOnWait (scope : Nat) (r : WaitRec) (i : Issue) (c : Chip) : Except Stop Chip :=
  let b := c.barNamed r.on
  match b with
  | .peer pa =>
    if r.met then .ok ((c.acquireBy i.eng scope).advance i)
    else if c.remotes.any (fun q => q.who == partyOf i.eng i.lanes && q.isPoll) then .error .wait
    else .error (.park (c.poll i pa r.phase.toNat r.cid))
  | _ => if r.met || (c.bar b).phase != r.phase then .ok ((c.acquireBy i.eng scope).advance i) else .error .wait

/-- R213: a WAITPH goes on with the wait that its lane set or stream has begun, or is issued. -/
def waitOrIssue (scope : Nat) (issue : Issue → Chip → Except Stop Chip) (i : Issue) (c : Chip) : Except Stop Chip :=
  match c.waitOf i with
  | none => issue i c
  | some r => if r.state = 1 then goOnWait scope r i c else issue i c

/-- R208: the operands of a barrier instruction in a lane clause; `f` runs once where a lane executes. -/
def laneBarrier (op : Nat) (g : Guard) (mem : Bool) (n : BitVec 6) (d : Option Reg) (a : Option Reg) (b : Option Reg)
    (f : BarIO → Issue → Chip → Except Stop Chip) (i : Issue) (c : Chip) : Except Stop Chip :=
  if !mem && (c.barSlot i.eng n.toNat).isNone && !(op = 0xBA && c.isChild i.eng) then .error (illegal9 i op)
  else
    let sa : List Src := match a with
      | none => []
      | some r => [{ code := r, field := 1, n := 1, ia := false }]
    let sb : List Src := match b with
      | none => []
      | some r => [srcB r 2]
    match prep { op := op, g := g, hq := false, d := d.map (fun r => (r, 1)), ud := .rule, srcs := sa ++ sb, low := true } i c with
    | .error e => .error e
    | .ok p =>
      if p.act = 0 then .ok (c.advance i)
      else
        let l := lowLane p.act
        let va := match a with
          | none => 0
          | some r => p.w.regs r.toNat l 1
        let vb := match b with
          | none => 0
          | some r => p.w.regs r.toNat l 2
        let put (v : Nat) (k : Chip) : Chip := match d, k.warp p.core p.slot with
          | some r, some w => k.setWarp p.core p.slot (some ({ p with w := w }.write r.toNat 1 (fun _ => v)))
          | _, _ => k
        let late (o : Op) : Op := match d with
          | none => o
          | some r => o.dest r 1 (isU r.toNat) ((lanesOf p.act).map (fun k => (k, 0, false)))
        f { a := va, b := vb, put := put, late := late } i c

/-- R209: the operands of a barrier instruction in a matrix clause. -/
def matBarrier (ma mb : BitVec 5) (f : BarIO → Issue → Chip → Except Stop Chip) (i : Issue) (c : Chip) : Except Stop Chip :=
  let core := i.eng.core
  let m := (c.core core).mat.m
  f { a := (aget 0 m ma.toNat).toNat, b := (aget 0 m mb.toNat).toNat,
      put := fun v k => k.setMat core { (k.core core).mat with m := aput 0 (k.core core).mat.m ma.toNat (dw v) },
      late := fun o => { o with kwrite := some (ma.toNat, 0, false) } } i c

/-- R46, R186: whether an operation will still write a scalar of a sequencer. -/
def Chip.pendingK (c : Chip) (e : Eng) (r : Nat) : Bool :=
  c.ops.any (fun o => o.eng == e && (match o.kwrite with
    | none => false
    | some (k, _, _) => k == r))

/-- R116: POISON of a sequencer. -/
def poisonSeq (i : Issue) (op reason : Nat) : Stop := laneTrap i (syndrome 0x0C (opReason op reason)) 0 0

/-- R116, R118, R385: POISON of a copy sequencer that reads a marked scalar, with where the mark comes from. -/
def poisonScalar (i : Issue) (op : Nat) (d : Dray) (rs : List (BitVec 5)) : Stop :=
  let m := match rs.find? (fun r => aget false d.kp r.toNat) with
    | none => 0
    | some r => aget 0 d.from_ r.toNat
  laneTrap i (syndrome 0x0C (opReason op (if m.testBit 1 then 4 else 3))) 0 m

/-- R209: the operands of a barrier instruction in a copy clause. -/
def copyBarrier (op : Nat) (ka kb : BitVec 5) (f : BarIO → Issue → Chip → Except Stop Chip) (i : Issue) (c : Chip) : Except Stop Chip :=
  let core := i.eng.core
  let d := (c.core core).dray
  if c.pendingK i.eng ka.toNat || c.pendingK i.eng kb.toNat then .error .wait
  else if aget false d.kp ka.toNat || aget false d.kp kb.toNat then .error (poisonScalar i op d [ka, kb])
  else
    f { a := (aget 0 d.k ka.toNat).toNat, b := (aget 0 d.k kb.toNat).toNat,
        put := fun v x => let d1 := (x.core core).dray; x.setDray core { d1 with k := aput 0 d1.k ka.toNat (dw v) },
        late := fun o => { o with kwrite := some (ka.toNat, 0, false) } } i c

/-- BINIT (R210). -/
def execBinit (g : Guard) (mem : Bool) (n : BitVec 6) (d a b : Reg) (s : State) : Host.Outcome State Fault Refusal :=
  runIssue s (laneBarrier 0xB7 g mem n (some d) (some a) (some b) (doBinit mem n.toNat))
/-- ARRIVE (R211). -/
def execArrive (g : Guard) (scope : BitVec 3) (mem : Bool) (n : BitVec 6) (d b : Reg) (s : State) : Host.Outcome State Fault Refusal :=
  runIssue s (laneBarrier 0xB8 g mem n (some d) none (if mem then some b else none) (doArrive scope.toNat mem n.toNat))
/-- EXPB (R212). -/
def execExpb (g : Guard) (n : BitVec 6) (a : Reg) (s : State) : Host.Outcome State Fault Refusal :=
  runIssue s (laneBarrier 0xB9 g false n none (some a) none (doExpb n.toNat))
/-- WAITPH (R213). -/
def execWaitph (g : Guard) (scope : BitVec 3) (mem : Bool) (n : BitVec 6) (a b : Reg) (s : State) : Host.Outcome State Fault Refusal :=
  runIssue s (waitOrIssue scope.toNat (laneBarrier 0xBA g mem n none (some a) (if mem then some b else none) (doWaitph scope.toNat mem n.toNat)))
/-- BINIT in a matrix clause (R209). -/
def execBinitMatrix (mem : Bool) (n : BitVec 6) (ma mb : BitVec 5) (s : State) : Host.Outcome State Fault Refusal :=
  runIssue s (matBarrier ma mb (doBinit mem n.toNat))
/-- ARRIVE in a matrix clause (R209). -/
def execArriveMatrix (scope : BitVec 3) (mem : Bool) (n : BitVec 6) (ma mb : BitVec 5) (s : State) : Host.Outcome State Fault Refusal :=
  runIssue s (matBarrier ma mb (doArrive scope.toNat mem n.toNat))
/-- EXPB in a matrix clause (R209). -/
def execExpbMatrix (n : BitVec 6) (ma : BitVec 5) (s : State) : Host.Outcome State Fault Refusal :=
  runIssue s (matBarrier ma 0 (doExpb n.toNat))
/-- WAITPH in a matrix clause (R209). -/
def execWaitphMatrix (scope : BitVec 3) (mem : Bool) (n : BitVec 6) (ma mb : BitVec 5) (s : State) : Host.Outcome State Fault Refusal :=
  runIssue s (waitOrIssue scope.toNat (matBarrier ma mb (doWaitph scope.toNat mem n.toNat)))
/-- BINIT in a copy clause (R209). -/
def execBinitCopy (mem : Bool) (n : BitVec 6) (ka kb : BitVec 5) (s : State) : Host.Outcome State Fault Refusal :=
  runIssue s (copyBarrier 0xB7 ka kb (doBinit mem n.toNat))
/-- ARRIVE in a copy clause (R209). -/
def execArriveCopy (scope : BitVec 3) (mem : Bool) (n : BitVec 6) (ka kb : BitVec 5) (s : State) : Host.Outcome State Fault Refusal :=
  runIssue s (copyBarrier 0xB8 ka (if mem then kb else ka) (doArrive scope.toNat mem n.toNat))
/-- EXPB in a copy clause (R209). -/
def execExpbCopy (n : BitVec 6) (ka : BitVec 5) (s : State) : Host.Outcome State Fault Refusal :=
  runIssue s (copyBarrier 0xB9 ka ka (doExpb n.toNat))
/-- WAITPH in a copy clause (R209). -/
def execWaitphCopy (scope : BitVec 3) (mem : Bool) (n : BitVec 6) (ka kb : BitVec 5) (s : State) : Host.Outcome State Fault Refusal :=
  runIssue s (waitOrIssue scope.toNat (copyBarrier 0xBA ka (if mem then kb else ka) (doWaitph scope.toNat mem n.toNat)))

end Sys2Proof.Machine
end

