-- ==== Sys2Proof/Machine/Waits.lean ====
section
/-! DEFINITION. Wait records and awaited-party records, and their snapshots (R391-R395). -/

namespace Sys2Proof.Machine

open Sys2Proof

/-- R392: the 32 bytes of a wait record. -/
def WaitRec.word (r : WaitRec) : Nat :=
  r.on.toNat + r.phase.toNat * 2 ^ 64 + r.state * 2 ^ 80 + r.scope * 2 ^ 88 + r.since.toNat * 2 ^ 128 + r.cid.toNat * 2 ^ 192

/-- R391: lane set 0 or 1 of a warp: its lowest lane. Lanes of one counter that wait by different records, or for different operations, are
different lane sets. -/
def Warp.setLane (w : Warp) (set : Nat) : Option Nat :=
  match liveLanes 0 w.lanes with
  | [] => none
  | l :: ls => if set = 0 then some l else ls.find? (fun k =>
    (w.lane k).pos != (w.lane l).pos || (w.lane k).wait != (w.lane l).wait || (w.lane k).sync != (w.lane l).sync)

/-- R391: the gang of a party of a core, where it exists. -/
def Chip.partyGang (c : Chip) (core p : Nat) : Option Nat :=
  let k := c.core core
  if p < 32 then (c.warp core p).map (fun w => w.gang)
  else if p = 32 then (if k.mat.s.st = 0 then none else some k.mat.s.gang)
  else if p = 33 || (35 ≤ p && p < 43) then (if k.dray.s.st = 0 then none else some k.dray.s.gang)
  else none

/-- R392: the wait record of a party; none where it does not wait. -/
def Chip.partyWait (c : Chip) (core p set : Nat) : Option WaitRec :=
  let k := c.core core
  if p < 32 then (c.warp core p).bind (fun w => (w.setLane set).bind (fun l => (w.lane l).wait))
  else if p = 32 then (match k.mat.post with
    | none => k.mat.s.wait
    | some q =>
      some { on := dw (nidParty c.priv.gwdev.toNat (if core % 2 = 0 then core + 1 else core - 1) 32 0), phase := 0, state := 3, scope := 0,
             since := q.since, cid := q.cid, met := false })
  else if p = 33 then k.dray.s.wait
  else if 35 ≤ p && p < 43 then (aget Queue.zero k.dray.queues (p - 35)).wait
  else none

/-- R393: ABSENT of a barrier. -/
def Barrier.absent (b : Barrier) : BitVec 128 :=
  let a := b.decl &&& ~~~b.arr
  if b.flags &&& 0xFFF = 0 then a else a ||| BitVec.ofNat 128 (2 ^ 34)

/-- R393: STATE of a barrier. -/
def Barrier.state (b : Barrier) : Nat :=
  (if b.absent = 0 then 0 else 1) + (if b.xbytes = b.lbytes then 0 else 2) + (if b.xbytes != b.lbytes && !b.srcValid then 4 else 0)
    + (if b.flags &&& 0xFFF = 0 then 0 else 8) + (if b.passed then 16 else 0)

/-- R393: the 64 bytes of an awaited-party record. -/
def Barrier.record (b : Barrier) (nid : Nat) : Nat :=
  nid + b.word % 2 ^ 64 * 2 ^ 64 + b.absent.toNat * 2 ^ 128 + (b.xbytes - b.lbytes).toNat * 2 ^ 256 + b.deadline * 2 ^ 288
    + b.state * 2 ^ 304 + b.since.toNat * 2 ^ 320 + b.src.toNat * 2 ^ 384

/-- R189: the gang whose group holds a barrier slot of a core; a group that has retired may still hold it for its children. -/
def Chip.barGang (c : Chip) (core slot : Nat) : Option Nat :=
  let holds (live : Bool) : Option Nat := (c.gangsWhere (fun k => k.phase < 4 && k.groups.any (fun g =>
    g.core == core && g.nbase ≤ slot && slot < g.nbase + g.ncount && !(live && g.retired)))).head?
  (holds true).or (holds false)

/-- Whether a party or a barrier slot of a gang is of a context; every one is for system software. -/
def Chip.tagAllows (c : Chip) (tag : Option Nat) (g : Option Nat) : Bool :=
  match tag, g with
  | none, _ => true
  | some _, none => false
  | some t, some k => c.tagOf k == t

/-- R394, R395: the snapshot that a selection gives a context, or (no context) system software; `xl` finds the offset of a memory barrier. -/
def Chip.snapshot (c : Chip) (tag : Option Nat) (sel : Nat) (xl : Nat → Option Nat) : BitVec 512 :=
  let core := bitsAt sel 0 9
  let slot := bitsAt sel 9 6
  let dev := c.priv.gwdev.toNat
  BitVec.ofNat 512 (
    match bitsAt sel 62 2 with
    | 1 => if c.enabled core && c.tagAllows tag (c.barGang core slot) then (c.bar (.core core slot)).record (nidCore dev core slot) else 0
    | 2 => (match xl sel with
      | none => 0
      | some off => (c.bar (.mem off)).record (nidMem dev off))
    | 3 => if c.enabled core && c.tagAllows tag (c.partyGang core slot) then
        (match c.partyWait core slot (bitsAt sel 15 1) with
          | none => 0
          | some r => r.word) else 0
    | _ => 0)

/-- R394: the memory barrier that a program's selection names: a TIER 0 offset, or none. -/
def Chip.selAddr (c : Chip) (core tag sel : Nat) : Option Nat :=
  let a := bitsAt sel 6 51 * 64
  let va := if a.testBit 56 then a + (2 ^ 64 - 2 ^ 57) else a
  match c.xlate core tag va .read 0 with
  | .ok (pa, _) => if tierOf pa = 0 then some (pa % 2 ^ 64) else none
  | .error _ => none

/-- R395: the memory barrier that system software selects: a system offset of this device's HBM, or none. -/
def privSel (sel : Nat) : Option Nat :=
  let off := bitsAt sel 6 36 * 64
  if off < 0xC000000000 then some off else none

end Sys2Proof.Machine
end

