-- ==== Sys2Proof/Machine/System.lean ====
section
/-! DEFINITION. Special registers and the trap instructions: TRAP, RFT, RDSR, WRSR, WAITSEL_WRITE, NOPRE, EVT (R12-R17, R218, R366, R369-R375,
R394, R401). -/

namespace Sys2Proof.Machine

open Sys2Proof

/-- R16: enabled cores of a cluster. -/
def Chip.coresIn (c : Chip) (cl : Nat) : Nat := ((List.range 128).filter (fun j => c.enabled (cl * 128 + j))).length

/-- R16: SR.CORES. -/
def Chip.srCores (c : Chip) : Nat :=
  c.fuse.config * 2 ^ 56 + c.coresIn 3 * 2 ^ 40 + c.coresIn 2 * 2 ^ 32 + c.coresIn 1 * 2 ^ 24 + c.coresIn 0 * 2 ^ 16
    + (c.coresIn 0 + c.coresIn 1 + c.coresIn 2 + c.coresIn 3)

/-- R17: SR.CMAP j. -/
def Chip.srCmap (c : Chip) (j : Nat) : Nat := bitsOf ((List.range 64).map (fun k => if c.enabled (j * 64 + k) then 1 else 0))

/-- R26, R166, R274: whether a warp is of the group that declared the matrix (or copy) entry. -/
def Chip.declared (c : Chip) (w : Warp) (copy : Bool) : Bool :=
  !w.child && (match c.kernelOf w.gang with
    | none => false
    | some k => if copy then k.copy != 0 else k.matrix != 0)

/-- R275: SR.MPRG. -/
def Mat.mprg (m : Mat) : Nat := m.prgState * 2 ^ 24 + m.prgOp * 2 ^ 16 + m.chunk

/-- R166: SR.DQST of a queue. -/
def Queue.dqst (q : Queue) : Nat :=
  q.op * 2 ^ 40 + q.detail % 2 ^ 24 * 2 ^ 16 + q.cmds.length * 2 ^ 8 + ((q.run.map (fun r => r.state)).getD 0) * 2 ^ 4 + q.status

/-- R79, R80: SR.BDACT. -/
def bdact : List Bound → Nat
  | [] => 0
  | b :: bs => b.act + 4 * b.nact + 16 * bdact bs

/-- R328: SR.SPAWN of a gang. -/
def Chip.srSpawn (c : Chip) (g : Nat) : Nat :=
  match c.gang g with
  | none => 0
  | some k =>
    k.refused.toNat * 2 ^ 32 + (k.childSlots.filter (fun p => (c.warp p.1 p.2).isSome)).length * 2 ^ 14
      + ((c.cluster k.cluster).spawnQ.filter (fun ch => ch.gang == g)).length

/-- R365: TR.ENT. -/
def Warp.trEnt (w : Warp) : Nat :=
  (if w.tr.abandon then 8 else 0) + (if w.handler then 4 else 0) + (if w.tr.posted then 2 else 0) + (if w.tr.ent then 1 else 0)

/-- R371, R372, R218: what a lane of a warp reads at an address of the unprivileged space; none where it is unassigned. -/
def Chip.srRead (c : Chip) (core slot : Nat) (w : Warp) (lane addr : Nat) : Option Nat :=
  let e : Eng := .warp core slot
  let k := c.core core
  match addr with
  | 0x000 => some warpWidth
  | 0x001 => some (unitWord core slot lane w.child)
  | 0x002 => some (((c.gang w.gang).map (fun g => g.index)).getD 0 * 2 ^ 16 + (if w.child then 0 else w.windex * 2 ^ 8 + w.grp))
  | 0x003 => some c.srCores
  | 0x004 => some (max (max (c.coresIn 0) (c.coresIn 1)) (max (c.coresIn 2) (c.coresIn 3)))
  | 0x020 => some w.fpstat.toNat
  | 0x021 => some (if c.declared w false then k.mat.mstat.toNat else 0)
  | 0x022 => some (if c.declared w false then k.mat.mprg else 0)
  | 0x040 => some (bdact (c.bounds e))
  | 0x060 => some (match c.placement e with
    | none => 0
    | some g => g.nbase * 2 ^ 16 + g.ncount * 2 ^ 8 + g.bcount * 2 ^ 4 + g.bbase)
  | 0x070 => some (k.impl.toNat * 2 ^ 32 + c.intentCount core)
  | 0x080 => some (c.srSpawn w.gang)
  | 0x090 => some (((c.gridOf w.gang).map (fun g => g.task.tile.toNat)).getD 0)
  | 0x091 => some (((c.gridOf w.gang).map (fun g => g.task.args.toNat)).getD 0)
  | 0x0A0 => some c.now.toNat
  | 0x0A1 => some w.waitsel.toNat
  | 0x0C0 => some w.tr.pc.toNat
  | 0x0C1 => some w.tr.idx.toNat
  | 0x0C2 => some w.trEnt
  | 0x0C3 => some w.tr.syn.toNat
  | 0x0C4 => some w.tr.unit.toNat
  | 0x0C5 => some w.tr.tile.toNat
  | 0x0C6 => some w.tr.addr.toNat
  | 0x0C7 => some w.tr.mask0.toNat
  | 0x0C8 => some w.tr.inner.toNat
  | 0x0C9 => some w.tr.mask1.toNat
  | a =>
    if 0x008 ≤ a && a < 0x010 then some (c.srCmap (a - 0x008))
    else if 0x010 ≤ a && a < 0x018 then some (((c.kernelOf w.gang).map (fun kn => (kn.fs.getD (a - 0x010) 0).toNat)).getD 0)
    else if 0x030 ≤ a && a < 0x040 then
      (let b := (c.bounds e).getD (a - 0x030) Bound.off; some (b.hi.toNat * 2 ^ 32 + b.lo.toNat))
    else if 0x050 ≤ a && a < 0x058 then some (if c.declared w true then (aget Queue.zero k.dray.queues (a - 0x050)).dqst else 0)
    else if 0x058 ≤ a && a < 0x060 then some (if c.declared w true then (aget Queue.zero k.dray.queues (a - 0x058)).prog else 0)
    else if 0x0A2 ≤ a && a < 0x0AA then some (bitsAt w.waitr.toNat (64 * (a - 0x0A2)) 64)
    else none

/-- R371: the fault of an address below the privileged ones that names no register. -/
def srFault (c : Chip) (i : Issue) (op core slot : Nat) (addr : Nat) : Option Stop :=
  if 0x400 ≤ addr then none
  else
    match c.warp core slot with
    | none => none
    | some w => if (c.srRead core slot w 0 addr).isNone then some (illegal9 i op) else none

/-- R51, R371, R372: the PROTECTION of a privileged address, where a lane executes. DESIGN CHOICE (log 84): with a register outside the allocation in
the same word it is reported after that (R50 does not place PROTECTION). -/
def srPrivileged (p : Prep) (op addr : Nat) : Option (Nat × Nat) :=
  if 0x400 ≤ addr && p.act != 0 then some (syndrome 6 (opReason op 0xA), 0) else none

/-- The slot of an issuing warp. -/
def Eng.slot : Eng → Nat
  | .warp _ s => s
  | .matrix _ => 0
  | .copy _ => 0

/-- R83: whether a WCVT of a lane set in issue has still to set its sticky bits. -/
def Chip.bitsDue (c : Chip) (i : Issue) : Bool :=
  c.ops.any (fun o => o.eng == i.eng && o.code == 0x66 && (o.mask &&& i.lanes) != 0 && o.late.isSome)

/-- RDSR (R371); of SR.FPSTAT once the sticky bits of earlier instructions stand (R83). -/
def execRdsr (g : Guard) (d : Reg) (addr : BitVec 11) (s : State) : Host.Outcome State Fault Refusal :=
  runIssue s (fun i c =>
    match srFault c i 0xBD i.eng.core i.eng.slot addr.toNat with
    | some st => .error st
    | none =>
      match prepLanes { op := 0xBD, g := g, hq := false, d := some (d, 2), ud := .always, srcs := [] } i c with
      | .error e => .error e
      | .ok p => p.orTrap i (srPrivileged p 0xBD addr.toNat) (
        if addr = 0x020 && c.bitsDue i then .error .wait
        else finish i p (p.write d.toNat 2 (fun l => (c.srRead p.core p.slot p.w l addr.toNat).getD 0)) c))

/-- R82, R274, R365: a write of a register that has a field RW or W1C: the chip, or none where the register has none. -/
def Chip.srWrite (c : Chip) (core slot addr v : Nat) : Option Chip :=
  match c.warp core slot with
  | none => none
  | some w =>
    let put (t : TrapRegs) : Chip := c.setWarp core slot (some { w with tr := t })
    match addr with
    | 0x020 => some (c.setWarp core slot (some { w with fpstat := w.fpstat &&& ~~~BitVec.ofNat 5 v }))
    | 0x021 => some (if c.declared w false then
        c.setMat core { (c.core core).mat with mstat := (c.core core).mat.mstat &&& ~~~BitVec.ofNat 6 v } else c)
    | 0x0C0 => some (put { w.tr with pc := dw v })
    | 0x0C1 => some (put { w.tr with idx := BitVec.ofNat 5 v })
    | 0x0C2 => some (put { w.tr with abandon := v.testBit 3, ent := v.testBit 0 })
    | _ => none

/-- WRSR (R371). -/
def execWrsr (g : Guard) (addr : BitVec 11) (a : Reg) (s : State) : Host.Outcome State Fault Refusal :=
  runIssue s (fun i c =>
    match srFault c i 0xBE i.eng.core i.eng.slot addr.toNat with
    | some st => .error st
    | none =>
      match prepLanes { op := 0xBE, g := g, hq := false, d := none, ud := .rule, srcs := [{ code := a, field := 1, n := 2, ia := false }],
                        low := true } i c with
      | .error e => .error e
      | .ok p => p.orTrap i (srPrivileged p 0xBE addr.toNat) (
        if p.act = 0 then finish i p p.w c
        else
          match c.srWrite p.core p.slot addr.toNat (p.w.regs a.toNat (lowLane p.act) 2) with
          | none => .error (laneTrap i (syndrome 6 (opReason 0xBE 9)) (lowLane p.act) 0)
          | some c1 =>
            if 0x0C0 ≤ addr.toNat && !p.w.handler then .error (laneTrap i (syndrome 6 (opReason 0xBE 0xB)) (lowLane p.act) 0)
            else .ok (c1.advance i)))

/-- WRSR to SR.WAITSEL (R394): a snapshot of the selected record. -/
def execWaitselWrite (g : Guard) (a : Reg) (s : State) : Host.Outcome State Fault Refusal :=
  runIssue s (fun i c =>
    match prep { op := 0xBE, g := g, hq := false, d := none, ud := .rule, srcs := [{ code := a, field := 1, n := 2, ia := false }],
                 low := true } i c with
    | .error e => .error e
    | .ok p =>
      if p.act = 0 then finish i p p.w c
      else
        let sel := p.w.regs a.toNat (lowLane p.act) 2
        let tag := c.tagOf p.w.gang
        finish i p { p.w with waitsel := dw sel, waitr := c.snapshot (some tag) sel (c.selAddr p.core tag) } c)

/-- TRAP (R370): a precise trap of class USER or BREAKPOINT. -/
def execTrap (g : Guard) (bk : Bool) (code : BitVec 16) (s : State) : Host.Outcome State Fault Refusal :=
  runIssue s (fun i c =>
    match prep { op := 0xBB, g := g, hq := false, d := none, ud := .rule, srcs := [] } i c with
    | .error e => .error e
    | .ok p =>
      if p.act = 0 then finish i p p.w c
      else .error (.trapOn (c.nextCid i.eng).1 (syndrome (if bk then 0x13 else 0x12) (opReason 0xBB code.toNat)) (lowLane p.act) 0 p.act))

/-- The eight bytes at an address in a core's L1, where they are valid there. -/
def Chip.l1Word (c : Chip) (core tag pa : Nat) : Option Nat :=
  match l1Find (c.core core).l1 (lineOf pa) tag with
  | none => none
  | some e => if bitsAt e.valid.toNat (pa % 64) 8 = 255 then some (bitsAt e.data.toNat (8 * (pa % 64)) 64) else none

/-- R36: the word that a fetch at an address gives under a context: from the core's L1 where its bytes are valid, else from its home; a held
line (R118) and a line at a peer or in host memory are waited for, and fill the L1. DESIGN CHOICE (log 11): a fetch of a line of this device
fills no L1 line, and a fetch meets no intent and takes the bytes of a poisoned line as they stand. -/
def Chip.fetchAt (c : Chip) (core tag a : Nat) : Except XErr (Nat × Chip) :=
  match c.xlate core tag a .fetch 0 with
  | .error e => .error e
  | .ok (pa, c1) =>
    match c1.l1Word core tag pa with
    | some w => .ok (w, c1)
    | none =>
      if 2 ≤ tierOf pa then .error (.peer pa)
      else if c1.held.any (fun h => h.line == lineOf pa && !h.expired) then .error .held
      else .ok (c1.rdMem (pa % 2 ^ 64) 8, c1)

/-- R155, R159, R222: a line of code in host memory: its read is made, and complete when it is next asked for, unless the host has failed it. -/
def Chip.fetchHost (c : Chip) (i : Issue) (tag line va : Nat) : Chip :=
  let who := partyOf i.eng i.lanes
  let mine (r : Remote) : Bool := r.dst == 2 ^ 22 && r.off == line % 2 ^ 64 && r.who.seat == who.seat && r.op == none
  if c.remotes.any mine then
    ({ c with remotes := c.remotes.filter (fun r => !mine r) } : Chip).fillLine i.eng.core tag line (c.homeBytes line) false false 0
  else
    let (c1, cid) := c.nextCid i.eng
    c1.noteHostAt who none 0 (lowLane i.lanes) tag (line % 2 ^ 64) cid i.pos va

/-- R36, R109, R222: what a fetch of the word at `va` that fails comes to; a line of code at a peer or in host memory is asked for. -/
def fetchStop (c : Chip) (i : Issue) (tag va : Nat) (e : XErr) : Stop :=
  match e with
  | .peer pa =>
    if tierOf pa = 2 then .park (c.fetchHost i tag (lineOf pa) va) else c.askLine i 0 (lowLane i.lanes) tag (lineOf pa) (va / 64 * 64) false
  | .absent off => .absent off
  | .held => .wait
  | .trap _ _ => e.stop i 0 (lowLane i.lanes) va va .fetch
  | .fault _ => e.stop i 0 (lowLane i.lanes) va va .fetch

/-- The address of the word at a position. -/
def Pos.word (p : Pos) : DWord := if p.entered then p.addr + dw (8 * (p.idx + 1)) else p.addr

/-- R366: whether a lane stands at an RFT. -/
def Chip.atRft (c : Chip) (core tag : Nat) (l : Lane) : Bool :=
  l.pos.entered && (match c.fetchAt core tag l.pos.word.toNat with
    | .ok (w, _) => opcodeOf w == 0xBC
    | .error _ => false)

/-- R366, R377, R383: an RFT to a position that is none kills the gang, under a causal ID of its own. -/
def Chip.returnKill (c : Chip) (i : Issue) (gang : Nat) : Chip :=
  let (c1, id) := c.nextCid i.eng
  c1.killGang gang 2 false (some id)

/-- RFT (R366). -/
def execRft (g : Guard) (s : State) : Host.Outcome State Fault Refusal :=
  runIssue s (fun i c =>
    match prep { op := 0xBC, g := g, hq := false, d := none, ud := .rule, srcs := [] } i c with
    | .error e => .error e
    | .ok p =>
      if p.act = 0 then finish i p p.w c
      else if !p.w.handler then .error (illegal9 i 0xBC)
      else
        let tag := c.tagOf p.w.gang
        if !(liveLanes 0 p.w.lanes).all (fun l => i.lanes.getLsbD l || c.atRft p.core tag (p.w.lane l)) then .error .wait
        else if p.w.tr.posted then .ok (c.trapReturn p.core p.slot none)
        else if !canonical p.w.tr.pc.toNat || p.w.tr.pc.toNat % 8 ≠ 0 then .ok (c.returnKill i p.w.gang)
        else
          match c.fetchAt p.core tag p.w.tr.pc.toNat with
          | .error e => .error (fetchStop c i tag p.w.tr.pc.toNat e)
          | .ok (h, c1) =>
            if bitsAt h 52 4 + 1 < p.w.tr.idx.toNat then .ok (c1.returnKill i p.w.gang)
            else .ok (c1.trapReturn p.core p.slot (some (Header.ofNat h))))

/-- NOPRE (R374). -/
def execNopre (g : Guard) (on : Bool) (d : Reg) (s : State) : Host.Outcome State Fault Refusal :=
  runIssue s (fun i c =>
    match prep { op := 0xBF, g := g, hq := false, d := if on then some (d, 1) else none, ud := .always, srcs := [] } i c with
    | .error e => .error e
    | .ok p =>
      if p.act = 0 then finish i p p.w c
      else if !on then finish i p { p.w with sectOpen := false } c
      else
        let pend := ((c.gang p.w.gang).map (fun k => k.phase != 0 || k.whyPage || k.whyPrio || k.whyIft)).getD false
        let st := if pend then 0 else 1
        let w1 := p.write d.toNat 1 (fun _ => st)
        finish i p (if pend || w1.sectOpen then w1 else { w1 with sectOpen := true, sectCount := 0 }) c)

/-- EVT (R401): a record of type 0x8000 | CODE; the operation completes once the trace network has accepted it (its id names the record's
causal ID). -/
def execEvt (g : Guard) (a : Reg) (code : BitVec 12) (s : State) : Host.Outcome State Fault Refusal :=
  runIssue s (fun i c =>
    let flag := flagSeta i.hdr
    withFlag c i flag (match prep { op := 0x94, g := g, hq := false, d := none, ud := .rule,
                                    srcs := [{ code := a, field := 1, n := 2, ia := false }], low := true } i c with
      | .error e => .error e
      | .ok p =>
        if p.act = 0 then .ok (c.issueOp i (Op.blank 0x94 flag 0))
        else
          let l := lowLane p.act
          let (c1, id) := c.nextCid i.eng
          let c2 := c1.emit (warpSource p.core p.slot l) (0x8000 + code.toNat) id (dw (p.w.regs a.toNat l 2)) (if p.w.child then 4 else 0)
          .ok (c2.issueOp i (Op.blank 0x94 flag id))))

end Sys2Proof.Machine
end

