-- ==== Sys2Proof/Machine/Control.lean ====
section
/-! DEFINITION. Clause starts, branches, calls and EXIT (R39, R42, R318-R322, R330, R392). -/

namespace Sys2Proof.Machine

open Sys2Proof

/-- R42: the flags of a mask that are set. -/
def flagsHeld (cf : AMap Nat) (mask : BitVec 12) : Bool := (List.range 12).any (fun k => mask.getLsbD k && cfGet cf k != 0)

/-- The class of an engine (R37). -/
def Eng.cls : Eng → Class
  | .warp _ _ => .lane
  | .matrix _ => .matrix
  | .copy _ => .copy

/-- R38: the class byte. -/
def classByte : Class → Nat
  | .lane => 0xF0
  | .matrix => 0xF1
  | .copy => 0xF2

/-- R384: the SOURCE field of an engine's record. -/
def Issue.source (i : Issue) : Nat :=
  match i.eng with
  | .warp n s => warpSource n s (lowLane i.lanes)
  | .matrix n => 0x400 + n
  | .copy n => 0x800 + n

/-- The lane set or stream in issue set to a position, its wait ended. -/
def Chip.place (c : Chip) (i : Issue) (p : Pos) : Chip :=
  match i.eng with
  | .warp n s =>
    match c.warp n s with
    | none => c
    | some w => c.setWarp n s (some (w.onLanes i.lanes (fun _ l => { l with pos := p, wait := none })))
  | .matrix _ => c.modStream i.eng (fun s => { s with pos := p, wait := none })
  | .copy _ => c.modStream i.eng (fun s => { s with pos := p, wait := none })

/-- R39: the header that a lane set or stream has fetched for the clause it has entered. -/
def Chip.keepHeader (c : Chip) (e : Eng) (lanes : BitVec 64) (h : Header) : Chip :=
  match e with
  | .warp n s =>
    match c.warp n s with
    | none => c
    | some w => c.setWarp n s (some (w.onLanes lanes (fun _ l => { l with hdr := some h })))
  | .matrix _ => c.modStream e (fun s => { s with hdr := some h })
  | .copy _ => c.modStream e (fun s => { s with hdr := some h })

/-- R39, R392: the wait record of a header whose flags are held, and the header that was fetched for it; a wait that stands keeps both. -/
def Chip.headerWait (c : Chip) (i : Issue) (h : Header) : Stop :=
  let c1 := (c.setWait i (start c h.wait)).keepHeader i.eng i.lanes h
  match c.waitOf i with
  | some r => if r.state = 2 then .wait else .park c1
  | none => .park c1
where
  start (c : Chip) (mask : BitVec 12) : WaitRec :=
    { on := 0, phase := mask.setWidth 16, state := 2, scope := 0, since := c.now, cid := 0, met := false }

/-- CLAUSE_START (R39): the class, the wait, the entry and the traced event. -/
def execClauseStart (cls : Class) (h : Header) (s : State) : Host.Outcome State Fault Refusal :=
  runIssue s (fun i c =>
    if cls ≠ i.eng.cls then .error (laneTrap i (syndrome 2 (classByte cls * 65536 + 3)) (lowLane i.lanes) 0)
    else if flagsHeld (c.flags i.eng) h.wait then .error (c.headerWait i h)
    else
      let c1 := (c.place i { addr := i.pos.addr, idx := 0, entered := true }).keepHeader i.eng i.lanes h
      if h.trace then
        let (c2, id) := c1.nextCid i.eng
        .ok (c2.emit i.source 0x10 id i.pos.addr (if c.isChild i.eng then 4 else 0))
      else .ok c1)

/-- R39: the next clause address after a clause. -/
def Issue.next (i : Issue) : Pos := Pos.at (i.pos.addr + dw (8 * (i.hdr.count.toNat + 2)))

/-- R320: the target of a branch by an offset in words from its clause header. -/
def Issue.target (i : Issue) (off : BitVec 24) : Pos := Pos.at (i.pos.addr + 8 * off.signExtend 64)

/-- R320, R321: the executing lanes transferred each to its target, the others of the lane set to the next clause. -/
def Warp.transfer (w : Warp) (i : Issue) (act : BitVec 64) (f : Nat → Pos) : Warp :=
  w.onLanes i.lanes (fun k l => { l with pos := if act.getLsbD k then f k else i.next, wait := none })

/-- BRA (R320). -/
def execBra (g : Guard) (off : BitVec 24) (s : State) : Host.Outcome State Fault Refusal :=
  runIssue s (fun i c =>
    match prep { op := 0xB0, g := g, hq := false, d := none, ud := .rule, srcs := [] } i c with
    | .error e => .error e
    | .ok p => .ok (c.setWarp p.core p.slot (some (p.w.transfer i p.act (fun _ => i.target off)))))

/-- CALL (R320). -/
def execCall (g : Guard) (d : Reg) (off : BitVec 24) (s : State) : Host.Outcome State Fault Refusal :=
  runIssue s (fun i c =>
    match prep { op := 0xB2, g := g, hq := false, d := some (d, 2), ud := .never, srcs := [] } i c with
    | .error e => .error e
    | .ok p =>
      let w1 := p.write d.toNat 2 (fun _ => i.next.addr.toNat)
      .ok (c.setWarp p.core p.slot (some (w1.transfer i p.act (fun _ => i.target off)))))

/-- R321: the fault of a lane's target. -/
def badTarget (op t : Nat) : Option Nat :=
  if !canonical t then some (syndrome 5 (opReason op 1)) else if t % 8 ≠ 0 then some (syndrome 0x0B (opReason op 0)) else none

/-- R321: an indirect transfer. -/
def indirect (op : Nat) (g : Guard) (ia : Bool) (a : Reg) (i : Issue) (c : Chip) : Except Stop Chip :=
  let sa : Src := { code := a, field := 1, n := 2, ia := ia }
  match prepLanes { op := op, g := g, hq := false, d := none, ud := .rule, srcs := [sa] } i c with
  | .error e => .error e
  | .ok p =>
    match p.lowest (fun l => (badTarget op (sa.val p.w l)).map (fun syn => (syn, sa.val p.w l))) (lanesOf p.act) with
    | some (l, syn, a) => .error (laneTrap i syn l a)
    | none => .ok (c.setWarp p.core p.slot (some (p.w.transfer i p.act (fun k => Pos.at (dw (sa.val p.w k))))))

/-- BRI (R321). -/
def execBri (g : Guard) (ia : Bool) (a : Reg) (s : State) : Host.Outcome State Fault Refusal := runIssue s (indirect 0xB1 g ia a)

/-- RET (R321). -/
def execRet (g : Guard) (ia : Bool) (a : Reg) (s : State) : Host.Outcome State Fault Refusal := runIssue s (indirect 0xB3 g ia a)

/-- R330: the child exits of lanes: each lowers CHILD on its join barrier. -/
def childExits : List (Option (Nat × Nat)) → Chip → Chip
  | [], c => c
  | none :: r, c => childExits r c
  | some j :: r, c => childExits r (c.childExit j.1 j.2)

/-- EXIT (R322, R330): the executing lanes end; a child's lanes release at cluster scope and leave their join barriers. -/
def execExit (g : Guard) (s : State) : Host.Outcome State Fault Refusal :=
  runIssue s (fun i c =>
    match prep { op := 0xB4, g := g, hq := false, d := none, ud := .rule, srcs := [] } i c with
    | .error e => .error e
    | .ok p =>
      let w1 := p.w.onLanes i.lanes (fun k l =>
        if p.act.getLsbD k then { l with exited := true, wait := none, sync := none } else { l with pos := i.next, wait := none })
      let c1 := c.setWarp p.core p.slot (some w1)
      if !p.w.child || p.act = 0 then .ok c1
      else
        let (c2, race) := c1.releaseBy i.eng 3 none
        .ok ((childExits ((lanesOf p.act).map (fun l => (p.w.lane l).join)) c2).raceAfter race i 0xB4))

end Sys2Proof.Machine
end

