-- ==== Sys2Proof/Machine/Sweeps.lean ====
section
/-! DEFINITION. The seven sweeps over banks (R261-R267). -/

namespace Sys2Proof.Machine

open Sys2Proof

/-- R262: the offset of lane `i`'s element of `n` bytes in row `k`, from a bank address and a step. -/
def elemOff (addr step k i n : Nat) : Nat := addr % 2 ^ 20 + 32 * step * k + n * i

/-- R263: an operand of a sweep: its register's value, step, the bytes of one element or block, elements before the last one a row
touches and before the first, alignment, and whether it is written. -/
structure SweepOperand where
  addr : Nat
  step : Nat
  n : Nat
  first : Nat
  last : Nat
  align : Nat
  write : Bool
deriving DecidableEq, Repr

/-- R263: an operand's checks: the touch, or the syndrome. R267: the core's later accesses wait for the bytes that a sweep reads, too. -/
def SweepOperand.check (o : SweepOperand) (c : Chip) (e : Eng) (op count : Nat) : Except Nat Touch :=
  let hi := elemOff o.addr o.step (count - 1) o.last o.n + o.n - 1
  if bitsAt o.addr 20 9 != 0 || 2 ^ 20 ≤ hi then .error (syndrome 4 (opReason op 4))
  else if o.addr % o.align ≠ 0 then .error (syndrome 0x0B (opReason op 0))
  else if c.bcount e ≤ o.addr / 2 ^ 29 then .error (syndrome 7 (opReason op 2))
  else
    let s := c.physSlot e (o.addr / 2 ^ 29)
    let w := c.win e.core s
    if !w.v then .error (syndrome 7 (opReason op 1))
    else if o.write && !w.w then .error (syndrome 6 (opReason op 7))
    else .ok { slot := s, bank := w.bank, lo := elemOff o.addr o.step 0 o.first o.n, hi := hi, w := true }

/-- R263: every operand, in order; the failing operand's address with its syndrome. -/
def sweepChecks (c : Chip) (e : Eng) (op count : Nat) : List SweepOperand → Except (Nat × Nat) (List Touch)
  | [] => .ok []
  | o :: os =>
    match o.check c e op count with
    | .error syn => .error (syn, o.addr)
    | .ok t => match sweepChecks c e op count os with
      | .error x => .error x
      | .ok ts => .ok (t :: ts)

/-- R264: one element of the sweeps that compute on words. -/
def sweepElem (op a b d : Nat) : Nat :=
  match op with
  | 0x60 => fp32.fadd a b
  | 0x61 => fp32.fmul a b
  | 0x62 => fp32.ffma a b d
  | 0x63 => fp32.minMax true a b
  | 0x64 => (a + b) % 2 ^ 32
  | _ => a

/-- What a row of a sweep ends in: the bank it writes with the sticky bits, or a fault: syndrome, lane, address. -/
inductive RowOut where
  | ok (b : Bank) (f : Flags)
  | stop (syn lane addr : Nat)

/-- R264: one row of a sweep that computes on words. `ba`, `bb`, `bd` are the banks of a, b and the destination. -/
def wordRow (op : Nat) (ls : List Nat) (ba bb bd : Bank) (d a b sd sa sb k : Nat) : RowOut :=
  let rd (x : Bank) (addr st l : Nat) : Nat := x.read (elemOff addr st k l 4) 4
  let mk (x : Bank) (addr st l : Nat) : Bool := x.marked (elemOff addr st k l 4) 4
  let bad (l : Nat) : Bool := op != 0x65 && (mk ba a sa l || mk bb b sb l || (op == 0x62 && mk bd d sd l))
  match ls.find? bad with
  | some l => .stop (poisonSyn op) l 0
  | none =>
    let bytes := ls.flatMap (fun l => bytesAt (elemOff d sd k l 4) 4 (sweepElem op (rd ba a sa l) (rd bb b sb l) (rd bd d sd l)))
    let marks := (ls.filter (fun l => op == 0x65 && mk ba a sa l)).map (fun l => elemOff d sd k l 4 / 64)
    .ok (bd.write bytes marks) 0

/-- R8, R265: one row of WCVT; a fault is that of its lowest faulting lane. -/
def cvtRow (sl : Slot) (bds : List Bound) (ls : List Nat) (ba bd : Bank) (d a sd sa k : Nat) : RowOut :=
  let na := elemSize sl.fa
  let cs : List LaneCheck := ls.map (fun l => (l, boundCheck bds sl (widen sl.fa (ba.read (elemOff a sa k l na) na))))
  match firstLane (fun l => if ba.marked (elemOff a sa k l na) na then some (poisonSyn 0x66, 0) else rangeIn 0x66 l cs) ls with
  | some (l, syn, _) => .stop syn l (if syn = poisonSyn 0x66 then 0 else a / 2 ^ 20 * 2 ^ 20 + elemOff a sa k l na)
  | none =>
    let val (l : Nat) : FVal := match checkedVal cs l with
      | some (v, _) => v
      | none => .fin false 0 0
    let fl := orFlags (cs.map (fun q => match q.2 with
      | .pass _ _ f => f
      | .range _ => 0))
    if isFloat sl.fb then
      .ok (bd.write (ls.flatMap (fun l => bytesAt (elemOff d sd k l (elemSize sl.fb)) (elemSize sl.fb) (convertTo sl.fb sl (val l)))) []) fl
    else
      let gs := (ls.map (fun l => l / 16)).eraseDups
      let blks := gs.map (fun g => (g, toSX sl.fb sl.sb sl.rnd sl.sat ((List.range 16).map (fun j => val (16 * g + j)))))
      .ok (bd.write (blks.flatMap (fun b => bytesAt (elemOff d sd k b.1 (sxSize sl.fb)) (sxSize sl.fb) (natOfBytes (b.2.1.bytes sl.fb)))) [])
        (fl ||| orFlags (blks.map (fun b => b.2.2)))

/-- R264, R265: the rows of a sweep from `k`, strictly in order; a fault leaves the rows before it written. -/
def sweepRows (op : Nat) (sl : Slot) (bds : List Bound) (ls : List Nat) (cl : Nat) (d a b : Nat × Nat) (sd sa sb : Nat) :
    Nat → Nat → Chip → Flags → Chip × Flags × Option (Nat × Nat × Nat)
  | 0, _, c, f => (c, f, none)
  | n + 1, k, c, f =>
    let bd := c.bank cl d.1
    let r := if op = 0x66 then cvtRow sl bds ls (c.bank cl a.1) bd d.2 a.2 sd sa k
      else wordRow op ls (c.bank cl a.1) (c.bank cl b.1) bd d.2 a.2 b.2 sd sa sb k
    match r with
    | .stop syn l ad => (c, f, some (syn, l, ad))
    | .ok bk g => sweepRows op sl bds ls cl d a b sd sa sb n (k + 1) (c.setBank cl d.1 bk) (f ||| g)

/-- A sweep performed for an engine: the chip with its rows written and its sticky bits set, and the fault that stopped it. -/
def Chip.sweepRun (c : Chip) (e : Eng) (op : Nat) (mask : BitVec 64) (count fs : Nat) (d a b : Nat × Nat) (sd sa sb : Nat) :
    Chip × Option (Nat × Nat × Nat) :=
  let (c1, f, st) := sweepRows op (c.slot e fs) (c.bounds e) (lanesOf mask) (clusterOf e.core) d a b sd sa sb count 0 c 0
  match st, e with
  | none, .warp n s => (match c1.warp n s with
    | none => (c1, none)
    | some w => (c1.setWarp n s (some (w.sticky f)), none))
  | x, _ => (c1, x)

/-- R265: the format pairs WCVT accepts. -/
def cvtPairOk (sl : Slot) : Bool := isFloat sl.fa && sl.fb < 6 && (!isSx sl.fb || sl.fa = 0)

/-- The common path of the sweeps. `sb` is absent for WMOV and WCVT; `fs` is WCVT's slot. A sweep that R194 or R267 holds back waits with its
operation, and its lane set goes on where SETA takes the flag (R45, R266). DESIGN CHOICE (log 18): a RANGE that a WCVT meets once its lane set has
issued further is posted, and what R265 says of its reissue is then the handler's to do.
R50: the code of an s register in fields 11 to 13 is its operand code, 960 and more. DESIGN CHOICE (log 12). -/
def sweepOp (op : Nat) (count : BitVec 12) (sd sa : BitVec 6) (sb : Option (BitVec 6)) (fs : Nat) (stepd stepa stepb : BitVec 8) (i : Issue)
    (c : Chip) : Except Stop Chip :=
  let flag := flagSeta i.hdr
  let src (r : BitVec 6) (field : Nat) : Src := { code := BitVec.ofNat 10 (960 + r.toNat), field := field, n := 1, ia := false }
  let srcs := [src sd 11, src sa 12] ++ (match sb with
    | none => []
    | some r => [src r 13])
  withFlag c i flag (match prep { op := op, g := 0, hq := false, d := none, ud := .rule, srcs := srcs } i c with
    | .error e => .error e
    | .ok p =>
      let sl := c.slot i.eng fs
      let low := lowLane i.lanes
      if op = 0x66 && !cvtPairOk sl then .error (laneTrap i (formatSyn 0x66 fs sl) low 0)
      else
        let ls := lanesOf i.lanes
        let first := low
        let last := ls.getLastD 0
        let nd := if op = 0x66 then (if isSx sl.fb then sxSize sl.fb else elemSize sl.fb) else 4
        let na := if op = 0x66 then elemSize sl.fa else 4
        let blk := op = 0x66 && isSx sl.fb
        let vd := p.w.reg (960 + sd.toNat) 0
        let va := p.w.reg (960 + sa.toNat) 0
        let vb := match sb with
          | none => 0
          | some r => p.w.reg (960 + r.toNat) 0
        let od : SweepOperand := { addr := vd, step := stepd.toNat, n := nd, first := if blk then first / 16 else first,
                                   last := if blk then last / 16 else last, align := if blk then 2 else nd, write := true }
        let oa : SweepOperand := { addr := va, step := stepa.toNat, n := na, first := first, last := last, align := na, write := false }
        let ob : SweepOperand := { addr := vb, step := stepb.toNat, n := 4, first := first, last := last, align := 4, write := false }
        match sweepChecks c i.eng op count.toNat ([od, oa] ++ (if sb.isSome then [ob] else [])) with
        | .error (syn, ad) => .error (laneTrap i syn low ad)
        | .ok ts =>
          let (c1, cid) := c.nextCid i.eng
          let bankOf (k : Nat) : Nat := (ts.map (fun t => t.bank)).getD k 0
          let d := (bankOf 0, vd)
          let a := (bankOf 1, va)
          let b := (bankOf 2, vb)
          if c1.bankReady p.core c1.nextOp ts then
            match c1.sweepRun i.eng op i.lanes count.toNat fs d a b stepd.toNat stepa.toNat stepb.toNat with
            | (c2, none) => .ok (c2.issueOp i (Op.blank op flag cid))
            | (c2, some (syn, l, ad)) => .error (.trapOn c2 syn l ad i.lanes)
          else
            .ok (c1.issueOp i { Op.blank op flag cid with
              late := some { touch := ts, work := .sweep i.lanes count.toNat fs d a b stepd.toNat stepa.toNat stepb.toNat } }))

/-- WFADD (R264). -/
def execWfadd (count : BitVec 12) (sd sa sb : BitVec 6) (stepd stepa stepb : BitVec 8) (s : State) : Host.Outcome State Fault Refusal :=
  runIssue s (sweepOp 0x60 count sd sa (some sb) 0 stepd stepa stepb)
/-- WFMUL (R264). -/
def execWfmul (count : BitVec 12) (sd sa sb : BitVec 6) (stepd stepa stepb : BitVec 8) (s : State) : Host.Outcome State Fault Refusal :=
  runIssue s (sweepOp 0x61 count sd sa (some sb) 0 stepd stepa stepb)
/-- WFFMA (R264). -/
def execWffma (count : BitVec 12) (sd sa sb : BitVec 6) (stepd stepa stepb : BitVec 8) (s : State) : Host.Outcome State Fault Refusal :=
  runIssue s (sweepOp 0x62 count sd sa (some sb) 0 stepd stepa stepb)
/-- WFMAX (R264). -/
def execWfmax (count : BitVec 12) (sd sa sb : BitVec 6) (stepd stepa stepb : BitVec 8) (s : State) : Host.Outcome State Fault Refusal :=
  runIssue s (sweepOp 0x63 count sd sa (some sb) 0 stepd stepa stepb)
/-- WIADD (R264). -/
def execWiadd (count : BitVec 12) (sd sa sb : BitVec 6) (stepd stepa stepb : BitVec 8) (s : State) : Host.Outcome State Fault Refusal :=
  runIssue s (sweepOp 0x64 count sd sa (some sb) 0 stepd stepa stepb)
/-- WMOV (R264). -/
def execWmov (count : BitVec 12) (sd sa : BitVec 6) (stepd stepa : BitVec 8) (s : State) : Host.Outcome State Fault Refusal :=
  runIssue s (sweepOp 0x65 count sd sa none 0 stepd stepa 0)
/-- WCVT (R265). -/
def execWcvt (count : BitVec 12) (sd sa : BitVec 6) (fs : BitVec 3) (stepd stepa : BitVec 8) (s : State) : Host.Outcome State Fault Refusal :=
  runIssue s (sweepOp 0x66 count sd sa none fs.toNat stepd stepa 0)

end Sys2Proof.Machine
end

