-- ==== Sys2Proof/Machine/Matrix.lean ====
section
/-! DEFINITION. The matrix engine: scalar control, tiles, accumulators, products and drains (R268-R293). -/

namespace Sys2Proof.Machine

open Sys2Proof

/-- R269: block columns a row of a format holds; 0 for a format that no tile holds. -/
def tileCap (fmt : Nat) : Nat :=
  match fmt with
  | 0 => 4
  | 1 => 8
  | 2 => 8
  | 3 => 8
  | 4 => 16
  | 5 => 32
  | _ => 0

/-- R269: the bytes of a block column. -/
def blockBytes (fmt : Nat) : Nat := if isSx fmt then sxSize fmt else if fmt = 0 then 64 else 32

/-- R269: the elements of a group of a product. -/
def groupLen (fmt : Nat) : Nat := if isSx fmt then 16 else 8

/-- R276, R281: KBLK with 0 read as the capacity. -/
def kblkOf (k cap : Nat) : Nat := if k = 0 then cap else k

/-- A scale exponent as a tag holds it. -/
def scaleBits (s : Int) : BitVec 8 := BitVec.ofInt 8 s

/-- The exact elements of a block column's bytes (R73, R269). -/
def blockElems (fmt : Nat) (s : Int) (bs : List Byte) : List FVal :=
  if isSx fmt then (List.range 16).map (fun j => sxElement fmt s bs j)
  else (List.range 16).map (fun j => widen fmt (natOfBytes ((bs.drop (j * elemSize fmt)).take (elemSize fmt))))

/-- The exact elements of the first `k` block columns of a row given as bytes. -/
def rowElems (fmt : Nat) (s : Int) (k : Nat) (bs : List Byte) : List FVal :=
  (List.range k).flatMap (fun b => blockElems fmt s ((bs.drop (b * blockBytes fmt)).take (blockBytes fmt)))

/-- A list cut into pieces of `n`. -/
def pieces {α : Type} (n : Nat) : Nat → List α → List (List α)
  | 0, _ => []
  | k + 1, l => l.take n :: pieces n k (l.drop n)

/-- The entries of a map replaced at the keys from `lo` below `hi`; `new` has rising keys in that range. -/
def replaceRange {α : Type} [DecidableEq α] (d : α) (lo hi : Nat) (m : AMap α) (new : List (Nat × α)) : AMap α :=
  m.filter (fun p => p.1 < lo) ++ new.filter (fun p => !decide (p.2 = d)) ++ m.filter (fun p => hi ≤ p.1)

/-- A tile of a matrix engine. -/
def Mat.tile (m : Mat) (t : Nat) : Tile := aget Tile.zero m.tiles t

/-- Row `r` of a tile, `n` bytes. -/
def Tile.row (t : Tile) (r n : Nat) : List Byte := agetN 0 t.data (r * 256) n

/-- A tile from the bytes of its 128 rows and the marks of its rows. -/
def Tile.ofRows (fmt : Nat) (scale : BitVec 8) (rows : List (List Byte)) (marks : List Nat) : Tile :=
  { fmt := fmt, scale := scale,
    data := (rows.zipIdx.flatMap (fun p => p.1.zipIdx.map (fun q => (p.2 * 256 + q.2, q.1)))).filter (fun p => p.2 != 0),
    marks := ((List.range 128).filter (fun r => marks.contains r)).map (fun r => (r, true)) }

/-- Whether a row of a tile is marked. -/
def Tile.marked (t : Tile) (r : Nat) : Bool := aget false t.marks r

/-- An operand of a matrix instruction (R270): address, pitch (0 filled in), bytes of a row, whether written. -/
structure MatOperand where
  word : Nat
  pitch : Nat
  n : Nat
  align : Nat
  write : Bool
deriving DecidableEq, Repr

/-- The operand a word names, with rows of `n` bytes. -/
def matOperand (word n fmt : Nat) (write : Bool) : MatOperand :=
  { word := word, pitch := if bitsAt word 32 16 = 0 then n else bitsAt word 32 16, n := n, align := if fmt = 0 then 4 else 2, write := write }

/-- The offset of row `r`. -/
def MatOperand.row (o : MatOperand) (r : Nat) : Nat := o.word % 2 ^ 20 + r * o.pitch

/-- R270: an operand's checks: its bank and touches, or the syndrome. -/
def MatOperand.check (o : MatOperand) (c : Chip) (e : Eng) (op : Nat) : Except Nat (Nat × List Touch) :=
  if bitsAt o.word 48 16 != 0 || bitsAt o.word 20 9 != 0 || 2 ^ 20 < o.row 127 + o.n then .error (syndrome 4 (opReason op 4))
  else if o.word % 2 ^ 32 % o.align ≠ 0 || bitsAt o.word 32 16 % o.align ≠ 0 then .error (syndrome 0x0B (opReason op 0))
  else if c.bcount e ≤ bitsAt o.word 29 3 then .error (syndrome 7 (opReason op 2))
  else
    let s := c.physSlot e (bitsAt o.word 29 3)
    let w := c.win e.core s
    if !w.v then .error (syndrome 7 (opReason op 1))
    else if o.write && !w.w then .error (syndrome 6 (opReason op 7))
    else .ok (w.bank, (List.range 128).map (fun r => { slot := s, bank := w.bank, lo := o.row r, hi := o.row r + o.n - 1, w := o.write }))

/-- A fault of the matrix stream. -/
def matTrap (i : Issue) (syn addr : Nat) : Stop := laneTrap i syn 0 addr

/-- R270: the fault of an operand: TR.ADDR holds the bank address. -/
def operandTrap (i : Issue) (o : MatOperand) (syn : Nat) : Stop := matTrap i syn (o.word % 2 ^ 32)

/-- R56: a tile field at or above the declared count. -/
def Chip.tileBad (c : Chip) (e : Eng) (op : Nat) (ts : List (Nat × Nat)) : Option Nat :=
  let n := ((c.kernelOf (c.gangOf e)).map (fun k => k.tiles)).getD 0
  (ts.find? (fun t => n ≤ t.2)).map (fun t => regSyn op t.1 t.2)

/-- R271: whether a unit of the engine, the array unit or the transfer unit, still has an earlier instruction to perform. -/
def Chip.unitBusy (c : Chip) (core : Nat) (array : Bool) : Bool :=
  c.matOps core (fun o => o.late.isSome && isArrayOp o.code == array) || (array && (c.core core).mat.post.isSome)

/-- R271, R290: whether a tile is still to be read by a posted `MPAIR`, which places no interlock on the tiles of the other core. -/
def Mat.pairReads (m : Mat) (core t : Nat) : Bool :=
  match m.post with
  | none => false
  | some p => (core % 2 = 0 && p.ta == t) || p.tb == t

/-- R271: whether an earlier transfer is still to write the tile, or, where the instruction writes it, to read it. -/
def Chip.tileHeld (c : Chip) (core t : Nat) (write : Bool) : Bool :=
  c.matOps core (fun o => match o.late with
    | none => false
    | some l => match l.work with
      | .matrix t' _ _ _ _ _ _ => t' == t && (o.code == 0xC1 || (write && o.code == 0xC2))
      | _ => false)
  || (write && (c.core core).mat.pairReads core t)

/-- R271, R275: an array instruction that has been issued: the unit runs it, and no record of an earlier `MMAS` stands any more. -/
def Chip.arrayRuns (c : Chip) (core op : Nat) : Chip :=
  let m := (c.core core).mat
  c.setMat core { m with prgState := 1, prgOp := op, chunk := 0, mmas := none }

/-- What a matrix instruction does once its fields are checked: `tiles` the tile fields with their field codes, `dest` the tile it
writes; it waits for its unit and for its tiles (R271; TCFG belongs to neither unit). `above` says whether KBLK lies above its capacity on a core, which
R50 reports before the fields; log 12: a tile's capacity is that of the tag it holds, whether or not the kernel declares it. -/
def matOpK (op : Nat) (fsel : BitVec 2) (tiles : List (Nat × Nat)) (dest : Option Nat) (above : Chip → Nat → Bool)
    (f : Nat → Option Nat → Issue → Chip → Except Stop Chip) (i : Issue) (c : Chip) : Except Stop Chip :=
  match i.eng with
  | .warp _ _ => .error .wait
  | .copy _ => .error .wait
  | .matrix core =>
    let flag := flagOf i.hdr fsel.toNat
    let held := tiles.any (fun t => c.tileHeld core t.2 (dest == some t.2))
    match c.tileBad i.eng op tiles with
    | some syn => if held then .error .wait else .error (if above c core then illegal9 i op else matTrap i syn 0)
    | none =>
      withFlag c i flag (
        if (op != 0xC0 && c.unitBusy core (isArrayOp op)) || held then .error .wait
        else if above c core then .error (illegal9 i op)
        else f core flag i c)

/-- A matrix instruction without a KBLK. -/
def matOp (op : Nat) (fsel : BitVec 2) (tiles : List (Nat × Nat)) (dest : Option Nat)
    (f : Nat → Option Nat → Issue → Chip → Except Stop Chip) (i : Issue) (c : Chip) : Except Stop Chip :=
  matOpK op fsel tiles dest (fun _ _ => false) f i c

/-- R276: whether a KBLK lies above a capacity; a format that no tile holds has none. -/
def kblkOver (kblk : BitVec 6) (cap : Nat) : Bool := cap != 0 && decide (cap < kblk.toNat)

/-- The tiles of a matrix engine with one replaced. -/
def Chip.setTile (c : Chip) (core t : Nat) (k : Tile) : Chip :=
  let m := (c.core core).mat
  c.setMat core { m with tiles := aput Tile.zero m.tiles t k }

/-- A slot's format and scale: A, or B with `.b`. -/
def Slot.side (sl : Slot) (b : Bool) : Nat × Int := if b then (sl.fb, sl.sb) else (sl.fa, sl.sa)

/-- The value of an m register. -/
def Chip.mreg (c : Chip) (core : Nat) (r : BitVec 5) : Nat := (aget 0 (c.core core).mat.m r.toNat).toNat

/-- R46: the m registers an instruction names are not still to be written. -/
def mregReady (i : Issue) (c : Chip) (rs : List (BitVec 5)) (k : Except Stop Chip) : Except Stop Chip :=
  if rs.any (fun r => c.pendingK i.eng r.toNat) then .error .wait else k

/-- TCFG (R280). -/
def execTcfg (b : Bool) (td : BitVec 4) (fs : BitVec 3) (s : State) : Host.Outcome State Fault Refusal :=
  runIssue s (matOp 0xC0 0 [(8, td.toNat)] (some td.toNat) (fun core _ i c =>
    let sl := c.slot i.eng fs.toNat
    let (fmt, sc) := sl.side b
    if tileCap fmt = 0 then .error (matTrap i (formatSyn 0xC0 fs.toNat sl) 0)
    else .ok ((c.setTile core td.toNat { Tile.zero with fmt := fmt, scale := scaleBits sc }).advance i)))

/-- R281: the transfer of a `TLD` from a bank. -/
def Chip.tldRun (c : Chip) (core td fmt : Nat) (sc : BitVec 8) (o : MatOperand) (bank : Nat) : Chip :=
  let b := c.bank (clusterOf core) bank
  let rows := (List.range 128).map (fun r => agetN 0 b.data (o.row r) o.n)
  c.setTile core td (Tile.ofRows fmt sc rows ((List.range 128).filter (fun r => b.marked (o.row r) o.n)))

/-- Granules of a range of a bank. -/
def granules (off n : Nat) : List Nat := (List.range ((off + n - 1) / 64 - off / 64 + 1)).map (fun k => off / 64 + k)

/-- R282: the transfer of a `TST` to a bank. -/
def Chip.tstRun (c : Chip) (core ta : Nat) (o : MatOperand) (bank : Nat) : Chip :=
  let t := (c.core core).mat.tile ta
  let cl := clusterOf core
  let bytes := (List.range 128).flatMap (fun r => (t.row r o.n).zipIdx.map (fun p => (o.row r + p.2, p.1)))
  let marks := ((List.range 128).filter t.marked).flatMap (fun r => granules (o.row r) o.n)
  c.setBank cl bank ((c.bank cl bank).write bytes marks)

/-- TLD (R281). -/
def execTld (fsel : BitVec 2) (b : Bool) (td : BitVec 4) (ma : BitVec 5) (fs : BitVec 3) (kblk : BitVec 6) (s : State) :
    Host.Outcome State Fault Refusal :=
  runIssue s (fun i => matOpK 0xC1 fsel [(8, td.toNat)] (some td.toNat) (fun c _ => kblkOver kblk (tileCap ((c.slot i.eng fs.toNat).side b).1))
      (fun core flag i c =>
    let sl := c.slot i.eng fs.toNat
    let (fmt, sc) := sl.side b
    if tileCap fmt = 0 then .error (matTrap i (formatSyn 0xC1 fs.toNat sl) 0)
    else mregReady i c [ma] (
      let o := matOperand (c.mreg core ma) (kblkOf kblk.toNat (tileCap fmt) * blockBytes fmt) fmt false
      match o.check c i.eng 0xC1 with
      | .error syn => .error (operandTrap i o syn)
      | .ok (bank, ts) =>
        let (c1, cid) := c.nextCid i.eng
        if c1.bankReady core c1.nextOp ts then
          .ok ((c1.tldRun core td.toNat fmt (scaleBits sc) o bank).issueOp i (Op.blank 0xC1 flag cid))
        else
          .ok (c1.issueOp i { Op.blank 0xC1 flag cid with
            late := some { touch := ts, work := .matrix td.toNat 0 fs.toNat kblk.toNat b (dw o.word) bank } }))) i)

/-- TST (R282). -/
def execTst (fsel : BitVec 2) (ta : BitVec 4) (ma : BitVec 5) (kblk : BitVec 6) (s : State) : Host.Outcome State Fault Refusal :=
  runIssue s (matOpK 0xC2 fsel [(9, ta.toNat)] none (fun c core => kblkOver kblk (tileCap ((c.core core).mat.tile ta.toNat).fmt))
      (fun core flag i c =>
    let fmt := ((c.core core).mat.tile ta.toNat).fmt
    mregReady i c [ma] (
      let o := matOperand (c.mreg core ma) (kblkOf kblk.toNat (tileCap fmt) * blockBytes fmt) fmt true
      match o.check c i.eng 0xC2 with
      | .error syn => .error (operandTrap i o syn)
      | .ok (bank, ts) =>
        let (c1, cid) := c.nextCid i.eng
        if c1.bankReady core c1.nextOp ts then .ok ((c1.tstRun core ta.toNat o bank).issueOp i (Op.blank 0xC2 flag cid))
        else
          .ok (c1.issueOp i { Op.blank 0xC2 flag cid with
            late := some { touch := ts, work := .matrix ta.toNat 0 0 kblk.toNat false (dw o.word) bank } }))))

/-- TMOV (R283). -/
def execTmov (fsel : BitVec 2) (td ta : BitVec 4) (s : State) : Host.Outcome State Fault Refusal :=
  runIssue s (matOp 0xCA fsel [(8, td.toNat), (9, ta.toNat)] (some td.toNat) (fun core flag i c =>
    .ok (((c.setTile core td.toNat ((c.core core).mat.tile ta.toNat)).arrayRuns core 0xCA).issueOp i (Op.blank 0xCA flag 0))))

/-- R283: the transpose of 128 by 128 elements of two bytes. -/
def Tile.transpose (t : Tile) : Tile :=
  Tile.ofRows t.fmt t.scale
    ((List.range 128).map (fun r => (List.range 128).flatMap (fun j => agetN 0 t.data (j * 256 + 2 * r) 2)))
    (if (List.range 128).any t.marked then List.range 128 else [])

/-- TTRN (R283). -/
def execTtrn (fsel : BitVec 2) (td ta : BitVec 4) (s : State) : Host.Outcome State Fault Refusal :=
  runIssue s (matOp 0xCB fsel [(8, td.toNat), (9, ta.toNat)] (some td.toNat) (fun core flag i c =>
    let t := (c.core core).mat.tile ta.toNat
    if t.fmt = 1 ∨ t.fmt = 2 then
      .ok (((c.setTile core td.toNat t.transpose).arrayRuns core 0xCB).issueOp i (Op.blank 0xCB flag 0))
    else .error (matTrap i (syndrome 0x0A (0xCB * 65536 + t.fmt * 16 + t.fmt)) 0)))

/-- R268: the first key of an accumulator. -/
def accBase (acc : Nat) : Nat := acc * 16384

/-- The accumulators of a matrix engine with one set to the words of its 128 rows. -/
def Mat.setAcc (m : Mat) (acc : Nat) (vals : List Word) : Mat :=
  { m with acc := replaceRange 0 (accBase acc) (accBase (acc + 1)) m.acc (vals.zipIdx.map (fun p => (accBase acc + p.2, p.1))) }

/-- MZERO (R284). -/
def execMzero (fsel : BitVec 2) (acc : BitVec 2) (s : State) : Host.Outcome State Fault Refusal :=
  runIssue s (matOp 0xC9 fsel [] none (fun core flag i c =>
    .ok (((c.setMat core ((c.core core).mat.setAcc acc.toNat [])).arrayRuns core 0xC9).issueOp i (Op.blank 0xC9 flag 0))))

/-- R286: the exact sum of a group's products. -/
def groupSum : List FVal → List FVal → FVal
  | a :: as, b :: bs => (groupSum as bs).add (a.mul b)
  | _, _ => .fin false 0 0

/-- Whether a group holds a product that is not finite (R286, R287). -/
def groupSpecial : List FVal → List FVal → Bool
  | a :: as, b :: bs => (a.mul b).special || groupSpecial as bs
  | _, _ => false

/-- R286: one accumulation: the word, and whether it was flushed. -/
def accumulate (cw : Nat) (s : FVal) : Nat × Bool :=
  let t := fp32.pack .rne false s
  let r := fp32.fadd cw t
  if bitsAt r 23 8 = 0 && r % 2 ^ 23 != 0 then (r / 2 ^ 31 * 2 ^ 31, true) else (r, false)

/-- R286: an element over the groups in rising order. -/
def accElem : List (List FVal) → List (List FVal) → Nat × Bool → Nat × Bool
  | ga :: as, gb :: bs, (cw, f) => let (r, g) := accumulate cw (groupSum ga gb); accElem as bs (r, f || g)
  | _, _, x => x

/-- R286: the product of rows of groups into the words of an accumulator, row by row. -/
def productRows (bs : List (List (List FVal))) : List (List (List FVal)) → List Nat → List Nat × Bool
  | [], _ => ([], false)
  | a :: as, cw =>
    let row := (bs.zip cw).map (fun p => accElem a p.1 (p.2, false))
    let (r, f) := productRows bs as (cw.drop 128)
    (row.map (fun x => x.1) ++ r, f || row.any (fun x => x.2))

/-- R287: whether an upset of the array unit shows in this product: its group is checked in its row. -/
def upsetShows (u : Upset) (as bs : List (List (List FVal))) : Bool :=
  match as[u.row]? with
  | none => false
  | some ga =>
    match ga[u.grp]? with
    | none => false
    | some g => !bs.any (fun gb => groupSpecial g (gb.getD u.grp []))

/-- What a product of rows ends in (R286, R287): the engine with its accumulator, or the detail of a mismatch. -/
def Mat.product (m : Mat) (op acc : Nat) (zero : Bool) (up : Option Upset) (as bs : List (List (List FVal))) : Except Nat Mat :=
  match up.bind (fun u => if upsetShows u as bs then some u else none) with
  | some u => .error (syndrome 0x11 (op * 65536 + u.row * 512 + u.grp * 16))
  | none =>
    let old := if zero then List.replicate 16384 0 else (agetN 0 m.acc (accBase acc) 16384).map (fun w => w.toNat)
    let (vals, f) := productRows bs as old
    let m1 := m.setAcc acc (vals.map (BitVec.ofNat 32))
    .ok (if f then { m1 with mstat := m1.mstat ||| 0x20#6 } else m1)

/-- R285: whether two formats pair. -/
def pairOk (fa fb : Nat) : Bool := ((fa = 1 || fa = 2) && (fb = 1 || fb = 2)) || (isSx fa && isSx fb)

/-- The groups of a tile's first `k` block columns, by row. -/
def Tile.groups (t : Tile) (k : Nat) : List (List (List FVal)) :=
  (List.range 128).map (fun r => pieces (groupLen t.fmt) (k * 16 / groupLen t.fmt)
    (rowElems t.fmt t.scale.toInt k (t.row r (k * blockBytes t.fmt))))

/-- R287, R383, R385: a mismatch: the upset is spent and the event recorded, with the causal ID of the operation where it has one. -/
def Chip.datapath (c : Chip) (core syn : Nat) (cid : Option DWord := none) : Chip :=
  let c1 := c.setCore core { c.core core with upset := none }
  let (c2, id) := c1.causeCid (.matrix core) cid
  c2.emit (0x400 + core) 0x41 id (dw (syn % 2 ^ 24)) 0

/-- R276: the capacity of a tile operand, or of two: the smaller one. -/
def Mat.cap (m : Mat) (ta tb : BitVec 4) : Nat := min (tileCap (m.tile ta.toNat).fmt) (tileCap (m.tile tb.toNat).fmt)

/-- MMA and MMAZ (R50, R285, R286): a KBLK above the capacity is reported before formats that do not pair. DESIGN CHOICE (log 12): both before a
marked row. -/
def mmaOp (op : Nat) (zero : Bool) (fsel acc : BitVec 2) (ta tb : BitVec 4) (kblk : BitVec 6) : Issue → Chip → Except Stop Chip :=
  matOpK op fsel [(9, ta.toNat), (10, tb.toNat)] none (fun c core => kblkOver kblk ((c.core core).mat.cap ta tb)) (fun core flag i c =>
    let m := (c.core core).mat
    let a := m.tile ta.toNat
    let b := m.tile tb.toNat
    if !pairOk a.fmt b.fmt then .error (matTrap i (syndrome 0x0A (op * 65536 + a.fmt * 16 + b.fmt)) 0)
    else if (List.range 128).any (fun r => a.marked r || b.marked r) then .error (poisonSeq i op 2)
    else
      let k := kblkOf kblk.toNat (m.cap ta tb)
      match m.product op acc.toNat zero (c.core core).upset (a.groups k) (b.groups k) with
      | .error syn => .error (.trapOn ((c.arrayRuns core op).datapath core syn) syn 0 0 i.lanes)
      | .ok m1 => .ok (((c.setMat core m1).arrayRuns core op).issueOp i (Op.blank op flag 0)))

/-- MMA (R285). -/
def execMma (fsel acc : BitVec 2) (ta tb : BitVec 4) (kblk : BitVec 6) (s : State) : Host.Outcome State Fault Refusal :=
  runIssue s (mmaOp 0xC3 false fsel acc ta tb kblk)
/-- MMAZ (R285). -/
def execMmaz (fsel acc : BitVec 2) (ta tb : BitVec 4) (kblk : BitVec 6) (s : State) : Host.Outcome State Fault Refusal :=
  runIssue s (mmaOp 0xC4 true fsel acc ta tb kblk)

/-- R288: the operands of an `MMAS`: rows of COUNT × KBLK block columns. -/
def mmasOperands (sl : Slot) (count k a b : Nat) : MatOperand × MatOperand :=
  (matOperand a (count * k * blockBytes sl.fa) sl.fa false, matOperand b (count * k * blockBytes sl.fb) sl.fb false)

/-- R276: the block columns of one chunk of an `MMAS`. -/
def mmasBlocks (sl : Slot) (kblk : Nat) : Nat := kblkOf kblk (min (tileCap sl.fa) (tileCap sl.fb))

/-- The bytes that the chunks of an operand from `ch` on touch, by row; a chunk holds `b` bytes of a row. -/
def restTouches (o : MatOperand) (slot bank b ch : Nat) : List Touch :=
  (List.range 128).map (fun r => { slot := slot, bank := bank, lo := o.row r + ch * b, hi := o.row r + o.n - 1, w := false })

/-- MMAS (R288, R289): its checks at issue; chunks follow one by one. A resumed `MMAS` goes on at the first chunk that did not commit:
its record stands only then (`keepMmas`). -/
def execMmas (fsel : BitVec 2) (z : Bool) (acc : BitVec 2) (ma mb : BitVec 5) (fs : BitVec 3) (count : BitVec 12) (kblk : BitVec 6) (s : State) :
    Host.Outcome State Fault Refusal :=
  runIssue s (matOp 0xC5 fsel [] none (fun core flag i c =>
    let sl := c.slot i.eng fs.toNat
    let k := mmasBlocks sl kblk.toNat
    if count = 0 || kblkOver kblk (min (tileCap sl.fa) (tileCap sl.fb)) then .error (illegal9 i 0xC5)
    else if !pairOk sl.fa sl.fb then .error (matTrap i (formatSyn 0xC5 fs.toNat sl) 0)
    else mregReady i c [ma, mb] (
      let (oa, ob) := mmasOperands sl count.toNat k (c.mreg core ma) (c.mreg core mb)
      match oa.check c i.eng 0xC5, ob.check c i.eng 0xC5 with
      | .error syn, _ => .error (operandTrap i oa syn)
      | .ok _, .error syn => .error (operandTrap i ob syn)
      | .ok (ba, _), .ok (bb, _) =>
        let (c1, cid) := c.nextCid i.eng
        let m := (c1.core core).mat
        let again := m.mmas.isSome
        let from_ := if again then m.chunk else 0
        let sa := c1.physSlot i.eng (bitsAt oa.word 29 3)
        let sb := c1.physSlot i.eng (bitsAt ob.word 29 3)
        let ts := restTouches oa sa ba (k * blockBytes sl.fa) from_ ++ restTouches ob sb bb (k * blockBytes sl.fb) from_
        let r : Mmas := { acc := acc.toNat, fs := fs.toNat, opA := dw oa.word, opB := dw ob.word, bankA := ba, bankB := bb,
                          count := count.toNat, kblk := kblk.toNat, zero := z, op := c1.nextOp, pos := i.pos, hdr := i.hdr }
        let m1 : Mat := { m with mmas := some r, prgState := 1, prgOp := 0xC5, chunk := from_ }
        .ok ((c1.setMat core m1).issueOp i { Op.blank 0xC5 flag cid with
          hold := true, late := some { touch := ts, work := .chunks } }))))

/-- R288: the groups of chunk `ch` of an operand read from its bank. -/
def chunkGroups (b : Bank) (o : MatOperand) (fmt : Nat) (sc : Int) (k ch : Nat) : List (List (List FVal)) :=
  (List.range 128).map (fun r => pieces (groupLen fmt) (k * 16 / groupLen fmt)
    (rowElems fmt sc k (agetN 0 b.data (o.row r + ch * k * blockBytes fmt) (k * blockBytes fmt))))

/-- The bytes a chunk of an operand touches, by row. -/
def chunkTouches (o : MatOperand) (slot bank fmt k ch : Nat) : List Touch :=
  (List.range 128).map (fun r =>
    let lo := o.row r + ch * k * blockBytes fmt
    { slot := slot, bank := bank, lo := lo, hi := lo + k * blockBytes fmt - 1, w := false })

/-- R42, R368: an operation that ends with a failure leaves its flag. -/
def Chip.dropOp (c : Chip) (id : Nat) : Chip :=
  match c.ops.find? (fun o => o.id == id) with
  | none => c
  | some o =>
    let c1 := { c with ops := c.ops.filter (fun x => x.id != id) }
    match o.flag with
    | none => c1
    | some f => c1.modFlags o.eng (fun cf => cfDown cf f)

/-- The causal ID of an operation in flight. -/
def Chip.opCid (c : Chip) (id : Nat) : Option DWord := (c.ops.find? (fun o => o.id == id)).map (fun o => o.cid)

/-- R287, R289, R368: a chunk that failed: the operation leaves, the stream stops at the `MMAS`. -/
def Chip.mmasFail (c : Chip) (core : Nat) (m : Mmas) (syn : Nat) : Chip :=
  (c.dropOp m.op).seqFault (.matrix core) m.pos syn 0 (c.opCid m.op)

/-- R288, R289: the next chunk of a running `MMAS`, read through the banks bound at its issue. -/
def Chip.mmasChunk (c : Chip) (core : Nat) : Chip :=
  let mt := (c.core core).mat
  match mt.mmas with
  | none => c
  | some m =>
    if !c.mmasBusy core then c
    else
      let e : Eng := .matrix core
      let sl := c.slot e m.fs
      let k := mmasBlocks sl m.kblk
      let (oa, ob) := mmasOperands sl m.count k m.opA.toNat m.opB.toNat
      let sa := c.physSlot e (bitsAt m.opA.toNat 29 3)
      let sb := c.physSlot e (bitsAt m.opB.toNat 29 3)
      let ts := chunkTouches oa sa m.bankA sl.fa k mt.chunk ++ chunkTouches ob sb m.bankB sl.fb k mt.chunk
      if !c.bankReady core m.op ts then c
      else
        let cl := clusterOf core
        let ba := c.bank cl m.bankA
        let bb := c.bank cl m.bankB
        if ts.any (fun t => (c.bank cl t.bank).marked t.lo (t.hi - t.lo + 1)) then
          c.mmasFail core m (syndrome 0x0C (opReason 0xC5 2))
        else
          match mt.product 0xC5 m.acc (m.zero && mt.chunk = 0) (c.core core).upset (chunkGroups ba oa sl.fa sl.sa k mt.chunk)
              (chunkGroups bb ob sl.fb sl.sb k mt.chunk) with
          | .error syn => (c.datapath core syn (c.opCid m.op)).mmasFail core m syn
          | .ok m1 =>
            let fin := m.count ≤ mt.chunk + 1
            let c1 := c.setMat core { m1 with chunk := mt.chunk + 1, mmas := if fin then none else some m }
            if fin then c1.modOp m.op (fun o => { o with hold := false, late := none })
            else
              let rest := restTouches oa sa m.bankA (k * blockBytes sl.fa) (mt.chunk + 1)
                ++ restTouches ob sb m.bankB (k * blockBytes sl.fb) (mt.chunk + 1)
              c1.modOp m.op (fun o => { o with late := some { touch := rest, work := .chunks } })

/-- R292: the checks of every value of an accumulator, in row order: values with the sticky bits, or the first RANGE detail. -/
def drainCheck (bds : List Bound) (sl : Slot) : List Nat → Except Nat (List FVal × Flags)
  | [] => .ok ([], 0)
  | w :: ws =>
    match boundCheck bds sl (fp32.unpack w) with
    | .range d => .error d
    | .pass x _ f =>
      match drainCheck bds sl ws with
      | .error d => .error d
      | .ok (xs, fl) => .ok (x :: xs, f ||| fl)

/-- R292: a row of 128 values in FB: bytes and sticky bits. -/
def drainRow (sl : Slot) (xs : List FVal) : List Byte × Flags :=
  if isFloat sl.fb then (xs.flatMap (fun x => bytesOf (elemSize sl.fb) (convertTo sl.fb sl x)), 0)
  else
    let bs := (pieces 16 8 xs).map (fun b => toSX sl.fb sl.sb sl.rnd sl.sat b)
    (bs.flatMap (fun b => b.1.bytes sl.fb), orFlags (bs.map (fun b => b.2)))

/-- R292: the rows a drain makes, or the RANGE detail. -/
def drainRows (bds : List Bound) (sl : Slot) (ws : List Nat) : Except Nat (List (List Byte) × Flags) :=
  match drainCheck bds sl ws with
  | .error d => .error d
  | .ok (xs, f) =>
    let rs := (pieces 128 128 xs).map (drainRow sl)
    .ok (rs.map (fun r => r.1), f ||| orFlags (rs.map (fun r => r.2)))

/-- R274: the sticky bits of a drain. -/
def mstatBits (f : Flags) : BitVec 6 := (f &&& 0xF#5).setWidth 6

/-- The words of an accumulator. -/
def Mat.accWords (m : Mat) (acc : Nat) : List Nat := (agetN 0 m.acc (accBase acc) 16384).map (fun w => w.toNat)

/-- R292: an accumulator drained to a bank; a RANGE detail where a value trapped. -/
def Chip.mdrnRun (c : Chip) (core acc fs : Nat) (z : Bool) (o : MatOperand) (bank : Nat) : Except Nat Chip :=
  let e : Eng := .matrix core
  let m := (c.core core).mat
  match drainRows (c.bounds e) (c.slot e fs) (m.accWords acc) with
  | .error d => .error d
  | .ok (rows, f) =>
    let m1 := { m with mstat := m.mstat ||| mstatBits f }
    let c1 := c.setMat core (if z then m1.setAcc acc [] else m1)
    let cl := clusterOf core
    let bytes := rows.zipIdx.flatMap (fun p => p.1.zipIdx.map (fun q => (o.row p.2 + q.2, q.1)))
    .ok (c1.setBank cl bank ((c1.bank cl bank).write bytes []))

/-- R275, R292: a drain whose bound check faults: the unit ran it, nothing is written. `d` is the detail of R81. -/
def drainTrap (i : Issue) (c : Chip) (core op d : Nat) : Stop :=
  .trapOn (c.arrayRuns core op) (syndrome 9 (op * 65536 + d)) 0 0 i.lanes

/-- R292: the bytes of a drained row. -/
def drainBytes (fb : Nat) : Nat := 8 * (if isSx fb then sxSize fb else 16 * elemSize fb)

/-- MDRN (R292). -/
def execMdrn (fsel : BitVec 2) (z : Bool) (ma : BitVec 5) (acc : BitVec 2) (fs : BitVec 3) (s : State) : Host.Outcome State Fault Refusal :=
  runIssue s (matOp 0xC7 fsel [] none (fun core flag i c =>
    let sl := c.slot i.eng fs.toNat
    if sl.fa ≠ 0 || 6 ≤ sl.fb then .error (matTrap i (formatSyn 0xC7 fs.toNat sl) 0)
    else mregReady i c [ma] (
      let o := matOperand (c.mreg core ma) (drainBytes sl.fb) sl.fb true
      match o.check c i.eng 0xC7 with
      | .error syn => .error (operandTrap i o syn)
      | .ok (bank, ts) =>
        match drainCheck (c.bounds i.eng) sl ((c.core core).mat.accWords acc.toNat) with
        | .error d => .error (drainTrap i c core 0xC7 d)
        | .ok _ =>
          let (c1, cid) := c.nextCid i.eng
          let late : Late := { touch := ts, work := .matrix 0 acc.toNat fs.toNat 0 z (dw o.word) bank }
          if c1.bankReady core c1.nextOp ts then
            match c1.mdrnRun core acc.toNat fs.toNat z o bank with
            | .error d => .error (drainTrap i c core 0xC7 d)
            | .ok c2 => .ok ((c2.arrayRuns core 0xC7).issueOp i (Op.blank 0xC7 flag cid))
          else .ok ((c1.arrayRuns core 0xC7).issueOp i { Op.blank 0xC7 flag cid with late := some late }))))

/-- MDRNB (R292). -/
def execMdrnb (fsel : BitVec 2) (z : Bool) (td : BitVec 4) (acc : BitVec 2) (fs : BitVec 3) (s : State) : Host.Outcome State Fault Refusal :=
  runIssue s (matOp 0xC8 fsel [(8, td.toNat)] (some td.toNat) (fun core flag i c =>
    let sl := c.slot i.eng fs.toNat
    let m := (c.core core).mat
    if sl.fa ≠ 0 || sl.fb = 0 || 6 ≤ sl.fb then .error (matTrap i (formatSyn 0xC8 fs.toNat sl) 0)
    else
      match drainRows (c.bounds i.eng) sl (m.accWords acc.toNat) with
      | .error d => .error (drainTrap i c core 0xC8 d)
      | .ok (rows, f) =>
        let m1 := { m with mstat := m.mstat ||| mstatBits f }
        let c1 := c.setMat core (if z then m1.setAcc acc.toNat [] else m1)
        .ok (((c1.setTile core td.toNat (Tile.ofRows sl.fb (scaleBits sl.sb) rows [])).arrayRuns core 0xC8).issueOp i (Op.blank 0xC8 flag 0))))

/-- R194, R272: deferred work of the matrix engine, performed. -/
def Chip.matPerform (c : Chip) (core op t u fs kblk : Nat) (fl : Bool) (word bank : Nat) : Chip :=
  let e : Eng := .matrix core
  let sl := c.slot e fs
  if op = 0xC1 then
    let (fmt, sc) := sl.side fl
    c.tldRun core t fmt (scaleBits sc) (matOperand word (kblkOf kblk (tileCap fmt) * blockBytes fmt) fmt false) bank
  else if op = 0xC2 then
    let fmt := ((c.core core).mat.tile t).fmt
    c.tstRun core t (matOperand word (kblkOf kblk (tileCap fmt) * blockBytes fmt) fmt true) bank
  else
    match c.mdrnRun core u fs fl (matOperand word (drainBytes sl.fb) sl.fb true) bank with
    | .error _ => c
    | .ok c1 => c1

/-- R10: the partner of a core in its pair; none where either is fenced or absent. -/
def Chip.partner (c : Chip) (core : Nat) : Option Nat :=
  let p := if core % 2 = 0 then core + 1 else core - 1
  if c.enabled core && c.enabled p && !c.fenced.contains core && !c.fenced.contains p then some p else none

/-- MPAIR (R290): the post, which MPAIR_START or MPAIR_TIMEOUT answers. -/
def execMpair (fsel acc : BitVec 2) (ta tb : BitVec 4) (kblk : BitVec 6) (s : State) : Host.Outcome State Fault Refusal :=
  runIssue s (fun i c =>
    let even := i.eng.core % 2 = 0
    if !even && ta != 0 then .error (matTrap i (syndrome 1 (opReason 0xC6 7)) 0)
    else matOp 0xC6 fsel ((if even then [(9, ta.toNat)] else []) ++ [(10, tb.toNat)]) none (fun core flag i c =>
      match c.partner core with
      | none => .error (matTrap i (syndrome 0x0E (opReason 0xC6 2)) 0)
      | some _ =>
        let (c1, cid) := c.nextCid i.eng
        let m := (c1.core core).mat
        let p : PairPost := { acc := acc.toNat, ta := ta.toNat, tb := tb.toNat, kblk := kblk.toNat, at_ := c1.cycle,
                              since := c1.now, cid := cid, op := c1.nextOp, pos := i.pos }
        .ok ((c1.setMat core { m with post := some p, prgState := 2, prgOp := 0xC6, chunk := 0, mmas := none }).issueOp i
          { Op.blank 0xC6 flag cid with hold := true })) i c)

/-- R290, R291: one core's side of a paired product ends: with its product, or with a fault of its stream. -/
def Chip.pairEnd (c : Chip) (core : Nat) (p : PairPost) (r : Except Nat Mat) : Chip :=
  match r with
  | .ok m => ((c.setMat core { m with post := none }).modOp p.op (fun o => { o with hold := false })).matSettle core
  | .error syn =>
    let c1 := if syn / 2 ^ 24 = 0x11 then c.datapath core syn (some p.cid) else c
    ((c1.setMat core { (c1.core core).mat with post := none }).dropOp p.op).seqFault (.matrix core) p.pos syn 0 (some p.cid)

/-- R290, R291: the product of one core of a pair with A of the even core. -/
def Chip.pairProduct (c : Chip) (core : Nat) (p : PairPost) (a : Tile) : Except Nat Mat :=
  let m := (c.core core).mat
  let b := m.tile p.tb
  let k := kblkOf p.kblk (min (tileCap a.fmt) (tileCap b.fmt))
  if (List.range 128).any (fun r => a.marked r || b.marked r) then .error (syndrome 0x0C (opReason 0xC6 2))
  else m.product 0xC6 p.acc false (c.core core).upset (a.groups k) (b.groups k)

/-- R50, R290: whether KBLK is within both capacities and both tags pair: the syndrome where they do not. -/
def pairCheck (kblk : Nat) (a b : Tile) : Option Nat :=
  if min (tileCap a.fmt) (tileCap b.fmt) < kblk then some (syndrome 1 (opReason 0xC6 9))
  else if !pairOk a.fmt b.fmt then some (syndrome 0x0A (0xC6 * 65536 + a.fmt * 16 + b.fmt))
  else none

/-- MPAIR_START (R290, R291): both cores of a pair have posted. -/
def execMpairStart (pair : Nat) (s : State) : Host.Outcome State Fault Refusal :=
  runChip s (fun c =>
    let e := 2 * pair
    let o := 2 * pair + 1
    match (c.core e).mat.post, (c.core o).mat.post with
    | some pe, some po =>
      let a := (c.core e).mat.tile pe.ta
      let wrong := syndrome 0x0E (opReason 0xC6 3)
      if pe.kblk ≠ po.kblk || (c.core e).mat.s.gang ≠ (c.core o).mat.s.gang then
        (c.pairEnd e pe (.error wrong)).pairEnd o po (.error wrong)
      else
        match pairCheck pe.kblk a ((c.core e).mat.tile pe.tb), pairCheck po.kblk a ((c.core o).mat.tile po.tb) with
        | none, none =>
          let re := c.pairProduct e pe a
          let ro := c.pairProduct o po a
          (c.pairEnd e pe re).pairEnd o po ro
        | some x, none => (c.pairEnd e pe (.error x)).pairEnd o po (.error wrong)
        | none, some y => (c.pairEnd e pe (.error wrong)).pairEnd o po (.error y)
        | some x, some y => (c.pairEnd e pe (.error x)).pairEnd o po (.error y)
    | _, _ => c)

/-- R291: the cycles a post waits. -/
def pairLimit : Nat := 65536

/-- MPAIR_TIMEOUT (R291): the post is withdrawn. -/
def execMpairTimeout (core : Nat) (s : State) : Host.Outcome State Fault Refusal :=
  runChip s (fun c =>
    match (c.core core).mat.post with
    | none => c
    | some p =>
      if c.cycle < p.at_ + pairLimit || ((c.partner core).map (fun q => (c.core q).mat.post.isSome)).getD false then c
      else c.pairEnd core p (.error (syndrome 0x0E (opReason 0xC6 1))))

/-- R277: a scalar instruction of the matrix sequencer: the m registers it names, and the registers after it. -/
def mscalar (rs : List (BitVec 5)) (f : Chip → Nat → AMap DWord → AMap DWord) (i : Issue) (c : Chip) : Except Stop Chip :=
  mregReady i c rs (
    let mt := (c.core i.eng.core).mat
    .ok ((c.setMat i.eng.core { mt with m := f c i.eng.core mt.m }).advance i))

/-- MLI (R277). -/
def execMli (cat : Bool) (ma : BitVec 5) (imm : BitVec 24) (s : State) : Host.Outcome State Fault Refusal :=
  runIssue s (mscalar [ma] (fun _ _ m =>
    aput 0 m ma.toNat (if cat then (aget 0 m ma.toNat <<< 24) ||| imm.setWidth 64 else imm.signExtend 64)))

/-- MADD (R277). -/
def execMadd (ma mb : BitVec 5) (s : State) : Host.Outcome State Fault Refusal :=
  runIssue s (mscalar [ma, mb] (fun _ _ m => aput 0 m ma.toNat (aget 0 m ma.toNat + aget 0 m mb.toNat)))

/-- MADDI (R277). -/
def execMaddi (ma mb : BitVec 5) (imm : BitVec 24) (s : State) : Host.Outcome State Fault Refusal :=
  runIssue s (mscalar [ma, mb] (fun _ _ m => aput 0 m ma.toNat (aget 0 m mb.toNat + imm.signExtend 64)))

/-- MPRG (R277). -/
def execMprg (ma : BitVec 5) (s : State) : Host.Outcome State Fault Refusal :=
  runIssue s (mscalar [ma] (fun c core m => aput 0 m ma.toNat (dw (c.core core).mat.mprg)))

/-- R187, R278: a branch condition of a sequencer on two 64-bit scalars. -/
def scalarCond (cond : Nat) (a b : DWord) : Bool :=
  match cond with
  | 0 => true
  | 1 => a == 0
  | 2 => a != 0
  | 3 => a.slt b
  | 4 => !a.slt b
  | 5 => a.ult b
  | _ => !a.ult b

/-- MBR (R278). -/
def execMbr (cond : BitVec 3) (ma mb : BitVec 5) (off : BitVec 24) (s : State) : Host.Outcome State Fault Refusal :=
  runIssue s (fun i c =>
    if cond = 7 then .error (illegal9 i 0xCE)
    else mregReady i c [ma, mb] (
      let m := (c.core i.eng.core).mat.m
      .ok (c.place i (if scalarCond cond.toNat (aget 0 m ma.toNat) (aget 0 m mb.toNat) then i.target off else i.next))))

/-- MEXIT (R279). -/
def execMexit (s : State) : Host.Outcome State Fault Refusal :=
  runIssue s (fun i c =>
    match i.eng with
    | .matrix core =>
      let c1 := (c.place i i.next).modStream i.eng (fun st => { st with st := 3, wait := none })
      .ok (c1.matSettle core)
    | .warp _ _ => .error .wait
    | .copy _ => .error .wait)

end Sys2Proof.Machine
end

