-- ==== Sys2Proof/Machine/Copy.lean ====
section
/-! DEFINITION. The copy-class instructions: commands placed in the Dray's queues, queue control and scalar instructions (R160-R166,
R175, R183-R188). -/

namespace Sys2Proof.Machine

open Sys2Proof

/-- A queue of a Dray. -/
def Chip.queue (c : Chip) (core q : Nat) : Queue := aget Queue.zero (c.core core).dray.queues q

/-- The chip with a queue replaced. -/
def Chip.setQueue (c : Chip) (core q : Nat) (k : Queue) : Chip :=
  let d := (c.core core).dray
  c.setDray core { d with queues := aput Queue.zero d.queues q k }

/-- R161: the commands a queue holds. -/
def queueRoom : Nat := 16

/-- A k register's value. -/
def Chip.kreg (c : Chip) (core : Nat) (r : BitVec 5) : DWord := aget 0 (c.core core).dray.k r.toNat

/-- R46, R116: a copy-class instruction waits for the k registers it names, and consumes the mark of those it reads. -/
def copyOp (op : Nat) (reads writes : List (BitVec 5)) (f : Nat → Issue → Chip → Except Stop Chip) (i : Issue) (c : Chip) : Except Stop Chip :=
  match i.eng with
  | .warp _ _ => .error .wait
  | .matrix _ => .error .wait
  | .copy core =>
    if (reads ++ writes).any (fun r => c.pendingK i.eng r.toNat) then .error .wait
    else if reads.any (fun r => aget false (c.core core).dray.kp r.toNat) then .error (poisonScalar i op (c.core core).dray reads)
    else f core i c

/-- R161-R163, R175: a command is issued into its queue; the stream waits while the queue is full. -/
def command (op : Nat) (ct : CmdCtl) (ks : List (BitVec 5)) (imm : Nat) : Issue → Chip → Except Stop Chip :=
  copyOp op ks [] (fun core i c =>
    let flag := flagOf i.hdr ct.fsel.toNat
    withFlag c i flag (
      let q := c.queue core ct.queue.toNat
      if queueRoom ≤ q.cmds.length then .error .wait
      else
        let (c1, cid) := c.nextCid i.eng
        let val (n : Nat) : DWord := c.kreg core (ks.getD n 0)
        let cmd : Cmd := { op := op, ka := val 0, kb := if 1 < ks.length then val 1 else 0, kc := if 2 < ks.length then val 2 else 0,
                           kd := if 3 < ks.length then val 3 else 0, imm := imm, acq := ct.acq, rel := ct.rel, scope := ct.scope.toNat,
                           opId := some c1.nextOp, pos := i.pos, issued := c1.time, cid := cid, prog := 0, sentTo := [], cancelled := false }
        let c2 := c1.setQueue core ct.queue.toNat { q with cmds := q.cmds ++ [cmd] }
        .ok (c2.issueOp i { Op.blank op flag cid with hold := true })))

/-- DCOPY (R176). -/
def execDcopy (ct : CmdCtl) (ka kb : BitVec 5) (s : State) : Host.Outcome State Fault Refusal := runIssue s (command 0xD8 ct [ka, kb] 0)
/-- DMCAST (R177). -/
def execDmcast (ct : CmdCtl) (ka kb kc kd : BitVec 5) (slot : BitVec 3) (bar : BitVec 6) (cluster : BitVec 2) (s : State) :
    Host.Outcome State Fault Refusal :=
  runIssue s (command 0xD9 ct [ka, kb, kc, kd] (slot.toNat + bar.toNat * 8 + cluster.toNat * 512))
/-- DFILL (R178). -/
def execDfill (ct : CmdCtl) (ka kb : BitVec 5) (s : State) : Host.Outcome State Fault Refusal := runIssue s (command 0xDA ct [ka, kb] 0)
/-- DCHAIN (R179). -/
def execDchain (ct : CmdCtl) (ka kb kc kd : BitVec 5) (s : State) : Host.Outcome State Fault Refusal :=
  runIssue s (command 0xDB ct [ka, kb, kc, kd] 0)
/-- DRED (R180). -/
def execDred (ct : CmdCtl) (op : BitVec 2) (ka kb : BitVec 5) (s : State) : Host.Outcome State Fault Refusal :=
  runIssue s (fun i c => if op = 3 then .error (illegal9 i 0xDC) else command 0xDC ct [ka, kb] op.toNat i c)
/-- DCOLL (R181). -/
def execDcoll (ct : CmdCtl) (ka : BitVec 5) (s : State) : Host.Outcome State Fault Refusal := runIssue s (command 0xDD ct [ka] 0)
/-- DPROXY (R182). -/
def execDproxy (ct : CmdCtl) (ka : BitVec 5) (shadow : BitVec 6) (s : State) : Host.Outcome State Fault Refusal :=
  runIssue s (command 0xDE ct [ka] shadow.toNat)

/-- A k register written; its mark is cleared. -/
def Chip.setK (c : Chip) (core : Nat) (r : BitVec 5) (v : DWord) : Chip :=
  let d := (c.core core).dray
  c.setDray core { d with k := aput 0 d.k r.toNat v, kp := aput false d.kp r.toNat false }

/-- DSTAT (R183). -/
def execDstat (ka : BitVec 5) (queue : BitVec 3) (s : State) : Host.Outcome State Fault Refusal :=
  runIssue s (copyOp 0xDF [] [ka] (fun core i c => .ok ((c.setK core ka (dw (c.queue core queue.toNat).dqst)).advance i)))

/-- DRESUME (R183): the last command of an idle queue, ended CANCELLED, REMOTE or FAULT, is placed in front again. -/
def execDresume (ka : BitVec 5) (queue : BitVec 3) (s : State) : Host.Outcome State Fault Refusal :=
  runIssue s (copyOp 0xE0 [] [ka] (fun core i c =>
    let q := c.queue core queue.toNat
    match q.cmds, q.last with
    | [], some k =>
      if q.status = 1 ∨ q.status = 2 ∨ q.status = 4 then
        .ok (((c.setQueue core queue.toNat { q with cmds := [{ k with opId := none, cancelled := false }] }).setK core ka 1).advance i)
      else .ok ((c.setK core ka 0).advance i)
    | _, _ => .ok ((c.setK core ka 0).advance i)))

/-- R174, R184: a running command is cancelled, unless it has written its last element, is to end OK, or has been cancelled before. -/
def Run.cancel (r : Run) : Run × Bool :=
  let spared := match r.ending with
    | some (st, _, _) => decide (st ≤ 1)
    | none => r.begun && r.p = r.count && r.count ≠ 0
  if spared then (r, false) else ({ r with ending := some (1, 0, 0), fetched := [], got := [], fault := none }, true)

/-- R174: the fault records of a queue's commands that are over stay outstanding, and concern the queue no longer. -/
def Chip.orphanFaults (c : Chip) (core q : Nat) : Chip :=
  { c with faults := c.faults.map (fun (f : PageFault) => if f.party = .drayQueue core q then { f with gone := true } else f) }

/-- DCANCEL (R183, R184): queued commands end CANCELLED in their order. -/
def execDcancel (ka : BitVec 5) (queue : BitVec 3) (s : State) : Host.Outcome State Fault Refusal :=
  runIssue s (copyOp 0xE1 [] [ka] (fun core i c =>
    let q := c.queue core queue.toNat
    let (run, n, rest) := match q.run with
      | none => (none, 0, q.cmds.map (fun (k : Cmd) => { k with cancelled := true }))
      | some r =>
        let (r1, hit) := r.cancel
        (some r1, (if hit then 1 else 0), q.cmds.take 1 ++ (q.cmds.drop 1).map (fun (k : Cmd) => { k with cancelled := true }))
    let left := if q.run.isSome then q.cmds.drop 1 else q.cmds
    let fresh := (left.filter (fun k => !k.cancelled)).length
    .ok ((((if n = 0 then c else c.orphanFaults core queue.toNat).setQueue core queue.toNat { q with run := run, cmds := rest }).setK core ka
      (dw (n + fresh))).advance i)))

/-- KLI (R186). -/
def execKli (cat : Bool) (ka : BitVec 5) (imm : BitVec 26) (s : State) : Host.Outcome State Fault Refusal :=
  runIssue s (copyOp 0xE2 (if cat then [ka] else []) [ka] (fun core i c =>
    .ok ((c.setK core ka (if cat then (c.kreg core ka <<< 26) ||| imm.setWidth 64 else imm.signExtend 64)).advance i)))
/-- KADD (R186). -/
def execKadd (ka kb kc : BitVec 5) (s : State) : Host.Outcome State Fault Refusal :=
  runIssue s (copyOp 0xE3 [kb, kc] [ka] (fun core i c => .ok ((c.setK core ka (c.kreg core kb + c.kreg core kc)).advance i)))
/-- KADDI (R186). -/
def execKaddi (ka kb : BitVec 5) (imm : BitVec 26) (s : State) : Host.Outcome State Fault Refusal :=
  runIssue s (copyOp 0xE4 [kb] [ka] (fun core i c => .ok ((c.setK core ka (c.kreg core kb + imm.signExtend 64)).advance i)))
/-- KPRG (R186). -/
def execKprg (ka : BitVec 5) (queue : BitVec 3) (s : State) : Host.Outcome State Fault Refusal :=
  runIssue s (copyOp 0xE9 [] [ka] (fun core i c => .ok ((c.setK core ka (dw ((c.queue core queue.toNat).prog % 2 ^ 40))).advance i)))

/-- The k registers that a condition reads (R187). -/
def kcondReads (cond : Nat) (ka kb : BitVec 5) : List (BitVec 5) := if cond = 0 then [] else if cond ≤ 2 then [ka] else [ka, kb]

/-- KBR (R187). -/
def execKbr (cond ka kb : BitVec 5) (off : BitVec 26) (s : State) : Host.Outcome State Fault Refusal :=
  runIssue s (fun i c =>
    if 7 ≤ cond.toNat then .error (illegal9 i 0xE5)
    else copyOp 0xE5 (kcondReads cond.toNat ka kb) [] (fun core i c =>
      let t := Pos.at (i.pos.addr + 8 * off.signExtend 64)
      .ok (c.place i (if scalarCond cond.toNat (c.kreg core ka) (c.kreg core kb) then t else i.next))) i c)

/-- KEXIT (R188). -/
def execKexit (s : State) : Host.Outcome State Fault Refusal :=
  runIssue s (copyOp 0xE6 [] [] (fun _ i c => .ok ((c.place i i.next).modStream i.eng (fun st => { st with st := 3, wait := none }))))

/-- R127: the requester number of a Dray's commands; its stream's own reads are its core's. -/
def drayRequester (core : Nat) : Nat := 0x800 + core

/-- R303: an intent that a Dray's read of these bytes meets. -/
def Chip.meetsDray (c : Chip) (core line : Nat) (mask : BitVec 64) : Option Intent :=
  c.intents.find? (fun t => t.line == line && (t.mask &&& mask) != 0 && t.owner != .dray core && !coverReaches t.cover t.owner core)

/-- Eight bytes of a line. -/
def eightOf (d : BitVec 512) (o : Nat) : Nat := bitsAt d.toNat (8 * o) 64

/-- KLD (R186): the bytes at the home; a peer's are asked for. -/
def execKld (acq : Bool) (scope : BitVec 3) (ka kb : BitVec 5) (imm : BitVec 26) (s : State) : Host.Outcome State Fault Refusal :=
  runIssue s (copyOp 0xE7 [kb] [ka] (fun core i c =>
    let a := (c.kreg core kb + imm.signExtend 64).toNat
    let tag := c.tagOf (c.gangOf i.eng)
    if a % 8 ≠ 0 then .error (laneTrap i (syndrome 0x0B (opReason 0xE7 0)) 0 a)
    else
      match c.xlate core tag a .read 0 with
      | .error e => .error (e.stop i 0xE7 0 (a / 64 * 64) a .read)
      | .ok (pa, c1) =>
        let (c2, cid) := c1.nextCid i.eng
        let o : Op := { Op.blank 0xE7 none cid with kwrite := some (ka.toNat, 0, false), acq := if acq then scope.toNat else 0 }
        if tierOf pa = 3 then
          .ok ((c2.ask pa (.read 8) (.drayStream core) (some c2.nextOp) 0 0xE7 tag 2 8 cid (a / 64 * 64) i.pos).issueOp i { o with hold := true })
        else
          let line := lineOf pa
          match c.meetsDray core line (BitVec.ofNat 64 (255 * 2 ^ (pa % 64))) with
          | some t => .error (c.raceStop i 0xE7 1 0 (a / 64 * 64) pa t)
          | none =>
            if c.held.any (fun h => h.line == line && !h.expired) then .error .wait
            else
              let bad := c2.linePois line || c.held.any (fun h => h.line == line && h.expired)
              let v := dw (eightOf (c2.homeBytes line) (pa % 64))
              if tierOf pa = 2 then
                .ok ((c2.noteHostAt (.drayStream core) (some c2.nextOp) 0xE7 0 tag (pa % 2 ^ 64) cid i.pos).issueOp i
                  { o with kwrite := some (ka.toNat, v, false) })
              else
                match c2.sliceRead core line 0 with
                | none => .error (.park (c.waitSlice line core))
                | some c3 =>
                  let c4 := c3.setK core ka v
                  let d := (c4.core core).dray
                  let c5 := c4.setDray core { d with kp := aput false d.kp ka.toNat bad,
                                                     from_ := if bad then aput 0 d.from_ ka.toNat (markAt a (c.afterHold line)) else d.from_ }
                  .ok ((if acq then c5.acquireBy i.eng scope.toNat else c5).advance i)))

/-- R304, R305: the intent for bytes of a line that a Dray writes, beside the quota and the peer it is written at; the chip and the line of an
overlap that an implicit release found. -/
def Chip.drayIntend (c : Chip) (core tag line : Nat) (mask : BitVec 64) (cid : DWord) (who : Storer) : Chip × Option Nat :=
  let (c0, race) := if c.quotaFull (.dray core) core tag line then c.implicit core cid who else (c, none)
  let c1 := if tierOf line = 3 then c0.owe (.dray core) (line % 2 ^ 64 / 2 ^ 42) else c0
  (c1.intend (.dray core) tag line mask mask cid, race)

/-- A Dray's write of bytes of a line at its home under a POLICY (R305); a peer's line is written by the request its caller sends. -/
def Chip.drayWrite (c : Chip) (core tag line : Nat) (mask : BitVec 64) (d : BitVec 512) (pois : Bool) (pol : Nat) (cid : DWord)
    (who : Storer) : Chip × Option Nat :=
  let (c1, race) := c.drayIntend core tag line mask cid who
  (if tierOf line = 3 then c1 else (c1.sliceWrite (some (drayRequester core)) line pol (mask == BitVec.allOnes 64)).homeWrite line mask d pois (some cid), race)

/-- KST (R186): a release where REL asks, then eight bytes at the home. -/
def execKst (rel : Bool) (scope : BitVec 3) (ka kb : BitVec 5) (imm : BitVec 26) (s : State) : Host.Outcome State Fault Refusal :=
  runIssue s (copyOp 0xE8 [ka, kb] [] (fun core i c =>
    let a := (c.kreg core kb + imm.signExtend 64).toNat
    let tag := c.tagOf (c.gangOf i.eng)
    if a % 8 ≠ 0 then .error (laneTrap i (syndrome 0x0B (opReason 0xE8 0)) 0 a)
    else
      match c.xlate core tag a .write 0 with
      | .error e => .error (e.stop i 0xE8 0 (a / 64 * 64) a .write)
      | .ok (pa, c1) =>
        let (c0, cid) := c1.issueCid i
        match (if rel then c0.releaseFor i 0xE8 scope.toNat (some cid) else .ok (c0, none)) with
        | .error e => .error e
        | .ok (c3, race) =>
          let line := lineOf pa
          let v := (c3.kreg core ka).toNat
          let who : Storer := { who := .drayStream core, op := 0xE8, tag := tag, pos := i.pos, id := some c3.nextOp }
          let (c4, race') := c3.drayWrite core tag line (BitVec.ofNat 64 (255 * 2 ^ (pa % 64))) (BitVec.ofNat 512 (v * 2 ^ (8 * (pa % 64)))) false 0 cid
            who
          let c5 := if tierOf pa = 3 then
              c4.ask pa (.write (bytesOf 8 v) false) (.drayStream core) (some c4.nextOp) 0 0xE8 tag 2 8 cid (a / 64 * 64) i.pos false rel else c4
          -- what a peer has been asked is awaited
          if c5.opAsks c5.nextOp then .ok (c5.issueOp i { Op.blank 0xE8 none cid with hold := true, race := race.or race' })
          else .ok ((c5.advance i).raceAfter (race.or race') i 0xE8)))

end Sys2Proof.Machine
end

