-- ==== Sys2Proof/Machine/Maps.lean ====
section
/-! DEFINITION. Tensor maps, a Dray's reads, and the values its commands compute (R168-R170, R176-R182). -/

namespace Sys2Proof.Machine

open Sys2Proof

/-- A command queue: its core and number. -/
structure Lane8 where
  core : Nat
  q : Nat
deriving DecidableEq, Repr

/-- Why a command's access does not go on: a trap class and reason with its address, a page fault, an offset without memory, another
writer's intent, poison, or nothing yet (a held line, a peer's reply). -/
inductive DStop where
  | trap (cls reason addr : Nat)
  | page (va kind level : Nat)
  | absent (off : Nat)
  | race (t : Intent) (line va : Nat)
  | poison (va : Nat)
  | wait
deriving DecidableEq, Repr

/-- A command's access in progress: the chip, the element it is for, the lines read in this walk, why it stopped; whether it is a multicast read
(R132), and the lines that have come from a multicast entry, with the cycle in which that was opened. -/
structure Haul where
  c : Chip
  elem : Nat
  seen : List Nat
  stop : Option DStop
  multi : Bool := false
  via : List (Nat × Nat) := []

/-- A byte with its poison mark. -/
abbrev MByte := Byte × Bool

/-- The pieces of a range within lines: address and length. -/
def lineParts (a n : Nat) : List (Nat × Nat) :=
  (List.range ((a % 64 + n + 63) / 64)).map (fun k =>
    let lo := max a ((a / 64 + k) * 64)
    (lo % 2 ^ 64, min (a + n) ((a / 64 + k + 1) * 64) - lo))

/-- R126, R127: a port's accesses to the lines of a range at their home slices. -/
def Chip.touchRange (c : Chip) (requester : Nat) (parts : List (Nat × Nat)) : Chip :=
  parts.foldl (fun (x : Chip) p => x.sliceTouch requester (lineOf p.1) 0) c

/-- R126-R129: a port's writes of the lines of a range at their home slices. -/
def Chip.storeRange (c : Chip) (requester : Nat) (parts : List (Nat × Nat)) : Chip :=
  parts.foldl (fun (x : Chip) p => x.sliceWrite (some requester) (lineOf p.1) 0 (p.2 = 64)) c

/-- A translation failure as a command's stop. -/
def XErr.dstop (e : XErr) (va : Nat) (a : Acc) : DStop :=
  match e with
  | .trap cls r => .trap cls r va
  | .fault lvl => .page (va / 64 * 64) a.code lvl
  | .absent off => .absent off
  | .peer _ => .wait
  | .held => .wait

/-- What a command's read of a line has brought: the chip, the bytes, their mark, and the cycle in which the multicast entry that they came from
was opened, where they did. -/
abbrev LineGot := Chip × BitVec 512 × Bool × Option Nat

/-- R127, R132, R133: a multicast read of a line at its slice: served from a present line, joined to an open entry, or, read from memory or from
the staging buffer, under an entry of its own where one of the 512 is free. -/
def Chip.multicastLine (c0 : Chip) (requester tag line : Nat) : LineGot :=
  let (_, c) := c0.detected requester line
  let s := c.home line
  let d := c.homeBytes line
  let bad := c.linePois line || c.held.any (fun x => x.line == line && x.expired)
  if c.present s line then (c.sliceHit s line, d, bad, none)
  else
    match c.openEntry s line with
    | some e =>
      if e.tag = tag || tierOf line = 1 then (c.stat s 5, e.data, e.pois, some e.opened) else (c.stat s 1, e.data, e.pois, none)
    | none =>
      let old := c.mc.any (fun e => e.slice == s && e.line == line)
      let c1 := if c.staged.any (fun x => x.slice == s && x.line == line) then c.stat s 1
        else if old then (c.stat s 2).stat s 6 else c.stat s 2
      if 512 ≤ (c.mc.filter (fun e => e.slice == s && e.isOpen c.cycle)).length then (c1.stat s 7, d, bad, none)
      else
        let e : McEntry := { slice := s, line := line, tag := tag, opened := c.cycle, closed := bad, data := d, pois := bad }
        ({ c1 with mc := c1.mc.filter (fun x => !(x.slice == s && x.line == line)) ++ [e] }, d, bad, if bad then none else some c.cycle)

/-- R127, R128, R132, R159: a command's first read of a line in a walk: its bytes and their mark; none where it must wait at the slice's input. -/
def Chip.drayLine (c : Chip) (l : Lane8) (k : Cmd) (elem tag pol line : Nat) (multi : Bool) : Option LineGot :=
  if multi && tierOf line < 2 then some (c.multicastLine (drayRequester l.core) tag line)
  else
    let bad := c.linePois line || c.held.any (fun x => x.line == line && x.expired)
    if tierOf line = 2 then
      some (c.noteHostAt (.drayQueue l.core l.q) none k.op elem tag (line % 2 ^ 64) k.cid k.pos, c.homeBytes line, false, none)
    else (c.sliceRead (drayRequester l.core) line pol).map (fun c1 => (c1, c1.homeBytes line, bad, none))

/-- R140: the delivery class of what a command asks of peers: a DCOLL's steps are in class 1. -/
def Cmd.cls (k : Cmd) : Nat := if k.op = 0xDD then 1 else 2

/-- R130, R169, R303, R305: bytes of one line read at the home for a command; a peer's are asked for once and taken from its replies. The line counts
among those of the walk also where it is waited for. -/
def drayPart (l : Lane8) (k : Cmd) (got : List (Nat × List MByte)) (tag pol va n : Nat) (h : Haul) : Haul × List MByte :=
  match h.c.xlate l.core tag va .read pol with
  | .error e => ({ h with stop := some (e.dstop va .read) }, [])
  | .ok (pa, c1) =>
    let seen := if h.seen.contains (lineOf pa) then h.seen else lineOf pa :: h.seen
    if tierOf pa = 3 then
      match got.find? (fun g => g.1 == pa && g.2.length == n) with
      | some g => ({ h with c := c1, seen := seen }, g.2)
      | none =>
        let who : Party := .drayQueue l.core l.q
        let asked := c1.remotes.any (fun r => r.who == who && r.dst == (peerOf pa).1 && r.off == (peerOf pa).2 && r.kind == .read n && !r.stale)
        let c2 := if asked then c1 else
          (c1.detected (drayRequester l.core) (lineOf pa)).2.ask pa (.read n) who none h.elem k.op tag k.cls n k.cid va k.pos
        ({ h with c := c2, seen := seen, stop := some .wait }, [])
    else
      let line := lineOf pa
      let o := pa % 64
      match c1.meetsDray l.core line (BitVec.ofNat 64 ((2 ^ n - 1) * 2 ^ o)) with
      | some t => ({ h with c := c1, stop := some (.race t line va) }, [])
      | none =>
        if c1.held.any (fun x => x.line == line && !x.expired) then ({ h with c := c1, seen := seen, stop := some .wait }, [])
        else
          let give (d : BitVec 512) (bad : Bool) : List MByte := (List.range n).map (fun j => (lineByte d (o + j), bad))
          if h.seen.contains line then
            ({ h with c := c1 }, give (c1.homeBytes line) (c1.linePois line || c1.held.any (fun x => x.line == line && x.expired)))
          else match c1.drayLine l k h.elem tag pol line h.multi with
            | none => ({ h with c := c1.waitSlice line (drayRequester l.core), seen := seen, stop := some .wait }, [])
            | some (c2, d, bad, from_) =>
              ({ h with c := c2, seen := seen, via := (from_.map (fun t => (line, t))).toList ++ h.via }, give d bad)

/-- The parts of a read in order; a stop ends it. -/
def drayParts (l : Lane8) (k : Cmd) (got : List (Nat × List MByte)) (tag pol : Nat) : List (Nat × Nat) → Haul → Haul × List MByte
  | [], h => (h, [])
  | (va, n) :: r, h =>
    match drayPart l k got tag pol va n h with
    | (h1, bs) =>
      if h1.stop.isSome then (h1, [])
      else
        let (h2, bs2) := drayParts l k got tag pol r h1
        (h2, bs ++ bs2)

/-- `n` bytes at a virtual address, as a command reads them. -/
def drayRead (l : Lane8) (k : Cmd) (got : List (Nat × List MByte)) (tag pol va n : Nat) (h : Haul) : Haul × List MByte :=
  drayParts l k got tag pol (lineParts va n) h

/-- Bytes `lo` to `lo + n - 1` of a list, as a number. -/
def fieldOf (bs : List Byte) (lo n : Nat) : Nat := natOfBytes ((bs.drop lo).take n)

/-- R168: a map in its fields. -/
def TMap.ofBytes (bs : List Byte) : TMap where
  base := dw (fieldOf bs 0 8)
  esize := fieldOf bs 8 1
  kind := fieldOf bs 0xA 1
  pol := fieldOf bs 0xB 1 % 4
  core := fieldOf bs 0xC 2
  barrier := fieldOf bs 0xE 1
  fmt := fieldOf bs 0xF 1
  dims := (List.range (min 16 (fieldOf bs 9 1))).map (fun d => (fieldOf bs (0x10 + 12 * d) 4, signed 64 (fieldOf bs (0x14 + 12 * d) 8)))

/-- The product of the extents. -/
def extentProduct : List (Nat × Int) → Nat
  | [] => 1
  | (e, _) :: r => e * extentProduct r

/-- R168: the element count. -/
def TMap.count (m : TMap) : Nat := extentProduct m.dims

/-- R168: the byte offset of an element. -/
def dimOffset : List (Nat × Int) → Nat → Int
  | [], _ => 0
  | (e, s) :: r, i => (i % e : Nat) * s + dimOffset r (i / e)

/-- R168: the address of an element. -/
def TMap.at (m : TMap) (i : Nat) : Nat := wrapInt 64 (m.base.toNat + dimOffset m.dims i)

/-- The least and the greatest byte offset of the elements' first bytes. -/
def dimSpan : List (Nat × Int) → Int × Int
  | [] => (0, 0)
  | (e, s) :: r =>
    let (lo, hi) := dimSpan r
    let t := ((e - 1 : Nat) : Int) * s
    (lo + min 0 t, hi + max 0 t)

/-- R170: the interval of a map's bytes. -/
def TMap.span (m : TMap) : Int × Int :=
  let (lo, hi) := dimSpan m.dims
  (m.base.toNat + lo, m.base.toNat + hi + m.esize - 1)

/-- R170, reason 0x0101: a byte that must be zero is not; `fmt` where the command reads values. -/
def TMap.dirtyZero (bs : List Byte) (fmt : Bool) : Bool :=
  let n := fieldOf bs 9 1
  let bank := fieldOf bs 0xA 1 == 1
  fieldOf bs 0xB 1 / 4 != 0 || (bank && (fieldOf bs 4 4 != 0 || bitsAt (fieldOf bs 0 4) 20 9 != 0))
    || (!bank && (fieldOf bs 0xC 2 != 0 || fieldOf bs 0xE 1 != 0)) || (!fmt && fieldOf bs 0xF 1 != 0)
    || (n ≤ 16 && (bs.drop (0x10 + 12 * n)).any (fun b => b != 0))

/-- R170, reason 0x0102. -/
def TMap.badShape (m : TMap) (ndim : Nat) : Bool :=
  m.esize = 0 || 128 < m.esize || ndim = 0 || 16 < ndim || m.dims.any (fun d => d.1 == 0) || 2 ^ 40 ≤ m.count

/-- R170, reason 0x0106: the target of a bank map. -/
def TMap.badTarget (m : TMap) (c : Chip) : Bool :=
  m.kind = 1 && (!c.enabled m.core || 63 < m.barrier ||
    (let (lo, hi) := dimSpan m.dims
     let o : Int := m.base.toNat % 2 ^ 20
     decide (o + lo < 0) || decide (2 ^ 20 < o + hi + m.esize)))

/-- The bytes of a float format's element, or of INT32; 0 where the format is not one of them. -/
def fmtBytes (f : Nat) : Nat := if f = 0 ∨ f = 7 then 4 else if f = 1 ∨ f = 2 then 2 else 0

/-- R170: the conditions a command's maps and operands meet, as reasons; `sb` and `db` are the bytes of its source and destination maps. -/
def mapReasons (c : Chip) (k : Cmd) (sb db : Option (List Byte)) : List Nat :=
  let op := k.op
  let vals := op = 0xDB ∨ op = 0xDC
  let s := sb.map TMap.ofBytes
  let d := db.map TMap.ofBytes
  let both (f : TMap → TMap → Bool) : Bool := match s, d with
    | some x, some y => f x y
    | _, _ => false
  let either (f : TMap → Bool) : Bool := (s.map f).getD false || (d.map f).getD false
  let r (n : Nat) (b : Bool) : List Nat := if b then [n] else []
  r 0x101 ((sb.map (fun b => TMap.dirtyZero b vals)).getD false || (db.map (fun b => TMap.dirtyZero b vals)).getD false)
  ++ r 0x102 ((sb.map (fun b => (TMap.ofBytes b).badShape (fieldOf b 9 1))).getD false
      || (db.map (fun b => (TMap.ofBytes b).badShape (fieldOf b 9 1))).getD false)
  ++ r 0x103 (both (fun x y => x.count != y.count || (op = 0xD8 && x.esize != y.esize)))
  ++ r 0x104 (both (fun x y => x.kind == 0 && y.kind == 0 && x.span.1 ≤ y.span.2 && y.span.1 ≤ x.span.2))
  ++ r 0x105 ((s.map (fun x => x.kind != 0)).getD false || (d.map (fun y => 1 < y.kind || (vals && y.kind != 0))).getD false)
  ++ r 0x106 (either (fun x => x.badTarget c) || (op = 0xD9 && (k.kd.toNat / 2 ^ 20 != 0
      || ((List.range 128).any (fun j => bitsAt (k.kb.toNat + k.kc.toNat * 2 ^ 64) j 1 == 1 && !c.enabled (bitsAt k.imm 9 2 * 128 + j)))
      || (s.map (fun x => decide (2 ^ 20 < k.kd.toNat % 2 ^ 20 + x.count * x.esize))).getD false)))
  ++ r 0x107 ((op = 0xDB && either (fun x => 2 < x.fmt || fmtBytes x.fmt != x.esize))
      || (op = 0xDC && (both (fun x y => x.fmt != y.fmt) || either (fun x => !(x.fmt = 0 || x.fmt = 1 || (x.fmt = 7 && k.imm = 0))
        || fmtBytes x.fmt != x.esize))))
  ++ r 0x108 (op = 0xDB && chainBad (bytesOf 8 k.kc.toNat))
where
  chainBad : List Byte → Bool
    | [] => false
    | b :: bs => if b = 0 then bs.any (fun x => x != 0) else 0x10 ≤ b.toNat || chainBad bs

/-- R179: one operation of a chain on an FP32 value. -/
def chainOp (b c0 c1 x : Nat) : Nat :=
  match b with
  | 1 => fp32.fadd x c0
  | 2 => fp32.fmul x c0
  | 3 => fp32.fadd x c1
  | 4 => fp32.fmul x c1
  | 5 => fp32.minMax true x 0
  | 6 => fp32.pack .rne false (fp32.unpack x).negate
  | 7 => fp32.pack .rne false (if (fp32.unpack x).neg then (fp32.unpack x).negate else fp32.unpack x)
  | 8 => fex2Bits x
  | 9 => ftanhBits x
  | 10 => fp32.div (.fin false 1 0) (fp32.unpack x)
  | 11 => fp32.rsqrt (fp32.unpack x)
  | 12 => fp32.sqrt (fp32.unpack x)
  | 13 => fp32.minMax false x c0
  | 14 => fp32.minMax true x c0
  | _ => fp32.fmul x x

/-- R179: the chain of operation bytes. -/
def chainRun (c0 c1 : Nat) : List Byte → Nat → Nat
  | [], x => x
  | b :: bs, x => if b = 0 then x else chainRun c0 c1 bs (chainOp b.toNat c0 c1 x)

/-- R179: an element of a chain. -/
def chainElem (k : Cmd) (sf df v : Nat) : Nat :=
  let x := chainRun (k.kd.toNat % 2 ^ 32) (k.kd.toNat / 2 ^ 32) (bytesOf 8 k.kc.toNat) (fp32.pack .rne false (widen sf v))
  (floatSpec df).pack .rne false (fp32.unpack x)

/-- R149: `Combine` of two elements of a format: 0 ADD, 1 MIN, 2 MAX. BF16 sums are FP32 values here. -/
def combine32 (op fmt a b : Nat) : Nat :=
  if fmt = 7 then (a + b) % 2 ^ 32
  else if op = 0 then fp32.fadd a b
  else fp32.minMax (op == 2) a b

/-- An element widened to FP32 (R149); INT32 is itself. -/
def wide32 (fmt v : Nat) : Nat := if fmt = 1 then fp32.pack .rne false (widen 1 v) else v % 2 ^ 32

/-- R149: a combined value in its format: BF16 is rounded once. -/
def narrow32 (fmt v : Nat) : Nat := if fmt = 1 then bf16.pack .rne false (fp32.unpack v) else v

/-- R180: an element of a reduction into the destination's. -/
def combineElem (op fmt d s : Nat) : Nat := narrow32 fmt (combine32 op fmt (wide32 fmt d) (wide32 fmt s))

/-- R178: the bytes of a filled element. -/
def fillBytes (v es : Nat) : List Byte := (List.range es).map (fun j => BitVec.ofNat 8 (v / 2 ^ (8 * (j % 8))))

end Sys2Proof.Machine
end

