-- ==== Sys2Proof/Machine/Dray.lean ====
section
/-! DEFINITION. The steps of a Dray's queues: the start of a command, its walks, grants and landings, its end (R130-R134, R161-R174, R194,
R198, R205). DCOLL goes on in Collect.lean. -/

namespace Sys2Proof.Machine

open Sys2Proof

/-- R205: the byte-source entry of a queue. -/
def srcEntry (l : Lane8) (remote : Bool) : Nat := 2 ^ 15 + (if remote then 2 ^ 14 else 0) + l.core * 8 + l.q

/-- Entry `j` of a barrier's byte-source table. -/
def Barrier.srcAt (b : Barrier) (j : Nat) : Nat := bitsAt b.src.toNat (16 * j) 16

/-- The table with entry `j` replaced. -/
def Barrier.setSrc (b : Barrier) (j v : Nat) : Barrier :=
  { b with src := BitVec.ofNat 128 (b.src.toNat - b.srcAt j * 2 ^ (16 * j) + v * 2 ^ (16 * j)) }

/-- R205: a command that counts on a barrier registers there; a full table sets SRCFULL. -/
def Barrier.register (b : Barrier) (l : Lane8) (remote : Bool) : Barrier :=
  match (List.range 8).find? (fun j => b.srcAt j < 2 ^ 15) with
  | some j => b.setSrc j (srcEntry l remote)
  | none => { b with flags := b.flags ||| barFlag 13 }

/-- R205: a queue's entries once its command has met a source on a peer. -/
def Barrier.fromPeer (b : Barrier) (l : Lane8) : Barrier :=
  (List.range 8).foldl (fun (x : Barrier) j => if x.srcAt j = srcEntry l false then x.setSrc j (srcEntry l true) else x) b

/-- R205: a queue's entries removed. -/
def Barrier.unregister (b : Barrier) (l : Lane8) : Barrier :=
  (List.range 8).foldl (fun (x : Barrier) j => if x.srcAt j = srcEntry l false || x.srcAt j = srcEntry l true then x.setSrc j 0 else x) b

/-- The run of a queue changed, where one is running. -/
def Chip.modRun (c : Chip) (l : Lane8) (f : Run → Run) : Chip :=
  let q := c.queue l.core l.q
  match q.run with
  | none => c
  | some r => let r1 := f r; c.setQueue l.core l.q { q with run := some r1, prog := r1.p }

/-- A run that has not started. -/
def Run.fresh (k : Cmd) : Run :=
  { state := 1, begun := false, src := none, dst := none, p := k.prog, upto := k.prog, count := 0, fetched := [], targets := [],
    ending := none, got := [], fault := none, wrote := [], coll := none }

/-- The context tag of a Dray's gang. -/
def Chip.drayTag (c : Chip) (core : Nat) : Nat := c.tagOf (c.core core).dray.s.gang

/-- R167: replies still under way to a stopped command's reads are not used: it reads afresh. -/
def Chip.staleReads (c : Chip) (l : Lane8) : Chip :=
  { c with remotes := c.remotes.map (fun (r : Remote) => if r.who = .drayQueue l.core l.q then { r with stale := true } else r) }

/-- R384: the SOURCE field of the record of a Dray queue's command. -/
def cmdSource (l : Lane8) : Nat := 0x800 + l.core + l.q * 2 ^ 12 + 2 ^ 15

/-- R165: how a stop ends or holds a command: FAULT, a stall on translation, RACE, POISON's kill, or a wait. -/
def Chip.runStop (c : Chip) (l : Lane8) (k : Cmd) (s : DStop) : Except Nat Chip :=
  match s with
  | .trap cls r a => .ok (c.modRun l (fun x => { x with ending := some (4, cls * 2 ^ 16 + r, a) }))
  | .page va kind lvl =>
    let c1 := (c.staleReads l).modRun l (fun x => { x with state := 2, fault := some va, got := [] })
    .ok (c1.pageFault (.copy l.core) (.drayQueue l.core l.q) va kind lvl k.op k.pos (some k.cid))
  | .absent off => .error off
  | .race t line _ => .ok ((c.raceEvent line k.cid t).modRun l (fun x => { x with ending := some (3, 0, 0) }))
  | .poison va =>
    .ok ((c.emit (cmdSource l) 0x42 k.cid (dw (va / 64 * 64)) 0).killGang (c.core l.core).dray.s.gang 0x0C false (some k.cid))
  | .wait => .ok c

/-- The cores of a command's bank targets, with slot and barrier (R168, R177). -/
def cmdTargets (k : Cmd) (dst : Option TMap) : List (Nat × Nat × Nat) :=
  if k.op = 0xD9 then
    ((List.range 128).filter (fun j => bitsAt (k.kb.toNat + k.kc.toNat * 2 ^ 64) j 1 == 1)).map (fun j =>
      (bitsAt k.imm 9 2 * 128 + j, bitsAt k.imm 0 3, bitsAt k.imm 3 6))
  else match dst with
    | none => []
    | some m => if m.kind = 1 then [(m.core, bitsAt m.base.toNat 29 3, m.barrier)] else []

/-- R194: the lowest and the highest bank offset a command writes. -/
def cmdRange (k : Cmd) (src dst : Option TMap) : Nat × Nat :=
  if k.op = 0xD9 then
    let o := k.kd.toNat % 2 ^ 20
    match src with
    | none => (o, o)
    | some m => (o, o + m.count * m.esize - 1)
  else match dst with
    | none => (0, 0)
    | some m =>
      let (lo, hi) := dimSpan m.dims
      let o : Int := m.base.toNat % 2 ^ 20
      ((o + lo).toNat, (o + hi + m.esize - 1).toNat)

/-- R205: whether a command's source is seen to be on a peer as it starts, by its first element; a later read at a peer shows it too. -/
def Chip.fromPeer (c : Chip) (core tag : Nat) (src : Option TMap) : Bool :=
  match src with
  | none => false
  | some m => match c.xlate core tag (m.at 0) .read m.pol with
    | .ok (pa, _) => tierOf pa == 3
    | .error _ => false

/-- R194: a waiting command's place at the Turntable of a cluster. -/
def Lane8.place (l : Lane8) (cl : Nat) : Nat × Nat × Nat := (cl, l.core, l.q)

/-- R194: whether another command has waited longer at the Turntable of a cluster. -/
def Chip.laterAt (c : Chip) (l : Lane8) (cl : Nat) : Bool :=
  match c.scoreWaits.find? (fun w => w.1 == cl) with
  | none => false
  | some w => w != l.place cl

/-- R194: a command no longer waits at a Turntable. -/
def Chip.leaveWaits (c : Chip) (l : Lane8) : Chip := { c with scoreWaits := c.scoreWaits.filter (fun w => !(w.2.1 == l.core && w.2.2 == l.q)) }

/-- R194, R205: a bank-bound command takes its scoreboard entries on every target at once, in the order in which commands arrive at the
targets' Turntable, and registers on their barriers; without a free entry it waits in STATE 4. -/
def Chip.allocTargets (c : Chip) (l : Lane8) (k : Cmd) (src dst : Option TMap) (ts : List (Nat × Nat × Nat)) : Chip × Bool :=
  let cl := clusterOf ((ts.map (fun t => t.1)).headD 0)
  if c.laterAt l cl || ts.any (fun t => 16 ≤ ((c.core t.1).score).length) then
    (if c.scoreWaits.contains (l.place cl) then c else { c with scoreWaits := c.scoreWaits ++ [l.place cl] }, false)
  else
    let (lo, hi) := cmdRange k src dst
    let remote := c.fromPeer l.core (c.drayTag l.core) src
    let g := (c.core l.core).dray.s.gang
    ((ts.foldl (fun (x : Chip) t =>
      let co := x.core t.1
      let e : ScoreEntry := { gang := g, core := l.core, queue := l.q, slot := t.2.1, lo := lo, hi := hi, done := false }
      let x1 := x.setCore t.1 { co with score := co.score ++ [e] }
      x1.setBar (.core t.1 t.2.2) ((x1.bar (.core t.1 t.2.2)).register l remote)) c).leaveWaits l, true)

/-- R392: the wait record of a queue that waits for a grant. -/
def Chip.grantWait (c : Chip) (l : Lane8) (k : Cmd) (core barrier : Nat) : Chip :=
  let q := c.queue l.core l.q
  let on := dw (nidCore c.priv.gwdev.toNat core barrier)
  match q.wait with
  | some w => if w.on = on && w.state = 5 then c else c.setQueue l.core l.q { q with wait := some (mk c on k) }
  | none => c.setQueue l.core l.q { q with wait := some (mk c on k) }
where
  mk (c : Chip) (on : DWord) (k : Cmd) : WaitRec := { on := on, phase := 0, state := 5, scope := 0, since := c.now, cid := k.cid, met := false }

/-- A queue's wait ended. -/
def Chip.endWait (c : Chip) (l : Lane8) : Chip := c.setQueue l.core l.q { c.queue l.core l.q with wait := none }

/-- R168-R170: a map read at a command's start: its bytes; misaligned maps are not read. DESIGN CHOICE (log 85): a poisoned map or descriptor is
consumed, although R116 names combining alone for the Dray. -/
def readMap (l : Lane8) (k : Cmd) (got : List (Nat × List MByte)) (tag : Nat) (a n : Nat) (h : Haul) : Haul × List Byte :=
  let (h1, bs) := drayRead l k got tag 0 a n h
  if h1.stop.isNone && bs.any (fun b => b.2) then ({ h1 with stop := some (.poison a) }, []) else (h1, bs.map (fun b => b.1))

/-- R174, R182: a run that ends with a status and detail before anything is read or written. -/
def Chip.endEarly (c : Chip) (l : Lane8) (st detail : Nat) : Chip := c.modRun l (fun r => { r with ending := some (st, detail, 0) })

/-- R175: whether a command's addresses are canonical: its map or descriptor or entry addresses. -/
def Cmd.badAddress (k : Cmd) : Option Nat :=
  let as := if k.op = 0xD9 ∨ k.op = 0xDA ∨ k.op = 0xDD ∨ k.op = 0xDE then [k.ka.toNat] else [k.ka.toNat, k.kb.toNat]
  as.find? (fun a => !canonical a)

/-- R182: DPROXY's entry goes into its shadow queue. -/
def Chip.proxyPush (c : Chip) (l : Lane8) (k : Cmd) (entry : BitVec 512) : Chip :=
  let n := k.imm % 64
  let p := aget Proxy.zero c.proxies n
  if p.err then c.endEarly l 2 p.why
  else if 256 ≤ p.entries.length then c.modRun l (fun r => { r with state := 5 })
  else
    let p1 := { p with entries := p.entries ++ [(c.time, entry)] }
    ({ c with proxies := aput Proxy.zero c.proxies n p1 } : Chip).modRun l (fun r => { r with begun := true, ending := some (0, 0, 0) })

/-- R182: the start of a DPROXY. -/
def Chip.startProxy (c : Chip) (l : Lane8) (k : Cmd) (r : Run) : Except Nat Chip :=
  if k.ka.toNat % 64 ≠ 0 then .ok (c.endEarly l 5 0x101)
  else if !(aget Proxy.zero c.proxies (k.imm % 64)).en then .ok (c.endEarly l 5 0x10A)
  else
    let (h, bs) := drayRead l k r.got (c.drayTag l.core) 0 k.ka.toNat 64 { c := c, elem := r.p, seen := [], stop := none }
    match h.stop with
    | some s => h.c.runStop l k s
    | none => .ok (h.c.proxyPush l k (BitVec.ofNat 512 (natOfBytes (bs.map (fun b => b.1)))))

/-- R161, R167, R194: a command whose maps have been read begins once its targets are allocated. -/
def Chip.startTargets (c : Chip) (l : Lane8) (k : Cmd) (src dst : Option TMap) : Chip :=
  let m? := src.or dst
  let n := (m?.map TMap.count).getD 0
  let es := (m?.map (fun m => m.esize)).getD 1
  let ts := cmdTargets k dst
  let tg : List Target := ts.zipIdx.map (fun t =>
    let b := max (k.sentTo.getD t.2 0) (k.prog * es)
    { core := t.1.1, slot := t.1.2.1, barrier := t.1.2.2, sent := b, landed := b, flight := [] })
  let go (x : Chip) : Chip := x.modRun l (fun y =>
    { y with begun := true, state := 1, src := src, dst := dst, count := n, targets := tg, got := [],
             ending := if k.op = 0xD9 ∧ ts = [] then some (0, 0, 0) else y.ending })
  match ts with
  | [] => go c
  | (c0, _, b0) :: _ =>
    let (c1, ok) := c.allocTargets l k src dst ts
    if ok then (go c1).endWait l
    else (c1.modRun l (fun y => { y with state := 4, src := src, dst := dst, got := [] })).grantWait l k c0 b0

/-- R161, R168, R170, R194: the start of a command with maps: they are read once and checked, the targets allocated. -/
def Chip.startMaps (c : Chip) (l : Lane8) (k : Cmd) (r : Run) : Except Nat Chip :=
  let tag := c.drayTag l.core
  let sa : Option Nat := if k.op = 0xDA then none else some k.ka.toNat
  let da : Option Nat := if k.op = 0xD9 then none else if k.op = 0xDA then some k.ka.toNat else some k.kb.toNat
  if r.state = 4 then .ok (c.startTargets l k r.src r.dst)
  else if (sa.getD 0 % 64 != 0) || (da.getD 0 % 64 != 0) then .ok (c.endEarly l 5 0x101)
  else
    let h0 : Haul := { c := c, elem := r.p, seen := [], stop := none }
    let rd (a : Option Nat) (h : Haul) : Haul × Option (List Byte) := match a with
      | none => (h, none)
      | some x => if h.stop.isSome then (h, none) else
        let (h1, b) := readMap l k r.got tag x 256 h
        (h1, some b)
    let (h1, sb) := rd sa h0
    let (h2, db) := rd da h1
    match h2.stop with
    | some s => h2.c.runStop l k s
    | none =>
      match leastOf (mapReasons h2.c k sb db) with
      | some why => .ok (h2.c.endEarly l 5 why)
      | none => .ok (h2.c.startTargets l k (sb.map TMap.ofBytes) (db.map TMap.ofBytes))

/-- The step of a chip that may meet an offset without memory. -/
def runChipE (s : State) (f : Chip → Except Nat Chip) : Host.Outcome State Fault Refusal :=
  match f s.chip with
  | .ok c => .next { s with chip := c }
  | .error off => .fault (.reservedOffset off)

/-- R167: the bytes of one element. -/
def Run.esize (r : Run) : Nat :=
  match r.src, r.dst with
  | some m, _ => m.esize
  | none, some m => m.esize
  | none, none => 1

/-- The byte of a bank-bound command up to which every target has been sent its bytes. -/
def Run.sentAll (r : Run) : Nat := (leastOf (r.targets.map (fun t => t.sent))).getD 0

/-- The byte up to which a bank-bound command has fetched. -/
def Run.fetchedByte (r : Run) : Nat := r.sentAll + r.fetched.length

/-- R130: the element at which a command's next walk starts. -/
def Run.fetchedTo (r : Run) : Nat := if r.targets = [] then r.upto else r.fetchedByte / r.esize

/-- Bytes a walk writes into one line: mask, bytes, mark; whether they have already been combined at a host or a peer; the first element. -/
structure LineW where
  line : Nat
  mask : BitVec 64
  data : Nat
  pois : Bool
  done : Bool
  elem : Nat
deriving DecidableEq, Repr

/-- Bytes of one line added to a walk's writes, later bytes over earlier ones. -/
def addLine (w : LineW) : List LineW → List LineW
  | [] => [w]
  | x :: xs =>
    if x.line = w.line then
      { x with mask := x.mask ||| w.mask, data := mergeFrom w.mask.toNat x.data w.data 64 0, pois := x.pois || w.pois } :: xs
    else x :: addLine w xs

/-- Bytes of an element as a write of one line from byte `o`. -/
def lineW (line o elem : Nat) (done : Bool) (bs : List MByte) : LineW :=
  { line := line, mask := BitVec.ofNat 64 ((2 ^ bs.length - 1) * 2 ^ o), data := natOfBytes (bs.map (fun b => b.1)) * 2 ^ (8 * o),
    pois := bs.any (fun b => b.2), done := done, elem := elem }

/-- The parts of an element's destination, translated. -/
def destParts (l : Lane8) (tag pol : Nat) : List (Nat × Nat) → List MByte → Haul → Haul × List LineW
  | [], _, h => (h, [])
  | (va, n) :: r, bs, h =>
    match h.c.xlate l.core tag va .write pol with
    | .error e => ({ h with stop := some (e.dstop va .write) }, [])
    | .ok (pa, c1) =>
      let (h1, ws) := destParts l tag pol r (bs.drop n) { h with c := c1 }
      (h1, lineW (lineOf pa) (pa % 64) h.elem false (bs.take n) :: ws)

/-- R169: whether an element's address is aligned. -/
def aligned (a es : Nat) : Bool := a % min es 8 == 0

/-- R169: the alignment fault of an element in a bank, where it has one (the elements of a DMCAST lie one after another). -/
def bankMisaligned (k : Cmd) (r : Run) (i : Nat) : Option Nat :=
  if k.op = 0xD9 then
    let a := k.kd.toNat % 2 ^ 20 + i * r.esize
    if aligned a r.esize then none else some a
  else match r.dst with
    | none => none
    | some m => if m.kind = 1 && !aligned (m.at i) m.esize then some (m.at i) else none

/-- The source bytes of element `i`, and whether they may be combined (R116). -/
def elemSource (l : Lane8) (k : Cmd) (r : Run) (tag i : Nat) (h : Haul) : Haul × List MByte :=
  match r.src with
  | none => (h, (fillBytes k.kb.toNat r.esize).map (fun b => (b, false)))
  | some m =>
    let a := m.at i
    if !aligned a m.esize then ({ h with stop := some (.trap 0x0B 0 a) }, [])
    else
      let (h1, bs) := drayRead l k r.got tag m.pol a m.esize h
      if h1.stop.isNone && (k.op = 0xDB ∨ k.op = 0xDC) && bs.any (fun b => b.2) then ({ h1 with stop := some (.poison a) }, [])
      else (h1, bs)

/-- R156, R180: a DRED at a host line: only the 32-bit ADD is a PCIe AtomicOp. -/
def hostRedBad (k : Cmd) (fmt pa : Nat) : Bool := tierOf pa = 2 && !(k.imm = 0 && fmt = 7)

/-- R156: the 32-bit FetchAdd of a DRED at a host line. -/
def Chip.hostAdd (c : Chip) (pa v : Nat) : Chip :=
  let a := pa % 2 ^ 64
  { c with hostMem := aputN 0 c.hostMem a (bytesOf 4 (natOfBytes (agetN 0 c.hostMem a 4) + v)),
           hostOut := c.hostOut ++ [.outAtomic a 0 4 [v]] }

/-- The result bytes of element `i` at its destination, as line writes. -/
def elemDest (l : Lane8) (k : Cmd) (r : Run) (tag i : Nat) (src : List MByte) (h : Haul) : Haul × List LineW :=
  match r.dst with
  | none => (h, [])
  | some m =>
    let a := m.at i
    let sf := (r.src.map (fun x => x.fmt)).getD 0
    let sv := natOfBytes (src.map (fun b => b.1))
    if !aligned a m.esize then ({ h with stop := some (.trap 0x0B 0 a) }, [])
    else if k.op = 0xDB then
      destParts l tag m.pol (lineParts a m.esize) ((bytesOf m.esize (chainElem k sf m.fmt sv)).map (fun b => (b, false))) h
    else if k.op = 0xDC then
      match h.c.xlate l.core tag a .atomic m.pol with
      | .error e => ({ h with stop := some (e.dstop a .atomic) }, [])
      | .ok (pa, c1) =>
        let h0 := { h with c := c1 }
        if hostRedBad k m.fmt pa then ({ h0 with stop := some (.trap 6 6 a) }, [])
        else if 2 ≤ tierOf pa then
          let c2 := if tierOf pa = 2 then c1.hostAdd pa sv else
            c1.ask pa (.combine k.imm m.fmt (bytesOf m.esize sv)) (.drayQueue l.core l.q) none i k.op tag 2 m.esize k.cid a k.pos
          ({ h0 with c := c2 }, [lineW (lineOf pa) (pa % 64) i true src])
        else
          let (h1, d) := drayRead l k [] tag m.pol a m.esize h0
          if h1.stop.isSome then (h1, [])
          else if d.any (fun b => b.2) then ({ h1 with stop := some (.poison a) }, [])
          else
            let v := combineElem k.imm m.fmt (natOfBytes (d.map (fun b => b.1))) sv
            destParts l tag m.pol (lineParts a m.esize) ((bytesOf m.esize v).map (fun b => (b, false))) h1
    else destParts l tag m.pol (lineParts a m.esize) src h

/-- R305: a walk's writes performed at their homes under its POLICY, or sent to their peer; the line of an overlap that an implicit release
found. -/
def flushLines (l : Lane8) (k : Cmd) (tag pol : Nat) : List LineW → Chip → Chip × Option Nat
  | [], c => (c, none)
  | w :: ws, c =>
    let who : Storer := { who := .drayQueue l.core l.q, op := k.op, tag := tag, pos := k.pos, id := none }
    let (c1, race) := if w.done then c.drayIntend l.core tag w.line w.mask k.cid who
      else c.drayWrite l.core tag w.line w.mask (BitVec.ofNat 512 w.data) w.pois pol k.cid who
    let c2 := if tierOf w.line = 3 && !w.done then (maskRuns w.mask.toNat 64 0).foldl (fun (x : Chip) r =>
        x.ask (w.line + r.1) (.write (bytesOf r.2 (w.data / 2 ^ (8 * r.1))) w.pois) (.drayQueue l.core l.q) none w.elem k.op tag k.cls r.2 k.cid 0
          k.pos) c1 else c1
    let (c3, race') := flushLines l k tag pol ws c2
    (c3, race.or race')

/-- R130: whether lines read lie at one home, and are at most the 128 of a walk. -/
def Haul.oneWalk (h : Haul) : Bool :=
  h.seen.length ≤ 128 && (match h.seen with
    | [] => true
    | a :: as => as.all (fun b => h.c.home b == h.c.home a))

/-- R130, R167: the elements of one walk from `i` on: up to 128 lines of one home; an element beyond, also one that stops there, is left to the next
walk. An element that itself spans homes is walked at each of them, alone. -/
def walkElems (l : Lane8) (k : Cmd) (r : Run) (tag first : Nat) : Nat → Nat → List LineW → Haul → Haul × Nat × List LineW
  | 0, i, ws, h => (h, i, ws)
  | n + 1, i, ws, h =>
    if r.count ≤ i || 128 ≤ ws.length then (h, i, ws)
    else
      let (h1, src) := elemSource l k r tag i { h with elem := i }
      if h1.stop.isSome then (if i ≠ first && !h1.oneWalk then (h, i, ws) else (h1, i, ws))
      else
        let (h2, out) := elemDest l k r tag i src h1
        if h2.stop.isSome then (h2, i, ws)
        else if i ≠ first && !h2.oneWalk then (h, i, ws)
        else
          let ws1 := out.foldl (fun x w => addLine w x) ws
          -- a DRED element is performed before the next is read
          if k.op = 0xDC then (h2, i + 1, ws1) else walkElems l k r tag first n (i + 1) ws1 h2

/-- The most elements a walk may hold: 128 lines of one-byte elements. -/
def walkFuel : Nat := 8192

/-- R122: the port of a slice that takes a line's traffic. -/
def portOf (line : Nat) : Nat := line / 64 % 2

/-- Whether a walk is a queue's next one, which is not yet over. -/
def HansomWalk.next (w : HansomWalk) (l : Lane8) : Bool := w.core == l.core && w.queue == l.q && w.upto.isNone

/-- R130: a queue's walk at the home of a line, sent to the Hansom of the port of the line with which it begins: whether it holds one of the sixteen
contexts there, or waits in the order of arrival. -/
def Chip.takeHansom (c : Chip) (l : Lane8) (line : Nat) : Chip × Bool :=
  let mine (w : HansomWalk) : Bool := w.next l && w.slice == c.home line
  let c1 : Chip := if c.hansoms.any mine then c else
    { c with hansoms := c.hansoms ++ [{ slice := c.home line, port := portOf line, core := l.core, queue := l.q, upto := none }] }
  match c1.hansoms.find? mine with
  | none => (c1, true)
  | some w => (c1, ((c1.hansoms.filter (fun x => x.slice == w.slice && x.port == w.port)).take 16).any mine)

/-- R130: the walks of an element at the homes of its lines, each with a context of its own; whether all of them hold one. -/
def Chip.takeHansoms (c : Chip) (l : Lane8) : List Nat → Chip × Bool
  | [] => (c, true)
  | line :: r =>
    let (c1, a) := c.takeHansom l line
    let (c2, b) := c1.takeHansoms l r
    (c2, a && b)

/-- R130, R131: a queue's walk is over: its context is free, or stays taken until bytes up to `upto` have been sent. -/
def Chip.walkOver (c : Chip) (l : Lane8) (upto : Option Nat) : Chip :=
  match upto with
  | none => { c with hansoms := c.hansoms.filter (fun w => !w.next l) }
  | some n => { c with hansoms := c.hansoms.map (fun (w : HansomWalk) => if w.next l then { w with upto := some n } else w) }

/-- R131: the contexts of walks whose bytes have all been sent. -/
def Chip.freeHansoms (c : Chip) (l : Lane8) (sent : Nat) : Chip :=
  { c with hansoms := c.hansoms.filter (fun w => !(w.core == l.core && w.queue == l.q && (w.upto.map (fun n => decide (n ≤ sent))).getD false)) }

/-- Every context of a queue, its command having ended. -/
def Chip.leaveHansoms (c : Chip) (l : Lane8) : Chip := { c with hansoms := c.hansoms.filter (fun w => !(w.core == l.core && w.queue == l.q)) }

/-- Whether a stop leaves a walk where it is, to be tried again. -/
def DStop.waits : DStop → Bool
  | .wait => true
  | _ => false

/-- Whether requests of a queue are unanswered that its progress counts on: writes at peers, and reads of host memory. -/
def Chip.queueOwes (c : Chip) (l : Lane8) : Bool :=
  c.remotes.any (fun r => r.who == .drayQueue l.core l.q && (r.dst == 2 ^ 22 || (match r.kind with
    | .read _ => false
    | _ => true)))

/-- R167: a memory command's progress, once nothing that it counts on is unanswered. -/
def Chip.settleProgress (c : Chip) (l : Lane8) : Chip :=
  if c.queueOwes l then c else c.modRun l (fun x => if x.targets = [] then { x with p := max x.p x.upto } else x)

/-- R155, R159: a queue's reads of host memory have completed. -/
def Chip.hostDone (c : Chip) (l : Lane8) : Chip :=
  if c.remotes.any (fun r => r.who == .drayQueue l.core l.q && r.dst == 2 ^ 22) then
    ({ c with remotes := c.remotes.filter (fun r => !(r.who == .drayQueue l.core l.q && r.dst == 2 ^ 22)) } : Chip).settleProgress l
  else c

/-- Bytes of a line added to those that a command has written. -/
def addWrote (l : List (Nat × BitVec 64)) (line : Nat) (mask : BitVec 64) : List (Nat × BitVec 64) :=
  match l with
  | [] => [(line, mask)]
  | x :: xs => if x.1 = line then (line, x.2 ||| mask) :: xs else x :: addWrote xs line mask

/-- R130, R167, R304: the next walk of a command that writes memory. -/
def Chip.memoryWalk (c : Chip) (l : Lane8) (k : Cmd) (r : Run) : Except Nat Chip :=
  let tag := c.drayTag l.core
  let (h, i, ws) := walkElems l k r tag r.upto walkFuel r.upto [] { c := c, elem := r.upto, seen := [], stop := none }
  let (c1, race) := flushLines l k tag ((r.dst.map (fun m => m.pol)).getD 0) ws h.c
  let waits := (h.stop.map DStop.waits).getD false
  let c2 := (c1.modRun l (fun x => { x with upto := i, got := if waits then x.got else [],
                                            wrote := ws.foldl (fun y w => addWrote y w.line w.mask) x.wrote })).settleProgress l
  let c3 := match race with
    | none => c2
    | some line => c2.cmdFault l.core l.q k.cid k.pos (syndrome 8 (opReason k.op 2)) line
  let c4 := if waits then c3 else c3.walkOver l none
  match h.stop with
  | none => .ok c4
  | some s => c4.runStop l k s

/-- R130: elements fetched for a bank: source bytes of one walk from element `i`. -/
def fetchElems (l : Lane8) (k : Cmd) (r : Run) (tag first : Nat) : Nat → Nat → Haul → Haul × List MByte
  | 0, _, h => (h, [])
  | n + 1, i, h =>
    if r.count ≤ i then (h, [])
    else match bankMisaligned k r i with
      | some a => ({ h with elem := i, stop := some (.trap 0x0B 0 a) }, [])
      | none =>
        let (h1, src) := elemSource l k r tag i { h with elem := i }
        if h1.stop.isSome then (if i ≠ first && !h1.oneWalk then (h, []) else (h1, []))
        else if i ≠ first && !h1.oneWalk then (h, [])
        else
          let (h2, bs) := fetchElems l k r tag first n (i + 1) h1
          (h2, src ++ bs)

/-- R130, R131: the next walk of a bank-bound command: its bytes are fetched without waiting for a grant. Of an element that was sent in part
before the command stopped, only the rest is sent (R167). -/
def Chip.bankWalk (c : Chip) (l : Lane8) (k : Cmd) (r : Run) : Except Nat Chip :=
  let tag := c.drayTag l.core
  let (h, bs0) := fetchElems l k r tag r.fetchedTo walkFuel r.fetchedTo { c := c, elem := r.fetchedTo, seen := [], stop := none, multi := k.op = 0xD9 }
  let bs := bs0.drop (r.fetchedByte - r.fetchedTo * r.esize)
  let waits := (h.stop.map DStop.waits).getD false
  let c1 := h.c.modRun l (fun x => { x with fetched := x.fetched ++ bs, got := if waits then x.got else [], via := h.via ++ x.via })
  -- R205: a read at a peer shows where the source is
  let peers := c1.remotes.any (fun q => q.who == .drayQueue l.core l.q && q.dst != 2 ^ 22)
  let c2 := if peers then r.targets.foldl (fun (x : Chip) t =>
      x.setBar (.core t.core t.barrier) ((x.bar (.core t.core t.barrier)).fromPeer l)) c1 else c1
  let c3 := if waits then c2 else c2.walkOver l (if bs = [] then none else some (r.fetchedByte + bs.length))
  match h.stop with
  | none => .ok c3
  | some s => c3.runStop l k s

/-- Whether a running command may go on fetching or writing: started, not stalled or refused, not to end, elements left. -/
def Run.canWalk (r : Run) : Bool :=
  r.begun && (r.state = 1 || r.state = 4) && r.ending.isNone && r.fetchedTo < r.count

/-- R130: the first line at each home of the lines of a range, as far as they can be translated. -/
def Chip.homesOf (c : Chip) (core tag pol : Nat) : List (Nat × Nat) → List Nat
  | [] => []
  | (va, _) :: r =>
    match c.xlate core tag va .read pol with
    | .error _ => []
    | .ok (pa, _) => lineOf pa :: (c.homesOf core tag pol r).filter (fun x => c.home x != c.home (lineOf pa))

/-- R130: a walk of a DCOPY or DMCAST, once it holds a Hansom's context at the home of its first line, or at each home of its first element; the
other commands need none. A first line that cannot be translated stops the walk itself. -/
def Chip.withHansom (c : Chip) (l : Lane8) (k : Cmd) (r : Run) (go : Chip → Except Nat Chip) : Except Nat Chip :=
  match (if k.op = 0xD8 ∨ k.op = 0xD9 then r.src else none) with
  | none => go c
  | some m =>
    let (c1, held) := c.takeHansoms l (c.homesOf l.core (c.drayTag l.core) m.pol (lineParts (m.at r.fetchedTo) m.esize))
    if held then go c1 else .ok c1

/-- The running command of a queue with its run. -/
def Chip.runOf (c : Chip) (l : Lane8) : Option (Cmd × Run) :=
  let q := c.queue l.core l.q
  match q.cmds, q.run with
  | k :: _, some r => some (k, r)
  | _, _ => none

/-- R194, R271, R289: whether an operation of an array unit, issued already, awaits bytes that the command of a queue has still to write. -/
def Chip.awaited (c : Chip) (l : Lane8) : Bool :=
  c.ops.any (fun o => isArrayOp o.code && (match o.late with
    | none => false
    | some w => w.work != .chunks && (c.core o.eng.core).score.any (fun e =>
        !e.done && e.gang == o.gang && e.core == l.core && e.queue == l.q && w.touch.any (fun t => t.slot == e.slot && t.lo ≤ e.hi && e.lo ≤ t.hi))))

/-- R173: whether the gang of a core's Dray is on its cores. R289: a queue whose bytes an array operation awaits goes on while its gang is to be
saved, since that operation completes first. -/
def Chip.drayOn (c : Chip) (core : Nat) (queue : Option Nat := none) : Bool :=
  match c.gang (c.core core).dray.s.gang with
  | none => false
  | some g => (c.core core).dray.s.st != 0 && (g.phase == 0 || (g.phase == 1 && (queue.map (fun q => c.awaited { core := core, q := q })).getD false))

/-- R173: the phase of the gang of a core's Dray. -/
def Chip.drayPhase (c : Chip) (core : Nat) : Nat := ((c.gang (c.core core).dray.s.gang).map (fun g => g.phase)).getD 5

/-- R173: whether a bank-bound command stands inside an element at some target. -/
def Run.inside (r : Run) : Bool := r.targets.any (fun t => t.sent % r.esize != 0)

/-- HANSOM_WALK_START (R130, R173): the next walk of a DCOPY, DFILL, DCHAIN or DRED; while its gang is to be saved, of one that stands inside an
element. -/
def execHansomWalkStart (core queue : Nat) (s : State) : Host.Outcome State Fault Refusal :=
  runChipE s (fun c =>
    let l : Lane8 := { core := core, q := queue }
    let c0 := c.hostDone l
    match c0.runOf l with
    | none => .ok c0
    | some (k, r) =>
      if !r.canWalk || !(c0.drayOn core (some queue) || (c0.drayPhase core = 1 && r.inside)) || k.op = 0xD9 || k.op = 0xDD || k.op = 0xDE || (r.targets = [] && c0.queueOwes l) then .ok c0
      else c0.withHansom l k r (fun x => if r.targets = [] then x.memoryWalk l k r else x.bankWalk l k r))

/-- MULTICAST_READ (R132, R173): the next walk of a DMCAST; while its gang is to be saved, of one that stands inside an element. -/
def execMulticastRead (core queue : Nat) (s : State) : Host.Outcome State Fault Refusal :=
  runChipE s (fun c =>
    let l : Lane8 := { core := core, q := queue }
    let c0 := c.hostDone l
    match c0.runOf l with
    | none => .ok c0
    | some (k, r) =>
      if !r.canWalk || !(c0.drayOn core (some queue) || (c0.drayPhase core = 1 && r.inside)) || k.op ≠ 0xD9 then .ok c0
      else c0.withHansom l k r (fun x => x.bankWalk l k r))

/-- R132: the cycles an entry stays open. -/
def multicastOpen : Nat := 2800

/-- MULTICAST_ENTRY_CLOSE (R132). -/
def execMulticastEntryClose (line : Nat) (s : State) : Host.Outcome State Fault Refusal :=
  runChip s (fun c => { c with mc := c.mc.map (fun (e : McEntry) =>
    if e.line == line && e.opened + multicastOpen ≤ c.cycle then { e with closed := true } else e) })

/-- R168, R177: the bank offset of byte `n` of a command's elements. -/
def bankOffset (k : Cmd) (r : Run) (n : Nat) : Nat :=
  if k.op = 0xD9 then k.kd.toNat % 2 ^ 20 + n
  else match r.dst with
    | none => 0
    | some m => (m.at (n / m.esize)) % 2 ^ 20 + n % m.esize

/-- R131: the bytes that a barrier's Turntable has left to grant in the current phase. -/
def Barrier.room (b : Barrier) : Nat := b.xbytes.toNat - b.lbytes.toNat - b.granted

/-- R131, R173: the bytes of a target that a walk wants granted, from byte `first` on; of a command that is to be saved, those up to the end of an
element. -/
def Run.wanted (r : Run) (first : Nat) (stopping : Bool) (t : Target) : Nat :=
  let w := first + r.fetched.length - t.sent
  if stopping then min w ((r.esize - t.sent % r.esize) % r.esize) else w

/-- R131: the grant of one target; bytes `first` on are fetched. -/
def Chip.grantTarget (c : Chip) (k : Cmd) (r : Run) (first : Nat) (stopping : Bool) (t : Target) : Chip × Target × Bool :=
  let b := c.bar (.core t.core t.barrier)
  let wanted := r.wanted first stopping t
  let g := min wanted b.room
  let bytes := ((r.fetched.drop (t.sent - first)).take g).zipIdx.map (fun p => (bankOffset k r (t.sent + p.2), p.1.1, p.1.2))
  (c.setBar (.core t.core t.barrier) { b with granted := b.granted + g }, { t with sent := t.sent + g, flight := t.flight ++ bytes }, g < wanted)

/-- R131: the grants of every target, in order; the first target left short. -/
def grantAll (k : Cmd) (r : Run) (first : Nat) (stopping : Bool) : List Target → Chip → Chip × List Target × Option Target
  | [], c => (c, [], none)
  | t :: ts, c =>
    let (c1, t1, short) := c.grantTarget k r first stopping t
    let (c2, ts1, s) := grantAll k r first stopping ts c1
    (c2, t1 :: ts1, if short then some t1 else s)

/-- R133: whether the multicast entry that a line's fetched bytes came from has closed. -/
def Chip.viaOver (c : Chip) (v : Nat × Nat) : Bool := !c.mc.any (fun e => e.line == v.1 && e.opened == v.2 && e.isOpen c.cycle)

/-- R133: whether byte `n` of a DMCAST, fetched and not sent to every target, must be read again: the entry that it came from has closed. A poisoned
line's mark reaches every target, and the bytes of a hit or of a plain multicast are kept. -/
def Chip.mustReread (c : Chip) (l : Lane8) (r : Run) (n : Nat) : Bool :=
  match r.src with
  | none => false
  | some m =>
    match c.xlate l.core (c.drayTag l.core) (m.at (n / r.esize) + n % r.esize) .read m.pol with
    | .error _ => false
    | .ok (pa, _) => r.via.any (fun v => v.1 == lineOf pa && c.viaOver v)

/-- R133: the bytes of a DMCAST from byte `n` on that need not be read again. -/
def Chip.keepFetched (c : Chip) (l : Lane8) (r : Run) : Nat → List MByte → List MByte
  | _, [] => []
  | n, b :: bs => if c.mustReread l r n then [] else b :: Chip.keepFetched c l r (n + 1) bs

/-- TURNTABLE_GRANT (R131, R133): bytes fetched are granted as far as their barriers are armed. -/
def execTurntableGrant (core queue : Nat) (s : State) : Host.Outcome State Fault Refusal :=
  runChip s (fun c =>
    let l : Lane8 := { core := core, q := queue }
    let c0 := c.hostDone l
    match c0.runOf l with
    | none => c0
    | some (k, r0) =>
      if r0.targets = [] || r0.fetched = [] || !r0.begun || (c0.core core).dray.s.st = 0 || 1 < c0.drayPhase core then c0
      else
        let first := r0.sentAll
        let r := if k.op = 0xD9 then { r0 with fetched := c0.keepFetched l r0 first r0.fetched } else r0
        let (c1, ts, short) := grantAll k r first (!c0.drayOn core (some queue)) r.targets c0
        let next := (leastOf (ts.map (fun t => t.sent))).getD 0
        let c2 := (c1.modRun l (fun x => { x with targets := ts, fetched := r.fetched.drop (next - first), via := x.via.filter (fun v => !c0.viaOver v), p := max x.p (next / r.esize),
                                                  state := if x.state = 1 || x.state = 4 then (if short.isSome then 4 else 1) else x.state }))
        let c3 := if r.fetched.length < r0.fetched.length then
            (c2.leaveHansoms l) else c2.freeHansoms l next
        match short with
        | some t => c3.grantWait l k t.core t.barrier
        | none => c3.endWait l)

/-- R198: bytes that land at a core's slot: in the bank attached there of the same gang, else discarded; counted on the barrier. -/
def Chip.landBytes (c : Chip) (gang : Nat) (t : Target) (cid : DWord) : Chip :=
  let n := t.flight.length
  let cl := clusterOf t.core
  let bankOf := match c.bankAt t.core t.slot with
    | none => none
    | some b => if (c.bank cl b).gang = some gang then some b else none
  let c1 := match bankOf with
    | none => c
    | some b =>
      let marks := ((t.flight.filter (fun (x : Nat × Byte × Bool) => x.2.2)).map (fun (x : Nat × Byte × Bool) => x.1 / 64)).eraseDups
      c.setBank cl b ((c.bank cl b).write (t.flight.map (fun (x : Nat × Byte × Bool) => (x.1, x.2.1))) marks)
  let k := c1.bar (.core t.core t.barrier)
  let lost := bankOf.isNone
  let c2 := if lost && !k.flags.getLsbD 12 then c1.emitUnit (8 + cl) 0x31 (dw (nidCore c.priv.gwdev.toNat t.core t.barrier)) (some cid) else c1
  c2.putBar (.core t.core t.barrier) { k with lbytes := k.lbytes + BitVec.ofNat 32 n, granted := k.granted - n,
                                              flags := if lost then k.flags ||| barFlag 12 else k.flags }

/-- The targets of a run with the first bytes in flight landed. -/
def landFirst : List Target → Option (Target × List Target)
  | [] => none
  | t :: ts =>
    if t.flight = [] then (match landFirst ts with
      | none => none
      | some (x, r) => some (x, t :: r))
    else some (t, { t with landed := t.landed + t.flight.length, flight := [] } :: ts)

/-- R194: the scoreboard entry of a queue's command on a target, marked as over. -/
def Chip.scoreDone (c : Chip) (l : Lane8) (core : Nat) : Chip :=
  let k := c.core core
  let g := (c.core l.core).dray.s.gang
  c.setCore core { k with score := k.score.map (fun (e : ScoreEntry) =>
    if e.gang = g ∧ e.core = l.core ∧ e.queue = l.q then { e with done := true } else e) }

/-- BYTE_LAND (R198): the bytes in flight to one target land and are counted; the last of them lets its scoreboard entry retire. -/
def execByteLand (core queue : Nat) (s : State) : Host.Outcome State Fault Refusal :=
  runChip s (fun c =>
    let l : Lane8 := { core := core, q := queue }
    match c.runOf l with
    | none => c
    | some (k, r) =>
      match landFirst r.targets with
      | none => c
      | some (t, ts) =>
        let c1 := c.landBytes (c.core core).dray.s.gang t k.cid
        let c2 := c1.modRun l (fun x => { x with targets := ts })
        if r.count * r.esize ≤ t.landed + t.flight.length then c2.scoreDone l t.core else c2)

/-- SCOREBOARD_RETIRE (R194): entry `entry` of a core's scoreboard, whose bytes have all landed or whose command has ended. -/
def execScoreboardRetire (core entry : Nat) (s : State) : Host.Outcome State Fault Refusal :=
  runChip s (fun c =>
    let k := c.core core
    match k.score[entry]? with
    | none => c
    | some e => if e.done then c.setCore core { k with score := k.score.eraseIdx entry } else c)

/-- DRAY_COMMAND_START (R161): the head command of a queue, or another try of one that could not yet start. -/
def Chip.tryStart (c : Chip) (l : Lane8) (coll : Chip → Lane8 → Cmd → Run → Except Nat Chip) : Except Nat Chip :=
  let q := c.queue l.core l.q
  match q.cmds with
  | [] => .ok c
  | k :: _ =>
    let r := q.run.getD (Run.fresh k)
    if r.begun || r.ending.isSome || r.state = 2 || r.state = 3 then .ok c
    else
      -- R163: the acquire of a command that has not been tried before
      let c0 := if q.run.isNone && k.acq && !k.cancelled then c.acquireBy (.copy l.core) k.scope else c
      let c1 := (c0.setQueue l.core l.q { q with run := some r, prog := r.p }).hostDone l
      if k.cancelled then .ok ((c1.modRun l (fun x => { x with p := 0, upto := 0 })).endEarly l 1 0)
      else
        match k.badAddress with
        | some a => .ok (c1.modRun l (fun x => { x with ending := some (4, 5 * 2 ^ 16 + 1, a) }))
        | none =>
          if k.op = 0xDE then c1.startProxy l k r
          else if k.op = 0xDD then coll c1 l k r
          else c1.startMaps l k r

/-- Whether a command stopped with an end is done with what it had sent (R167, R184). -/
def Run.quiet (r : Run) : Bool := r.fetched = [] && r.targets.all (fun t => t.flight = [])

/-- R167, R181: whether a command has nothing left: all elements written or landed. -/
def Run.finished (r : Run) : Bool := r.begun && r.count ≤ r.p && r.quiet && r.targets.all (fun t => r.count * r.esize ≤ t.landed)

/-- Whether a queue still awaits a peer. -/
def Chip.queueAsks (c : Chip) (l : Lane8) : Bool := c.remotes.any (fun r => r.who == .drayQueue l.core l.q)

/-- R205: the barriers of a command lose its entry; an end with CANCELLED, REMOTE or FAULT sets MISSING. -/
def Chip.leaveBarriers (c : Chip) (l : Lane8) (r : Run) (missing : Bool) (cid : DWord) : Chip :=
  r.targets.foldl (fun (x : Chip) t =>
    let b := x.bar (.core t.core t.barrier)
    let b1 := b.unregister l
    let x1 := x.setBar (.core t.core t.barrier) (if missing then { b1 with flags := b1.flags ||| barFlag 14 } else b1)
    let x2 := if missing && !b.flags.getLsbD 14 then
        x1.emitUnit (8 + clusterOf t.core) 0x32 (dw (nidCore x.priv.gwdev.toNat t.core t.barrier)) (some cid) else x1
    x2.scoreDone l t.core) c

/-- R162, R183: a command's operation leaves: its flag drops, or its stream goes on. -/
def Chip.endOp (c : Chip) (core : Nat) (id : Option Nat) : Chip :=
  match id with
  | none => c
  | some n => (c.dropOp n).modStream (.copy core) (fun s => if s.sync = some n then { s with sync := none } else s)

/-- DRAY_COMMAND_END (R163, R165, R205): the release, the status, the barriers, the flag, the trap. R305: a release at device scope or wider clears
the command's intents at peers too. DESIGN CHOICE (log 85): the FAULT or BADMAP of a restarted command posts its trap (R165), although R184 has it
report its end through the queue's registers and barriers alone. -/
def execDrayCommandEnd (core queue : Nat) (s : State) : Host.Outcome State Fault Refusal :=
  runChip s (fun c =>
    let l : Lane8 := { core := core, q := queue }
    let c := c.hostDone l
    match c.runOf l with
    | none => c
    | some (k, r) =>
      let how := match r.ending with
        | some e => if r.quiet then some e else none
        | none => if r.finished then some (0, 0, 0) else none
      match how with
      | none => c
      | some (st, detail, addr) =>
        if c.queueAsks l || !c.drayOn core (some queue) then c
        else if k.rel && 5 ≤ k.scope && c.owedBy (.dray core) core != [] then
          c.tellPeers (.dray core) core (.drayQueue core queue) k.op (c.drayTag core) k.cid k.pos
        else
          let keep := c.drayOpen core (some queue)
          let (c0, race0) := if k.rel then c.releaseDray core k.scope keep (fun x => (x, k.cid)) else (c, none)
          let (c1, race1) := c0.takePeerRace (.drayQueue core queue) (c.core core).dray.s.gang k.pos
          let c2 := (((c1.leaveBarriers l r (st = 1 || st = 2 || st = 4) k.cid).leaveHansoms l).leaveWaits l).orphanFaults core queue
          let q := c2.queue core queue
          let p := if st = 0 then max r.p r.count else r.p
          let k1 := { k with prog := p, sentTo := if r.targets = [] then k.sentTo else r.targets.map (fun t => t.landed) }
          let c3 := c2.setQueue core queue { cmds := q.cmds.drop 1, run := none, last := some k1, op := k.op, status := st, detail := detail,
                                             prog := p, wait := none }
          let c4 := c3.endOp core k.opId
          let c5 := if st = 4 then c4.cmdFault core queue k.cid k.pos (syndrome (detail / 2 ^ 16) (opReason k.op (detail % 2 ^ 16))) addr
            else if st = 5 then c4.cmdFault core queue k.cid k.pos (syndrome 4 (opReason k.op detail)) addr else c4
          match race0.or race1 with
          | none => c5
          | some line => c5.cmdFault core queue k.cid k.pos (syndrome 8 (opReason k.op 2)) line)

/-- R172: a command stops at element `f` with an end: what lies below is finished, the rest is given up. -/
def Chip.stopAtElem (c : Chip) (l : Lane8) (f : Nat) (e : Nat × Nat × Nat) : Chip :=
  (c.modRun l (fun x => { x with state := 1, got := [], upto := min x.upto (max x.p f), fetched := x.fetched.take (f * x.esize - x.sentAll),
                                 ending := x.ending.or (some e) })).settleProgress l

/-- DRAY_FAULT_RESUME (R171): a command stalled on translation goes on at p once its fault is resolved, or ends with FAULT. -/
def execDrayFaultResume (core queue : Nat) (s : State) : Host.Outcome State Fault Refusal :=
  runChip s (fun c =>
    let l : Lane8 := { core := core, q := queue }
    match c.runOf l with
    | none => c
    | some (k, r) =>
      let mine (f : PageFault) : Bool := f.party == .drayQueue core queue && !f.gone && f.cid == k.cid && r.fault == some f.addr.toNat
      if r.state ≠ 2 then c
      else match c.faults.find? mine with
        | none => c.modRun l (fun x => { x with state := if x.begun && x.coll.isSome then 6 else 1, fault := none })
        | some f =>
          if !f.failed then c
          else ({ c with faults := c.faults.filter (fun g => !mine g) } : Chip).modRun l (fun x =>
            { x with state := 1, fault := none, ending := x.ending.or (some (4, 5 * 2 ^ 16 + 2, f.addr.toNat)), got := [] }))

end Sys2Proof.Machine
end

