-- ==== Sys2Proof/Machine/Collect.lean ====
section
/-! DEFINITION. DCOLL at this device's Charabanc: the descriptor, the contributions, the canonical reduction (R148-R150, R181). -/

namespace Sys2Proof.Machine

open Sys2Proof

/-- R181: a collective descriptor. -/
structure Desc where
  src : Nat
  dst : Nat
  ranks : Nat
  count : Nat
  p : Nat
  rank : Nat
  kind : Nat
  op : Nat
  fmt : Nat
  flags : Nat
  deadline : Nat
  id : Nat
deriving DecidableEq, Repr

/-- R181: a descriptor in its fields. -/
def Desc.ofBytes (bs : List Byte) : Desc where
  src := fieldOf bs 0 8
  dst := fieldOf bs 8 8
  ranks := fieldOf bs 0x10 8
  count := fieldOf bs 0x18 4
  p := fieldOf bs 0x1C 2
  rank := fieldOf bs 0x1E 2
  kind := fieldOf bs 0x20 1
  op := fieldOf bs 0x21 1
  fmt := fieldOf bs 0x22 1
  flags := fieldOf bs 0x23 1
  deadline := fieldOf bs 0x24 4
  id := fieldOf bs 0x28 8

/-- R170, R181: why a descriptor ends its command: 0x0101 for a byte that must be zero, 0x0109 for an invalid one. -/
def Desc.bad (d : Desc) (bs : List Byte) : Option Nat :=
  if fieldOf bs 0x30 16 ≠ 0 ∨ 1 < d.flags then some 0x101
  else if d.count = 0 ∨ 2 ^ 28 < d.count ∨ d.p < 2 ∨ 4096 < d.p ∨ d.p ≤ d.rank ∨ 3 < d.kind ∨ 2 < d.op ∨ fmtBytes d.fmt = 0 ∨ d.fmt = 2
      ∨ (d.fmt = 7 ∧ d.op ≠ 0) ∨ (d.kind = 1 ∧ d.count % d.p ≠ 0) then some 0x109
  else none

/-- R181: the fields that must agree over the ranks, as one number. -/
def Desc.pack (d : Desc) : Nat := d.count + d.p * 2 ^ 29 + d.kind * 2 ^ 42 + d.op * 2 ^ 44 + d.fmt * 2 ^ 46

/-- R181, R396: a command's collective, its deadline from its issue. -/
def Desc.run (d : Desc) (k : Cmd) (devs : List Nat) : CollRun :=
  { id := dw d.id, desc := d.pack, ranks := devs, rank := d.rank, ordered := d.flags % 2 = 1, dst := dw d.dst,
    deadline := if d.deadline = 0 then none else some (k.issued + d.deadline * 1000), passed := false }

/-- COUNT of a packed descriptor. -/
def descCount (d : Nat) : Nat := bitsAt d 0 29
/-- P of a packed descriptor. -/
def descP (d : Nat) : Nat := bitsAt d 29 13
/-- KIND of a packed descriptor. -/
def descKind (d : Nat) : Nat := bitsAt d 42 2
/-- OP of a packed descriptor. -/
def descOp (d : Nat) : Nat := bitsAt d 44 2
/-- FMT of a packed descriptor. -/
def descFmt (d : Nat) : Nat := bitsAt d 46 4

/-- Elements of a rank's result (R181). -/
def resultCount (d : Nat) : Nat :=
  if descKind d = 1 then descCount d / descP d else if descKind d = 2 then descP d * descCount d else descCount d

/-- Bytes that a rank contributes: for a broadcast only rank 0 brings any. -/
def contribBytes (d rank : Nat) : Nat := if descKind d = 3 ∧ rank ≠ 0 then 0 else descCount d * fmtBytes (descFmt d)

/-- R148: one level of the tree: each value combined with the next one. -/
def reduceLevel (op fmt : Nat) : List Nat → List Nat
  | a :: b :: r => combine32 op fmt a b :: reduceLevel op fmt r
  | l => l

/-- R148: `CanonicalReduce` over `n` levels, on values widened exactly. -/
def canonicalLevels (op fmt : Nat) : Nat → List Nat → List Nat
  | 0, l => l
  | n + 1, l => canonicalLevels op fmt n (reduceLevel op fmt l)

/-- R148, R149: `CanonicalReduce` of the patterns of one element in rank order, in the format; twelve levels reach 4,096 ranks. -/
def canonicalReduce (op fmt : Nat) (xs : List Nat) : Nat :=
  narrow32 fmt ((canonicalLevels op fmt 12 (xs.map (wide32 fmt))).headD 0)

/-- R150: whether a combine may be handed to the switches: every link in use has declared their canonical order. -/
def Chip.canonicalTree (c : Chip) : Bool :=
  let up := c.links.filter (fun p => p.2.up)
  !up.isEmpty && up.all (fun p => p.2.canonical)

/-- The bytes of element `j` of contributions, reduced, marked where any of them is (R116). -/
def reducedElem (d : Nat) (xs : List (List MByte)) (j : Nat) : List MByte :=
  let es := fmtBytes (descFmt d)
  let parts := xs.map (fun x => (x.drop (j * es)).take es)
  let v := canonicalReduce (descOp d) (descFmt d) (parts.map (fun b => natOfBytes (b.map (fun y => y.1))))
  (bytesOf es v).map (fun b => (b, parts.any (fun q => q.any (fun y => y.2))))

/-- R181: the result of a rank. -/
def collResult (d rank : Nat) (xs : List (List MByte)) : List MByte :=
  match descKind d with
  | 0 => (List.range (descCount d)).flatMap (reducedElem d xs)
  | 1 => (List.range (resultCount d)).flatMap (fun j => reducedElem d xs (rank * resultCount d + j))
  | 2 => xs.flatten
  | _ => xs.headD []

/-- The contributions of a collective in rank order, where every one is there whole. -/
def Coll.whole (k : Coll) : Option (List (List MByte)) :=
  (List.range (descP k.desc)).mapM (fun r =>
    match k.got.find? (fun g => g.1 == r) with
    | none => none
    | some g => if g.2.length = contribBytes k.desc r then some g.2 else none)

/-- R396: the lowest rank whose contribution the Charabanc lacks. -/
def Coll.lacks (k : Coll) : Option Nat :=
  (List.range (descP k.desc)).find? (fun r =>
    match k.got.find? (fun g => g.1 == r) with
    | none => true
    | some g => g.2.length != contribBytes k.desc r)

/-- R148, R150: the result of a rank: with the ordered flag clear and every switch in canonical order, the bits that the switches have
returned, unchecked; else the reduction here, once every contribution is there. -/
def Chip.collOutcome (c : Chip) (k : Coll) (x : CollRun) : Option (List MByte) :=
  let es := fmtBytes (descFmt k.desc)
  match k.switched.find? (fun r => r.1 == x.rank && r.2.length == resultCount k.desc * es) with
  | some r => if c.canonicalTree && !x.ordered && descKind k.desc < 2 then some r.2 else k.whole.map (collResult k.desc x.rank)
  | none => k.whole.map (collResult k.desc x.rank)

/-- The holder of a collective. -/
def Chip.coll (c : Chip) (id : DWord) : Option Coll := c.colls.find? (fun k => k.id == id)

/-- Bytes of a rank's contribution received (R148, R181): a descriptor that differs from one already met marks the collective. -/
def Chip.contribute (c : Chip) (id : DWord) (rank desc start : Nat) (bs : List MByte) : Chip :=
  match c.coll id with
  | none => { c with colls := c.colls ++ [{ id := id, desc := desc, bad := false, got := [(rank, bs)], ready := [] }] }
  | some k =>
    let k1 : Coll :=
      if k.desc ≠ desc then { k with bad := true }
      else match k.got.find? (fun g => g.1 == rank) with
        | none => { k with got := k.got ++ [(rank, bs)] }
        | some g => if g.2.length = start then { k with got := k.got.map (fun x => if x.1 = rank then (rank, x.2 ++ bs) else x) } else k
    { c with colls := c.colls.map (fun x => if x.id = id then k1 else x) }

/-- R150: the result that switches have reduced for a rank of a collective known here. -/
def Chip.takeReduced (c : Chip) (id : DWord) (rank : Nat) (bs : List MByte) : Chip :=
  { c with colls := c.colls.map (fun (x : Coll) => if x.id = id then { x with switched := (rank, bs) :: x.switched } else x) }

/-- R181: a difference of descriptors has been detected here: every command of the collective on this device ends with BADMAP. -/
def Chip.markBad (c : Chip) (id : DWord) : Chip :=
  { c with colls := c.colls.map (fun (x : Coll) => if x.id = id then { x with bad := true } else x) }

/-- R141: a contribution's fragments of at most 64 KiB. -/
def fragments : Nat → Nat → List MByte → List (Nat × List MByte)
  | 0, _, _ => []
  | n + 1, start, bs =>
    if bs.length ≤ 65536 then [(start, bs)] else (start, bs.take 65536) :: fragments n (start + 65536) (bs.drop 65536)

/-- R148, R140: a contribution sent to a device in class 1. -/
def Chip.sendContribution (c : Chip) (l : Lane8) (k : Cmd) (id : DWord) (rank desc : Nat) (bs : List MByte) (dev : Nat) : Chip :=
  (fragments (bs.length / 65536 + 1) 0 bs).foldl (fun (x : Chip) f =>
    x.ask (3 * 2 ^ 64 + dev * 2 ^ 42) (.contribute id rank desc f.1 f.2) (.drayQueue l.core l.q) none k.prog k.op (c.drayTag l.core) 1 f.2.length k.cid 0
      k.pos) c

/-- R392: the wait record of a queue in a collective. -/
def Chip.collWait (c : Chip) (l : Lane8) (k : Cmd) (id : DWord) : Chip :=
  c.setQueue l.core l.q { c.queue l.core l.q with
    wait := some { on := id, phase := 0, state := 4, scope := 0, since := c.now, cid := k.cid, met := false } }

/-- R181: this rank joins: its contribution stands at its own Charabanc and leaves for the other devices, which take each byte once; R183: a
restarted command joins again. -/
def Chip.joinColl (c : Chip) (l : Lane8) (k : Cmd) (d : Desc) (devs : List Nat) (bs : List MByte) : Chip :=
  let id := dw d.id
  let c1 := ((devs.eraseDups).filter (fun x => x != c.priv.gwdev.toNat)).foldl (fun (x : Chip) dev => x.sendContribution l k id d.rank d.pack bs dev)
    (c.contribute id d.rank d.pack 0 bs)
  (c1.modRun l (fun x => { x with
    begun := true, state := 6, count := resultCount d.pack,
    coll := some { d.run k devs with passed := (x.coll.map (fun y => y.passed)).getD false } })).collWait l k id

/-- R181: the start of a DCOLL. -/
def Chip.startColl (c : Chip) (l : Lane8) (k : Cmd) (r : Run) : Except Nat Chip :=
  if k.ka.toNat % 64 ≠ 0 then .ok (c.endEarly l 5 0x101)
  else
    let tag := c.drayTag l.core
    let (h, bs) := readMap l k r.got tag k.ka.toNat 64 { c := c, elem := r.p, seen := [], stop := none }
    match h.stop with
    | some s => h.c.runStop l k s
    | none =>
      let d := Desc.ofBytes bs
      match d.bad bs with
      | some why => .ok (h.c.endEarly l 5 why)
      | none =>
        -- R396: its deadline counts from its issue, also while RANKS or SRC are still to be read
        let h := { h with c := h.c.modRun l (fun x => { x with coll := some { d.run k [] with passed := (x.coll.map (fun y => y.passed)).getD false } }) }
        let (h1, rb) := readMap l k r.got tag d.ranks (4 * d.p) h
        match h1.stop with
        | some s => h1.c.runStop l k s
        | none =>
          let devs := (List.range d.p).map (fun i => fieldOf rb (4 * i) 4 % 2 ^ 22)
          let differs := match h1.c.coll (dw d.id) with
            | none => false
            | some x => x.bad || x.desc != d.pack
          if devs.getD d.rank 0 != h1.c.priv.gwdev.toNat then .ok (h1.c.endEarly l 5 0x109)
          else if differs then .ok ((h1.c.markBad (dw d.id)).endEarly l 5 0x109)
          else
            let n := contribBytes d.pack d.rank
            if n ≠ 0 ∧ d.src % fmtBytes d.fmt ≠ 0 then h1.c.runStop l k (.trap 0x0B 0 d.src)
            else
              let (h2, sb) := drayRead l k r.got tag 0 d.src n h1
              match h2.stop with
              | some s => h2.c.runStop l k s
              | none => .ok (h2.c.joinColl l k d devs sb)

/-- DRAY_COMMAND_START (R161). -/
def execDrayCommandStart (core queue : Nat) (s : State) : Host.Outcome State Fault Refusal :=
  runChipE s (fun c => if c.drayOn core then c.tryStart { core := core, q := queue } (fun x l k r => x.startColl l k r) else .ok c)

/-- The lines of a result's bytes as far as they can be translated, and how many bytes that is. -/
def resultParts (l : Lane8) (tag : Nat) : List (Nat × Nat) → List MByte → Haul → Haul × List LineW × Nat
  | [], _, h => (h, [], 0)
  | (va, n) :: r, bs, h =>
    match h.c.xlate l.core tag va .write 0 with
    | .error e => ({ h with stop := some (e.dstop va .write) }, [], 0)
    | .ok (pa, c1) =>
      let (h1, ws, m) := resultParts l tag r (bs.drop n) { h with c := c1 }
      (h1, lineW (lineOf pa) (pa % 64) h.elem false (bs.take n) :: ws, n + m)

/-- A rank's result written at its destination (R167, R181), from the command's progress on; where it stops at an element, those below it have been
written. -/
def Chip.writeResult (c : Chip) (l : Lane8) (k : Cmd) (x : CollRun) (bs : List MByte) : Except Nat Chip :=
  let tag := c.drayTag l.core
  let es := fmtBytes (descFmt x.desc)
  let done := ((c.runOf l).map (fun y => y.2.upto)).getD 0
  let a := x.dst.toNat + done * es
  if a % es ≠ 0 then c.runStop l k (.trap 0x0B 0 a)
  else
    let rest := bs.drop (done * es)
    let (h, ws, n) := resultParts l tag (lineParts a rest.length) rest { c := c, elem := done, seen := [], stop := none }
    let (c1, race) := flushLines l k tag 0 ws h.c
    let c2 := (c1.modRun l (fun y => { y with upto := done + n / es, wrote := ws.foldl (fun z w => addWrote z w.line w.mask) y.wrote })).settleProgress l
    let c3 := match race with
      | none => c2
      | some line => c2.cmdFault l.core l.q k.cid k.pos (syndrome 8 (opReason k.op 2)) line
    match h.stop with
    | some s => c3.runStop l k s
    | none => .ok ((c3.modRun l (fun y => { y with upto := resultCount x.desc, state := 1 })).settleProgress l |>.endWait l)

/-- The queues of the part, in order of core and number. -/
def Chip.queuesOf (c : Chip) : List Lane8 :=
  c.cores.flatMap (fun p => p.2.dray.queues.map (fun q => { core := p.1, q := q.1 }))

/-- A queue whose running DCOLL belongs to a collective and has no result yet. -/
def Chip.awaitsColl (c : Chip) (id : DWord) (l : Lane8) : Bool :=
  match c.runOf l with
  | none => false
  | some (_, r) => r.begun && r.ending.isNone && (r.state = 1 || r.state = 6) && r.upto < r.count && ((r.coll.map (fun x => x.id)) == some id)

/-- A rank of this device has its result; once all of them have, the collective is forgotten. -/
def Chip.collDone (c : Chip) (x : CollRun) : Chip :=
  let mine := (List.range x.ranks.length).filter (fun i => x.ranks.getD i 0 == c.priv.gwdev.toNat)
  { c with colls := (c.colls.map (fun (k : Coll) => if k.id = x.id then { k with ready := x.rank :: k.ready } else k)).filter (fun k =>
      !(k.id == x.id && mine.all (fun i => k.ready.contains i))) }

/-- COLLECTIVE_COMBINE (R148, R181): the collective held at place `coll`: a descriptor that differs ends its commands of this device with
BADMAP, and with the last of them it is forgotten; else, with every contribution there, one of them is given its result. -/
def execCollectiveCombine (coll : Nat) (s : State) : Host.Outcome State Fault Refusal :=
  runChipE s (fun c =>
    match c.colls[coll]? with
    | none => .ok c
    | some k =>
      match c.queuesOf.find? (c.awaitsColl k.id) with
      | none => .ok (if k.bad then { c with colls := c.colls.filter (fun x => x.id != k.id) } else c)
      | some l =>
        match c.runOf l with
        | none => .ok c
        | some (cmd, r) =>
          match r.coll with
          | none => .ok c
          | some x =>
            if k.bad then .ok ((c.modRun l (fun y => { y with state := 1, ending := some (5, 0x109, 0) })).endWait l)
            else if !c.drayOn l.core then .ok c
            else match c.collOutcome k x with
              | none => .ok c
              | some bs =>
                match c.writeResult l cmd x bs with
                | .error off => .error off
                | .ok c1 =>
                  let r1 := (c1.runOf l).map (fun y => y.2)
                  .ok (if (r1.map (fun y => decide (y.count ≤ y.upto))).getD false then c1.collDone x
                    else if (r1.map (fun y => y.state)).getD 0 = 2 then c1.endWait l else c1))

end Sys2Proof.Machine
end

