-- ==== Sys2Proof/Machine/Place.lean ====
section
/-! DEFINITION. Placement of gangs on cores, the start of their warps, and what a gang gives up when it ends (R25, R26, R189, R190, R193,
R215-R217, R326, R346, R377). -/

namespace Sys2Proof.Machine

open Sys2Proof

/-- The gangs of the part with their numbers. -/
def Chip.gangList (c : Chip) : List (Nat × Gang) :=
  c.gangs.filterMap (fun p => p.2.map (fun g => (p.1, g)))

/-- The grids of the part with their numbers. -/
def Chip.gridList (c : Chip) : List (Nat × Grid) :=
  c.grids.filterMap (fun p => p.2.map (fun g => (p.1, g)))

/-- R110: whether a gang holds its warp slots, registers and engines: while it runs, stops or is being killed there. -/
def Gang.resident (k : Gang) : Bool := k.phase = 0 || k.phase = 1 || (k.phase = 3 && !k.out)

/-- R28: whether children of a gang are pending or running, or are saved with it. -/
def Chip.hasChildren (c : Chip) (g : Nat) (k : Gang) : Bool :=
  (c.cluster k.cluster).spawnQ.any (fun ch => ch.gang == g)
  || (k.resident && k.childSlots.any (fun p => (c.warp p.1 p.2).isSome))
  || ((k.frame.map (fun f => f.warps.any (fun w => w.2.2.child))).getD false)

/-- R110, R189: whether a group still holds its barrier and window slots. -/
def Chip.holdsSlots (c : Chip) (g : Nat) (k : Gang) (gr : Group) : Bool :=
  k.phase < 4 && (!gr.retired || c.hasChildren g k)

/-- R346, R380, R412: whether placement treats a core as full. -/
def Chip.closed (c : Chip) (core : Nat) : Bool :=
  !c.enabled core || c.fenced.contains core || (c.priv.iftActive && core / 2 == c.priv.iftPair.toNat)

/-- The warp slots taken on a core. -/
def Chip.takenSlots (c : Chip) (core : Nat) : List Nat :=
  (c.core core).warps.filterMap (fun p => p.2.map (fun _ => p.1))
  ++ c.gangList.flatMap (fun x => if x.2.resident then (x.2.childSlots.filter (fun p => p.1 == core)).map (fun p => p.2) else [])

/-- R25: lane registers taken on a core: those of its group warps, and those of the child warps reserved there. -/
def Chip.takenRegs (c : Chip) (core : Nat) : Nat :=
  sumOf ((c.core core).warps.map (fun p => match p.2 with
    | none => 0
    | some w => if w.child then 0 else w.nregs))
  + sumOf (c.gangList.map (fun x => if x.2.resident then
      (x.2.childSlots.filter (fun p => p.1 == core)).length * ((c.kernelOf x.1).map (fun k => k.regs)).getD 0 else 0))

/-- The barrier slots taken on a core. -/
def Chip.takenBars (c : Chip) (core : Nat) : List Nat :=
  c.gangList.flatMap (fun x => x.2.groups.flatMap (fun gr =>
    if gr.core = core && c.holdsSlots x.1 x.2 gr then (List.range gr.ncount).map (fun j => gr.nbase + j) else []))

/-- The window slots taken on a core: declared, or attached or reserved. -/
def Chip.takenWins (c : Chip) (core : Nat) : List Nat :=
  c.gangList.flatMap (fun x => x.2.groups.flatMap (fun gr =>
    if gr.core = core && c.holdsSlots x.1 x.2 gr then (List.range gr.bcount).map (fun j => gr.bbase + j) else []))
  ++ (List.range 8).filter (fun j => c.slotTaken core j)

/-- R25: whether a group on a core has claimed its sequencers. -/
def Chip.claimed (c : Chip) (core : Nat) : Bool :=
  c.gangList.any (fun x => x.2.resident && x.2.groups.any (fun gr => gr.core == core && !gr.retired)
    && ((c.kernelOf x.1).map (fun k => k.matrix != 0 || k.copy != 0)).getD false)

/-- R189: the lowest run of `n` slots below `limit` that are free. -/
def freeRun (n limit : Nat) (used : List Nat) : Option Nat :=
  if n = 0 then some 0
  else (List.range limit).find? (fun b => b + n ≤ limit && !used.any (fun u => b ≤ u && u < b + n))

/-- R338: warps of a group. -/
def Task.warps (t : Task) : Nat := bitsAt t.flags.toNat 8 4 + 1

/-- R346: a group's place on a core with room. -/
def Chip.groupRoom (c : Chip) (core : Nat) (kn : Kernel) (nw : Nat) : Option Group :=
  let free := (List.range 32).filter (fun s => !(c.takenSlots core).contains s)
  if c.closed core || free.length < nw || 4096 < c.takenRegs core + nw * kn.regs
      || ((kn.matrix != 0 || kn.copy != 0) && c.claimed core) then none
  else
    match freeRun kn.barriers 64 (c.takenBars core), freeRun kn.banks 8 (c.takenWins core) with
    | some nb, some bb =>
      some { core := core, slots := free.take nw, bbase := bb, bcount := kn.banks, nbase := nb, ncount := kn.barriers, retired := false }
    | _, _ => none

/-- R346: the first `n` cores from `core` on that have room for a group each. -/
def Chip.groupsRoom (c : Chip) (kn : Kernel) (nw : Nat) : Nat → Nat → Nat → Option (List Group)
  | _, _, 0 => some []
  | 0, _, _ + 1 => none
  | f + 1, core, n + 1 =>
    match c.groupRoom core kn nw with
    | none => Chip.groupsRoom c kn nw f (core + 1) (n + 1)
    | some g =>
      match Chip.groupsRoom c kn nw f (core + 1) n with
      | none => none
      | some gs => some (g :: gs)

/-- R217: a buffer record of a warp's start. -/
def startRecord (args stride extent esize : Nat) : BitVec 256 :=
  BitVec.ofNat 256 (args + stride * 2 ^ 64 + extent * 2 ^ 96 + esize * 2 ^ 128 + 8 * 2 ^ 136)

/-- R217: the buffer records of a warp's start. -/
def startRecords (args : Nat) : AMap (BitVec 256) := [(0, startRecord args 32 2048 32), (1, startRecord args 1 65536 8)]

/-- A lane at a position. -/
def Lane.fresh (p : Pos) (exited : Bool) (join : Option (Nat × Nat)) : Lane :=
  { pos := p, exited := exited, saved := Pos.zero, join := join, wait := none, sync := none, held := none, hdr := none, savedHdr := none }

/-- R215-R217, R325: a warp at its start, its lanes given. -/
def Warp.fresh (kn : Kernel) (args g grp windex : Nat) (child : Bool) (lanes : List Lane) (cycle : Nat) : Warp :=
  { gang := g, grp := grp, windex := windex, child := child, nregs := kn.regs, nuregs := kn.uregs, lanes := lanes, v := [], vp := [], u := [],
    up := [], q := startRecords args, qp := [], from_ := [], cf := [], fpstat := 0, tr := TrapRegs.zero, handler := false, posted := [], sectOpen := false,
    sectCount := 0, waitsel := 0, waitr := 0, start := cycle, active := false, joined := cycle, unchosen := 0, lag := [],
    deferred := none }

/-- R356, R359: the ordinary warps of the active set of a core: those that are not pinned in it. -/
def Chip.ordinaryCount (c : Chip) (core : Nat) : Nat :=
  ((c.core core).warps.filter (fun p => (p.2.map (fun w => w.active && !w.handler)).getD false)).length

/-- R356, R359: the warps of the active set of a core, pinned ones among them. -/
def Chip.activeCount (c : Chip) (core : Nat) : Nat :=
  ((c.core core).warps.filter (fun p => (p.2.map (fun w => w.active)).getD false)).length

/-- R356: a warp starts in a slot: active where there is room, else pending. -/
def Chip.startWarp (c : Chip) (core slot : Nat) (w : Warp) : Chip :=
  c.setWarp core slot (some { w with active := c.ordinaryCount core < 8, joined := c.cycle })

/-- The first clause of a kernel. -/
def Kernel.entry (kn : Kernel) : Pos := Pos.at (kn.addr + dw kn.code)

/-- R190, R193: a bank reserved to a gang and attached to a slot. -/
def Chip.giveBank (c : Chip) (g tag core slot b : Nat) : Chip :=
  let cl := clusterOf core
  let c1 := c.claimBank cl b tag
  (c1.setBank cl b { c1.bank cl b with gang := some g }).attach core slot b true

/-- R190: the lowest bank of a cluster's pool. -/
def Chip.freeBanks (c : Chip) (cl : Nat) : List Nat := (List.range 64).filter (fun b => (c.bank cl b).gang.isNone)

/-- R190, R192: the window slots of a group cleared and a bank attached to each. -/
def Chip.attachGroup (c : Chip) (g tag : Nat) (gr : Group) : Chip :=
  (List.range gr.bcount).foldl (fun (x : Chip) j =>
    match x.freeBanks (clusterOf gr.core) with
    | [] => x
    | b :: _ => (x.setWin gr.core (gr.bbase + j) Win.zero).giveBank g tag gr.core (gr.bbase + j) b) c

/-- R189, R268, R160: the barrier slots of a group and the sequencers its kernel declares at admission. -/
def Chip.clearGroup (c : Chip) (kn : Kernel) (gr : Group) : Chip :=
  let c1 := (List.range gr.ncount).foldl (fun (x : Chip) j => x.setBar (.core gr.core (gr.nbase + j)) Barrier.zero) c
  if kn.matrix = 0 && kn.copy = 0 then c1 else (c1.setMat gr.core Mat.zero).setDray gr.core Dray.zero

/-- R318, R346: the warps of a group start at the kernel's code, after the acquire at device scope. -/
def Chip.startGroup (c : Chip) (kn : Kernel) (t : Task) (g grp : Nat) (gr : Group) : Chip :=
  let c1 := ((c.clearGroup kn gr).attachGroup g t.tag gr).acquire gr.core 5
  let lanes := List.replicate warpWidth (Lane.fresh kn.entry false none)
  (gr.slots.zipIdx).foldl (fun (x : Chip) p => x.startWarp gr.core p.1 (Warp.fresh kn t.args.toNat g grp p.2 false lanes x.cycle)) c1

/-- R346: one round of child warps, one on each core from `core` on that has room; how many are left to place. -/
def Chip.childRound (c : Chip) (kn : Kernel) (g : Nat) : Nat → Nat → Nat → Chip × Nat
  | 0, _, left => (c, left)
  | _, _, 0 => (c, 0)
  | f + 1, core, left + 1 =>
    let free := (List.range 32).filter (fun s => !(c.takenSlots core).contains s)
    match free with
    | [] => Chip.childRound c kn g f (core + 1) (left + 1)
    | s :: _ =>
      if c.closed core || 4096 < c.takenRegs core + kn.regs then Chip.childRound c kn g f (core + 1) (left + 1)
      else
        let c1 := c.modGang g (fun k => { k with childSlots := k.childSlots ++ [(core, s)] })
        Chip.childRound c1 kn g f (core + 1) left

/-- R346: child warps placed round after round; none where a round places nothing. -/
def Chip.childRounds (kn : Kernel) (g base : Nat) : Nat → Nat → Chip → Option Chip
  | _, 0, c => some c
  | 0, _ + 1, _ => none
  | f + 1, left + 1, c =>
    let (c1, n) := c.childRound kn g 128 base (left + 1)
    if n = left + 1 then none else Chip.childRounds kn g base f n c1

/-- A gang at its admission. -/
def Gang.fresh (grid index cl : Nat) (groups : List Group) : Gang :=
  { grid := grid, index := index, cluster := cl, groups := groups, childSlots := [], reserve := [], phase := 0, out := false, whyPage := false,
    whyPrio := false, whyIft := false, reserved := 0, frame := none, kills := 0, refused := 0, cause := 0, causeCid := 0, noRelaunch := false,
    deferFail := 0, restored := 0 }

/-- R346: a gang placed in a cluster and started, where it fits there. `old` is what a relaunched gang keeps. -/
def Chip.placeIn (c : Chip) (g : Nat) (k0 : Gang) (gr : Grid) (cl : Nat) : Option Chip :=
  let kn := gr.kernel
  match c.groupsRoom kn gr.task.warps 128 (cl * 128) gr.task.width with
  | none => none
  | some gs =>
    if (c.freeBanks cl).length < gr.task.width * kn.banks then none
    else
      let c1 := c.setGang g { k0 with cluster := cl, groups := gs, childSlots := [], reserve := [], phase := 0 }
      let c2 := (gs.zipIdx).foldl (fun (x : Chip) p => x.startGroup kn gr.task g p.2 p.1) c1
      Chip.childRounds kn g (cl * 128) 256 kn.spawnWarps c2

/-- R346: a gang placed in the lowest cluster where it fits. -/
def Chip.placeGang (c : Chip) (grid index : Nat) (gr : Grid) : Option Chip :=
  let g := c.nextGang
  let c1 := { c with nextGang := g + 1 }
  (List.range 4).findSome? (fun cl => c1.placeIn g (Gang.fresh grid index cl []) gr cl)

/-- R346: the gangs of a grid placed in index order. -/
def Chip.placeGangs (grid : Nat) (gr : Grid) : Nat → Nat → Chip → Option Chip
  | _, 0, c => some c
  | index, n + 1, c =>
    match c.placeGang grid index gr with
    | none => none
    | some c1 => Chip.placeGangs grid gr (index + 1) n c1

/-- R345, R346: a waiting grid placed where it fits. -/
def Chip.placeGrid (c : Chip) (grid : Nat) (gr : Grid) : Option Chip := Chip.placeGangs grid gr 0 gr.task.count c

/-- R342: the part with nothing on it, for the question whether a grid could ever be placed. -/
def Chip.emptyPart (c : Chip) : Chip :=
  { c with cores := [], clusters := [], gangs := [], grids := [], priv := { c.priv with iftActive := false } }

/-- The cores that a gang has used: of its groups and of its child warps. -/
def Gang.cores (k : Gang) : List Nat := (k.groups.map (fun gr => gr.core) ++ k.childSlots.map (fun p => p.1)).eraseDups

/-- R190: the banks of a gang return to their pool, their slots empty. -/
def Chip.returnBanks (c : Chip) (g cl : Nat) : Chip :=
  (List.range 64).foldl (fun (x : Chip) b =>
    let k := x.bank cl b
    if k.gang ≠ some g then x
    else
      let x1 := match k.at_ with
        | none => x
        | some (core, slot) => x.setWin core slot Win.zero
      x1.setBank cl b { x1.bank cl b with gang := none, at_ := none }) c

/-- R131, R205: what an ended command leaves behind at its barriers: byte-source entries and granted bytes. -/
def Chip.clearRun (c : Chip) (l : Lane8) (run : Option Run) : Chip :=
  match run with
  | none => c
  | some r => r.targets.foldl (fun (x : Chip) (t : Target) =>
      let b := x.bar (.core t.core t.barrier)
      x.setBar (.core t.core t.barrier) { b.unregister l with granted := b.granted - t.flight.length }) c

/-- R205, R377: the same for the commands of a gang that was killed while it was saved out. -/
def Chip.clearFrame (c : Chip) (f : Option Frame) : Chip :=
  match f with
  | none => c
  | some x => x.drays.foldl (fun (y : Chip) d => d.2.queues.foldl (fun (z : Chip) q => z.clearRun { core := d.1, q := q.1 } q.2.run) y) c

/-- R131, R194, R205: what a Dray's ended commands leave behind elsewhere: scoreboard entries, byte-source entries, granted bytes. -/
def Chip.clearQueue (c : Chip) (g : Nat) (l : Lane8) : Chip :=
  let c1 := c.clearRun l (c.queue l.core l.q).run
  let c2 := (c1.leaveHansoms l).leaveWaits l
  { c2 with cores := c2.cores.map (fun (p : Nat × Core) =>
      (p.1, { p.2 with score := p.2.score.filter (fun e => !(e.gang = g ∧ e.core = l.core ∧ e.queue = l.q)) })) }

/-- R190: whether a slot of a core, given by the run that a group has of its kind, is held by another gang: a group that retired earlier may have
given its slots to one admitted since. -/
def Chip.heldByOther (c : Chip) (g core j : Nat) (run : Group → Nat × Nat) : Bool :=
  c.gangList.any (fun x => x.1 != g && x.2.groups.any (fun gr =>
    gr.core == core && c.holdsSlots x.1 x.2 gr && (run gr).1 ≤ j && j < (run gr).1 + (run gr).2))

/-- R302: what peers have found for parties of a core that are no more, and what those had taken or brought together while they waited. -/
def Chip.dropRaces (c : Chip) (core : Nat) (slots : List Nat) (streams : Bool) : Chip :=
  let gone (p : Party) : Bool := match p with
    | .lanes n s _ => n == core && slots.contains s
    | .matrix n => streams && n == core
    | .drayStream n => streams && n == core
    | .drayQueue n _ => streams && n == core
    | .coachman => false
    | .mail _ => false
  { c.dropHeld gone with peerRaces := c.peerRaces.filter (fun (r : PeerRace) => !gone r.who) }

/-- R215, R268, R377: a group's warps, sequencers and slots given up; of a killed gang the barrier slots read all zero. -/
def Chip.clearCore (c : Chip) (g : Nat) (killed : Bool) (gr : Group) : Chip :=
  let own := (c.core gr.core).dray.s.st ≠ 0 ∧ (c.core gr.core).dray.s.gang = g
  let c0 := if own then (List.range 8).foldl (fun (x : Chip) q => x.clearQueue g { core := gr.core, q := q }) c else c
  let mine := gr.slots.filter (fun s => ((c0.warp gr.core s).map (fun w => w.gang == g)).getD false)
  let c1 := (mine.foldl (fun (x : Chip) s => x.setWarp gr.core s none) c0).dropRaces gr.core mine own
  let bars := (List.range gr.ncount).filter (fun j => !c.heldByOther g gr.core (gr.nbase + j) (fun x => (x.nbase, x.ncount)))
  let wins := (List.range gr.bcount).filter (fun j => !c.heldByOther g gr.core (gr.bbase + j) (fun x => (x.bbase, x.bcount)))
  let c2 := if killed then bars.foldl (fun (x : Chip) j => x.setBar (.core gr.core (gr.nbase + j)) Barrier.zero) c1 else c1
  let c3 := wins.foldl (fun (x : Chip) j => x.setWin gr.core (gr.bbase + j) Win.zero) c2
  let k := c3.core gr.core
  let c4 := if k.mat.s.st ≠ 0 ∧ k.mat.s.gang = g then c3.setMat gr.core Mat.zero else c3
  if (c4.core gr.core).dray.s.st ≠ 0 ∧ (c4.core gr.core).dray.s.gang = g then c4.setDray gr.core Dray.zero else c4

/-- R18, R190, R377: everything a gang that retires, or whose kill is over, holds is freed. -/
def Chip.freeGang (c : Chip) (g : Nat) (k : Gang) (killed : Bool) : Chip :=
  let c1 := k.groups.foldl (fun (x : Chip) gr => x.clearCore g killed gr) c
  let mine := k.childSlots.filter (fun p => ((c1.warp p.1 p.2).map (fun w => w.gang == g)).getD false)
  let c2 := mine.foldl (fun (x : Chip) p => (x.setWarp p.1 p.2 none).dropRaces p.1 [p.2] false) c1
  let c3 := c2.returnBanks g k.cluster
  { c3 with cores := c3.cores.map (fun (p : Nat × Core) =>
      (p.1, { p.2 with gives := p.2.gives.filter (fun gv => (c2.bank (clusterOf p.1) gv.bank).gang != some g),
                       score := p.2.score.filter (fun e => e.gang != g) })) }

end Sys2Proof.Machine
end

