-- ==== Sys2Proof/Machine/Post.lean ====
section
/-! DEFINITION. The Coachman's accesses, dependence counters, the post of a task record with its checks, status words, TRIG (R315, R316,
R337-R344). -/

namespace Sys2Proof.Machine

open Sys2Proof

/-- What keeps a step of the Coachman from being performed: a page fault, an offset at which no memory stands, a request to a peer or a host
read that has not been made or answered, a frame that is still being given up (R119). Of a decrement they carry its causal ID (R343, R383). -/
inductive CStop where
  | page (va kind level tag : Nat) (cid : Option DWord)
  | absent (off : Nat)
  | peer (step pa tag : Nat) (kind : ReqKind) (cid : Option DWord)
  | host (step pa tag : Nat)
  | wait
deriving DecidableEq, Repr

/-- What an access of the Coachman ends in: refused for good, or stopped for now. -/
inductive CErr where
  | refused
  | stop (s : CStop)
deriving DecidableEq, Repr

/-- The translation cache of the Coachman stands beside the cores', under this number. -/
def coachCore : Nat := 512

/-- The gang of a fault that no gang met. -/
def noGang : Nat := 2 ^ 64

/-- R343: a translation by the Coachman; one that system software has declared unresolvable is refused. -/
def Chip.coachXlate (c : Chip) (tag va : Nat) (a : Acc) (cid : Option DWord := none) : Except CErr (Nat × Chip) :=
  if c.faults.any (fun f => f.party == .coachman && !f.failed && f.addr == dw (va / 64 * 64) && f.tag == tag) then
    .error (.stop (.page (va / 64 * 64) a.code 0 tag cid))
  else match c.xlate coachCore tag va a 0 with
  | .ok r => .ok r
  | .error (.trap _ _) => .error .refused
  | .error (.absent off) => .error (.stop (.absent off))
  | .error (.peer _) => .error (.stop .wait)
  | .error .held => .error (.stop .wait)
  | .error (.fault lvl) =>
    if c.faults.any (fun f => f.party == .coachman && f.failed && f.addr == dw (va / 64 * 64) && f.tag == tag) then .error .refused
    else .error (.stop (.page (va / 64 * 64) a.code lvl tag cid))

/-- A fault declared unresolvable that the Coachman has taken note of. -/
def Chip.forget (c : Chip) (tag va : Nat) : Chip :=
  { c with faults := c.faults.filter (fun f => !(f.party == .coachman && f.failed && f.addr == dw (va / 64 * 64) && f.tag == tag)) }

/-- R383: the causal ID of a step of the Coachman: that of the operation it is made for, else one of its own. -/
def Chip.coachCid (c : Chip) (cid : Option DWord) : Chip × DWord :=
  match cid with
  | some id => (c, id)
  | none => c.unitCid 0

/-- R343: a page fault with the Coachman as the faulting engine, written once. -/
def Chip.coachFault (c : Chip) (va kind lvl tag : Nat) (cid : Option DWord) : Chip :=
  if c.faults.any (fun f => f.party == .coachman && f.addr == dw va && f.tag == tag) then c
  else
    let (c1, id) := c.coachCid cid
    c1.writeFault { id := 0, addr := dw va, kind := kind, level := lvl, tag := tag, engine := 0xC00, cid := id, op := 0, gang := noGang,
                    party := .coachman, ring := true, failed := false, resolved := false, pos := Pos.zero }

/-- Whether a request of a step of the Coachman is outstanding. -/
def Chip.coachAsked (c : Chip) (step dst off : Nat) : Bool :=
  c.remotes.any (fun r => r.who == .coachman && r.va == step && r.dst == dst && r.off == off)

/-- What a stop of the Coachman does: a page fault is recorded, a request is made once. DESIGN CHOICE (log 84): R140 names no class for the
Coachman's requests; they go in class 2. -/
def Chip.coachStop (c : Chip) (s : CStop) : Except Nat Chip :=
  match s with
  | .page va kind lvl tag cid => .ok (c.coachFault va kind lvl tag cid)
  | .absent off => .error off
  | .wait => .ok c
  | .peer step pa tag kind cid =>
    if c.coachAsked step (peerOf pa).1 (peerOf pa).2 then .ok c
    else
      let (c1, id) := c.coachCid cid
      .ok (c1.ask pa kind .coachman none 0 0 tag 2 64 id step)
  | .host step pa tag =>
    if c.coachAsked step (2 ^ 22) (pa % 2 ^ 64) then .ok c
    else
      let (c1, id) := c.unitCid 0
      .ok (c1.noteHostAt .coachman none 0 0 tag (pa % 2 ^ 64) id Pos.zero step)

/-- What a request of a step of the Coachman has brought; it is used once. -/
def Chip.coachTake (c : Chip) (step pa : Nat) : Option (Option (List Byte)) × Chip :=
  match c.coachGot.find? (fun g => g.step == step && g.pa == pa) with
  | none => (none, c)
  | some g => (some g.bytes, { c with coachGot := c.coachGot.erase g })

/-- R79, R143, R155, R159, R340: a line read by a step of the Coachman: a peer's is asked for and awaited, a host read is made in one step and
complete in a later one, unless the host has failed it meanwhile. -/
def Chip.coachLine (c : Chip) (step tag line : Nat) : Except CErr (List Byte × Chip) :=
  let here : List Byte := bytesOf 64 (c.homeBytes line).toNat
  if tierOf line < 2 then .ok (here, c)
  else
    match c.coachTake step line with
    | (some (some bs), c1) => .ok (bs, c1)
    | (some none, _) => .error .refused
    | (none, _) =>
      if tierOf line = 3 then .error (.stop (.peer step line tag (.read 64) none))
      else if c.coachAsked step (2 ^ 22) (line % 2 ^ 64) then
        .ok (here, { c with remotes := c.remotes.filter (fun r =>
          !(r.who == .coachman && r.va == step && r.dst == 2 ^ 22 && r.off == line % 2 ^ 64)) })
      else .error (.stop (.host step line tag))

/-- Bytes read by a step of the Coachman, line by line. -/
def coachParts (step tag : Nat) (a : Acc) : List (Nat × Nat) → Chip → Except CErr (List Byte × Chip)
  | [], c => .ok ([], c)
  | (va, n) :: r, c =>
    match c.coachXlate tag va a with
    | .error e => .error e
    | .ok (pa, c1) =>
      match c1.coachLine step tag (lineOf pa) with
      | .error e => .error e
      | .ok (ds, c2) =>
        match coachParts step tag a r c2 with
        | .error e => .error e
        | .ok (bs, c3) => .ok ((ds.drop (pa % 64)).take n ++ bs, c3)

/-- The chip after a step of the Coachman whose read has been refused: what its requests have brought is dropped. -/
def Chip.coachDrop (c : Chip) (step : Nat) : Chip := { c with coachGot := c.coachGot.filter (fun g => g.step != step) }

/-- A number written at home by a unit of the part, in one line; the readers' clean copies go. -/
def Chip.unitWrite (c : Chip) (pa n v : Nat) (cid : Option DWord := none) : Chip :=
  let line := lineOf pa
  let o := pa % 64
  (c.homeWrite line (BitVec.ofNat 64 ((2 ^ n - 1) * 2 ^ o)) (BitVec.ofNat 512 (v % 2 ^ (8 * n) * 2 ^ (8 * o))) false cid).invalidate line
    (c.filterMask line)

/-- R341: a status word: one that cannot be written is dropped, and an event names the record. `cid` is the causal ID of the retirement it
belongs to (R383). -/
def Chip.statusWrite (c : Chip) (t : Task) (rec_ : DWord) (v : Nat) (cid : Option DWord := none) : Chip :=
  let dropped (x : Chip) : Chip :=
    let (x1, id) := x.coachCid cid
    x1.emit 0xC00 0x26 id rec_ 0
  if t.status = 0 then c
  else if t.status.toNat % 8 ≠ 0 then dropped c
  else
    match c.xlate coachCore t.tag t.status.toNat .write 0 with
    | .error _ => dropped c
    | .ok (pa, c1) => if tierOf pa = 0 ∨ tierOf pa = 2 then c1.unitWrite pa 8 v cid else dropped c

/-- R341: the status word's value. -/
def statusWord (state code relaunch : Nat) : Nat := state + code * 2 ^ 8 + min relaunch 0xFFFFFFFF * 2 ^ 32

/-- R337: a task record in its fields. -/
def Task.ofBytes (bs : List Byte) : Task where
  entry := dw (fieldOf bs 0 8)
  args := dw (fieldOf bs 8 8)
  tilex := BitVec.ofNat 32 (fieldOf bs 0x10 4)
  tiley := BitVec.ofNat 16 (fieldOf bs 0x14 2)
  tilez := BitVec.ofNat 16 (fieldOf bs 0x16 2)
  succ0 := dw (fieldOf bs 0x18 8)
  succ1 := dw (fieldOf bs 0x20 8)
  width := fieldOf bs 0x28 2
  flags := BitVec.ofNat 16 (fieldOf bs 0x2A 2)
  count := fieldOf bs 0x2C 4
  tag := fieldOf bs 0x34 2
  status := dw (fieldOf bs 0x38 8)

/-- R340: a kernel header in its fields; the bounds come from its table. -/
def Kernel.ofBytes (addr : DWord) (bs : List Byte) (bds : List Bound) : Kernel where
  addr := addr
  code := fieldOf bs 0 4
  regs := fieldOf bs 4 2
  uregs := fieldOf bs 6 1
  tiles := fieldOf bs 7 1
  banks := fieldOf bs 8 1
  barriers := fieldOf bs 9 1
  spawnWarps := fieldOf bs 0xA 1
  spawnMask := fieldOf bs 0xB 1
  matrix := fieldOf bs 0x10 4
  copy := fieldOf bs 0x14 4
  handler := fieldOf bs 0x18 4
  spawn := (List.range 8).map (fun i => fieldOf bs (0x20 + 4 * i) 4)
  fs := (List.range 8).map (fun i => dw (fieldOf bs (0x40 + 8 * i) 8))
  bounds := bds

/-- R340, R342: whether a header breaks the limits of its fields (code 0x04). -/
def headerBad (bs : List Byte) : Bool :=
  let k := Kernel.ofBytes 0 bs []
  k.code < 0x100 || k.code % 8 != 0 || k.regs < 32 || 960 < k.regs || k.regs % 32 != 0 || 64 < k.uregs || 16 < k.tiles || 8 < k.banks
  || 64 < k.barriers || k.matrix % 8 != 0 || k.copy % 8 != 0 || k.handler % 8 != 0 || k.spawn.any (fun e => e % 8 != 0)
  || (List.range 8).any (fun i => k.spawnMask.testBit i != (k.spawn.getD i 0 != 0))
  || fieldOf bs 0xC 4 != 0 || fieldOf bs 0x1C 4 != 0 || (bs.drop 0x88).any (fun b => b != 0)

/-- R16, R30: SR.GANGMAX.WIDTH. -/
def Chip.gangMax (c : Chip) : Nat := max (max (c.coresIn 0) (c.coresIn 1)) (max (c.coresIn 2) (c.coresIn 3))

/-- R342: the checks that need the record alone: the codes that fail. -/
def Chip.recordCodes (c : Chip) (t : Task) (bs : List Byte) (tier : Nat) : List Nat :=
  let r (n : Nat) (b : Bool) : List Nat := if b then [n] else []
  r 1 (t.width = 0 || c.gangMax < t.width) ++ r 7 (c.ctxRoot t.tag).isNone ++ r 8 (t.args.toNat % 32 != 0)
  ++ r 0xA (fieldOf bs 0x36 2 != 0 || bitsAt t.flags.toNat 12 4 != 0 || t.flags.getLsbD 7 || t.count = 0 || t.status.toNat % 8 != 0 || tier != 0)

/-- R342: the checks that need the header (codes 0x02, 0x04, 0x05, 0x09). -/
def headerCodes (t : Task) (bs : List Byte) : List Nat :=
  let k := Kernel.ofBytes t.entry bs []
  let r (n : Nat) (b : Bool) : List Nat := if b then [n] else []
  r 2 (4096 < t.warps * k.regs || 64 < k.barriers || 8 < k.banks || 16 < k.tiles) ++ r 4 (headerBad bs)
  ++ r 5 (k.fs.any (fun v => !slotValid v.toNat)) ++ r 9 (k.tiles != 0 && k.matrix = 0)

/-- R79, R342: the bound registers of a header (code 0x06 where its table fails). -/
def Chip.readBounds (c : Chip) (step tag : Nat) (ptr : Nat) : Except CStop (Option (List Bound) × Chip) :=
  if ptr = 0 then .ok (some (List.replicate 16 Bound.off), c)
  else if ptr % 16 ≠ 0 then .ok (none, c)
  else
    match coachParts step tag .read (lineParts ptr 256) c with
    | .error (.stop s) => .error s
    | .error .refused => .ok (none, (lineParts ptr 256).foldl (fun (x : Chip) p => x.forget tag p.1) c)
    | .ok (bs, c1) =>
      let es := (List.range 16).map (fun j => (bs.drop (16 * j)).take 16)
      .ok (if es.all boundValid then some (es.map Bound.ofBytes) else none, c1)

/-- A grid as posted (R344). -/
def Grid.fresh (t : Task) (k : Kernel) (rec_ : DWord) (tag : Nat) (ring : Bool) (now : Nat) : Grid :=
  { task := t, kernel := k, recAddr := rec_, recTag := tag, phase := 0, prio := bitsAt t.flags.toNat 1 3, ring := ring, posted := now,
    aged := now, admitted := 0, triggered := false, relaunches := 0, fail := none, front := none }

/-- R342: the checks of a record, lowest code first, and the kernel it names. -/
def Chip.checkRecord (c : Chip) (step : Nat) (t : Task) (bs : List Byte) (tier : Nat) (rec_ : DWord) : Except CStop (Except Nat Kernel × Chip) :=
  let early := c.recordCodes t bs tier
  let refuse (l : List Nat) (d : Nat) : Except Nat Kernel := .error ((leastOf (l ++ early)).getD d)
  if early.contains 1 || early.contains 7 then .ok (refuse [] 1, c)
  else if t.entry.toNat % 256 ≠ 0 then .ok (refuse [4] 4, c)
  else
    match coachParts step t.tag .fetch (lineParts t.entry.toNat 256) c with
    | .error (.stop s) => .error s
    | .error .refused => .ok (refuse [4] 4, (lineParts t.entry.toNat 256).foldl (fun (x : Chip) p => x.forget t.tag p.1) c)
    | .ok (hs, c1) =>
      match c1.readBounds step t.tag (fieldOf hs 0x80 8) with
      | .error s => .error s
      | .ok (bds, c2) =>
        let codes := headerCodes t hs ++ (if bds.isNone then [6] else [])
        let kn := Kernel.ofBytes t.entry hs (bds.getD [])
        let trial := Grid.fresh t kn rec_ 0 false 0
        let never := t.count != 0 && ((c2.emptyPart.setGrid 0 trial).placeGrid 0 trial).isNone
        let all := codes ++ (if never then [3] else [])
        .ok (if all = [] && early = [] then .ok kn else refuse all 4, c2)

/-- R342-R344: a record is posted: read, checked, then put into its ready queue or refused; one that a peer fails to give is unreadable. -/
def Chip.post (c : Chip) (step tag : Nat) (recVa line : Nat) (ring : Bool) : Except CStop Chip :=
  match c.coachLine step tag line with
  | .error (.stop s) => .error s
  | .error .refused => .ok ((c.coachDrop step).emitUnit 0 0x27 (dw recVa))
  | .ok (bs, c0) =>
    let t := Task.ofBytes bs
    match c0.checkRecord step t bs (tierOf line) (dw recVa) with
    | .error s => .error s
    | .ok (.error code, c1) => .ok ((c1.coachDrop step).statusWrite t (dw recVa) (statusWord 2 code 0))
    | .ok (.ok kn, c1) =>
      .ok (({ c1.coachDrop step with nextGrid := c1.nextGrid + 1 } : Chip).setGrid c1.nextGrid
        (Grid.fresh t kn (dw recVa) tag ring c1.time))

/-- R303, R343: a decrement of the counter in a line finds its bytes under an intent: the record of the home slice, under the decrement's causal
ID (R383). -/
def Chip.counterRace (c : Chip) (line : Nat) (id : DWord) : Chip :=
  match c.intents.find? (fun i => i.line == line && (i.mask &&& BitVec.ofNat 64 (15 * 2 ^ 48)) != 0) with
  | none => c
  | some i => c.raceEvent line id i

/-- R343: the counter of a line of this device. -/
def Chip.counterOf (c : Chip) (line : Nat) : Nat := bitsAt (c.homeBytes line).toNat (8 * 48) 32

/-- R343: `CounterDec` at the home slice of a line of this device: lowered by one, or found zero, which the home slice records against the
decrementing task's causal ID and the counter's address. -/
def Chip.decHome (c : Chip) (line : Nat) (id what : DWord) : Chip :=
  let c1 := c.counterRace line id
  if c1.counterOf line = 0 then c1.emit (0xC00 + 64 + c1.home line) 0x24 id what 0
  else c1.unitWrite (line + 0x30) 4 (c1.counterOf line - 1)

/-- The AOP by which `CounterDec` is asked of a peer's home slice. DESIGN CHOICE (log 10): R58 leaves it unused, and the spec gives no wire format. -/
def aopCounterDec : Nat := 15

/-- R343: `CounterDec` at a virtual address of a context, by a step of the Coachman on behalf of causal ID `id`. DEDUCED (log 84): a ring's record in
host memory, whose counter R343 leaves alone, is posted all the same, and so refused with code 0x0A (R342, R441). -/
def Chip.counterDec (c : Chip) (step : Nat) (id : DWord) (tag va : Nat) (ring : Bool) : Except CStop Chip :=
  let invalid (x : Chip) : Chip := x.emit 0xC00 0x25 id (dw va) 0
  if va % 64 ≠ 0x30 then .ok (invalid c)
  else
    match c.coachXlate tag va .atomic (some id) with
    | .error .refused => .ok (invalid (c.forget tag va))
    | .error (.stop s) => .error s
    | .ok (pa, c1) =>
      let line := lineOf pa
      if tierOf pa = 0 then
        let c2 := c1.decHome line id (dw va)
        if c1.counterOf line = 1 then c2.post step tag (va - 0x30) line ring else .ok c2
      else if tierOf pa = 3 then
        match c1.coachTake step pa with
        | (none, _) => .error (.peer step pa tag (.atomic (BitVec.ofNat 4 aopCounterDec) false 0) (some id))
        | (some none, c2) => .ok (invalid c2)
        | (some (some old), c2) => if natOfBytes old = 1 then c2.post step tag (va - 0x30) line ring else .ok c2
      else if tierOf pa = 2 && ring then (invalid c1).post step tag (va - 0x30) line ring
      else .ok (invalid c)

/-- R315, R343, R349: the decrements of a grid's successor counters that are still to be made, in order; each is kept once it is made. The chip, and
what stops the next one. -/
def Chip.decFrom (c : Chip) (grid : Nat) (id : DWord) (tag : Nat) : List (Nat × DWord) → Chip × Option CStop
  | [] => (c, none)
  | (n, a) :: r =>
    match (if a = 0 then .ok c else c.counterDec grid id tag a.toNat false) with
    | .error st => (c, some st)
    | .ok c1 =>
      match c1.grid grid with
      | none => (c1, none)
      | some gr => Chip.decFrom (c1.setGrid grid { gr with dec := some (n + 1, id) }) grid id tag r

/-- R315, R343, R349: a grid's decrements in progress go on; the last of them ends them. -/
def Chip.successors (c : Chip) (grid : Nat) : Chip × Option CStop :=
  match c.grid grid with
  | none => (c, none)
  | some gr =>
    match gr.dec with
    | none => (c, none)
    | some (n, id) =>
      match c.decFrom grid id gr.task.tag ([(0, gr.task.succ0), (1, gr.task.succ1)].drop n) with
      | (c1, some st) => (c1, some st)
      | (c1, none) => (match c1.grid grid with
        | none => c1
        | some g1 => c1.setGrid grid { g1 with dec := none }, none)

/-- TRIG (R315, R316): the release at device scope; the task's first trigger decrements its successor counters, and waits where a decrement must. -/
def execTrig (g : Guard) (fsel : BitVec 2) (s : State) : Host.Outcome State Fault Refusal :=
  runIssue s (fun i c =>
    let flag := flagOf i.hdr fsel.toNat
    withFlag c i flag (match prep { op := 0x92, g := g, hq := false, d := none, ud := .rule, srcs := [] } i c with
      | .error e => .error e
      | .ok p =>
        if p.act = 0 then .ok (c.issueOp i (Op.blank 0x92 flag (c.nextCid i.eng).2))
        else
          match c.gridOf p.w.gang, c.gang p.w.gang with
          | some gr, some k =>
            if !gr.task.flags.getLsbD 5 then .error (laneTrap i (syndrome 6 (opReason 0x92 8)) (lowLane p.act) 0)
            else
              let (c1, cid) := c.issueCid i
              let (c2, race0) := c1.releaseBy i.eng 5 (some cid)
              let (c2a, race1) := c2.takePeerRace (partyOf i.eng i.lanes) p.w.gang i.pos
              let race := race1.or race0
              let fin (x : Chip) : Chip := x.issueOp i { Op.blank 0x92 flag cid with race := race }
              let c3 := if gr.triggered then c2a else c2a.setGrid k.grid { gr with triggered := true, dec := some (0, cid) }
              match c3.successors k.grid with
              | (c4, none) => .ok (fin c4)
              | (c4, some st) => match (c4.keepCid i cid).coachStop st with
                | .error off => .error (.absent off)
                | .ok c' => .error (.park (match race with
                  | none => c'
                  | some l => { c' with peerRaces := c'.peerRaces ++ [{ who := partyOf i.eng i.lanes, gang := p.w.gang, pos := i.pos, line := l }] }))
          | _, _ => .error .wait))

end Sys2Proof.Machine
end

