-- ==== Sys2Proof/Machine/Lifecycle.lean ====
section
/-! DEFINITION. Operations that complete, posted traps, saving and restoring gangs, kills, relaunches and retirements (R18, R42, R43, R110,
R113, R201, R289, R322, R349, R363, R373-R378). -/

namespace Sys2Proof.Machine

open Sys2Proof

/-- The warps of a gang: core, slot, warp. -/
def Chip.warpsOf (c : Chip) (g : Nat) : List (Nat × Nat × Warp) :=
  c.cores.flatMap (fun p => p.2.warps.filterMap (fun q => q.2.bind (fun w => if w.gang = g then some (p.1, q.1, w) else none)))

/-- R374: whether a warp of a gang holds an open section. -/
def Chip.sectionsOpen (c : Chip) (g : Nat) : Bool := (c.warpsOf g).any (fun x => x.2.2.sectOpen)

/-- The gang a remote request was made for. -/
def Chip.remoteGang (c : Chip) (r : Remote) : Option Nat :=
  match r.who with
  | .lanes n s _ => (c.warp n s).map (fun w => w.gang)
  | .matrix n => some (c.core n).mat.s.gang
  | .drayStream n => some (c.core n).dray.s.gang
  | .drayQueue n _ => some (c.core n).dray.s.gang
  | .coachman => none
  | .mail _ => none

/-- R8, R362, R368: an operation of an engine ends with a fault: a precise trap where its lane set waits for it or has issued nothing after it,
else a posted one; a fault of its stream. -/
def Chip.failOp (c : Chip) (o : Op) (syn : Word) (addr : DWord) (lane : Nat) : Chip :=
  match o.eng with
  | .warp n s =>
    match c.warp n s with
    | none => c
    | some w =>
      if syn.toNat / 2 ^ 24 = 0x0C && w.live = 0 then c.failGang w.gang 0x0C (some o.cid)
      else if syn.toNat / 2 ^ 24 = 0x0C || o.flag.isNone || !o.moved then
        c.trapEnter n s { syn := syn.toNat, pos := o.pos, posted := false, kind := 0, queue := 0, lane := lane, addr := addr.toNat,
                          mask := o.mask, inner := 0, stopped := 0, cid := some o.cid }
      else c.postTrap n s { syn := syn, pos := o.pos, lane := lane, from_ := c.cycle + 1, kind := 0, queue := 0, addr := addr, inner := 0,
                            stopped := 0, cid := some o.cid }
  | .matrix n => c.seqFault (.matrix n) o.pos syn.toNat addr.toNat (some o.cid)
  | .copy n => c.seqFault (.copy n) o.pos syn.toNat addr.toNat (some o.cid)

/-- R118, R385: where the marks of an operation's writes come from, by lane; 0 where no line of memory has given them. -/
def Op.mark (o : Op) (lane : Nat) : Nat := ((o.src.find? (fun m => m.1 == lane)).map (fun m => m.2)).getD 0

/-- R118, R385: where the marks come from that an operation leaves in registers and records. -/
def Warp.noteMarks (w : Warp) (o : Op) : Warp :=
  let one := ((o.src.head?).map (fun m => m.2)).getD 0
  let lanes := (o.writes.filter (fun p => p.2.2)).map (fun p => (p.1, o.mark (p.1 % 64)))
  let uni := (o.uwrites.filter (fun p => p.2.2)).map (fun p => (markKey (960 + p.1) 0, one))
  let rec_ := (o.qwrite.toList.filter (fun p => p.2.2)).map (fun p => (2 ^ 20 + p.1, one))
  { w with from_ := (lanes ++ uni ++ rec_).foldl (fun m p => aput 0 m p.1 p.2) w.from_ }

/-- R43, R322: the registers an operation writes; an exited lane's are discarded. Lanes that waited for it go on (R44). -/
def Warp.complete (w : Warp) (o : Op) : Warp :=
  let w1 := o.writes.foldl (fun (x : Warp) p =>
    if (x.lane (p.1 % 64)).exited then x else x.setV (p.1 / 64) (p.1 % 64) p.2.1.toNat p.2.2) w
  let w2 := o.uwrites.foldl (fun (x : Warp) p => x.setU p.1 p.2.1.toNat p.2.2) w1
  match o.qwrite with
  | none => w2
  | some (n, v, m) => { w2 with q := aput 0 w2.q n v, qp := aput false w2.qp n m }

/-- The lanes of a warp that waited for an operation go on. -/
def Warp.unsync (w : Warp) (id : Nat) : Warp :=
  { w with lanes := w.lanes.map (fun (l : Lane) =>
      { l with sync := if l.sync = some id then none else l.sync, held := if l.held = some id then none else l.held }) }

/-- A stream that waited for an operation goes on. -/
def Stream.unsync (s : Stream) (id : Nat) : Stream := if s.sync = some id then { s with sync := none } else s

/-- R42, R44: an operation leaves: its flag drops, and who waited for it goes on. -/
def Chip.leaveOp (c : Chip) (o : Op) : Chip :=
  let c1 := c.dropOp o.id
  match o.eng with
  | .warp n s => (match c1.warp n s with
    | none => c1
    | some w => c1.setWarp n s (some (w.unsync o.id)))
  | .matrix _ => c1.modStream o.eng (fun s => s.unsync o.id)
  | .copy _ => c1.modStream o.eng (fun s => s.unsync o.id)

/-- R42, R43: an operation that is done writes its destinations. -/
def Chip.deliverOp (c1 : Chip) (o : Op) : Chip :=
  match o.eng with
  | .warp n s => (match c1.warp n s with
    | none => c1
    | some w => c1.setWarp n s (some ((w.complete o).noteMarks o)))
  | .matrix n =>
    let c2 := match o.kwrite with
      | none => c1
      | some (r, v, _) => c1.setMat n { (c1.core n).mat with m := aput 0 (c1.core n).mat.m r v }
    c2.matSettle n
  | .copy n =>
    match o.kwrite with
    | none => c1
    | some (r, v, m) =>
      let c2 := c1.setK n (BitVec.ofNat 5 r) v
      let d := (c2.core n).dray
      c2.setDray n { d with kp := aput false d.kp r m, from_ := if m then aput 0 d.from_ r (o.mark 0) else d.from_ }

/-- R42, R43, R302, R309: an operation that is done writes its destinations, acquires where it was performed at a peer, and leaves; an overlap
that its release found follows. -/
def Chip.finishOp (c : Chip) (o : Op) : Chip :=
  (((c.leaveOp o).deliverOp o).acquireBy o.eng o.acq).overlapAt o.eng o.code o.pos o.race

/-- Work that has waited, performed: bank work where R194 lets it be, the lanes of an atomic that follow one performed at a peer (R307), as far as the
next such one. The chip and the operation, with the failure the work met. -/
def Chip.performLate (c : Chip) (o : Op) (l : Late) : Chip × Op :=
  match l.work with
  | .lanes aop accs d nr once acq =>
    match c.bankPerform o aop accs d nr once acq with
    | (c1, o1, none) => (c1, o1)
    | (c1, o1, some lane) => (c1, { o1 with fail := some (BitVec.ofNat 32 (syndrome 0x0C (opReason o.code 1)), 0, lane) })
  | .sweep mask count fs d a b sd sa sb =>
    match c.sweepRun o.eng o.code mask count fs d a b sd sa sb with
    | (c1, none) => (c1, { o with late := none })
    | (c1, some (syn, lane, ad)) => (c1, { o with late := none, fail := some (BitVec.ofNat 32 syn, dw ad, lane) })
  | .matrix t u fs kblk fl operand bank =>
    (c.matPerform o.eng.core o.code t u fs kblk fl operand.toNat bank, { o with late := none })
  | .chunks => (c, o)
  | .atomics a tag lanes =>
    let who : Storer := { who := partyOf o.eng o.mask, op := o.code, tag := tag, pos := o.pos, id := some o.id }
    let (c1, olds, race, rest) := a.run o.eng.core tag o.cid who lanes.length lanes c
    (c1, { olds.foldl (fun (x : Op) v => x.fill v.1 v.2) o with
      race := o.race.or race, hold := c1.opAsks o.id, late := if rest = [] then none else some { touch := [], work := .atomics a tag rest } })

/-- R43, R386: whether an operation may complete: nothing is awaited, and the record of an EVT has been accepted. -/
def Chip.opReady (c : Chip) (o : Op) : Bool :=
  !o.hold && ((c.gang o.gang).map (fun k => decide (k.phase < 2))).getD false
  && (o.code != 0x94 || !(aget TraceBuf.zero c.trace.bufs o.eng.ident).recs.any (fun r => r.cid == o.cid))
  && (match o.late with
    | none => true
    | some l => c.bankReady o.eng.core o.id l.touch)

/-- OP_COMPLETE (R42, R43): its late work is performed, then its failure is delivered or its destinations are written; one that awaits a peer again
stays. -/
def execOpComplete (id : Nat) (s : State) : Host.Outcome State Fault Refusal :=
  runChip s (fun c =>
    match c.ops.find? (fun o => o.id == id) with
    | none => c
    | some o =>
      if !c.opReady o then c
      else
        let c0 : Chip := { c with remotes := c.remotes.filter (fun r => !(r.op == some id && r.dst == 2 ^ 22)) }
        let (c1, o1) := match o.late with
          | none => (c0, o)
          | some l => if o.fail.isSome then (c0, o) else c0.performLate o l
        if o1.hold then c1.modOp id (fun _ => o1)
        else match o1.fail with
        | none => c1.finishOp o1
        | some (syn, addr, lane) => ((c1.leaveOp o1).overlapAt o1.eng o1.code o1.pos o1.race).failOp o1 syn addr lane)

/-- POSTED_TRAP_TAKE (R363, R381): outside handler mode, the oldest posted trap, from the cycle that its record names (log 81). -/
def execPostedTrapTake (core slot : Nat) (s : State) : Host.Outcome State Fault Refusal :=
  runChip s (fun c =>
    match c.warp core slot with
    | none => c
    | some w =>
      if w.handler || w.posted.head?.any (fun p => c.cycle < p.from_) || !((c.gang w.gang).map (fun k => decide (k.phase < 2))).getD false then c else c.takePosted core slot)

/-- R155: whether a request is the read of a line of code in host memory. -/
def Remote.codeRead (r : Remote) : Bool :=
  r.dst == 2 ^ 22 && r.op == none && (match r.who with
    | .lanes _ _ _ => true
    | .matrix _ => true
    | .drayStream _ => true
    | .drayQueue _ _ => false
    | .coachman => false
    | .mail _ => false)

/-- R131, R173: whether a running command stands at its stop: nothing of it is in flight, and at each target it stands at an element boundary, or
within an element of which the barrier grants no more, or of which its translation stalls. -/
def Chip.atStop (c : Chip) (r : Run) : Bool :=
  r.targets.all (fun t => t.flight = [] && (t.sent % r.esize = 0 || (c.bar (.core t.core t.barrier)).room = 0 || r.state = 2))

/-- R289, R373: whether a save waits for work that an operation has still to perform: an array operation's, but for the chunks of an `MMAS`, and
for one that awaits the bytes of a command that neither its barrier nor its translation lets go on. -/
def Chip.mustFinish (c : Chip) (o : Op) : Bool :=
  isArrayOp o.code && (match o.late with
    | none => false
    | some w => w.work != .chunks && (c.core o.eng.core).score.all (fun e =>
        !w.touch.any (fun t => t.slot == e.slot && t.lo ≤ e.hi && e.lo ≤ t.hi) || e.done || e.gang != o.gang
        || (match (c.queue e.core e.queue).run with
          | none => true
          | some r => r.state ≠ 2 && r.targets.any (fun t => t.flight ≠ [] || (c.bar (.core t.core t.barrier)).room ≠ 0))))

/-- R110, R373: whether every engine of a stopping gang has reached its stop. -/
def Chip.saveReady (c : Chip) (g : Nat) (k : Gang) : Bool :=
  k.phase = 1 && (k.whyPage || !c.sectionsOpen g)
  && !c.ops.any (fun o => o.gang == g && !o.hold && (o.late.isNone || c.mustFinish o))
  && !c.remotes.any (fun r => c.remoteGang r == some g && !r.codeRead)
  && k.cores.all (fun n => (c.core n).dray.s.gang != g || (c.core n).dray.queues.all (fun q => (q.2.run.map c.atStop).getD true))

/-- R173: a running command stopped: what was fetched and not sent is fetched again. It stands at an element boundary, or within an element of
which its barrier grants no more (R131). -/
def Queue.stopped (q : Queue) : Queue :=
  { q with run := q.run.map (fun (r : Run) =>
      { r with fetched := [], got := [], targets := r.targets.map (fun (t : Target) => { t with sent := t.landed }) }) }

/-- R302, R317: the overlaps that a save's release of a core finds: the line, and the warp whose store its intent names. -/
def Chip.saveOverlaps (c : Chip) (n : Nat) : List (Nat × Option Nat) :=
  ((c.core n).dirtyLines.filter (fun e => !(c.overlaps (.core n) n e.line e.dirty).isEmpty)).map (fun e =>
    (e.line % 2 ^ 64, (c.intents.find? (fun t => t.owner == .core n && t.tag == e.tag && t.line == e.line)).bind (fun t => t.slot)))

/-- R302, R317: the trap that an overlap found by a save's release brings to the warp whose store it was. -/
def saveRace (line : Nat) : Posted :=
  { syn := BitVec.ofNat 32 (syndrome 8 2), pos := Pos.zero, lane := 0, from_ := 0, kind := 0, queue := 0, addr := dw line, inner := 0, stopped := 0 }

/-- R110, R224, R302, R317: one core of a gang saved: the release at device scope, and warps, sequencers and Dray into the frame, with the overlaps
found; that of a warp which is no more is the lowest live one's. -/
def saveCore (g : Nat) (x : Chip × Frame) (n : Nat) : Chip × Frame :=
  let c0 := (x.1.release n 5 (fun c => c.unitCid 0)).1
  let k := c0.core n
  let ws := (c0.warpsOf g).filter (fun w => w.1 == n)
  let low := (ws.find? (fun w => w.2.2.live != 0)).map (fun w => w.2.1)
  let found := (x.1.saveOverlaps n).filterMap (fun r => (match r.2 with
    | none => low
    | some s => if (x.1.warp n s).isSome then some s else low).map (fun s => (n, s, saveRace r.1)))
  let matMine := k.mat.s.st ≠ 0 ∧ k.mat.s.gang = g
  let drayMine := k.dray.s.st ≠ 0 ∧ k.dray.s.gang = g
  let f1 : Frame := { x.2 with
    warps := x.2.warps ++ ws,
    mats := if matMine then x.2.mats ++ [(n, k.mat)] else x.2.mats,
    drays := if drayMine then x.2.drays ++ [(n, { k.dray with queues := k.dray.queues.map (fun (q : Nat × Queue) => (q.1, q.2.stopped)) })]
      else x.2.drays,
    races := x.2.races ++ found }
  let c1 := if drayMine then (List.range 8).foldl (fun (y : Chip) q =>
    (y.leaveHansoms { core := n, q := q }).leaveWaits { core := n, q := q }) c0 else c0
  (c1.setCore n { k with
    warps := k.warps.filter (fun q => ((q.2).map (fun w => w.gang != g)).getD false),
    mat := if matMine then Mat.zero else k.mat,
    dray := if drayMine then Dray.zero else k.dray }, f1)

/-- R302, R317: whether an overlap that a save has found is that of a warp which the save takes off its core. -/
def Frame.owns (f : Frame) (r : Nat × Nat × Posted) : Bool := f.warps.any (fun w => w.1 == r.1 && w.2.1 == r.2.1)

/-- R348, R349: a grid all of whose gangs are out: it re-enters the front of its queue, or only its retirement is left. -/
def Chip.settleGrid (c : Chip) (grid : Nat) : Chip :=
  match c.grid grid with
  | none => c
  | some gr =>
    let ks := c.gangList.filter (fun x => x.2.grid == grid)
    if gr.phase ≠ 4 || !ks.all (fun x => x.2.phase = 2 || x.2.phase = 4 || x.2.phase = 5) then c
    else if ks.all (fun x => x.2.phase = 5) then c.setGrid grid { gr with phase := 1, room := none }
    else
      let c1 := c.setGrid grid { gr with phase := 2, aged := c.time, front := some c.time, room := none }
      if gr.task.flags.getLsbD 4 then c1.emitUnit 0 0x21 gr.recAddr else c1

/-- GANG_SAVE_COMPLETE (R110, R201, R302, R317, R373): an overlap is its warp's at the restore, at once where that warp is another gang's and
stays. -/
def execGangSaveComplete (gang : Nat) (s : State) : Host.Outcome State Fault Refusal :=
  runChip s (fun c =>
    match c.gang gang with
    | none => c
    | some k =>
      if !c.saveReady gang k then c
      else
        let c0 : Chip := { c with
          remotes := c.remotes.filter (fun r => !(c.remoteGang r == some gang && r.codeRead)), cleared := c.cleared.filter (fun r => r.gang != gang) }
        let (c1, f) := k.cores.foldl (saveCore gang) (c0, { warps := [], mats := [], drays := [], races := [], count := c.framesFor k })
        let c2 := ({ c1 with resvFrames := c1.resvFrames - k.reserved } : Chip).setGang gang { k with
          phase := 2, frame := some { f with races := f.races.filter f.owns }, reserved := 0 }
        ((f.races.filter (fun r => !f.owns r)).foldl (fun (y : Chip) r => y.postTrap r.1 r.2.1 { r.2.2 with from_ := y.cycle + 1 }) c2).settleGrid
          k.grid)

/-- R113, R412: whether the restore of a saved gang brings a group or a child warp onto a core. -/
def Gang.returnsTo (k : Gang) (n : Nat) : Bool :=
  k.groups.any (fun gr => gr.core == n && !gr.retired) || ((k.frame.map (fun f => f.warps.any (fun x => x.1 == n))).getD false)

/-- R113: whether a gang's former cores have room for everything it gave up. -/
def Chip.restoreRoom (c : Chip) (k : Gang) (f : Frame) (kn : Kernel) : Bool :=
  k.cores.all (fun n =>
    let slots := ((f.warps.filter (fun x => x.1 == n && !x.2.2.child)).map (fun x => x.2.1))
      ++ (k.childSlots.filter (fun p => p.1 == n)).map (fun p => p.2)
    !(c.closed n && k.returnsTo n) && !slots.any (fun s => (c.takenSlots n).contains s) && c.takenRegs n + slots.length * kn.regs ≤ 4096
    && ((kn.matrix = 0 && kn.copy = 0) || !k.groups.any (fun gr => gr.core == n && !gr.retired) || !c.claimed n))

/-- A warp back in its slot: in the active set where there is room or it is in its handler (R356, R359). -/
def Chip.rejoin (c : Chip) (x : Nat × Nat × Warp) : Chip :=
  c.setWarp x.1 x.2.1 (some { x.2.2 with active := x.2.2.handler || c.ordinaryCount x.1 < 8, joined := c.cycle })

/-- R113, R224, R291, R328: a gang back on its cores, after the acquire. -/
def Chip.putBack (c : Chip) (g : Nat) (k : Gang) (f : Frame) (kn : Kernel) : Chip :=
  let c1 := k.cores.foldl (fun (x : Chip) n => x.acquire n 5) c
  let own := kn.matrix ≠ 0 ∨ kn.copy ≠ 0
  let c2 := k.groups.foldl (fun (x : Chip) gr => if own ∧ gr.retired = false then (x.setMat gr.core Mat.zero).setDray gr.core Dray.zero else x) c1
  let c3 := f.mats.foldl (fun (x : Chip) m => x.setMat m.1 { m.2 with post := m.2.post.map (fun (p : PairPost) => { p with at_ := c.cycle }) }) c2
  let c4 := f.drays.foldl (fun (x : Chip) d => x.setDray d.1 d.2) c3
  let c5 := f.warps.foldl Chip.rejoin c4
  let cl := c5.cluster k.cluster
  let c6 := c5.setCluster k.cluster { cl with spawnQ := cl.spawnQ.map (fun (ch : Child) => if ch.gang = g then { ch with due := false } else ch) }
  c6.setGang g { k with phase := 0, frame := none, whyPage := false, restored := c.cycle }

/-- R113: a page that system software declared unresolvable: the trap of the party that met it. -/
def Chip.deliverFault (c : Chip) (p : PageFault) : Chip :=
  let syn := syndrome 5 (opReason p.op 2)
  match p.party with
  | .lanes n s mask =>
    match c.warp n s with
    | none => c
    | some w =>
      let pos := (w.lane (lowLane (mask &&& w.live))).pos
      c.trapEnter n s { syn := syn, pos := pos, posted := false, kind := 0, queue := 0, lane := p.lane, addr := p.addr.toNat,
                        mask := mask, inner := 0, stopped := 0, cid := some p.cid }
  | .matrix n => c.seqFault (.matrix n) (c.core n).mat.s.pos syn p.addr.toNat (some p.cid)
  | .drayStream n => c.seqFault (.copy n) (c.core n).dray.s.pos syn p.addr.toNat (some p.cid)
  | .drayQueue _ _ => c
  | .coachman => c
  | .mail _ => c

/-- R113: faults of a gang that are settled end; of the unresolvable ones, one is delivered to a warp or stream, and the other lane sets
fault again. -/
def Chip.deliverFaults (c : Chip) (g : Nat) (sel : PageFault → Bool) : Chip :=
  let keep (p : PageFault) : Bool := match p.party with
    | .drayQueue _ _ => true
    | _ => !sel p
  let mine := c.faults.filter (fun p => p.gang == g && p.failed && !keep p)
  let c1 : Chip := { c with faults := c.faults.filter (fun p => !(p.gang == g && (p.failed || p.resolved) && !keep p)) }
  (mine.foldl (fun (x : Chip × List (Nat × Nat)) p =>
    if x.2.contains p.party.seat then x else (x.1.deliverFault p, p.party.seat :: x.2)) (c1, [])).1

/-- R113: whether a fault that took a gang off its cores, or for which one of its parties waits in place, is neither resolved nor declared
unresolvable. -/
def Chip.unsettled (c : Chip) (g : Nat) : Bool := c.faults.any (fun p => p.gang == g && p.party.saves && !p.failed && !p.resolved)

/-- R111, R113: a gang that stayed on its cores goes on once every fault recorded against it is settled. -/
def Chip.settleFaults (c : Chip) (g : Nat) : Chip :=
  if ((c.gang g).map (fun k => decide (k.phase = 0))).getD false && !c.unsettled g then c.deliverFaults g (fun _ => true) else c

/-- R113, R380: whether nothing but room keeps a saved gang out. -/
def Chip.restorable (c : Chip) (g : Nat) (k : Gang) : Bool :=
  k.phase = 2 && !k.whyPrio && !k.whyIft && !c.unsettled g

/-- The gangs of a grid that hold cores. -/
def Chip.holders (c : Chip) (grid : Nat) : List (Nat × Gang) := c.gangList.filter (fun x => x.2.grid == grid && x.2.resident)

/-- The part as it would stand with a grid's gangs off their cores. -/
def Chip.without (c : Chip) (grid : Nat) : Chip :=
  (c.holders grid).foldl (fun (x : Chip) m =>
    ((x.warpsOf m.1).foldl (fun (y : Chip) w => y.setWarp w.1 w.2.1 none) x).setGang m.1 { m.2 with phase := 2 }) c

/-- R348: whether a grid is pre-empted before another: lowest priority, then most recently admitted. -/
def victimBefore (a b : Nat × Grid) : Bool :=
  a.2.prio < b.2.prio || (a.2.prio == b.2.prio && (b.2.admitted < a.2.admitted || (a.2.admitted == b.2.admitted && b.1 < a.1)))

/-- A grid put in its place among victims. -/
def insertVictim (x : Nat × Grid) : List (Nat × Grid) → List (Nat × Grid)
  | [] => [x]
  | y :: ys => if victimBefore x y then x :: y :: ys else y :: insertVictim x ys

/-- R348: victims added until what is to be placed fits. -/
def victimsFor (fits : Chip → Bool) : List (Nat × Grid) → List (Nat × Grid) → Chip → Option (List (Nat × Grid))
  | [], _, _ => none
  | v :: vs, taken, c =>
    let c1 := c.without v.1
    if fits c1 then some (taken ++ [v]) else victimsFor fits vs (taken ++ [v]) c1

/-- Whether a save of the gang needs frames that it does not yet hold. -/
def Gang.needsFrames (k : Gang) : Bool := (k.phase = 0 || (k.phase = 1 && !k.whyPage)) && k.reserved = 0

/-- R348: a victim leaves, for the grid `room`: frames reserved, its gangs stopped. -/
def Chip.preempt (room : Nat) (c : Chip) (v : Nat × Grid) : Chip :=
  (c.gangList.filter (fun x => x.2.grid == v.1)).foldl (fun (x : Chip) m =>
    let n := if m.2.needsFrames then c.framesFor m.2 else 0
    if m.2.phase = 3 || m.2.phase = 4 || m.2.phase = 5 then x
    else ({ x with resvFrames := x.resvFrames + n } : Chip).stopGang m.1 (fun k => { k with whyPrio := true, reserved := k.reserved + n }))
    (c.setGrid v.1 { v.2 with phase := 4, room := some room })

/-- R348: the victims of an admission, restore or relaunch at a priority that does not fit, where the frame pool holds enough. Victims that are
leaving already count as gone; nothing more is pre-empted where that is enough. -/
def Chip.tryPreempt (c : Chip) (room prio : Nat) (fits : Chip → Bool) : Chip :=
  let leaving := c.gridList.filter (fun x => x.2.phase == 4)
  let c1 := leaving.foldl (fun (x : Chip) v => x.without v.1) c
  if leaving != [] && fits c1 then c
  else
    let cands := (c.gridList.filter (fun x => x.2.phase == 1 && x.2.prio < prio && !x.2.task.flags.getLsbD 6)).foldl
      (fun r x => insertVictim x r) []
    match victimsFor fits cands [] c1 with
    | none => c
    | some vs =>
      let need := sumOf ((c.gangList.filter (fun m => m.2.needsFrames && vs.any (fun v => v.1 == m.2.grid))).map (fun m => c.framesFor m.2))
      if c.framePool < c.framesUsed + c.resvFrames + need then c
      else
        -- victims that hold nothing leave at once
        (vs.map (fun v => v.1)).foldl Chip.settleGrid (vs.foldl (Chip.preempt room) c)

/-- R348: whether a victim that leaves for a grid has not been saved yet. -/
def Chip.roomPending (c : Chip) (grid : Nat) : Bool := c.gridList.any (fun x => x.2.phase == 4 && x.2.room == some grid)

/-- R348: the priority of a gang's grid. -/
def Chip.prioOf (c : Chip) (g : Nat) : Nat := ((c.gridOf g).map (fun gr => gr.prio)).getD 0

/-- GANG_RESTORE (R113, R224, R302, R348). -/
def execGangRestore (gang : Nat) (s : State) : Host.Outcome State Fault Refusal :=
  runChip s (fun c =>
    match c.gang gang, c.kernelOf gang with
    | some k, some kn =>
      match k.frame with
      | none => c
      | some f =>
        if !c.restorable gang k || c.roomPending k.grid then c
        else if !c.restoreRoom k f kn then c.tryPreempt k.grid (c.prioOf gang) (fun x => x.restoreRoom k f kn)
        else
          let c1 := c.putBack gang k f kn
          let c2 := f.races.foldl (fun (x : Chip) r => x.postTrap r.1 r.2.1 r.2.2) c1
          c2.deliverFaults gang (fun _ => true)
    | _, _ => c)

/-- R377: whether a packet of a request has been sent and not been acknowledged. -/
def Chip.requested (c : Chip) (r : Remote) : Bool := c.outFlows.any (fun f => f.2.unacked.any (fun p => match p.msg with
  | .request req _ _ _ => req == r.id
  | _ => false))

/-- R377, step 3: the dirty bytes that a core holds in a context's lines, written back without race checks. -/
def Chip.flushTag (c : Chip) (tag n : Nat) : Chip :=
  let c1 := (((c.core n).l1.filter (fun e => e.tag == tag && e.dirty != 0))).foldl (fun (x : Chip) e => x.writeBack n e) c
  c1.setCore n { c1.core n with l1 := (c1.core n).l1.map (fun (e : L1Line) => if e.tag = tag then { e with dirty := 0 } else e) }

/-- R317, R377, step 4: the intents that cores and their Drays hold in a context are dropped; with the context, those of its writers on other
devices too. -/
def Chip.dropIntents (c : Chip) (tag : Nat) (cores : List Nat) (ctx : Bool) : Chip :=
  { c with intents := c.intents.filter (fun t => !(t.tag == tag && (match t.owner with
      | .core n => cores.contains n
      | .dray n => cores.contains n
      | .remote _ => ctx))) }

/-- R378, R379: a kill is over: of the last one of a context, the count rises. -/
def Chip.endKill (c : Chip) (g : Nat) : Chip :=
  let mine := c.kills.filter (fun k => k.gang == g)
  let rest := c.kills.filter (fun k => k.gang != g)
  let done := mine.any (fun k => k.ctx.isSome && !rest.any (fun x => x.ctx == k.ctx))
  { c with kills := rest, priv := if done then { c.priv with killCount := c.priv.killCount + 1 } else c.priv }

/-- KILL_MARKERS_DONE (R377-R379): every unit has returned its marker. -/
def execKillMarkersDone (gang : Nat) (s : State) : Host.Outcome State Fault Refusal :=
  runChip s (fun c =>
    match c.gang gang with
    | none => c
    | some k =>
      let mine (r : Remote) : Bool := c.remoteGang r == some gang
      if k.phase ≠ 3 || c.remotes.any (fun r => mine r && c.requested r) then c
      else
        let gone := (c.remotes.filter mine).map (fun r => r.id)
        let tag := c.tagOf gang
        let c1 : Chip := { c with remotes := c.remotes.filter (fun r => !mine r), pieces := c.pieces.filter (fun p => !gone.contains p.req),
                                  resvFrames := c.resvFrames - k.reserved }
        let ctx := c.kills.any (fun x => x.gang == gang && x.ctx.isSome)
        let c2 := (k.cores.foldl (fun (x : Chip) n => x.flushTag tag n) c1).dropIntents tag k.cores ctx
        let c3 := (c2.clearFrame k.frame).freeGang gang k true
        let again := ((c3.gridOf gang).map (fun gr => gr.task.flags.getLsbD 0)).getD false && !k.noRelaunch && k.kills ≤ 16 && !ctx
        let c4 := (c3.setGang gang { k with phase := if again then 4 else 5, out := false, frame := none, reserved := 0, childSlots := [] }).endKill gang
        let c5 := if again then c4 else (match c4.grid k.grid with
          | none => c4
          | some gr => c4.setGrid k.grid { gr with fail := some (gr.fail.getD k.cause) })
        c5.settleGrid k.grid)

/-- R378: the banks of a gang zeroed. -/
def Chip.zeroBanks (c : Chip) (g cl : Nat) : Chip :=
  (List.range 64).foldl (fun (x : Chip) b =>
    if (x.bank cl b).gang = some g then x.setBank cl b { x.bank cl b with data := [], pois := [] } else x) c

/-- GANG_RELAUNCH (R346, R378). -/
def execGangRelaunch (gang : Nat) (s : State) : Host.Outcome State Fault Refusal :=
  runChip s (fun c =>
    match c.gang gang with
    | none => c
    | some k =>
      match c.grid k.grid with
      | none => c
      | some gr =>
        if k.phase ≠ 4 || gr.phase ≠ 1 || c.roomPending k.grid then c
        else
          match c.placeIn gang { k with refused := 0 } gr k.cluster with
          | none => c.tryPreempt k.grid gr.prio (fun x => (x.placeIn gang { k with refused := 0 } gr k.cluster).isSome)
          | some c1 => (c1.zeroBanks gang k.cluster).setGrid k.grid { gr with relaunches := gr.relaunches + 1 })

/-- WARP_RETIRE (R215, R313, R322, R335): every lane exited, every flag zero; a posted trap that its lanes have left behind fails the gang. -/
def execWarpRetire (core slot : Nat) (s : State) : Host.Outcome State Fault Refusal :=
  runChip s (fun c =>
    match c.warp core slot with
    | none => c
    | some w =>
      if w.live != 0 || w.cf != [] || c.ops.any (fun o => o.eng == .warp core slot)
          || !((c.gang w.gang).map (fun k => decide (k.phase < 2))).getD false then c
      else match w.posted with
        | [] => c.setWarp core slot none
        | p :: _ => (c.setWarp core slot none).failGang w.gang p.failClass p.cid)

/-- R18, R28, R336: whether a group has nothing left. -/
def Chip.groupDone (c : Chip) (g grp : Nat) (gr : Group) : Bool :=
  let k := c.core gr.core
  !(c.warpsOf g).any (fun x => x.1 == gr.core && !x.2.2.child && x.2.2.grp == grp)
  && (k.mat.s.gang != g || k.mat.s.st = 0 || k.mat.s.st = 3)
  && (k.dray.s.gang != g || k.dray.s.st = 0 || (k.dray.s.st = 3 && k.dray.queues.all (fun q => q.2.cmds = [])))
  && !c.ops.any (fun o => o.gang == g && o.eng.core == gr.core && (match o.eng with
    | .warp n s => !c.isChild (.warp n s)
    | .matrix _ => true
    | .copy _ => true))

/-- GROUP_RETIRE (R18): its sequencers are given up. -/
def execGroupRetire (gang grp : Nat) (s : State) : Host.Outcome State Fault Refusal :=
  runChip s (fun c =>
    match c.gang gang, c.groupOf gang grp with
    | some k, some gr =>
      if 2 ≤ k.phase || gr.retired || !c.groupDone gang grp gr then c
      else
        let co := c.core gr.core
        let c1 := if co.mat.s.st ≠ 0 ∧ co.mat.s.gang = gang then c.setMat gr.core Mat.zero else c
        let c2 := if co.dray.s.st ≠ 0 ∧ co.dray.s.gang = gang then c1.setDray gr.core Dray.zero else c1
        c2.setGang gang { k with groups := k.groups.set grp { gr with retired := true } }
    | _, _ => c)

/-- GANG_RETIRE (R18, R28, R190): its groups and its children have retired. -/
def execGangRetire (gang : Nat) (s : State) : Host.Outcome State Fault Refusal :=
  runChip s (fun c =>
    match c.gang gang with
    | none => c
    | some k =>
      if 2 ≤ k.phase || k.groups.any (fun gr => !gr.retired) || c.hasChildren gang k then c
      else
        let c1 := (c.freeGang gang k false).setGang gang { k with phase := 5, reserved := 0 }
        ({ c1 with resvFrames := c1.resvFrames - k.reserved } : Chip).settleGrid k.grid)

/-- R349: the release at system scope of every core a grid used, under the causal ID of its retirement. -/
def Chip.gridRelease (c : Chip) (cores : List Nat) (id : DWord) : Chip :=
  cores.foldl (fun (x : Chip) n => ((x.release n 6 (fun d => (d, id))).1.releaseDray n 6 [] (fun d => (d, id))).1) c

/-- R302, R349: the peers that a grid's cores have written to, told of its release. -/
def Chip.gridTell (c : Chip) (tag : Nat) (cores : List Nat) (id : DWord) : Chip :=
  cores.foldl (fun (x : Chip) n =>
    (x.tellPeers (.core n) n .coachman 0 tag id Pos.zero).tellPeers (.dray n) n .coachman 0 tag id Pos.zero) c

/-- R18, R349: a grid and its gangs leave the part. -/
def Chip.dropGrid (c : Chip) (grid : Nat) : Chip :=
  { c with grids := aput none c.grids grid none,
           gangs := c.gangs.filter (fun p => ((p.2).map (fun k => k.grid != grid)).getD false) }

/-- R349, steps 3 and 4: the decrements of a grid that has released and written its status word, then its record's release for reuse; a decrement
that must wait keeps what has been done. -/
def Chip.finishRetire (c : Chip) (grid : Nat) (gr : Grid) (id : DWord) : Except Nat Chip :=
  match c.successors grid with
  | (c1, some st) => c1.coachStop st
  | (c1, none) => .ok ((if gr.task.flags.getLsbD 4 then c1.emit 0xC00 0x23 id gr.recAddr 0 else c1).dropGrid grid)

/-- GRID_RETIRE (R341, R343, R349): the release, the status word and the decrements in their order, under one causal ID (R383). A triggered task's
decrements are its trigger's. -/
def execGridRetire (grid : Nat) (s : State) : Host.Outcome State Fault Refusal :=
  runChipE s (fun c =>
    match c.grid grid with
    | none => .ok c
    | some gr =>
      let ks := (c.gangList.filter (fun x => x.2.grid == grid)).map (fun x => x.2)
      let cores := (ks.flatMap Gang.cores).eraseDups
      if gr.phase ≠ 1 || !ks.all (fun k => k.phase = 5) then .ok c
      else
        let (c0, id) := match gr.retire with
          | some x => (c, x)
          | none => c.unitCid 0
        let begin_ (x : Chip) : Chip := x.setGrid grid { gr with retire := some id }
        let ended (x : Chip) (dec : Option (Nat × DWord)) : Except Nat Chip :=
          (x.setGrid grid { gr with retire := some id, ended := true, dec := dec }).finishRetire grid gr id
        if gr.ended then c.finishRetire grid gr id
        else match gr.fail with
        | some cls => ended (c0.statusWrite gr.task gr.recAddr (statusWord 3 cls gr.relaunches) (some id)) gr.dec
        | none =>
          if cores.any (fun n => c.peerBusy n) || c.remotes.any (fun r => r.who == .coachman && isRelease r.kind) then .ok c
          else if cores.any (fun n => c.owedBy (.core n) n != [] || c.owedBy (.dray n) n != []) then .ok ((begin_ c0).gridTell gr.task.tag cores id)
          else ended ((c0.gridRelease cores id).statusWrite gr.task gr.recAddr (statusWord 1 0 gr.relaunches) (some id))
            (if gr.triggered then gr.dec else some (0, id)))

/-- NOPRE_LIMIT (R375): the section closes, and the trap is posted. -/
def execNopreLimit (core slot : Nat) (s : State) : Host.Outcome State Fault Refusal :=
  runChip s (fun c =>
    match c.warp core slot with
    | none => c
    | some w =>
      if !w.sectOpen || w.sectCount < 65536 then c
      else
        let c1 := c.setWarp core slot (some { w with sectOpen := false })
        c1.postTrap core slot { syn := BitVec.ofNat 32 (syndrome 0x0F (opReason 0xBF 1)), pos := (w.lane (lowLane w.live)).pos, lane := 0,
                                from_ := c.cycle + 1, kind := 0, queue := 0, addr := 0, inner := 0, stopped := 0 })

end Sys2Proof.Machine
end

