-- ==== Sys2Proof/Machine/Launch.lean ====
section
/-! DEFINITION. Admission and pre-emption of grids, priority ageing, child warps, the active and pending sets of a core (R24, R325-R328,
R345-R348, R356-R359). -/

namespace Sys2Proof.Machine

open Sys2Proof

/-- R344, R348: whether a grid stands before another in one queue: grids that re-entered at the front first, the latest foremost, then the
order of post. -/
def gridBefore (a b : Nat × Grid) : Bool :=
  match a.2.front, b.2.front with
  | some t, some u => u < t || (t == u && a.1 < b.1)
  | some _, none => true
  | none, some _ => false
  | none, none => a.2.posted < b.2.posted || (a.2.posted == b.2.posted && a.1 < b.1)

/-- The head of a queue. -/
def queueHead (l : List (Nat × Grid)) : Option (Nat × Grid) :=
  l.foldl (fun (r : Option (Nat × Grid)) x => match r with
    | none => some x
    | some y => if gridBefore x y then some x else some y) none

/-- R344: whether a grid stands in a ready queue. -/
def Grid.waits (g : Grid) : Bool := g.phase = 0 || g.phase = 2

/-- R345: the waiting grid the Coachman takes. -/
def Chip.chosenGrid (c : Chip) : Option (Nat × Grid) :=
  let ws := c.gridList.filter (fun x => x.2.waits)
  match (List.range 8).reverse.find? (fun p => ws.any (fun x => x.2.prio == p)) with
  | none => none
  | some p =>
    let q (ring : Bool) := queueHead (ws.filter (fun x => x.2.prio == p && x.2.ring == ring))
    match q false, q true with
    | some a, some b => if b.2.posted < a.2.posted then some b else some a
    | some a, none => some a
    | none, r => r

/-- R113, R378: whether a restore or relaunch ranks ahead of an admission at a priority. -/
def Chip.outranked (c : Chip) (p : Nat) : Bool :=
  c.gangList.any (fun x => match c.grid x.2.grid with
    | none => false
    | some gr => gr.phase == 1 && p ≤ gr.prio && (x.2.phase == 4 || c.restorable x.1 x.2))

/-- R113, R348: the saved gangs of a grid restored one after the other, where their former cores have room for them all. -/
def restoreAll (kn : Kernel) : List (Nat × Gang) → Chip → Option Chip
  | [], c => some c
  | (g, k) :: ks, c =>
    match k.frame with
    | none => restoreAll kn ks c
    | some f => if c.restoreRoom k f kn then restoreAll kn ks (c.putBack g k f kn) else none

/-- R345, R346, R348: a grid admitted, where it fits: placed, or let back onto its former cores. -/
def Chip.admitGrid (c : Chip) (grid : Nat) (gr : Grid) : Option Chip :=
  let trace (x : Chip) (t : Nat) : Chip := if gr.task.flags.getLsbD 4 then x.emitUnit 0 t gr.recAddr else x
  if gr.phase = 0 then
    (c.placeGrid grid gr).map (fun c1 => trace (c1.setGrid grid { gr with phase := 1, admitted := c1.time }) 0x20)
  else
    let mine := c.gangList.filter (fun x => x.2.grid == grid && x.2.phase == 2)
    match restoreAll gr.kernel mine c with
    | none => none
    | some _ =>
      let c1 := mine.foldl (fun (x : Chip) m => x.setGang m.1 { m.2 with whyPrio := false }) c
      some (trace (c1.setGrid grid { gr with phase := 1, front := none, admitted := c1.time }) 0x22)

/-- GRID_ADMIT (R345-R348). -/
def execGridAdmit (s : State) : Host.Outcome State Fault Refusal :=
  runChip s (fun c =>
    match c.chosenGrid with
    | none => c
    | some (grid, gr) =>
      if c.outranked gr.prio || c.roomPending grid then c
      else
        match c.admitGrid grid gr with
        | some c1 => c1
        | none => c.tryPreempt grid gr.prio (fun x => (x.admitGrid grid gr).isSome))

/-- R347: the time a step of priority takes, in ns. -/
def ageStep : Nat := 2000000

/-- PRIORITY_AGE (R347). -/
def execPriorityAge (grid : Nat) (s : State) : Host.Outcome State Fault Refusal :=
  runChip s (fun c =>
    match c.grid grid with
    | none => c
    | some gr =>
      if !gr.waits || 7 ≤ gr.prio || c.time < gr.aged + ageStep then c
      else c.setGrid grid { gr with prio := gr.prio + 1, aged := gr.aged + ageStep, front := none })

/-- R327: the pending children of a gang for an entry, oldest first. -/
def Chip.childList (c : Chip) (cl g entry : Nat) : List Child := (c.cluster cl).spawnQ.filter (fun ch => ch.gang == g && ch.entry == entry)

/-- R327, R328: the cycle from which a child's list counts. -/
def Chip.childFrom (c : Chip) (g : Nat) (ch : Child) : Nat := max ch.cycle (((c.gang g).map (fun k => k.restored)).getD 0)

/-- SPAWN_LIST_TIMEOUT (R327): 256 cycles after the oldest child of a list was enqueued. -/
def execSpawnListTimeout (cluster gang entry : Nat) (s : State) : Host.Outcome State Fault Refusal :=
  runChip s (fun c =>
    match c.childList cluster gang entry with
    | [] => c
    | ch :: _ =>
      if c.cycle < c.childFrom gang ch + 256 || ch.due then c
      else
        let k := c.cluster cluster
        c.setCluster cluster { k with spawnQ := k.spawnQ.map (fun x => if x = ch then { x with due := true } else x) })

/-- R327, R380: the reserved slots of a gang that are free, on cores that are not under test. -/
def Chip.freeChildSlots (c : Chip) (k : Gang) : List (Nat × Nat) := k.childSlots.filter (fun p => (c.warp p.1 p.2).isNone && !c.closed p.1)

/-- R327: the place of a child warp: the core with the fewest resident warps, the lowest among equals. -/
def Chip.childPlace (c : Chip) (k : Gang) : Option (Nat × Nat) :=
  (c.freeChildSlots k).foldl (fun (r : Option (Nat × Nat)) p => match r with
    | none => some p
    | some q =>
      let n (x : Nat × Nat) := (c.core x.1).warps.length
      if n p < n q || (n p == n q && (p.1 < q.1 || (p.1 == q.1 && p.2 < q.2))) then some p else some q) none

/-- R325: a child warp at its start. -/
def childWarp (kn : Kernel) (args g entry cycle : Nat) (chs : List Child) : Warp :=
  let at_ := Pos.at (kn.addr + dw (kn.spawn.getD entry 0))
  let lanes := (List.range warpWidth).map (fun j => match chs[j]? with
    | none => Lane.fresh at_ true none
    | some ch => Lane.fresh at_ false (some ch.join))
  (chs.zipIdx).foldl (fun (w : Warp) x =>
    ((x.1.payload.zipIdx).foldl (fun (y : Warp) p => y.setV p.2 x.2 p.1.toNat false) w).setV 4 x.2 x.1.unit.toNat false)
    (Warp.fresh kn args g 0 0 true lanes cycle)

/-- R327: the children taken leave the queue; a list with more left counts again from its oldest. -/
def takeChildren (g entry : Nat) : Nat → List Child → List Child
  | _, [] => []
  | 0, l => l
  | n + 1, ch :: r => if ch.gang = g ∧ ch.entry = entry then takeChildren g entry n r else ch :: takeChildren g entry (n + 1) r

/-- CHILD_WARP_ISSUE (R325, R327, R328, R330). -/
def execChildWarpIssue (cluster gang entry : Nat) (s : State) : Host.Outcome State Fault Refusal :=
  runChip s (fun c =>
    match c.gang gang, c.gridOf gang with
    | some k, some gr =>
      let l := c.childList cluster gang entry
      let ready := warpWidth ≤ l.length || ((l.head?).map (fun ch => ch.due)).getD false
      if k.phase ≠ 0 || !ready then c
      else
        match c.childPlace k with
        | none => c
        | some (core, slot) =>
          let cl := c.cluster cluster
          let c1 := c.setCluster cluster { cl with spawnQ := takeChildren gang entry warpWidth cl.spawnQ }
          (c1.acquire core 3).startWarp core slot (childWarp gr.kernel gr.task.args.toNat gang entry c.cycle (l.take warpWidth))
    | _, _ => c)

/-- R358: whether a lane can proceed past the wait that demoted its warp. -/
def Lane.canGo (w : Warp) (l : Lane) : Bool :=
  match l.wait with
  | none => true
  | some r => r.met || (r.state = 2 && !flagsHeld w.cf (r.phase.setWidth 12))

/-- R358: whether a pending warp is eligible. -/
def Warp.eligible (w : Warp) : Bool := !w.active && w.lanes.all (fun l => l.exited || l.canGo w)

/-- The warps of a core by slot. -/
def Chip.coreWarps (c : Chip) (core : Nat) : List (Nat × Warp) := (c.core core).warps.filterMap (fun q => q.2.map (fun w => (q.1, w)))

/-- The warp that joined its set first. -/
def firstJoined (l : List (Nat × Warp)) : Option (Nat × Warp) :=
  l.foldl (fun (r : Option (Nat × Warp)) x => match r with
    | none => some x
    | some y => if x.2.joined < y.2.joined then some x else some y) none

/-- A warp enters the active set. -/
def Warp.enter (w : Warp) (cycle : Nat) : Warp := { w with active := true, joined := cycle, unchosen := 0 }

/-- R357: a warp joins the tail of the pending set. -/
def Warp.demote (w : Warp) (cycle : Nat) : Warp := { w with active := false, joined := cycle, unchosen := 0 }

/-- COUNTER_STARVE (R24): a counter unchosen in 64 issue cycles is starved. -/
def execCounterStarve (core slot : Nat) (s : State) : Host.Outcome State Fault Refusal :=
  runChip s (fun c =>
    match c.warp core slot with
    | none => c
    | some w => c.setWarp core slot (some { w with lag := w.lag.map (fun p => if p.2 = 64 then (p.1, 65) else p) }))

/-- WARP_AGE_LIMIT (R356): 256 cycles ready and unchosen. -/
def execWarpAgeLimit (core slot : Nat) (s : State) : Host.Outcome State Fault Refusal :=
  runChip s (fun c =>
    match c.warp core slot with
    | none => c
    | some w => if w.active && w.unchosen = 256 then c.setWarp core slot (some { w with unchosen := 257 }) else c)

/-- R358: the pending warp that has waited 1,024 cycles for a vacancy. -/
def Chip.overdue (c : Chip) (core : Nat) : Option (Nat × Warp) :=
  firstJoined ((c.coreWarps core).filter (fun x => x.2.eligible && 1024 ≤ x.2.unchosen))

/-- R357, R358: whether a lane stands at a clause boundary: at a header, or blocked in a WAITPH that is the last word of its clause. -/
def Lane.atBoundary (l : Lane) : Bool :=
  !l.pos.entered || ((l.wait.map (fun r => r.state == 1)).getD false && (l.hdr.map (fun h => h.count.toNat == l.pos.idx)).getD false)

/-- R358: the ordinary warp longest in the active set, where all its lanes stand at clause boundaries. -/
def Chip.oldestActive (c : Chip) (core : Nat) : Option (Nat × Warp) :=
  match firstJoined ((c.coreWarps core).filter (fun x => x.2.active && !x.2.handler)) with
  | none => none
  | some x => if x.2.lanes.all (fun l => l.exited || l.atBoundary) then some x else none

/-- PENDING_WARP_TIMEOUT (R358). -/
def execPendingWarpTimeout (core : Nat) (s : State) : Host.Outcome State Fault Refusal :=
  runChip s (fun c =>
    match c.overdue core, c.oldestActive core with
    | some p, some a =>
      if 8 < c.activeCount core then c
      else (c.setWarp core a.1 (some (a.2.demote c.cycle))).setWarp core p.1 (some (p.2.enter c.cycle))
    | _, _ => c)

/-- WARP_PROMOTE (R358, R359). -/
def execWarpPromote (core : Nat) (s : State) : Host.Outcome State Fault Refusal :=
  runChip s (fun c =>
    match firstJoined ((c.coreWarps core).filter (fun x => x.2.eligible)) with
    | none => c
    | some p => if 8 ≤ c.activeCount core then c else c.setWarp core p.1 (some (p.2.enter c.cycle)))

end Sys2Proof.Machine
end

