-- ==== Sys2Proof/Machine/Rings.lean ====
section
/-! DEFINITION. Task rings and the Coachman's consumption of them; proxy shadow queues and the Mail coach (R151, R152, R350-R354). -/

namespace Sys2Proof.Machine

open Sys2Proof

/-- A task ring. -/
def Chip.ring (c : Chip) (n : Nat) : Ring := aget Ring.zero c.rings n
/-- The chip with a task ring replaced. -/
def Chip.setRing (c : Chip) (n : Nat) (k : Ring) : Chip := { c with rings := aput Ring.zero c.rings n k }
/-- R350: HEADSH of a ring. -/
def Chip.ringHead (c : Chip) (k : Ring) : Nat := c.rdMem (k.cb + 8) 8
/-- R350: TAIL of a ring. -/
def Chip.ringTail (c : Chip) (k : Ring) : Nat := c.rdMem (k.cb + 16) 8
/-- R350: the offset of slot `n`. -/
def Ring.slotAt (k : Ring) (n : Nat) : Nat := k.cb + 64 + 64 * (n % 2 ^ k.log2)
/-- The payload that names a ring and a number. -/
def ringWord (ring v : Nat) : DWord := dw (ring * 2 ^ 58 + v % 2 ^ 58)

/-- R351: a counted write of TAIL. -/
def Chip.tailWrite (c : Chip) (n v : Nat) : Chip :=
  let k := c.ring n
  if v ≤ c.ringTail k then c.tailStale n
  else ((c.wrMem (k.cb + 16) 8 v).invalidate k.cb (c.filterMask k.cb)).wakeRing n

/-- R352, R353: slot `h` of the control block at `cb` is passed; a ring no longer enabled there is idle. -/
def Chip.passSlot (c : Chip) (n cb h : Nat) : Chip :=
  let c1 := c.unitWrite (cb + 8) 8 (h + 1)
  let k := c1.ring n
  c1.setRing n { k with state := if k.en && k.cb == cb && h + 1 < c1.ringTail k then 1 else 0, awake := k.awake && k.cb != cb, slot := none }

/-- R352: the record of the slot in progress has its counter decremented, and the slot is passed; where the decrement must wait, the ring stays
with it. -/
def Chip.finishSlot (c : Chip) (n : Nat) (sl : RingSlot) : Except Nat Chip :=
  match c.counterDec (2 ^ 32 + n) sl.cid sl.tag ((sl.rec_ + 0x30) % 2 ^ 64) true with
  | .error st => c.coachStop st
  | .ok c1 => .ok (c1.passSlot n sl.cb sl.head)

/-- R352: the head slot of a ring served: waited for, over-written, bad, or its record's counter decremented. -/
def Chip.serveRing (c : Chip) (n : Nat) : Except Nat Chip :=
  let k := c.ring n
  let h := c.ringHead k
  let sl := k.slotAt h
  let stamp := c.rdMem sl 8
  let rec_ := c.rdMem (sl + 8) 8
  if !offsetExists k.cb || !offsetExists (sl + 63) then .error k.cb
  else if c.ringTail k ≤ h then .ok (c.setRing n { k with state := 0, awake := false })
  else if stamp < h + 1 then .ok (c.setRing n { k with state := 2, awake := false, polled := c.time })
  else if h + 1 < stamp then .ok ((c.setRing n { k with state := 3, awake := false }).emitUnit 0 0x29 (ringWord n h))
  else if (agetN 0 c.mem (sl + 16) 48).any (fun b => b != 0) || rec_ % 64 != 0 then .ok ((c.emitUnit 0 0x2A (ringWord n h)).passSlot n k.cb h)
  else
    let (c0, id) := c.unitCid 0
    let sl : RingSlot := { cb := k.cb, head := h, rec_ := rec_, tag := k.tag, cid := id }
    (c0.setRing n { k with state := 1, slot := some sl }).finishSlot n sl

/-- RING_CONSUME (R352, R353): the slot in progress is finished, also once EN is cleared; else the head slot of an enabled ring is served. -/
def execRingConsume (ring : Nat) (s : State) : Host.Outcome State Fault Refusal :=
  runChipE s (fun c =>
    let k := c.ring ring
    match k.slot with
    | some sl => if c.running then c.finishSlot ring sl else .ok c
    | none => if !c.running || !k.en || k.state = 3 || (k.state = 2 && !k.awake) then .ok c else c.serveRing ring)

/-- R352: how often an unpublished stamp is read again, in ns. -/
def stampPeriod : Nat := 1000

/-- STAMP_POLL (R352): the wait for an unpublished stamp is over. -/
def execStampPoll (ring : Nat) (s : State) : Host.Outcome State Fault Refusal :=
  runChip s (fun c =>
    let k := c.ring ring
    if !c.running || !k.en || k.state ≠ 2 || k.awake || c.time < k.polled + stampPeriod then c else c.wakeRing ring)

/-- R353: SKIP written to a ring: its head slot is passed without a decrement, and STATE 3 is cleared. -/
def Chip.skipSlot (c : Chip) (n : Nat) : Chip :=
  let k := c.ring n
  let c1 := (((c.coachDrop (2 ^ 32 + n)).unitWrite (k.cb + 8) 8 (c.ringHead k + 1))).emitUnit 0 0x2B (ringWord n (c.ringHead k))
  c1.setRing n { c1.ring n with state := 0, awake := true, slot := none }

/-- RINGCTL_SKIP (R353). -/
def execRingctlSkip (s : State) : Host.Outcome State Fault Refusal :=
  runChip s (fun c => if c.running then c.skipSlot c.priv.ringsel.toNat else c)

/-- A shadow queue. -/
def Chip.proxy (c : Chip) (n : Nat) : Proxy := aget Proxy.zero c.proxies n
/-- The chip with a shadow queue replaced. -/
def Chip.setProxy (c : Chip) (n : Nat) (p : Proxy) : Chip := { c with proxies := aput Proxy.zero c.proxies n p }

/-- R151: the entries that make a batch due at once. -/
def batchFull : Nat := 64

/-- R151: the time a batch waits for more entries, in ns. -/
def batchWait : Nat := 2000

/-- R151, R354: a request of the Mail coach at the true ring, in class 3. -/
def Chip.mailAsk (c : Chip) (n off : Nat) (kind : ReqKind) (bytes : Nat) (cid : DWord) : Chip :=
  c.ask (3 * 2 ^ 64 + (c.proxy n).tgt.toNat + off) kind (.mail n) none 0 0 0 3 bytes cid

/-- R151, R354: a batch begins: its slots are reserved with one atomic ADD on WRIDX; never more than the true ring has. -/
def Chip.startBatch (c : Chip) (n : Nat) : Chip :=
  let p := c.proxy n
  let count := min (min batchFull (2 ^ p.log2)) p.entries.length
  let (c1, cid) := c.unitCid 2
  (c1.setProxy n { p with batch := some { count := count, stage := 0, ticket := 0, cid := cid } }).mailAsk n 0 (.atomic 0 true (dw count)) 8 cid

/-- Whether a shadow queue may begin a batch. -/
def Proxy.idle (p : Proxy) : Bool := p.en && !p.err && p.batch.isNone && p.entries != []

/-- MAIL_BATCH_SEND (R151). -/
def execMailBatchSend (queue : Nat) (s : State) : Host.Outcome State Fault Refusal :=
  runChip s (fun c => let p := c.proxy queue
                      if c.running && p.idle && batchFull ≤ p.entries.length then c.startBatch queue else c)

/-- MAIL_BATCH_TIMEOUT (R151). -/
def execMailBatchTimeout (queue : Nat) (s : State) : Host.Outcome State Fault Refusal :=
  runChip s (fun c =>
    let p := c.proxy queue
    let first := ((p.entries.head?).map (fun e => e.1)).getD 0
    if c.running && p.idle && first + batchWait ≤ c.time then c.startBatch queue else c)

/-- R352, R354: the slots of a batch written, each with its stamp. -/
def Chip.mailSlots (c : Chip) (n : Nat) (b : Batch) : Chip :=
  let p := c.proxy n
  (((p.entries.take b.count).zipIdx).foldl (fun (x : Chip) e =>
    let t := b.ticket + e.2
    let bytes := bytesOf 8 (t + 1) ++ (bytesOf 64 e.1.2.toNat).drop 8
    x.mailAsk n (64 + 64 * (t % 2 ^ p.log2)) (.write bytes false) 64 b.cid) c).setProxy n { p with batch := some { b with stage := 2 } }

/-- R151, R354: what a reply to the Mail coach lets it do next. -/
def Chip.mailReply (c : Chip) (n : Nat) (bytes : List Byte) : Chip :=
  let p := c.proxy n
  match p.batch with
  | none => c
  | some b =>
    let v := natOfBytes bytes
    match b.stage with
    | 0 => (c.setProxy n { p with batch := some { b with stage := 1, ticket := v } }).mailAsk n 8 (.read 8) 8 b.cid
    | 1 => if b.ticket + b.count ≤ v + 2 ^ p.log2 then c.mailSlots n b else c.mailAsk n 8 (.read 8) 8 b.cid
    | 2 =>
      if c.remotes.any (fun r => r.who == .mail n) then c
      else (c.setProxy n { p with batch := some { b with stage := 3 } }).mailAsk n 16 (.atomic 4 true (dw (b.ticket + b.count))) 8 b.cid
    | _ => c.setProxy n { p with entries := p.entries.drop b.count, batch := none }

/-- R152: a batch that ends with REMOTE. -/
def Chip.mailFail (c : Chip) (n reason : Nat) : Chip :=
  let p := c.proxy n
  let cid := (p.batch.map (fun b => b.cid)).getD 0
  let mine := (c.remotes.filter (fun r => r.who == .mail n)).map (fun r => r.id)
  let c1 : Chip := { c with remotes := c.remotes.filter (fun r => r.who != .mail n),
                            pieces := c.pieces.filter (fun p => !mine.contains p.req) }
  (c1.setProxy n { p with err := true, why := reason, batch := none }).emit (0xC00 + 2) 0x53 cid (dw n) 0

/-- R354: ERR cleared: the entries are discarded. -/
def Chip.clearProxy (c : Chip) (n : Nat) : Chip :=
  let p := c.proxy n
  if p.err then c.setProxy n { p with err := false, why := 0, entries := [] } else c

/-- PQCFG_ERR_CLEAR (R152, R354). -/
def execPqcfgErrClear (s : State) : Host.Outcome State Fault Refusal :=
  runChip s (fun c => if c.running then c.clearProxy c.priv.pqsel.toNat else c)

end Sys2Proof.Machine
end

