-- ==== Sys2Proof/Machine/Fabric.lean ====
section
/-! DEFINITION. The fabric: links and their replay, flows, delivery classes and admission, what becomes of this device's remote requests,
and what this device does for others' (R135-R146, R172, R303, R403). -/

namespace Sys2Proof.Machine

open Sys2Proof

/-- A link. -/
def Chip.link (c : Chip) (n : Nat) : Link := aget Link.zero c.links n
/-- The chip with a link replaced. -/
def Chip.setLink (c : Chip) (n : Nat) (l : Link) : Chip := { c with links := aput Link.zero c.links n l }
/-- R138: the key of a flow: the other device and the class. -/
def flowKey (dev cls : Nat) : Nat := dev * 4 + cls
/-- An outbound flow. -/
def Chip.outFlow (c : Chip) (k : Nat) : OutFlow := aget OutFlow.zero c.outFlows k
/-- The chip with an outbound flow replaced. -/
def Chip.setOut (c : Chip) (k : Nat) (f : OutFlow) : Chip := { c with outFlows := aput OutFlow.zero c.outFlows k f }
/-- An inbound flow. -/
def Chip.inFlow (c : Chip) (k : Nat) : InFlow := aget InFlow.zero c.inFlows k
/-- The chip with an inbound flow replaced. -/
def Chip.setIn (c : Chip) (k : Nat) (f : InFlow) : Chip := { c with inFlows := aput InFlow.zero c.inFlows k f }

/-- R137, R147: the first port listed for a destination whose link is up; none while the device has no identifier. -/
def Chip.flowPort (c : Chip) (dst : Nat) : Option Nat :=
  if c.priv.gwdev = 0x3FFFFF#22 then none else ((aget [] c.routes dst).take 4).find? (fun n => n < 32 && (c.link n).up)

/-- R382: the engine identifier of the port that leads to a device. -/
def Chip.portSource (c : Chip) (dst : Nat) : Nat := 0xC00 + 16 + (c.flowPort dst).getD 0

/-- R138, R139: the payload bytes that a request carries. -/
def payloadOf : ReqKind → Nat
  | .read _ => 0
  | .write bs _ => bs.length
  | .atomic _ w8 _ => if w8 then 8 else 4
  | .cas w8 _ _ => if w8 then 16 else 8
  | .combine _ _ bs => bs.length
  | .contribute _ _ _ _ bs => bs.length
  | .arrive _ _ _ => 0
  | .binit _ _ => 0
  | .waitph _ => 0
  | .release _ => 0
  | .check _ => 0
  | .prefetch => 0
  | .reduced _ _ bs => bs.length

/-- R139: whether a request is a release flag. -/
def isFlag : ReqKind → Bool
  | .arrive _ _ _ => true
  | _ => false

/-- The payload bytes of a message. -/
def FabricMsg.payload : FabricMsg → Nat
  | .request _ _ k _ => payloadOf k
  | .reply _ bs _ => bs.length
  | _ => 0

/-- R135: the flits of a packet: a header and its payload. -/
def flitsOf (bytes : Nat) : Nat := 1 + (bytes + 63) / 64

/-- R136: a packet given to the port of its flow: its flits join the replay buffer, where they find room. -/
def Chip.onLink (c : Chip) (p : OutPacket) : Chip :=
  match c.flowPort p.dst with
  | none => c
  | some n =>
    let l := c.link n
    let k := flitsOf p.bytes
    if 512 < l.buffer.length + k then c
    else { c.setLink n { l with sendSeq := l.sendSeq + k, buffer := l.buffer ++ (List.range k).map (fun j => (l.sendSeq + j, c.time, 0)) } with
           fabricOut := c.fabricOut ++ [{ p with port := n, sentAt := c.time, waited := c.time - p.given }] }

/-- R138, R139, R143: a packet sent in a flow under its next number; a release flag takes the bytes sent since the last one. -/
def Chip.send (c : Chip) (dst cls tag byNs : Nat) (cid : DWord) (m : FabricMsg) : Chip :=
  let k := flowKey dst cls
  let f := c.outFlow k
  let (m1, flag) := match m with
    | .request r o q (some _) => (FabricMsg.request r o q (some f.flagBytes), true)
    | _ => (m, false)
  let p : OutPacket := { dst := dst, cls := cls, seq := some f.next, ack := (c.inFlow k).next - 1, tag := tag, gen := aget 0 c.gens tag,
                         byNs := byNs, cid := cid, msg := m1, bytes := m1.payload, given := c.time, waited := 0, sentAt := c.time,
                         port := (c.flowPort dst).getD f.port }
  (c.setOut k { next := f.next + 1, port := p.port, unacked := f.unacked ++ [p],
                flagBytes := if flag then 0 else f.flagBytes + m1.payload }).onLink p

/-- R138, R140: a bare acknowledgement of what a flow has delivered, in class 0. -/
def Chip.sendAck (c : Chip) (dst cls tag : Nat) (cid : DWord) : Chip :=
  c.onLink { dst := dst, cls := 0, seq := none, ack := (c.inFlow (flowKey dst cls)).next - 1, tag := tag, gen := aget 0 c.gens tag,
             byNs := 0, cid := cid, msg := .ack cls, bytes := 0, given := c.time, waited := 0, sentAt := c.time, port := 0 }

/-- R137, R138: packets of a flow that a test picks leave again, through the flow's port of now. -/
def Chip.resend (c : Chip) (k : Nat) (f : OutFlow) (pick : OutPacket → Bool) : Chip :=
  let again (p : OutPacket) : OutPacket := if pick p then { p with sentAt := c.time } else p
  (f.unacked.filter pick).foldl (fun (x : Chip) p => x.onLink p)
    (c.setOut k { f with port := (c.flowPort (k / 4)).getD f.port, unacked := f.unacked.map again })

/-- R137: every flow whose port has changed moves, and resends what is unacknowledged. -/
def Chip.reroute (c : Chip) : Chip :=
  c.outFlows.foldl (fun (x : Chip) p =>
    match x.flowPort (p.1 / 4) with
    | none => x
    | some n => if n = p.2.port || p.2.unacked = [] then x else x.resend p.1 p.2 (fun _ => true)) c

/-- FLIT_RECEIVE (R136): a flit that fails its CRC is discarded; a good one acknowledges this port's flits before `ack`. -/
def execFlitReceive (port : Nat) (f : Flit) (s : State) : Host.Outcome State Fault Refusal :=
  runChip s (fun c =>
    let l := c.link port
    if !c.running || !l.up || !f.good then c
    else
      c.setLink port { l with buffer := l.buffer.filter (fun x => f.ack ≤ x.1),
                              recvSeq := if f.seq = l.recvSeq then l.recvSeq + 1 else l.recvSeq })

/-- R136, R137, R147: a link goes down and retrains; its flows move. -/
def Chip.linkDown (c : Chip) (port : Nat) : Chip :=
  let l := c.link port
  (c.setLink port { l with up := false, width := 0, canonical := false, downs := l.downs + 1, buffer := [], training := true }).reroute

/-- FLIT_REPLAY_TIMEOUT (R136): the oldest flit, unacknowledged for 2 us, is replayed with every later one; a flit's sixteenth replay takes the
link down. -/
def execFlitReplayTimeout (port : Nat) (s : State) : Host.Outcome State Fault Refusal :=
  runChip s (fun c =>
    let l := c.link port
    match l.buffer with
    | [] => c
    | x :: _ =>
      if !c.running || !l.up || c.time < x.2.1 + 2000 then c
      else
        let again := l.buffer.map (fun (y : Nat × Nat × Nat) => (y.1, c.time, y.2.2 + 1))
        let c1 := c.setLink port { l with replays := l.replays + l.buffer.length, buffer := again }
        if again.any (fun y => 16 ≤ y.2.2) then c1.linkDown port else c1)

/-- LINK_RETRAIN (R136, R137): a link that is down comes up with four lanes (2) or two (1), or stays down. -/
def execLinkRetrain (port : Nat) (width : BitVec 2) (s : State) : Host.Outcome State Fault Refusal :=
  runChip s (fun c =>
    let l := c.link port
    if !c.running || 32 ≤ port || l.up then c
    else if width = 1#2 || width = 2#2 then
      (c.setLink port { l with up := true, width := width.toNat, sendSeq := 0, recvSeq := 0, buffer := [],
                               training := false }).reroute
    else c.setLink port { l with training := false })

/-- PACKET_RESEND_TIMEOUT (R138). -/
def execPacketResendTimeout (dst cls : Nat) (s : State) : Host.Outcome State Fault Refusal :=
  runChip s (fun c =>
    let f := c.outFlow (flowKey dst cls)
    let overdue (p : OutPacket) : Bool := p.sentAt + 50000 ≤ c.time
    if c.running && f.unacked.any overdue then c.resend (flowKey dst cls) f overdue else c)

/-- What a reply gives an operation: a barrier's result to every lane, an atomic's old value to its lane, eight bytes to a key register. -/
def Op.answered (o : Op) (r : Remote) (v : Nat) (marked : Bool) : Op :=
  if r.opcode = 0xB7 ∨ r.opcode = 0xB8 then
    { o with writes := o.writes.map (fun (w : Nat × Word × Bool) => (w.1, BitVec.ofNat 32 v, w.2.2)),
             uwrites := o.uwrites.map (fun (w : Nat × Word × Bool) => (w.1, BitVec.ofNat 32 v, w.2.2)),
             kwrite := o.kwrite.map (fun (w : Nat × DWord × Bool) => (w.1, dw v, w.2.2)) }
  else
    { o.fill r.lane v with kwrite := o.kwrite.map (fun (w : Nat × DWord × Bool) => (w.1, dw v, marked)),
                           src := if marked then [(r.lane, markAt r.va false)] else o.src }

/-- R43: an operation none of whose requests is outstanding waits no longer. -/
def Chip.unhold (c : Chip) (id : Nat) : Chip :=
  if c.remotes.any (fun r => r.op == some id && r.dst != 2 ^ 22) then c else c.modOp id (fun o => { o with hold := false })

/-- The line of a request to a peer in that device's window. -/
def Remote.line (r : Remote) : Nat := 3 * 2 ^ 64 + r.dst * 2 ^ 42 + r.off / 64 * 64

/-- R222, R232: the line that a lane set's, a stream's or a prefetch's request brings from a peer fills the L1, unless an acquire has made it stale; a
prefetch that the peer has dropped brings none. -/
def Chip.fillPeer (c : Chip) (r : Remote) (bs : List Byte) (marked : Bool) : Chip :=
  let fill (core : Nat) : Chip :=
    if (r.kind == .read 64 || (r.kind == .prefetch && bs != [])) && !r.stale then c.fillLine core r.tag r.line (lineBits bs) marked r.priv 0 else c
  match r.who with
  | .lanes core _ _ => fill core
  | .matrix core => fill core
  | .drayStream core => fill core
  | .drayQueue _ _ => c
  | .coachman => c
  | .mail _ => c

/-- R100, R222: what an atomic of a lane set has left at a peer stays in the L1; a comparison that held has written its page, and a BINIT that has set
up its barrier. -/
def Chip.peerAtomic (c : Chip) (r : Remote) (old : Nat) : Chip :=
  let keep (core w new : Nat) : Chip :=
    c.l1Late core r.tag r.line (BitVec.ofNat 64 ((2 ^ w - 1) * 2 ^ (r.off % 64))) (BitVec.ofNat 512 (new * 2 ^ (8 * (r.off % 64))))
  match r.who, r.kind with
  | .lanes core _ _, .atomic aop w8 v =>
    let w := if w8 then 8 else 4
    keep core w (applyAop aop.toNat w old (v.toNat % 2 ^ (8 * w)))
  | .lanes core _ _, .cas w8 cmp new =>
    let w := if w8 then 8 else 4
    if old = cmp.toNat % 2 ^ (8 * w) then (keep core w (new.toNat % 2 ^ (8 * w))).dirtied core r.tag r.va 1 else keep core w old
  | .lanes core _ _, .binit _ _ => if old = 0 then c.dirtied core r.tag r.va 1 else c
  | .matrix core, .binit _ _ => if old = 0 then c.dirtied core r.tag r.va 1 else c
  | .drayStream core, .binit _ _ => if old = 0 then c.dirtied core r.tag r.va 1 else c
  | _, _ => c

/-- R172: a queue goes on once none of its refused requests waits for its hint. -/
def Chip.queueOn (c : Chip) (l : Lane8) : Chip :=
  if c.remotes.any (fun r => r.who == .drayQueue l.core l.q && r.retryAt.isSome) then c
  else c.modRun l (fun x => if x.state = 3 then { x with state := if x.begun && x.coll.isSome then 6 else 1 } else x)

/-- R144, R145: what a request of a step of the Coachman has brought, or that it has failed. -/
def Chip.coachPut (c : Chip) (r : Remote) (bytes : Option (List Byte)) : Chip :=
  if isRelease r.kind then c
  else { c with coachGot := c.coachGot ++ [{ step := r.va, pa := if r.dst = 2 ^ 22 then 2 * 2 ^ 64 + r.off else r.line + r.off % 64, bytes := bytes }] }

/-- R213: a peer's barrier has left the phase that a lane set or stream awaits. -/
def WaitRec.poll (phase : Nat) (w : WaitRec) : WaitRec := if w.state = 1 ∧ w.phase.toNat ≠ phase then { w with met := true } else w

/-- R302: an overlap that a peer has found for a party's release, named by its line there. -/
def Chip.peerRace (c : Chip) (r : Remote) (bs : List Byte) : Chip :=
  if isRelease r.kind && bs != [] then
    { c with peerRaces := c.peerRaces ++ [{ who := r.who, gang := (c.remoteGang r).getD noGang, pos := r.pos, line := r.dst * 2 ^ 42 + natOfBytes bs }] }
  else c

/-- R303, R309: what a peer has found of the bytes of an atomic that is to be performed there. -/
def Chip.peerChecked (c : Chip) (r : Remote) (fail : Option Nat) : Chip :=
  match r.kind with
  | .check _ => { c with cleared := c.cleared ++ [{ who := r.who, gang := (c.remoteGang r).getD noGang, pos := r.pos, line := r.line + r.off % 64, fail := fail }] }
  | _ => c

/-- What a reply gives a lane set, stream or command that waits without an operation: a barrier's phase, bytes, its progress, an overlap. -/
def Chip.answerParty (c0 : Chip) (r : Remote) (bs : List Byte) (marked : Bool) : Chip :=
  let c := (c0.peerRace r bs).peerChecked r none
  let poll (s : Stream) : Stream := if r.isPoll then { s with wait := s.wait.map (WaitRec.poll (natOfBytes bs)) } else s
  match r.who with
  | .lanes core slot mask =>
    if !r.isPoll then c
    else (match c.warp core slot with
      | none => c
      | some w => c.setWarp core slot (some (w.onLanes mask (fun _ l =>
          if l.pos = r.pos then { l with wait := l.wait.map (WaitRec.poll (natOfBytes bs)) } else l))))
  | .matrix core => c.modStream (.matrix core) poll
  | .drayStream core => c.modStream (.copy core) poll
  | .drayQueue core q =>
    let l : Lane8 := { core := core, q := q }
    (match r.kind with
    | .read _ => if r.stale then c else c.modRun l (fun x => { x with got := x.got ++ [(r.line + r.off % 64, bs.map (fun b => (b, marked)))] })
    | _ => c.settleProgress l).queueOn l
  | .coachman => c.coachPut r (some bs)
  | .mail n => c.mailReply n bs

/-- A remote request and its piece leave. -/
def Chip.dropRemote (c : Chip) (id : Nat) : Chip :=
  { c with remotes := c.remotes.filter (fun r => r.id != id), pieces := c.pieces.filter (fun p => p.req != id) }

/-- R143: a remote request has been performed; the overlap that a peer has found for an operation's implicit release is the operation's (R302). -/
def Chip.completeRemote (c : Chip) (r : Remote) (bs : List Byte) (marked : Bool) : Chip :=
  let c1 := ((c.dropRemote r.id).fillPeer r bs marked).peerAtomic r (natOfBytes bs)
  match r.op with
  | some id => (c1.modOp id (fun o => if isRelease r.kind then { o with race := o.race.or (if bs = [] then none else some (r.dst * 2 ^ 42 + natOfBytes bs)) }
      else o.answered r (natOfBytes bs) marked)).unhold id
  | none => c1.answerParty r bs marked

/-- R145, R303, R309: the syndrome that a failed request ends with; codes from 0x8000 on name a race at the target, 0x800C poison that an atomic
or a combination there has met. -/
def failSyndrome (r : Remote) (reason : Nat) : Nat :=
  if reason = 0x800C then syndrome 0x0C (opReason r.opcode 1)
  else if 0x8000 ≤ reason then syndrome 8 (opReason r.opcode (reason - 0x8000)) else syndrome 0x0D (opReason r.opcode reason)

/-- R365, R385: what TR.ADDR holds of a failed request: the line it raced at, or, for poison, where the mark comes from. -/
def failAddr (r : Remote) (reason : Nat) : Nat := if reason = 0x800C then markAt r.va false else if 0x8000 ≤ reason then r.va else 0

/-- Whether a request asks whether an atomic may be performed. -/
def Remote.isCheck (r : Remote) : Bool := match r.kind with
  | .check _ => true
  | _ => false

/-- R8, R144, R172: the fate of a lane set, stream or command whose request has failed and that has no operation in flight for it; what the check of
an atomic's bytes has found is kept until all of them have been answered. -/
def Chip.failParty (c0 : Chip) (r : Remote) (reason : Nat) : Chip :=
  let c := c0.peerChecked r (some reason)
  let syn := failSyndrome r reason
  let addr := failAddr r reason
  match r.who with
  | .lanes core slot mask =>
    (match c.warp core slot with
      | none => c
      | some w =>
        let m := maskOf ((lanesOf (mask &&& w.live)).filter (fun k => (w.lane k).pos = r.pos))
        if m = 0 || r.isCheck then c
        else c.trapEnter core slot { syn := syn, pos := r.pos, posted := false, kind := 0, queue := 0,
                                     lane := if m.getLsbD r.lane then r.lane else lowLane m, addr := addr, mask := m, inner := 0, stopped := 0,
                                     cid := some r.cid })
  | .matrix core => c.seqFault (.matrix core) r.pos syn addr (some r.cid)
  | .drayStream core => c.seqFault (.copy core) r.pos syn addr (some r.cid)
  | .drayQueue core q =>
    let l : Lane8 := { core := core, q := q }
    (match c.runOf l with
      | none => c
      | some (k, _) =>
        if reason = 0x800C then (match c.runStop l k (.poison r.va) with
          | .ok c1 => c1
          | .error _ => c)
        else (c.staleReads l).stopAtElem l r.lane (if 0x8000 ≤ reason then (3, 0, 0) else (2, reason, 0)))
  | .coachman => c.coachPut r none
  | .mail n => c.mailFail n reason

/-- R8: the failure of an operation with that of one of its requests; the lowest lane's stands. -/
def Op.failed (o : Op) (r : Remote) (reason : Nat) : Op :=
  if (o.fail.map (fun f => decide (f.2.2 ≤ r.lane))).getD false then o
  else { o with fail := some (BitVec.ofNat 32 (failSyndrome r reason), dw (failAddr r reason), r.lane) }

/-- R144, R159: what the failure of a request that has left brings its initiator. -/
def Chip.failFate (c : Chip) (r : Remote) (reason : Nat) : Chip :=
  match r.op with
  | none => c.failParty r reason
  | some id => (c.modOp id (fun o => o.failed r reason)).unhold id

/-- R144, R403: a remote request ends with a failure: the event at this end, with its causal ID, and its initiator's fate. The target of a
request that it has not answered to its end is told, and records its own. -/
def Chip.failRemote (c : Chip) (r : Remote) (reason : Nat) : Chip :=
  let c0 := c.dropRemote r.id
  let c1 := if 0x8000 ≤ reason then c0 else c0.emit (c.portSource r.dst) 0x50 r.cid (dw (r.dst * 2 ^ 42 + reason)) 0
  let c2 := if reason = 1 ∨ reason = 3 then c1.send r.dst 0 r.tag 0 r.cid (.ended reason) else c1
  c2.failFate r reason

/-- HOST_COMPLETION_ERROR (R144, R159): an outstanding host read ends with REMOTE, reason 0x0005. -/
def execHostCompletionError (req : Nat) (s : State) : Host.Outcome State Fault Refusal :=
  runChip s (fun c =>
    match c.remotes.find? (fun r => r.id == req && r.dst == 2 ^ 22) with
    | none => c
    | some r =>
      -- R385: the host is no device; the payload's device field is a free value
      let (c1, v) := (c.dropRemote req).draw
      (c1.emit (0xC00 + 48) 0x50 r.cid (dw (v.toNat / 2 ^ 42 * 2 ^ 42 + 5)) 0).failFate r 5)

/-- R140: the base allowance of a class, in ns. -/
def allowance (cls : Nat) : Nat := [20000, 200000, 2000000, 1000000].getD cls 0

/-- R140, R147: the share of a class, in 1/256 of the port rate. -/
def Chip.share (c : Chip) (cls : Nat) : Nat := bitsAt c.priv.gwcls.toNat (8 * cls) 8

/-- R135, R136: the rate of a port in bytes per ns: 112, or half of that over two lanes. -/
def Chip.portRate (c : Chip) (n : Nat) : Nat := if (c.link n).width = 1 then 56 else 112

/-- R141: the bytes of a class that a port has admitted and that are not yet acknowledged. -/
def Chip.backlog (c : Chip) (n cls : Nat) : Nat :=
  sumOf ((c.pieces.filter (fun p => p.admitted.isSome && p.port == n && p.cls == cls)).map (fun p => p.bytes))

/-- R135, R139: a request cut into packets of at most 256 payload bytes; only the last one's end is told to the initiator (`req` 0: none). Its N is
filled in as it is sent. -/
def packetsOf (req off : Nat) (k : ReqKind) (flag : Bool) : List FabricMsg :=
  match k with
  | .contribute id rank desc start bs =>
    let n := max 1 ((bs.length + 255) / 256)
    (List.range n).map (fun j => FabricMsg.request (if j + 1 = n then req else 0) off
      (.contribute id rank desc (start + 256 * j) ((bs.drop (256 * j)).take 256)) none)
  | _ => [.request req off k (if flag || isFlag k then some 0 else none)]

/-- PIECE_OFFER (R137, R141, R142): a piece is admitted with its delivered-by time and leaves, or is refused with a hint; to an unreachable
destination its request ends. -/
def execPieceOffer (piece : Nat) (s : State) : Host.Outcome State Fault Refusal :=
  runChip s (fun c =>
    match c.pieces.find? (fun p => p.id == piece) with
    | none => c
    | some p =>
      match c.remotes.find? (fun r => r.id == p.req) with
      | none => c
      | some r =>
        if !c.running || p.admitted.isSome || p.hintAt.isSome then c
        else match c.flowPort p.dst with
          | none => c.failRemote r 4
          | some n =>
            let set (f : Piece → Piece) : Chip := { c with pieces := c.pieces.map (fun (x : Piece) => if x.id = piece then f x else x) }
            let sr := c.share p.cls * c.portRate n
            let cap := sr * allowance p.cls / 256
            let need := c.backlog n p.cls + p.bytes
            if sr = 0 then set (fun x => { x with hintAt := some (c.time + 4095000) })
            else if need ≤ cap then
              let due := c.time + allowance p.cls + (p.bytes * 256 + sr - 1) / sr
              let c1 : Chip := { set (fun x => { x with port := n, admitted := some due }) with
                                 remotes := c.remotes.map (fun (x : Remote) => if x.id = r.id then { x with byNs := due } else x) }
              (packetsOf (r.id + 1) r.off r.kind r.flag).foldl (fun (x : Chip) m => x.send p.dst p.cls r.tag due r.cid m) c1
            else
              let us := ((need * 256 - sr * allowance p.cls) + sr * 1000 - 1) / (sr * 1000)
              set (fun x => { x with hintAt := some (c.time + 1000 * min 4095 (max 1 us)) }))

/-- ADMISSION_HINT_EXPIRY (R141): the piece may be offered again. -/
def execAdmissionHintExpiry (piece : Nat) (s : State) : Host.Outcome State Fault Refusal :=
  runChip s (fun c => if !c.running then c else
    { c with pieces := c.pieces.map (fun (x : Piece) => if x.id = piece then (match x.hintAt with
        | some t => if t ≤ c.time then { x with hintAt := none } else x
        | none => x) else x) })

/-- R144, R172: a target's refusal: the retry after its hint, or the end at the refusal limit. -/
def Chip.refused (c : Chip) (r : Remote) (hint : Nat) : Chip :=
  if c.priv.gwlim.toNat ≤ r.refusals + 1 then c.failRemote { r with refusals := r.refusals + 1 } 1
  else
    let c1 : Chip := { c with
      pieces := c.pieces.filter (fun p => p.req != r.id),
      remotes := c.remotes.map (fun (x : Remote) => if x.id = r.id then
        { x with refusals := x.refusals + 1, retryAt := some (c.time + 1000 * min 4095 (max 1 hint)) } else x) }
    match r.who with
    | .drayQueue core q => c1.modRun { core := core, q := q } (fun x => { x with state := 3 })
    | _ => c1

/-- REMOTE_RETRY (R144, R172): the request is offered again once its hint has elapsed. -/
def execRemoteRetry (req : Nat) (s : State) : Host.Outcome State Fault Refusal :=
  runChip s (fun c =>
    match c.remotes.find? (fun r => r.id == req) with
    | none => c
    | some r =>
      match r.retryAt with
      | none => c
      | some t =>
        if !c.running || c.time < t then c
        else
          let c1 : Chip := { c with
            remotes := c.remotes.map (fun (x : Remote) => if x.id = req then { x with retryAt := none, byNs := 0 } else x),
            pieces := c.pieces ++ [{ id := c.nextReq, dst := r.dst, cls := r.cls, bytes := r.bytes, port := 0, req := req,
                                     hintAt := none, admitted := none }],
            nextReq := c.nextReq + 1 }
          match r.who with
          | .drayQueue core q => c1.queueOn { core := core, q := q }
          | .lanes _ _ _ => c1
          | .matrix _ => c1
          | .drayStream _ => c1
          | .coachman => c1
          | .mail _ => c1)

/-- REMOTE_TIMEOUT (R144): a request unacknowledged 1 ms past its delivered-by time. -/
def execRemoteTimeout (req : Nat) (s : State) : Host.Outcome State Fault Refusal :=
  runChip s (fun c =>
    match c.remotes.find? (fun r => r.id == req) with
    | none => c
    | some r => if c.running && r.dst != 2 ^ 22 && r.byNs != 0 && r.retryAt.isNone && r.byNs + 1000000 < c.time then c.failRemote r 3 else c)

/-- The physical address of an offset of this device (R96, R98). -/
def localPa (off : Nat) : Nat := if off < 0xC000000000 then off else 2 ^ 64 + off

/-- R382: the owner of the intents of another device's engine. -/
def remoteOwner (src : BitVec 22) (cid : DWord) : Owner := .remote (src.toNat * 4096 + bitsAt cid.toNat 30 12)

/-- R303: an intent that a remote access to bytes of a line meets: any but its own engine's. -/
def Chip.meetsRemote (c : Chip) (own : Owner) (parts : List (Nat × Nat)) : Option Intent :=
  c.intents.find? (fun t => t.owner != own && parts.any (fun p =>
    t.line == lineOf (localPa p.1) && (t.mask &&& BitVec.ofNat 64 ((2 ^ p.2 - 1) * 2 ^ (p.1 % 64))) != 0))

/-- R144: what a request touches: its offset and length; an atomic's width, a barrier object. -/
def reqBytes : ReqKind → Nat
  | .read n => n
  | .write bs _ => bs.length
  | .atomic _ w8 _ => if w8 then 8 else 4
  | .cas w8 _ _ => if w8 then 8 else 4
  | .combine _ _ bs => bs.length
  | .contribute _ _ _ _ _ => 0
  | .arrive _ _ _ => 64
  | .binit _ _ => 64
  | .waitph _ => 64
  | .release _ => 0
  | .check n => n
  | .prefetch => 64
  | .reduced _ _ _ => 0

/-- R143, R305: bytes written at the home for a remote writer, under its intent. -/
def Chip.remoteWrite (c : Chip) (r : Inbound) (bs : List Byte) (marked : Bool) : Chip :=
  (lineParts r.off bs.length).foldl (fun (x : Chip) p =>
    let o := p.1 % 64
    let mask : BitVec 64 := BitVec.ofNat 64 ((2 ^ p.2 - 1) * 2 ^ o)
    let line := lineOf (localPa p.1)
    let d := natOfBytes ((bs.drop (p.1 - r.off)).take p.2) * 2 ^ (8 * o)
    (x.homeWrite line mask (BitVec.ofNat 512 d) marked (some r.cid)).intend (remoteOwner r.src r.cid) r.tag.toNat line mask mask r.cid) c

/-- R302, R303: an access that raced: the event of the home slice, and what its initiator is told. -/
def Chip.remoteRace (c : Chip) (r : Inbound) (t : Intent) (reason : Nat) : Chip × Option FabricMsg :=
  (c.raceEvent t.line r.cid t, some (.failure r.req (0x8000 + reason)))

/-- R143, R306, R309, R351: an atomic of a peer performed at its target, its intents checked before: `f` gives the new value, none for none. Of a
poisoned line it performs nothing. -/
def Chip.remoteRmw (c : Chip) (r : Inbound) (w aop v : Nat) (f : Nat → Option Nat) : Chip × Option FabricMsg :=
  let line := lineOf (localPa r.off)
  let old := c.rdMem r.off w
  if c.linePois line then (c, some (.failure r.req 0x800C)) else
  let answer : Option FabricMsg := some (.reply r.req (bytesOf w old) false)
  match c.ringAt line with
  | some n =>
    if r.off % 64 = 16 && w = 8 && (aop = 4 || aop = 8) then (c.tailWrite n v, answer)
    else if 16 ≤ r.off % 64 && r.off % 64 < 24 then (c.homeWrite line (BitVec.ofNat 64 ((2 ^ w - 1) * 2 ^ (r.off % 64)))
      (BitVec.ofNat 512 (v * 2 ^ (8 * (r.off % 64)))) false (some r.cid), answer)
    else ((match f old with
      | none => c
      | some u => c.wrMem r.off w u).invalidate line (c.filterMask line), answer)
  | none =>
    let mask : BitVec 64 := BitVec.ofNat 64 ((2 ^ w - 1) * 2 ^ (r.off % 64))
    ((match f old with
      | none => c
      | some u => c.homeWrite line mask (BitVec.ofNat 512 (u * 2 ^ (8 * (r.off % 64)))) false (some r.cid)).invalidate line (c.filterMask line), answer)

/-- R300, R302: a release of a remote writer, whom `off` names by its engine: its intents here are compared and cleared, and their lines' clean
bytes invalidated; an overlap is answered with its line. The intents of the writers of its device in `seen`, whose covers reach it, are not
compared. -/
def Chip.remoteRelease (c : Chip) (r : Inbound) (seen : List Nat) : Chip × Option FabricMsg :=
  let own : Owner := .remote (r.src.toNat * 4096 + r.off % 4096)
  let mine := c.intents.filter (fun t => t.owner == own)
  let rs := mine.flatMap (fun t => (c.intents.filter (fun o => o.line == t.line && o.owner != own
    && !seen.any (fun n => o.owner == .remote (r.src.toNat * 4096 + n)) && (o.mask &&& t.mask) != 0)).map (fun o => (t.line, o)))
  let c1 := mine.foldl (fun (x : Chip) t => x.invalidate t.line (x.filterMask t.line)) (c.recordRaces (fun x => (x, r.cid)) rs)
  ({ c1 with intents := c1.intents.filter (fun t => t.owner != own) },
   some (.reply r.req (match firstLine rs with
     | none => []
     | some l => bytesOf 8 l) false))

/-- R148: a fragment of a contribution: taken in order, acknowledged again where it has been, refused where an earlier one is missing. -/
def Chip.remoteContribute (c : Chip) (r : Inbound) (id : DWord) (rank desc start : Nat) (bs : List (Byte × Bool)) : Chip × Option FabricMsg :=
  let have_ := match c.coll id with
    | none => 0
    | some k => ((k.got.find? (fun g => g.1 == rank)).map (fun g => g.2.length)).getD 0
  if have_ < start then
    let (c1, v) := c.draw
    (c1, some (.refuse r.req (1 + v.toNat % 4095)))
  else (if have_ = start then c.contribute id rank desc start bs else c, some (.reply r.req [] false))

/-- R143, R206, R303: a remote request performed. -/
def Chip.perform (c : Chip) (r : Inbound) : Chip × Option FabricMsg :=
  let parts := lineParts r.off (reqBytes r.kind)
  let own := remoteOwner r.src r.cid
  match r.kind with
  | .read n =>
    (match c.meetsRemote own parts with
    | some t => c.remoteRace r t 1
    | none =>
      let bad := parts.any (fun p => c.linePois (lineOf (localPa p.1)) || c.held.any (fun h => h.line == lineOf (localPa p.1) && h.expired))
      (c, some (.reply r.req (agetN 0 c.mem r.off n) bad)))
  | .write bs marked => (c.remoteWrite r bs marked, some (.reply r.req [] false))
  | .atomic aop w8 v =>
    if aop.toNat = aopCounterDec then
      (c.decHome (lineOf (localPa r.off)) r.cid (dw r.off), some (.reply r.req (bytesOf 4 (c.counterOf (lineOf (localPa r.off)))) false))
    else c.remoteRmw r (if w8 then 8 else 4) aop.toNat v.toNat (fun x =>
      some (applyAop aop.toNat (if w8 then 8 else 4) x (v.toNat % 2 ^ (if w8 then 64 else 32))))
  | .cas w8 cmp new => c.remoteRmw r (if w8 then 8 else 4) 16 new.toNat (fun x =>
      if x = cmp.toNat % 2 ^ (if w8 then 64 else 32) then some (new.toNat % 2 ^ (if w8 then 64 else 32)) else none)
  | .combine op fmt bs =>
    (match c.meetsRemote own parts with
    | some t => c.remoteRace r t 1
    | none =>
      if parts.any (fun p => c.linePois (lineOf (localPa p.1))) then (c, some (.failure r.req 0x800C))
      else
        let v := combineElem op fmt (c.rdMem r.off bs.length) (natOfBytes bs)
        (c.remoteWrite r (bytesOf bs.length v) false, some (.reply r.req [] false)))
  | .contribute id rank desc start bs => c.remoteContribute r id rank desc start bs
  | .arrive core kind slot =>
    let off := r.off / 64 * 64
    let (c1, ph) := c.arrive (.mem off) (c.tableParty off r.src.toNat core kind slot) r.cid
    (c1, some (.reply r.req (bytesOf 4 ph) false))
  | .binit expect deadline =>
    let (c1, st) := c.binitMem (r.off / 64 * 64) (expect.toNat + deadline.toNat * 65536)
    (c1, some (.reply r.req (bytesOf 4 st) false))
  | .waitph p =>
    let off := r.off / 64 * 64
    let k := c.bar (.mem off)
    (if k.phase = p then c.waitFrom off r.cid else c, some (.reply r.req (bytesOf 2 k.phase.toNat) false))
  | .release seen => c.remoteRelease r seen
  | .check _ =>
    (match c.meetsRemote own parts with
    | some t => c.remoteRace r t 3
    | none => (c, some (if parts.any (fun p => c.linePois (lineOf (localPa p.1))) then .failure r.req 0x800C else .reply r.req [] false)))
  | .prefetch =>
    -- R232: a line under another writer's intent is dropped without a record
    if (c.meetsRemote own parts).isSome then (c, some (.reply r.req [] false))
    else (c, some (.reply r.req (agetN 0 c.mem r.off 64) (parts.any (fun p => c.linePois (lineOf (localPa p.1))
      || c.held.any (fun h => h.line == lineOf (localPa p.1) && h.expired)))))
  | .reduced id rank bs => (c.takeReduced id rank bs, some (.reply r.req [] false))

/-- R144: an HBM frame begins or ends being moved by system software. DESIGN CHOICE (log 84): an input, since the spec does not say how the part
learns of it. -/
def Chip.moveFrame (c : Chip) (frame : Nat) (on : Bool) : Chip :=
  { c with moving := if on then frame :: c.moving else c.moving.filter (fun f => f != frame) }

/-- R150: what the training of a link declares of the switches behind it. -/
def Chip.declareOrder (c : Chip) (port : Nat) (canonical : Bool) : Chip :=
  if port < 32 then c.setLink port { c.link port with canonical := canonical } else c

/-- R144: whether the owning context is saved out: it has saved gangs and none on the cores. -/
def Chip.savedOut (c : Chip) (tag : Nat) : Bool :=
  c.gangList.any (fun x => x.2.phase == 2 && c.tagOf x.1 == tag) && !c.gangList.any (fun x => x.2.phase < 2 && c.tagOf x.1 == tag)

/-- R146: whether a generation is older than the current one, modulo 256. -/
def genOld (gen cur : BitVec 8) : Bool := gen != cur && (cur - gen).toNat < 128

/-- R91: whether a request writes the weight tier, which only the host's fill may. -/
def writesWeights (k : ReqKind) (parts : List (Nat × Nat)) : Bool :=
  (match k with
    | .read _ => false
    | .release _ => false
    | .prefetch => false
    | _ => true) && parts.any (fun p => weightOffset p.1)

/-- R144, R146: a request of another device: dropped, failed, refused or performed; what is sent back. -/
def Chip.serve (c : Chip) (r : Inbound) : Chip × Option FabricMsg :=
  let tag := r.tag.toNat
  if genOld r.gen (aget 0 c.gens tag) then ({ c with priv := { c.priv with gwdrop := c.priv.gwdrop + 1 } }, none)
  else
    let parts := lineParts r.off (reqBytes r.kind)
    if (c.ctxRoot tag).isNone || parts.any (fun p => !offsetExists p.1) || writesWeights r.kind parts then
      (c.emit (c.portSource r.src.toNat) 0x50 r.cid (dw (r.src.toNat * 2 ^ 42 + 2)) 0, some (.failure r.req 2))
    else if c.savedOut tag || parts.any (fun p => c.held.any (fun h => h.line == lineOf (localPa p.1) && !h.expired)
        || (p.1 < 0xC000000000 && (c.frameHeld p.1 tag || c.moving.contains (p.1 / 65536)))) then
      let (c1, v) := c.draw
      (c1, some (.refuse r.req (1 + v.toNat % 4095)))
    else
      let port := c.portSource r.src.toNat
      let c1 := parts.foldl (fun (x : Chip) p => if p.1 < 0xC000000000 then x.claimFrame p.1 tag else x) c
      let lines := parts.map (fun (p : Nat × Nat) => (localPa p.1, p.2))
      (match r.kind with
        | .write _ _ => c1.storeRange port lines
        | _ => c1.touchRange port lines).perform r

/-- What is sent back to a request; nothing to one that asks for no answer. DESIGN CHOICE (log 84): R140 names the class of an acknowledgement alone;
a reply, a refusal or a failure goes in the class of its request. -/
def Chip.respond (c : Chip) (dst cls req tag : Nat) (cid : DWord) (m : Option FabricMsg) : Chip :=
  match m with
  | none => c
  | some x => if req = 0 then c else c.send dst cls tag 0 cid x

/-- INBOUND_REQUEST (R143, R144, R146): a request given without its packet, answered in class 2 (log 84). -/
def execInboundRequest (r : Inbound) (s : State) : Host.Outcome State Fault Refusal :=
  runChip s (fun c =>
    if !c.running || c.priv.gwdev = 0x3FFFFF#22 then c
    else
      let (c1, m) := c.serve r
      c1.respond r.src.toNat 2 r.req r.tag.toNat r.cid m)

/-- R142, R403: a packet past its delivered-by time: the record here, and its copy to the initiator. -/
def Chip.lateCheck (c : Chip) (p : Packet) : Chip :=
  if p.byNs = 0 || p.atNs ≤ p.byNs then c
  else
    let what := dw (p.slowDev.toNat * 2 ^ 42 + p.slowPort % 32 * 2 ^ 32 + min (p.atNs - p.byNs) 0xFFFFFFFF)
    ((c.emit (c.portSource p.src.toNat) 0x52 p.cid what 0).msix 1).send p.src.toNat 0 p.tag.toNat 0 p.cid (.late what)

/-- The payload bytes a packet brings. -/
def packetPayload (p : Packet) : Nat :=
  match p.body with
  | .request _ _ k _ => payloadOf k
  | .reply _ bs _ => bs.length
  | .refuse _ _ => 0
  | .fail _ _ => 0
  | .late _ => 0
  | .ended _ => 0
  | .ack _ => 0

/-- This device's request that a packet answers. -/
def Chip.answeredBy (c : Chip) (p : Packet) (req : Nat) : Option Remote :=
  c.remotes.find? (fun r => r.id + 1 == req && r.dst == p.src.toNat && r.retryAt.isNone)

/-- R138, R139, R142-R144: a packet takes effect. DESIGN CHOICE (log 84): a release flag's byte count is checked before its generation, so that one
that fails both is discarded under R139 and not counted in SR.GWDROP. -/
def Chip.effect (c : Chip) (p : Packet) : Chip :=
  let k := flowKey p.src.toNat p.cls
  let f := c.inFlow k
  let flagged := match p.body with
    | .request _ _ _ (some _) => true
    | _ => false
  let c1 := (c.setIn k { f with bytes := if flagged then f.bytes else f.bytes + packetPayload p }).lateCheck p
  match p.body with
  | .request req off kind flag =>
    let r : Inbound := { src := p.src, req := req, tag := p.tag, gen := p.gen, off := off, kind := kind, cid := p.cid }
    let serveIt (x : Chip) : Chip :=
      let (x1, m) := x.serve r
      x1.respond p.src.toNat p.cls req p.tag.toNat p.cid m
    (match flag with
    | none => serveIt c1
    | some n =>
      if f.bytes = n then serveIt (c1.setIn k { f with bytes := 0 })
      else
        (c1.emit (c.portSource p.src.toNat) 0x51 p.cid (dw (f.bytes % 2 ^ 32 * 2 ^ 32 + n % 2 ^ 32)) 0).respond p.src.toNat p.cls req
          p.tag.toNat p.cid (some (.failure req 6)))
  | .reply req bs marked =>
    (match c1.answeredBy p req with
    | none => c1
    | some r => c1.completeRemote r bs marked)
  | .refuse req hint =>
    (match c1.answeredBy p req with
    | none => c1
    | some r => c1.refused r hint)
  | .fail req reason =>
    (match c1.answeredBy p req with
    | none => c1
    | some r => c1.failRemote r reason.toNat)
  | .late what => (c1.emit (c.portSource p.src.toNat) 0x52 p.cid what 0).msix 1
  | .ended reason => c1.emit (c.portSource p.src.toNat) 0x50 p.cid (dw (p.src.toNat * 2 ^ 42 + reason.toNat)) 0
  | .ack _ => c1

/-- R138: packets held ahead that now follow in order, delivered. -/
def Chip.drain (k : Nat) : Nat → Chip → Chip
  | 0, c => c
  | n + 1, c =>
    let f := c.inFlow k
    match f.ahead.find? (fun p => p.seq == f.next) with
    | none => c
    | some p => Chip.drain k n ((c.setIn k { f with next := f.next + 1, ahead := f.ahead.filter (fun x => x.seq != f.next) }).effect p)

/-- R138: the cumulative acknowledgement a packet carries. -/
def Chip.takeAck (c : Chip) (k : Nat) (ack : BitVec 32) : Chip :=
  let f := c.outFlow k
  c.setOut k { f with unacked := f.unacked.filter (fun p => match p.seq with
    | none => false
    | some q => 2 ^ 31 ≤ (ack - q).toNat) }

/-- PACKET_DELIVER (R138, R139, R142): a packet of a flow arrives: delivered in order, held ahead of a gap, or acknowledged again. -/
def execPacketDeliver (p : Packet) (s : State) : Host.Outcome State Fault Refusal :=
  runChip s (fun c =>
    if !c.running || c.priv.gwdev = 0x3FFFFF#22 then c
    else
      let k := flowKey p.src.toNat p.cls
      match p.body with
      | .ack flow => c.takeAck (flowKey p.src.toNat flow) p.ack
      | _ =>
        let c1 := c.takeAck k p.ack
        let f := c1.inFlow k
        let d := (p.seq - f.next).toNat
        let c2 :=
          if d = 0 then Chip.drain k 257 ((c1.setIn k { f with next := f.next + 1 }).effect p)
          else if d ≤ 256 && !f.ahead.any (fun x => x.seq == p.seq) then c1.setIn k { f with ahead := f.ahead ++ [p] }
          else c1
        if d = 0 || 2 ^ 31 ≤ d then c2.sendAck p.src.toNat p.cls p.tag.toNat p.cid else c2)

end Sys2Proof.Machine
end

