-- ==== Sys2Proof/Machine/Ageing.lean ====
section
/-! DEFINITION. Ageing monitors, residual life, marks and the configurations they lead to (R16, R17, R124, R409-R411, R413). -/

namespace Sys2Proof.Machine

open Sys2Proof

/-- R410: the highest fitted voltage, in mV. -/
def maxMv : Nat := 860

/-- The nanoseconds of a day. -/
def dayNs : Nat := 86400000000000

/-- R411: the day and the fitted voltage of the fits of the last 90 days before the latest. -/
def Domain.recent (d : Domain) : List (Nat × Nat) :=
  match d.log with
  | [] => []
  | f :: fs => ((f :: fs).filter (fun x => f.time < x.time + 90 * dayNs)).map (fun x => (x.time / dayNs, x.mv))

/-- R411: residual life in days from the least-squares line, saturating; 0xFFFF where the line does not rise. -/
def Domain.residual (d : Domain) : Nat :=
  let ps := d.recent
  let n : Int := ps.length
  let sx : Int := sumOf (ps.map (fun p => p.1))
  let sy : Int := sumOf (ps.map (fun p => p.2))
  let sxy : Int := sumOf (ps.map (fun p => p.1 * p.2))
  let sxx : Int := sumOf (ps.map (fun p => p.1 * p.1))
  let rise := n * sxy - sx * sy
  let run := n * sxx - sx * sx
  let today : Int := ((ps.map (fun p => p.1)).headD 0 : Nat)
  if rise ≤ 0 || run ≤ 0 then 0xFFFF
  else min 0xFFFF ((sx * rise + ((maxMv : Int) * n - sy) * run - today * n * rise) / (n * rise)).toNat

/-- A voltage domain: core pairs 0-255, slice pairs from 256 (R409). -/
def Life.domain (l : Life) (i : Nat) : Domain := aget Domain.zero l.domains i

/-- R124: the slices of a slice pair, as die * 32 + slice. -/
def pairSlices (j : Nat) : List Nat := [j / 16 * 32 + j % 16 * 2, j / 16 * 32 + j % 16 * 2 + 1]

/-- The state of a configuration being formed: cores removed, cores still to be removed. -/
structure Forming where
  out : List Nat
  need : Nat
deriving DecidableEq, Repr

/-- R413: whether cores may be removed: no cluster falls below 112. -/
def Forming.can (f : Forming) (cs : List Nat) : Bool :=
  (List.range 4).all (fun cl => ((cs ++ f.out).filter (fun n => clusterOf n == cl)).length ≤ 16)

/-- R413: the partners of cores left unpartnered, in ascending order. -/
def Forming.partners (f0 : Forming) : Forming :=
  ((List.range 512).filter (fun n => !f0.out.contains n && f0.out.contains (n ^^^ 1))).foldl (fun (f : Forming) n =>
    if f.need = 0 || !f.can [n] then f else { out := n :: f.out, need := f.need - 1 }) f0

/-- The candidate of least residual life; the first among equals. -/
def leastResidual (res : Nat → Nat) (l : List Nat) : Option Nat :=
  l.foldl (fun (r : Option Nat) x => match r with
    | none => some x
    | some y => if res x < res y then some x else some y) none

/-- R413: whole pairs of least residual life; a single core where a pair would leave exactly one core to remove, or would be one too many. -/
def Forming.pairs (res : Nat → Nat) : Nat → Forming → Option Forming
  | _, { out := o, need := 0 } => some { out := o, need := 0 }
  | 0, _ => none
  | n + 1, f =>
    if f.need = 1 || f.need = 3 then
      match leastResidual (fun c => res (c / 2)) ((List.range 512).filter (fun c => !f.out.contains c && f.can [c])) with
      | none => none
      | some c => Forming.pairs res n { out := c :: f.out, need := f.need - 1 }
    else
      match leastResidual res ((List.range 256).filter (fun p =>
          !f.out.contains (2 * p) && !f.out.contains (2 * p + 1) && f.can [2 * p, 2 * p + 1])) with
      | none => none
      | some p => Forming.pairs res n { out := 2 * p :: (2 * p + 1) :: f.out, need := f.need - 2 }

/-- R413: the configuration that marks lead to; none leads to Hold. -/
def formConfig (res : Nat → Nat) (marks slicePairs : List Nat) : Option Fuse :=
  let left := 512 - marks.eraseDups.length
  let code := ([512, 496, 480, 464].zipIdx).find? (fun x => x.1 ≤ left)
  if (List.range 2).any (fun d => 1 < (slicePairs.eraseDups.filter (fun j => j / 16 == d)).length) then none
  else
    match code with
    | none => none
    | some (cores, k) =>
      let f0 : Forming := { out := marks.eraseDups, need := left - cores }
      if !f0.can [] then none
      else
        (Forming.pairs res 64 f0.partners).map (fun f =>
          { config := k, noCores := (List.range 512).filter (fun n => f.out.contains n), noSlices := slicePairs.eraseDups.flatMap pairSlices })

/-- R411, R413: the configuration the next reset would form. -/
def Life.nextFuse (l : Life) : Option Fuse := formConfig (fun p => (l.domain p).residual) l.marks l.sliceMarks

/-- R410: a domain marked: both cores of a pair, or a slice pair. -/
def Life.markDomain (l : Life) (i : Nat) : Life :=
  let d := l.domain i
  let l1 := { l with domains := aput Domain.zero l.domains i { d with marked := true, mv := max d.mv maxMv } }
  if i < 256 then { l1 with marks := (l1.marks ++ [2 * i, 2 * i + 1]).eraseDups }
  else { l1 with sliceMarks := (l1.sliceMarks ++ [i - 256]).eraseDups }

/-- R410: one core marked alone, or its pair once both cores are. -/
def Life.markCore (l : Life) (n : Nat) : Life :=
  let l1 := { l with marks := (l.marks ++ [n]).eraseDups }
  if l1.marks.contains (n ^^^ 1) then l1.markDomain (n / 2) else l1

/-- R409: a fit at a time: the guard band of 12 mV, the wear log's 4,096 entries; a fitted voltage above the maximum marks the domain (R410).
DEDUCED (log 84): the fitted voltage, in the log too, is the one with its guard band, which is what the domain is set to. -/
def Life.refit (l : Life) (i : Nat) (f : Fit) (time : Nat) : Life :=
  let d := l.domain i
  let v := f.mv + 12
  let d1 : Domain := { d with
    mv := if d.marked then maxMv else min v maxMv, log := ({ time := time, delay := f.delay, mv := v, temp := f.temp } :: d.log).take 4096 }
  let l1 := { l with domains := aput Domain.zero l.domains i d1 }
  if maxMv < v then l1.markDomain i else l1

/-- R411: the residual lives of the domains of enabled units, ascending without repeats below 0xFFFF. -/
def Life.residuals (l : Life) : List Nat :=
  ((List.range 288).map (fun i => (l.domain i).residual)).filter (fun r => r < 0xFFFF)

/-- R411: the marks as they would stand once every domain with at most `r` days left is marked. -/
def Life.fuseAfter (l : Life) (r : Nat) : Option Fuse :=
  let due := (List.range 288).filter (fun i => (l.domain i).residual ≤ r)
  ((due.foldl Life.markDomain l)).nextFuse

/-- R411: the least residual life that would force a change that a test describes; 0xFFFF where none would. -/
def Life.daysUntil (l : Life) (f : Option Fuse → Bool) : Nat :=
  (leastOf (l.residuals.filter (fun r => f (l.fuseAfter r)))).getD 0xFFFF

/-- R411: the days until a smaller configuration. -/
def Life.daysToStep (l : Life) : Nat :=
  let now := (l.nextFuse.map (fun f => f.config)).getD 4
  l.daysUntil (fun r => decide (now < (r.map (fun f => f.config)).getD 4))

/-- R411: the days until Hold. -/
def Life.daysToHold (l : Life) : Nat := l.daysUntil (fun r => r.isNone)

/-- R409: whether a domain's daily fit is due. -/
def Life.fitDue (l : Life) (i time : Nat) : Bool :=
  ((l.domain i).log.head?.map (fun w => w.time)).getD 0 + dayNs ≤ time && !l.dueFits.any (fun x => x.1 == i)

/-- R410: whether a domain is marked, or one core of its pair is. -/
def Life.isMarked (l : Life) (i : Nat) : Bool :=
  (l.domain i).marked || (i < 256 && (l.marks.contains (2 * i) || l.marks.contains (2 * i + 1)))

/-- R411: the last fit of a domain: the delay and the fitted voltage; zero before the first. -/
def Domain.lastFit (d : Domain) : Nat × Nat :=
  match d.log with
  | [] => (0, 0)
  | w :: _ => (w.delay, w.mv)

/-- R411: SR.AGEVAL of a domain. -/
def Life.ageVal (l : Life) (fuse : Fuse) (i : Nat) : Nat :=
  let d := l.domain i
  let gone := if i < 256 then ([2 * i, 2 * i + 1].filter (fun n => fuse.noCores.contains n)).length
    else (pairSlices (i - 256)).length * (if (pairSlices (i - 256)).all (fun s => fuse.noSlices.contains s) then 1 else 0)
  let st := if gone = 2 then 2 else if gone = 1 then 3 else if l.isMarked i then 1 else 0
  d.residual * 2 ^ 48 + st * 2 ^ 32 + min d.lastFit.2 0xFFFF * 2 ^ 16 + d.lastFit.1 % 2 ^ 16

/-- R411: SR.HEALTH. -/
def Life.health (l : Life) : Nat :=
  let n := ((List.range 288).filter l.isMarked).length
  min n 255 * 2 ^ 8 + (match l.nextFuse with
    | none => 4
    | some f => f.config)

end Sys2Proof.Machine
end

