-- ==== Sys2Proof/Machine/Privileged.lean ====
section
/-! DEFINITION. The privileged special registers that the host reaches through BAR2, and the steps that writes of them are (R101, R102, R112,
R113, R129, R146, R147, R158, R353, R354, R379, R380, R387, R389, R395, R398, R411). -/

namespace Sys2Proof.Machine

open Sys2Proof

/-- R102: cached translations of a page (VA [63:16]) of a context, or of all of it, are cleared. -/
def Core.clearXlate (tag page : Nat) (k : Core) : Core :=
  { k with tlb := k.tlb.filter (fun e => e.tag != tag || (page != 2 ^ 48 - 1 && e.page != page * 2 ^ 16 / 2 ^ levelBit e.level)) }

/-- R102: an invalidation starts. -/
def Chip.invalidateXlate (c : Chip) (page tag : Nat) : Chip :=
  { c with cores := c.cores.map (fun (p : Nat × Core) => (p.1, p.2.clearXlate tag page)),
           priv := { c.priv with xinv := dw (page * 2 ^ 16 + tag),
                                 xpend := if c.priv.xpend.contains tag then c.priv.xpend else c.priv.xpend ++ [tag] } }

/-- A write of a privileged register: only a part that has passed self-test takes it (R154). -/
def runPriv (s : State) (f : Chip → Chip) : Host.Outcome State Fault Refusal := runChip s (fun c => if c.running then f c else c)

/-- XINV_WRITE (R102). -/
def execXinvWrite (page : BitVec 48) (tag : BitVec 16) (s : State) : Host.Outcome State Fault Refusal :=
  runPriv s (fun c => c.invalidateXlate page.toNat tag.toNat)

/-- R102: whether a request to a peer was made through a translation of a context. -/
def Remote.through (r : Remote) (tag : Nat) : Bool :=
  r.tag == tag && r.dst != 2 ^ 22 && !isRelease r.kind && (match r.who with
    | .mail _ => false
    | _ => true)

/-- INVALIDATION_COMPLETE (R102): no access of the contexts is still on its way to a peer, and the bytes stored in the L1s are written back. -/
def execInvalidationComplete (s : State) : Host.Outcome State Fault Refusal :=
  runChip s (fun c =>
    let tags := c.priv.xpend
    if tags = [] || c.remotes.any (fun r => tags.any (fun t => r.through t)) then c
    else
      let c1 := tags.foldl (fun (x : Chip) t => (x.cores.map (fun p => p.1)).foldl (fun (y : Chip) n => y.flushTag t n) x) c
      { c1 with priv := { c1.priv with xpend := [] } })

/-- R112: the faults that wait for room in the ring are recorded, oldest first; each then stops its gang for a save (R110). -/
def recordWaiting : Nat → Chip → Chip
  | 0, c => c
  | n + 1, c =>
    match c.faults.find? (fun f => !f.ring) with
    | none => c
    | some f =>
      let c1 := ({ c with faults := c.faults.filter (fun x => x != f) } : Chip).writeFault f
      if c1.priv.pfhead = c.priv.pfhead then c else recordWaiting n (if f.party.saves then c1.saveFor f.gang else c1)

/-- R101, R112: SR.PFACK raised. -/
def Chip.ackFaults (c : Chip) (v : DWord) : Chip :=
  if v.toNat < c.priv.pfack.toNat then c else recordWaiting c.faults.length { c with priv := { c.priv with pfack := v } }

/-- PFACK_WRITE (R112). -/
def execPfackWrite (count : BitVec 64) (s : State) : Host.Outcome State Fault Refusal := runPriv s (fun c => c.ackFaults count)

/-- R113: whether a fault record carries an ID that is outstanding. -/
def PageFault.named (f : PageFault) (id : Nat) : Bool := f.ring && !f.failed && !f.resolved && f.id == id

/-- R113: a fault is resolved; a party that waits for other faults of its gang too goes on with them. -/
def Chip.resolveFault (c : Chip) (id : Nat) : Chip :=
  match c.faults.find? (fun f => f.named id) with
  | none => c
  | some f =>
    if f.party.saves then
      ({ c with faults := c.faults.map (fun (x : PageFault) => if x.named id then { x with resolved := true } else x) } : Chip).settleFaults f.gang
    else { c with faults := c.faults.filter (fun x => !x.named id) }

/-- R171: whether a fault is a copy command's that no longer stalls on it, its gang being on the cores. -/
def Chip.lapsed (c : Chip) (f : PageFault) : Bool :=
  f.gone || match f.party with
  | .drayQueue n q =>
    c.drayOn n && (match c.runOf { core := n, q := q } with
      | none => true
      | some (k, r) => !(r.state == 2 && r.fault == some f.addr.toNat && k.cid == f.cid))
  | _ => false

/-- R113: a fault is unresolvable: the trap follows the restore, or at once where the gang stayed on its cores. -/
def Chip.failFault (c : Chip) (id : Nat) : Chip :=
  match c.faults.find? (fun f => f.named id) with
  | none => c
  | some f =>
    let c1 : Chip := { c with faults := c.faults.map (fun x => if x.named id then { x with failed := true } else x) }
    if f.party.saves then c1.settleFaults f.gang
    else if c.lapsed f then { c with faults := c.faults.filter (fun x => !x.named id) }
    else if ((c1.gang f.gang).map (fun k => decide (k.phase = 0))).getD false then c1.deliverFaults f.gang (fun x => x.party == f.party)
    else c1

/-- PFDONE_RESOLVE (R113). -/
def execPfdoneResolve (id : BitVec 32) (s : State) : Host.Outcome State Fault Refusal :=
  runPriv s (fun c => ({ c with priv := { c.priv with pfdone := id.setWidth 64 } } : Chip).resolveFault id.toNat)

/-- PFDONE_FAIL (R113). -/
def execPfdoneFail (id : BitVec 32) (s : State) : Host.Outcome State Fault Refusal :=
  runPriv s (fun c => ({ c with priv := { c.priv with pfdone := dw (2 ^ 32 + id.toNat) } } : Chip).failFault id.toNat)

/-- R379: one gang of a killed context, under the kill's causal ID: killed, or kept from a relaunch that stands before it; the status CODE is 0x00. -/
def Chip.killContextGang (tag : Nat) (id : DWord) (c : Chip) (x : Nat × Gang) : Chip :=
  if x.2.phase < 3 then c.killOne x.1 0 (some tag) true (some id)
  else if x.2.phase = 3 then
    { c.modGang x.1 (fun k => { k with noRelaunch := true, cause := 0 }) with
      kills := c.kills.map (fun (k : Kill) => if k.gang = x.1 then { k with ctx := some tag, cause := 0 } else k) }
  else if x.2.phase = 4 then
    let c1 := c.setGang x.1 { x.2 with phase := 5, cause := 0 }
    match c1.grid x.2.grid with
    | none => c1
    | some gr => c1.setGrid x.2.grid { gr with fail := some (gr.fail.getD 0) }
  else c

/-- R379: a context is killed: its tag generation advances, its gangs are killed, its queues emptied. -/
def Chip.killContext (c : Chip) (tag : Nat) : Chip :=
  let c0 : Chip := { c with
    gens := aput 0 c.gens tag (aget 0 c.gens tag + 1), priv := { c.priv with kill := BitVec.ofNat 16 tag } }
  let mine := c0.gangList.filter (fun x => c0.tagOf x.1 == tag)
  let (c0a, id) := c0.unitCid 0
  let c1 := mine.foldl (Chip.killContextGang tag id) c0a
  let c2 : Chip := { c1 with
    clusters := c1.clusters.map (fun (p : Nat × Cluster) => (p.1, { p.2 with hwq := p.2.hwq.filter (fun q => q.2.owner != tag) })) }
  if c2.kills.any (fun k => k.ctx == some tag) then c2 else { c2 with priv := { c2.priv with killCount := c2.priv.killCount + 1 } }

/-- KILL_WRITE (R146, R377, R379). -/
def execKillWrite (tag : BitVec 16) (s : State) : Host.Outcome State Fault Refusal := runPriv s (fun c => c.killContext tag.toNat)

/-- R395: a privileged snapshot. -/
def Chip.privSnapshot (c : Chip) (v : DWord) : Chip :=
  { c with priv := { c.priv with pwsel := v, pwr := c.snapshot none v.toNat privSel } }

/-- PWSEL_WRITE (R395). -/
def execPwselWrite (val : BitVec 64) (s : State) : Host.Outcome State Fault Refusal := runPriv s (fun c => c.privSnapshot val)

/-- R147: a GWCLS value whose shares sum above 256 is ignored. -/
def shareSum (v : BitVec 32) : Nat := bitsAt v.toNat 0 8 + bitsAt v.toNat 8 8 + bitsAt v.toNat 16 8 + bitsAt v.toNat 24 8

/-- R353: SR.RINGCFG written: BASE and LOG2 stay while EN is 1. -/
def Chip.writeRingCfg (c : Chip) (v : Nat) : Chip :=
  let n := c.priv.ringsel.toNat
  let k := c.ring n
  let l := v % 32
  c.setRing n { k with en := v.testBit 63, tag := bitsAt v 32 16, log2 := if !k.en && 4 ≤ l && l ≤ 20 then l else k.log2 }

/-- R354: SR.PQCFG written. -/
def Chip.writePqCfg (c : Chip) (v : Nat) : Chip :=
  let n := c.priv.pqsel.toNat
  let c1 := if v.testBit 62 then c.clearProxy n else c
  let p := c1.proxy n
  c1.setProxy n { p with en := v.testBit 63, log2 := v % 32 }

/-- R398: SR.CONDCFG with its limits. -/
def condWord (v : Nat) : Word :=
  let t := max 1 (bitsAt v 16 16)
  let m := bitsAt v 8 8
  BitVec.ofNat 32 (t * 2 ^ 16 + (if m = 0 ∨ 64 < m then 64 else m) * 2 ^ 8 + v % 2)

/-- R4, R5, R154: a write of a privileged register by its address: reserved and read-only fields ignore it; none where no rule assigns it. -/
def Chip.privWrite (c : Chip) (a : Nat) (v : DWord) : Option Chip :=
  let p := c.priv
  let set (q : PrivRegs) : Option Chip := some { c with priv := q }
  let n := v.toNat
  match a with
  | 0x400 => set { p with ctxtab := dw (bitsAt n 20 22 * 2 ^ 20) }
  | 0x401 => some (c.invalidateXlate (n / 65536) (n % 65536))
  | 0x403 => set { p with frpool := dw (n % 2 ^ 42) }
  | 0x404 => set { p with pfring := dw (bitsAt n 12 30 * 2 ^ 12 + min 10 (n % 16)) }
  | 0x406 => some (c.ackFaults v)
  | 0x407 =>
    let c1 : Chip := { c with priv := { p with pfdone := dw (n % 2 ^ 33) } }
    some (if n.testBit 32 then c1.failFault (n % 2 ^ 32) else c1.resolveFault (n % 2 ^ 32))
  | 0x410 => set { p with slsel := BitVec.ofNat 6 n }
  | 0x420 => set { p with gwdev := BitVec.ofNat 22 n }
  | 0x421 => set { p with gwsel := BitVec.ofNat 5 n }
  | 0x425 => if 256 < shareSum (BitVec.ofNat 32 n) then some c else set { p with gwcls := BitVec.ofNat 32 n }
  | 0x426 => set { p with gwlim := BitVec.ofNat 4 (max 1 (n % 16)) }
  | 0x428 => set { p with hfill := BitVec.ofNat 2 n }
  | 0x430 => set { p with ringsel := BitVec.ofNat 6 n }
  | 0x431 =>
    let k := c.ring p.ringsel.toNat
    some (if k.en then c else c.setRing p.ringsel.toNat { k with cb := bitsAt n 6 36 * 64 })
  | 0x432 => some (c.writeRingCfg n)
  | 0x435 => some (if n.testBit 0 then c.skipSlot p.ringsel.toNat else c)
  | 0x436 => set { p with pqsel := BitVec.ofNat 6 n }
  | 0x437 => some (c.setProxy p.pqsel.toNat { c.proxy p.pqsel.toNat with tgt := dw (n / 64 * 64) })
  | 0x438 => some (c.writePqCfg n)
  | 0x440 => some (c.killContext (n % 65536))
  | 0x442 => set { p with iftEn := n.testBit 63, iftPeriod := BitVec.ofNat 32 (max 3600 (n % 2 ^ 32)) }
  | 0x450 =>
    some { c with trace := { c.trace with
      freeze := n.testBit 0, headerAt := if n.testBit 0 && !c.trace.freeze then c.trace.count else c.trace.headerAt } }
  | 0x453 => some { c with trace := { c.trace with win := BitVec.ofNat 12 n } }
  | 0x458 => some (c.privSnapshot v)
  | 0x468 => set { p with condcfg := condWord n }
  | 0x470 => set { p with agesel := BitVec.ofNat 9 n }
  | _ =>
    if [0x402, 0x405, 0x411, 0x412, 0x413, 0x414, 0x415, 0x416, 0x417, 0x422, 0x423, 0x424, 0x427, 0x433, 0x434, 0x441, 0x443, 0x451, 0x452,
        0x454, 0x459, 0x45A, 0x45B, 0x45C, 0x45D, 0x45E, 0x45F, 0x460, 0x469, 0x471, 0x472].contains a then some c else none

/-- R129: a slice's counter; a deconfigured slice reads zero. -/
def Chip.slCount (c : Chip) (k : Nat) : Nat :=
  if c.fuse.noSlices.contains c.priv.slsel.toNat then 0 else (aget 0 c.stats (c.priv.slsel.toNat * 8 + k)).toNat

/-- The value of a privileged register by its address; none where no rule assigns it. -/
def Chip.privRead (c : Chip) (l : Life) (a : Nat) : Option Nat :=
  let p := c.priv
  let lk := aget Link.zero c.links p.gwsel.toNat
  let rg := c.ring p.ringsel.toNat
  let px := c.proxy p.pqsel.toNat
  match a with
  | 0x400 => some p.ctxtab.toNat
  | 0x401 => some p.xinv.toNat
  | 0x402 => some (if p.xpend = [] then 0 else 1)
  | 0x403 => some p.frpool.toNat
  | 0x404 => some p.pfring.toNat
  | 0x405 => some p.pfhead.toNat
  | 0x406 => some p.pfack.toNat
  | 0x407 => some p.pfdone.toNat
  | 0x410 => some p.slsel.toNat
  | 0x420 => some p.gwdev.toNat
  | 0x421 => some p.gwsel.toNat
  | 0x422 => some (lk.width * 2 + (if lk.up && p.gwdev != 0x3FFFFF#22 then 1 else 0))
  | 0x423 => some lk.replays
  | 0x424 => some lk.downs
  | 0x425 => some p.gwcls.toNat
  | 0x426 => some p.gwlim.toNat
  | 0x427 => some p.gwdrop.toNat
  | 0x428 => some p.hfill.toNat
  | 0x430 => some p.ringsel.toNat
  | 0x431 => some rg.cb
  | 0x432 => some ((if rg.en then 2 ^ 63 else 0) + rg.tag * 2 ^ 32 + rg.log2)
  | 0x433 => some (rg.state * 2 ^ 62 + c.ringHead rg % 2 ^ 48)
  | 0x434 => some rg.stale.toNat
  | 0x435 => some 0
  | 0x436 => some p.pqsel.toNat
  | 0x437 => some px.tgt.toNat
  | 0x438 => some ((if px.en then 2 ^ 63 else 0) + (if px.err then 2 ^ 62 else 0) + px.log2)
  | 0x440 => some p.kill.toNat
  | 0x441 => some (p.killCount.toNat * 2 ^ 32 + (if c.kills = [] then 0 else 1))
  | 0x442 => some ((if p.iftEn then 2 ^ 63 else 0) + p.iftPeriod.toNat)
  | 0x443 => some (p.iftDefer.toNat * 2 ^ 32 + (if p.iftActive then 256 else 0) + p.iftPair.toNat)
  | 0x450 => some (if c.trace.freeze then 1 else 0)
  | 0x451 => some c.trace.count
  | 0x452 => some (c.trace.frozen.toNat * 2 ^ 32 + c.trace.dropped.toNat)
  | 0x453 => some c.trace.win.toNat
  | 0x454 => some (c.offset.toNat * 2 ^ 32 + (if c.locked then 1 else 0))
  | 0x458 => some p.pwsel.toNat
  | 0x468 => some p.condcfg.toNat
  | 0x469 => some (p.condQueries.toNat * 2 ^ 32 + p.condEvents.toNat)
  | 0x470 => some p.agesel.toNat
  | 0x471 => some (l.ageVal c.fuse p.agesel.toNat)
  | 0x472 => some l.health
  | _ => if 0x411 ≤ a ∧ a ≤ 0x417 then some (c.slCount (a - 0x410)) else if 0x459 ≤ a ∧ a ≤ 0x460 then some (bitsAt p.pwr.toNat (64 * (a - 0x459)) 64)
    else none

/-- R387: the slots of the trace store. -/
def traceCapacity : Nat := 536870784

/-- R384: the bytes of a record. -/
def Caseg.bytes (r : Caseg) : List Byte :=
  bytesOf 8 r.time.toNat ++ bytesOf 8 r.cid.toNat ++ bytesOf 4 r.source.toNat ++ bytesOf 2 r.type.toNat ++ bytesOf 2 r.flags.toNat
  ++ bytesOf 8 r.payload.toNat

/-- R387, R388: the bytes of the store's header, as last written. -/
def Trace.header (t : Trace) : List Byte :=
  bytesOf 8 (t.headerAt % traceCapacity) ++ bytesOf 8 (t.headerAt / traceCapacity) ++ bytesOf 4 t.resets ++ bytesOf 2 t.cause ++ bytesOf 2 0
  ++ bytesOf 8 t.poweron.toNat ++ bytesOf 8 traceCapacity ++ bytesOf 24 0

/-- R387: a byte of the trace store. -/
def Trace.byte (t : Trace) (off : Nat) : Byte :=
  if off < 64 then t.header.getD off 0
  else if off < 0x1000 then 0
  else match aget none t.slots ((off - 0x1000) / 32) with
    | none => 0
    | some r => r.bytes.getD (off % 32) 0

end Sys2Proof.Machine
end

