-- ==== Sys2Proof/Machine/Conductor.lean ====
section
/-! DEFINITION. The Conductor: deadlines, walks of the wait-for graph, queries and their answers; the Brake van's writing of trace
records; the lock of time (R386-R400, R433). -/

namespace Sys2Proof.Machine

open Sys2Proof

/-- R390: the nanoseconds of a time word. -/
def nsOf (t : DWord) : Nat := t.toNat / 2 ^ 30 * 1000000000 + t.toNat % 2 ^ 30

/-- R391: the device of a node. -/
def nidDev (n : DWord) : Nat := n.toNat / 2 ^ 42

/-- R391: the kind of a node: 0 a device, 1 a core barrier, 2 a memory barrier, 3 a party. -/
def nidKind (n : DWord) : Nat := bitsAt n.toNat 40 2

/-- R391: the barrier of this device that a node names. -/
def nidBarAt (n : DWord) : BarAt :=
  if nidKind n = 1 then .core (bitsAt n.toNat 0 9) (bitsAt n.toNat 9 6) else .mem (bitsAt n.toNat 0 36 * 64)

/-- The place of the lowest one of a number, among `n` bits. -/
def lowestOne (v n : Nat) : Option Nat := (List.range n).find? (fun i => v.testBit i)

/-- R391, R393: the lowest absent party of a barrier; a memory barrier's is mapped through its party table. -/
def Chip.absentParty (c : Chip) (b : BarAt) : Option DWord :=
  (lowestOne (c.bar b).absent.toNat 128).map (fun p =>
    match b with
    | .core n _ => dw (nidParty c.priv.gwdev.toNat n p 0)
    | .mem off =>
      let e := c.partyEntry off p
      let kind := bitsAt e 29 2
      dw (nidParty (bitsAt e 40 22) (bitsAt e 31 9) (if kind = 0 then bitsAt e 24 5 else if kind = 1 then 32 else 33) 0)
    | .peer _ => 0)

/-- R203, R391: the queue party of the lowest valid SRC entry of a barrier. -/
def Chip.sourceParty (c : Chip) (b : BarAt) : Option DWord :=
  ((List.range 8).find? (fun j => 2 ^ 15 ≤ (c.bar b).srcAt j)).map (fun j =>
    let e := (c.bar b).srcAt j
    dw (nidParty c.priv.gwdev.toNat (bitsAt e 3 9) (35 + e % 8) 0))

/-- R433: the answer to a barrier query. -/
def Chip.barAnswer (c : Chip) (b : BarAt) : Answer :=
  .barrier (BitVec.ofNat 8 (c.bar b).state) (c.absentParty b) (c.sourceParty b)

/-- R397: whether a saved gang holds the party of a core. -/
def Frame.holds (f : Frame) (core p : Nat) : Bool :=
  if p < 32 then f.warps.any (fun x => x.1 == core && x.2.1 == p)
  else if p = 32 then f.mats.any (fun x => x.1 == core && x.2.s.st != 0)
  else f.drays.any (fun x => x.1 == core && x.2.s.st != 0)

/-- R397: whether a gang is saved out and holds the party of a core. -/
def Chip.savedParty (c : Chip) (g core p : Nat) : Bool :=
  match c.gang g with
  | none => false
  | some k => k.phase == 2 && ((k.frame.map (fun f => f.holds core p)).getD false)

/-- R189, R391: the gang whose node of this device a node is: that of a core barrier, or of a party. -/
def Chip.nodeGang (c : Chip) (n : DWord) : Option Nat :=
  if nidDev n != c.priv.gwdev.toNat then none
  else if nidKind n = 1 then c.barGang (bitsAt n.toNat 0 9) (bitsAt n.toNat 9 6)
  else if nidKind n = 3 then c.partyGang (bitsAt n.toNat 0 9) (bitsAt n.toNat 9 6)
  else none

/-- R391, R397: the answer to a query for a party of this device; `owner` is the gang for whose barrier or party a walk asks, where it is known. -/
def Chip.summary (c : Chip) (owner : Option Nat) (n : DWord) : Answer :=
  let core := bitsAt n.toNat 0 9
  let p := bitsAt n.toNat 9 6
  if 43 ≤ p || !c.enabled core then .unknown
  else if (owner.map (fun g => c.savedParty g core p)).getD false then .saved
  else if p = 34 then
    (if (c.core core).bars.any (fun b => b.2.flags &&& 0xFFF != 0) then .free else .present)
  else
    let saved := c.gangList.any (fun x => c.savedParty x.1 core p)
    match c.partyGang core p with
    | none => if saved then .saved else .unknown
    | some g =>
      if ((c.gang g).map (fun k => decide (k.phase = 3 ∨ k.phase = 4 ∨ k.phase = 5))).getD true then (if saved then .saved else .unknown)
      else if ((c.gang g).map (fun k => decide (k.phase = 2))).getD false then .saved
      else match c.partyWait core p (bitsAt n.toNat 15 1) with
        | none => .free
        | some r => if r.state = 1 || r.state = 3 || r.state = 4 || r.state = 5 then .blocked r.state r.on r.since else .free

/-- R181, R397: the collective of a queued command, from its descriptor; none where that cannot be read. -/
def Chip.queuedColl (c : Chip) (core : Nat) (k : Cmd) : Option DWord :=
  match c.xlate core (c.drayTag core) ((k.ka.toNat + 0x28) % 2 ^ 64) .read 0 with
  | .error _ => none
  | .ok (pa, _) => if tierOf pa < 2 then some (dw (c.rdMem (pa % 2 ^ 64) 8)) else none

/-- R397: the answer to a collective query: the queue party of the DCOLL that is queued or running here. -/
def Chip.collAnswer (c : Chip) (id : DWord) : Answer :=
  .party ((c.queuesOf.find? (fun l =>
    let q := c.queue l.core l.q
    q.cmds.zipIdx.any (fun (x : Cmd × Nat) => x.1.op == 0xDD && (match x.2, q.run with
      | 0, some r => (match r.coll with
        | some y => y.id == id
        | none => c.queuedColl l.core x.1 == some id)
      | _, _ => c.queuedColl l.core x.1 == some id)))).map (fun l => dw (nidParty c.priv.gwdev.toNat l.core (35 + l.q) 0)))

/-- What the visit of a node brings a walk (R396): a name with its reason, the next node, a query. -/
inductive Visit where
  | named (n : DWord) (reason : Nat)
  | go (n : DWord)
  | ask (m : FabricMsg) (dev : Nat) (coll : Option DWord)
deriving DecidableEq, Repr

/-- R396: a barrier visited. -/
def visitBarrier (n : DWord) (a : Answer) : Visit :=
  match a with
  | .barrier st absent src =>
    if st.getLsbD 2 then .named n 2
    else (match absent, src with
      | some p, _ => .go p
      | none, some q => .go q
      | none, none => .named n 8)
  | _ => .named n 3

/-- R396, R397: the answer to a collective query at a device. -/
def visitColl (dev : DWord) (a : Answer) : Visit :=
  match a with
  | .party (some q) => .go q
  | .party none => .named dev 5
  | _ => .named dev 3

/-- R396: a Dray queue blocked in a collective: the lowest rank that the Charabanc lacks; with none missing, the party itself. -/
def Chip.visitLack (c : Chip) (n id : DWord) : Visit :=
  let ranks := ((c.queuesOf.filterMap (fun l => (c.runOf l).bind (fun x => x.2.coll))).find? (fun x => x.id == id)).map (fun x => x.ranks)
  match (c.coll id).bind Coll.lacks, ranks with
  | some r, some ds =>
    let d := ds.getD r 0
    let dev := dw (d * 2 ^ 42)
    if d = c.priv.gwdev.toNat then visitColl dev (c.collAnswer id) else .ask (.collQuery id) d (some dev)
  | _, _ => .named n 1

/-- R396: a party visited. -/
def Chip.visitParty (c : Chip) (n : DWord) (a : Answer) : Visit :=
  match a with
  | .present => .named n 1
  | .blocked st on _ => if st = 4 then c.visitLack n on else .go on
  | .free => .named n 1
  | .saved => .named n 7
  | .unknown => .named n 3
  | .barrier _ _ _ => .named n 3
  | .party _ => .named n 3

/-- R396, R397, R433: a node visited from another, here or by a query of its device. -/
def Chip.visit (c : Chip) (from_ n : DWord) : Visit :=
  let here := nidDev n = c.priv.gwdev.toNat
  if nidKind n = 3 then (if here then c.visitParty n (c.summary (c.nodeGang from_) n) else .ask (.query n) (nidDev n) none)
  else if nidKind n = 0 then .named n 1
  else if here then visitBarrier n (c.barAnswer (nidBarAt n))
  else .ask (.barQuery n) (nidDev n) none

/-- R396, R399, R400, R435: a walk ends: the record with its reason and the time at which the deadline passed, RESOLVED where the phase has
completed, and the signal to the host. -/
def Chip.endWalk (c : Chip) (w : Walk) (n : DWord) (reason : Nat) : Chip :=
  let resolved := nidKind w.origin != 3 && (c.bar (nidBarAt w.origin)).phase != w.phase
  let c1 : Chip := { c with walks := c.walks.filter (fun x => x.id != w.id),
                            priv := { c.priv with condEvents := c.priv.condEvents + 1 } }
  (c1.emitAt (timeWord w.passedAt) 0xC03 0x60 w.cid n (reason * 256 + (if resolved then 8 else 0))).msix 1

/-- R396, R398: the walk limit. -/
def Chip.maxNodes (c : Chip) : Nat := bitsAt c.priv.condcfg.toNat 8 8

/-- R396: what a visit makes of a walk: an end, a query sent, or the walk from the next node on. DESIGN CHOICE (log 84): the Conductor's queries and
answers leave as packets of class 0 without being offered to the port for admission (R141). -/
def Chip.walkOn : Nat → Walk → Visit → Chip → Chip
  | _, w, .named n r, c => c.endWalk w n r
  | _, w, .ask m dev coll, c =>
    (({ c with walks := c.walks.filter (fun x => x.id != w.id) ++ [{ w with asked := some (w.node, c.time), coll := coll }] } : Chip).send
      dev 0 0 0 w.cid m)
  | 0, w, .go n, c => c.endWalk w n 6
  | k + 1, w, .go n, c =>
    if w.visited.contains n then
      let cycle := w.visited.dropWhile (fun x => x != n)
      c.endWalk w (cycle.foldl (fun (m x : DWord) => if x.toNat < m.toNat then x else m) n) 4
    else
      let w1 : Walk := { w with node := n, visited := w.visited ++ [n], asked := none, coll := none }
      if c.maxNodes < w1.visited.length then c.endWalk w1 n 6 else Chip.walkOn k w1 (c.visit w.node n) c

/-- R396: a walk begins at a node, at the instant of a deadline. -/
def Chip.startWalk (c : Chip) (n cid : DWord) (phase : BitVec 16) (at_ : Nat) : Chip :=
  let w : Walk := { id := c.nextWalk, node := n, visited := [], asked := none, coll := none, cid := cid, origin := n, phase := phase,
                    passedAt := at_ }
  Chip.walkOn 66 w (.go n) { c with nextWalk := c.nextWalk + 1 }

/-- R396, R398: a barrier's deadline passes, at most once in a phase; a walk where the Conductor is enabled. -/
def Chip.barDeadline (c : Chip) (b : BarAt) : Chip :=
  let k := c.bar b
  if k.deadline = 0 || k.since = 0 || k.passed || c.time < nsOf k.since + k.deadline * 10000 then c
  else
    let k1 := { k with passed := true }
    let c1 : Chip := match b with
      | .core _ _ => c.setBar b k1
      | .mem off => { c with memBars := aput none c.memBars off (some k1) }
      | .peer _ => c
    if c1.priv.condcfg.getLsbD 0 then c1.startWalk (c1.nidBar b) k.cid k.phase (nsOf k.since + k.deadline * 10000) else c1

/-- DEADLINE_PASS (R396, R398). -/
def execDeadlinePass (d : DeadlineRef) (s : State) : Host.Outcome State Fault Refusal :=
  runChip s (fun c =>
    if !c.running then c
    else match d with
      | .core n k => c.barDeadline (.core n k)
      | .mem off => c.barDeadline (.mem (off / 64 * 64))
      | .dcoll n q =>
        let l : Lane8 := { core := n, q := q }
        match c.runOf l with
        | none => c
        | some (k, r) =>
          match r.coll with
          | none => c
          | some x =>
            if x.passed || !((x.deadline.map (fun t => decide (t ≤ c.time))).getD false) then c
            else
              let c1 := c.modRun l (fun y => { y with coll := some { x with passed := true } })
              if c1.priv.condcfg.getLsbD 0 then c1.startWalk (dw (nidParty c1.priv.gwdev.toNat n (35 + q) 0)) k.cid 0 (x.deadline.getD 0) else c1)

/-- R397, R398: a query of another Conductor answered from the state it meets, in class 0. -/
def Chip.answerQuery (c : Chip) (dev : Nat) (node : DWord) (a : Answer) : Chip :=
  if !c.running || c.priv.gwdev = 0x3FFFFF#22 then c
  else
    let (c1, id) := c.unitCid 3
    ({ c1 with priv := { c1.priv with condQueries := c1.priv.condQueries + 1 } } : Chip).send dev 0 0 0 id (.answer node a)

/-- SUMMARY_QUERY (R397). -/
def execSummaryQuery (dev : BitVec 22) (nid : BitVec 64) (s : State) : Host.Outcome State Fault Refusal :=
  runChip s (fun c => c.answerQuery dev.toNat nid (if nidKind nid = 3 && nidDev nid = c.priv.gwdev.toNat then c.summary none nid else .unknown))

/-- COLLECTIVE_QUERY (R397). -/
def execCollectiveQuery (dev : BitVec 22) (id : BitVec 64) (s : State) : Host.Outcome State Fault Refusal :=
  runChip s (fun c => c.answerQuery dev.toNat id (c.collAnswer id))

/-- CONDUCTOR_BARRIER_QUERY (R433). -/
def execConductorBarrierQuery (dev : BitVec 22) (nid : BitVec 64) (s : State) : Host.Outcome State Fault Refusal :=
  runChip s (fun c => c.answerQuery dev.toNat nid
    (if (nidKind nid = 1 || nidKind nid = 2) && nidDev nid = c.priv.gwdev.toNat then c.barAnswer (nidBarAt nid) else .unknown))

/-- QUERY_ANSWER (R396, R397, R433): a walk goes on with the answer to its query. -/
def execQueryAnswer (walk : Nat) (a : Answer) (s : State) : Host.Outcome State Fault Refusal :=
  runChip s (fun c =>
    match c.walks.find? (fun w => w.id == walk) with
    | none => c
    | some w =>
      if !c.running || w.asked.isNone then c
      else Chip.walkOn 66 w (match w.coll with
        | some dev => visitColl dev a
        | none => if nidKind w.node = 3 then c.visitParty w.node a else visitBarrier w.node a) c)

/-- QUERY_TIMEOUT (R396-R398): no answer within SUMTO. -/
def execQueryTimeout (walk : Nat) (s : State) : Host.Outcome State Fault Refusal :=
  runChip s (fun c =>
    match c.walks.find? (fun w => w.id == walk) with
    | none => c
    | some w =>
      match w.asked with
      | none => c
      | some (_, t) =>
        if !c.running || c.time < t + bitsAt c.priv.condcfg.toNat 16 16 * 1000 then c
        else c.endWalk w (w.coll.getD w.node) 3)

/-- R387, R388: a record accepted by the Brake van: written to the next slot, the header rewritten after every 1,024; discarded and
counted while the store is frozen (R389). -/
def Trace.accept (t : Trace) (r : Caseg) : Trace :=
  if t.freeze then { t with frozen := t.frozen + 1 }
  else
    let last := t.index + 1 = traceCapacity
    { t with slots := aput none t.slots t.index (some r), index := if last then 0 else t.index + 1,
             wraps := if last then t.wraps + 1 else t.wraps, count := t.count + 1,
             headerAt := if (t.count + 1) % 1024 = 0 then t.count + 1 else t.headerAt }

/-- R386: the oldest record of a source leaves its buffer for the store. -/
def Chip.storeRecord (c : Chip) (source : Nat) : Chip :=
  let b := aget TraceBuf.zero c.trace.bufs source
  match b.recs with
  | [] => c
  | r :: rs => { c with trace := { c.trace with bufs := aput TraceBuf.zero c.trace.bufs source { b with recs := rs } }.accept r }

/-- TRACE_RECORD_WRITE (R386-R389). -/
def execTraceRecordWrite (source : Nat) (s : State) : Host.Outcome State Fault Refusal := runChip s (fun c => c.storeRecord source)

/-- TIME_LOCK_CHANGE (R385, R389, R390): the lock is gained, with the offset measured and the time stepped, never backward; or lost. -/
def execTimeLockChange (gained : Bool) (sec nsec : Nat) (offset : BitVec 32) (s : State) : Host.Outcome State Fault Refusal :=
  runChip s (fun c =>
    let c1 : Chip := { c with locked := gained, offset := if gained then offset else c.offset,
                              time := if gained then max c.time (sec * 1000000000 + min nsec 999999999) else c.time }
    c1.emitUnit 49 2 (if gained then 1 else 0))

end Sys2Proof.Machine
end

