-- ==== Sys2Proof/Machine/FloatOps.lean ====
section
/-! DEFINITION. FP32 arithmetic, special functions and packed half precision (R257-R260), FSCL, FRND and FCLASS (R88-R90). -/

namespace Sys2Proof.Machine

open Sys2Proof

/-- R260: an operation on the two halves of packed registers. -/
def halves (f : Nat → Nat → Nat → Nat) (a b c : Nat) : Nat :=
  f (a % 65536) (b % 65536) (c % 65536) + f (a / 65536) (b / 65536) (c / 65536) * 65536

/-- FADD (R258). -/
def execFadd (ct : Ctl) (d a b : Reg) (s : State) : Host.Outcome State Fault Refusal :=
  runIssue s (alu2 0x40 ct d a b fp32.fadd)
/-- FSUB (R258). -/
def execFsub (ct : Ctl) (d a b : Reg) (s : State) : Host.Outcome State Fault Refusal :=
  runIssue s (alu2 0x41 ct d a b fp32.fsub)
/-- FMUL (R258). -/
def execFmul (ct : Ctl) (d a b : Reg) (s : State) : Host.Outcome State Fault Refusal :=
  runIssue s (alu2 0x42 ct d a b fp32.fmul)
/-- FFMA (R258). -/
def execFfma (ct : Ctl) (d a b r : Reg) (s : State) : Host.Outcome State Fault Refusal :=
  runIssue s (alu3 0x43 ct d a b r fp32.ffma)
/-- FMIN (R258). -/
def execFmin (ct : Ctl) (d a b : Reg) (s : State) : Host.Outcome State Fault Refusal :=
  runIssue s (alu2 0x44 ct d a b (fp32.minMax false))
/-- FMAX (R258). -/
def execFmax (ct : Ctl) (d a b : Reg) (s : State) : Host.Outcome State Fault Refusal :=
  runIssue s (alu2 0x45 ct d a b (fp32.minMax true))
/-- FSET (R257). -/
def execFset (ct : Ctl) (d a b : Reg) (cond : BitVec 4) (pos : BitVec 5) (s : State) : Host.Outcome State Fault Refusal :=
  runIssue s (aluOp 0x46 ct d 1 [srcA ct a 1, srcB b 1, srcD d] (fun v =>
    putBit (v.getD 2 0) pos.toNat (fcond cond.toNat (fp32.unpack (v.getD 0 0)) (fp32.unpack (v.getD 1 0)))))
/-- FRCP (R259). -/
def execFrcp (ct : Ctl) (d a : Reg) (s : State) : Host.Outcome State Fault Refusal :=
  runIssue s (alu1 0x47 ct d a (fun x => fp32.div (.fin false 1 0) (fp32.unpack x)))
/-- FRSQ (R259). -/
def execFrsq (ct : Ctl) (d a : Reg) (s : State) : Host.Outcome State Fault Refusal :=
  runIssue s (alu1 0x48 ct d a (fun x => fp32.rsqrt (fp32.unpack x)))
/-- FSQRT (R259). -/
def execFsqrt (ct : Ctl) (d a : Reg) (s : State) : Host.Outcome State Fault Refusal :=
  runIssue s (alu1 0x49 ct d a (fun x => fp32.sqrt (fp32.unpack x)))
/-- FDIV (R258). -/
def execFdiv (ct : Ctl) (d a b : Reg) (s : State) : Host.Outcome State Fault Refusal :=
  runIssue s (alu2 0x4A ct d a b (fun x y => fp32.div (fp32.unpack x) (fp32.unpack y)))
/-- FEX2 (R259). -/
def execFex2 (ct : Ctl) (d a : Reg) (s : State) : Host.Outcome State Fault Refusal :=
  runIssue s (alu1 0x4B ct d a fex2Bits)
/-- FLG2 (R259). -/
def execFlg2 (ct : Ctl) (d a : Reg) (s : State) : Host.Outcome State Fault Refusal :=
  runIssue s (alu1 0x4C ct d a flg2Bits)
/-- FSINP (R259). -/
def execFsinp (ct : Ctl) (d a : Reg) (s : State) : Host.Outcome State Fault Refusal :=
  runIssue s (alu1 0x4D ct d a fsinpBits)
/-- FCOSP (R259). -/
def execFcosp (ct : Ctl) (d a : Reg) (s : State) : Host.Outcome State Fault Refusal :=
  runIssue s (alu1 0x4E ct d a fcospBits)
/-- FTANH (R259). -/
def execFtanh (ct : Ctl) (d a : Reg) (s : State) : Host.Outcome State Fault Refusal :=
  runIssue s (alu1 0x4F ct d a ftanhBits)
/-- HADD2 (R260). -/
def execHadd2 (ct : Ctl) (d a b : Reg) (s : State) : Host.Outcome State Fault Refusal :=
  runIssue s (alu2 0x50 ct d a b (fun x y => halves (fun p q _ => fp16.fadd p q) x y 0))
/-- HMUL2 (R260). -/
def execHmul2 (ct : Ctl) (d a b : Reg) (s : State) : Host.Outcome State Fault Refusal :=
  runIssue s (alu2 0x51 ct d a b (fun x y => halves (fun p q _ => fp16.fmul p q) x y 0))
/-- HFMA2 (R260). -/
def execHfma2 (ct : Ctl) (d a b r : Reg) (s : State) : Host.Outcome State Fault Refusal :=
  runIssue s (alu3 0x52 ct d a b r (halves fp16.ffma))
/-- FSCL (R88). -/
def execFscl (ct : Ctl) (d a b : Reg) (s : State) : Host.Outcome State Fault Refusal :=
  runIssue s (alu2 0x53 ct d a b (fun x y => fsclBits x (signed 32 y)))
/-- FRND (R89). -/
def execFrnd (ct : Ctl) (d a : Reg) (rm : BitVec 2) (s : State) : Host.Outcome State Fault Refusal :=
  runIssue s (alu1 0x54 ct d a (frndBits (rndOf rm.toNat)))
/-- FCLASS (R90). -/
def execFclass (ct : Ctl) (d a : Reg) (s : State) : Host.Outcome State Fault Refusal :=
  runIssue s (alu1 0x55 ct d a (fun x => 2 ^ fclassBit x))

end Sys2Proof.Machine
end

