-- ==== Sys2Proof/Machine/HostPort.lean ====
section
/-! DEFINITION. The host port: reads and writes through the BARs, FetchAdd, fills, doorbells, completion errors (R118, R133, R153-R159,
R351, R389, R405, R441). -/

namespace Sys2Proof.Machine

open Sys2Proof

/-- R154: a host access that no unit answers. -/
def Chip.unsupported (c : Chip) : Chip := { c with hostOut := c.hostOut ++ [.unsupported] }

/-- A completion with data. -/
def Chip.completion (c : Chip) (bs : List Byte) : Chip := { c with hostOut := c.hostOut ++ [.data bs] }

/-- R96, R154: whether `n` bytes at a device offset all exist. -/
def rangeExists (off n : Nat) : Bool := offsetExists off && offsetExists (off + n - 1)

/-- The physical address of a device offset: HBM or weight tier. -/
def devPa (off : Nat) : Nat := if off < 2 ^ 40 then off else 2 ^ 64 + off

/-- R405: the bytes of an error record. -/
def ErrRec.bytes (e : ErrRec) : List Byte := bytesOf 8 e.time.toNat ++ bytesOf 2 e.code ++ bytesOf 2 e.unit ++ bytesOf 20 0

/-- R405: BAR0 offset 0. -/
def Life.word (l : Life) : Nat := l.step * 2 ^ 24 + l.cause * 2 ^ 8 + l.state

/-- R154, R405: a byte of BAR0. -/
def bar0Byte (c : Chip) (l : Life) (a : Nat) : Byte :=
  if a < 8 then (bytesOf 8 l.word).getD a 0
  else if a < 16 then (bytesOf 8 c.srCores).getD (a - 8) 0
  else if a < 24 then (bytesOf 8 c.priv.pfhead.toNat).getD (a - 16) 0
  else if 0x1000 ≤ a ∧ a < 0x2000 then ((l.errors.map ErrRec.bytes).getD ((a - 0x1000) / 32) []).getD (a % 32) 0
  else 0

/-- R154: whether a BAR0 offset is one that no rule names. -/
def bar0Reserved (a : Nat) : Bool := 24 ≤ a && !(0x1000 ≤ a && a < 0x2000)

/-- R154, R389: a read through BAR2: a privileged register of 8 bytes, or the trace window. -/
def bar2Read (c : Chip) (l : Life) (a n : Nat) : Option (List Byte) :=
  if 0x400000 ≤ a ∧ a + n ≤ 0x800000 then
    some ((List.range n).map (fun j => c.trace.byte (c.trace.win.toNat * 2 ^ 22 + (a - 0x400000) + j)))
  else if a % 8 = 0 ∧ n = 8 then (c.privRead l (a / 8)).map (bytesOf 8)
  else none

/-- R154, R155: what a host read through a BAR brings; none for Unsupported Request. -/
def hostRead (s : State) (bar a n : Nat) : Option (List Byte) :=
  if bar = 0 then (if (List.range n).any (fun j => bar0Reserved (a + j)) then none else some ((List.range n).map (fun j => bar0Byte s.chip s.life (a + j))))
  else if !s.chip.running then none
  else if bar = 2 then bar2Read s.chip s.life a n
  else if bar = 4 then
    (if 2 ^ 40 < a + n || !rangeExists a n then none else some (agetN 0 s.chip.mem a n))
  else if bar = 6 ∧ s.chip.priv.hfill.getLsbD 0 then
    (if 2 ^ 40 < a + n || !rangeExists (2 ^ 40 + a) n then none else some (agetN 0 s.chip.mem (2 ^ 40 + a) n))
  else none

/-- R127, R382: the host port as a requester of lines. -/
def hostRequester : Nat := 0xC30

/-- R154, R351: the ring whose doorbell a byte offset of BAR2 is. -/
def doorbellAt (a : Nat) : Option Nat := if 0x800000 ≤ a ∧ a < 0x800200 ∧ a % 8 = 0 then some ((a - 0x800000) / 8) else none

/-- HOST_MEMORY_READ (R154, R155). The spec gives a doorbell no value to read: a free value. -/
def execHostMemoryRead (bar addr n : Nat) (s : State) : Host.Outcome State Fault Refusal :=
  runChip s (fun c =>
    if bar = 2 ∧ n = 8 ∧ (doorbellAt addr).isSome ∧ c.running then
      let (c1, v) := c.draw
      c1.completion (bytesOf 8 v.toNat)
    else match hostRead s bar addr n with
      | none => c.unsupported
      | some bs => (if bar = 4 then c.touchRange hostRequester (lineParts addr n)
          else if bar = 6 then c.touchRange hostRequester ((lineParts (2 ^ 40 + addr) n).map (fun (p : Nat × Nat) => (devPa p.1, p.2)))
          else c).completion bs)

/-- R155: bytes written at their homes, line by line. -/
def hostStore : List (Nat × Nat) → List Byte → Chip → Chip
  | [], _, c => c
  | (pa, n) :: r, bs, c =>
    let o := pa % 64
    hostStore r (bs.drop n) (c.homeWrite (lineOf pa) (BitVec.ofNat 64 ((2 ^ n - 1) * 2 ^ o))
      (BitVec.ofNat 512 (natOfBytes (bs.take n) * 2 ^ (8 * o))) false)

/-- R351: the ring whose TAIL an 8-byte write at an offset is. -/
def Chip.tailAt (c : Chip) (off n : Nat) : Option Nat := if off % 64 = 16 ∧ n = 8 then c.ringAt (lineOf off) else none

/-- R119, R158: the frames that a shared fill touches get the owner tag 0xFFFF. -/
def Chip.shareFrames (c : Chip) (off n : Nat) : Chip :=
  { c with owner := (List.range ((off + n - 1) / 65536 - off / 65536 + 1)).foldl (fun (m : AMap Nat) j =>
      aput noOwner m (off / 65536 + j) 0xFFFF) c.owner }

/-- HOST_MEMORY_WRITE (R155, R158, R351). -/
def execHostMemoryWrite (addr : Nat) (bytes : List (BitVec 8)) (s : State) : Host.Outcome State Fault Refusal :=
  runChip s (fun c =>
    let n := bytes.length
    if !c.running || 2 ^ 40 < addr + n || !rangeExists addr n then c.unsupported
    else
      let fill := c.priv.hfill.getLsbD 1
      let c0 := if fill then c.shareFrames addr n else c
      match c.tailAt addr n with
      | some r => (if fill then { c0 with mc := closeLine (lineOf addr) c0.mc } else c0).tailWrite r (natOfBytes bytes)
      | none => hostStore (lineParts addr n) bytes (c0.storeRange hostRequester (lineParts addr n)))

/-- R156, R441: a FetchAdd by the host at the home slice; it joins the order of the device's atomics. -/
def execHostFetchadd (addr : Nat) (w8 : Bool) (val : BitVec 64) (s : State) : Host.Outcome State Fault Refusal :=
  runChip s (fun c =>
    let w := if w8 then 8 else 4
    if !c.running || 2 ^ 40 < addr + w || !rangeExists addr w || addr % w ≠ 0 then c.unsupported
    else
      let old := c.rdMem addr w
      ((c.touchRange hostRequester [(addr, w)]).unitWrite addr w ((old + val.toNat) % 2 ^ (8 * w))).completion (bytesOf w old))

/-- R118: the poison entries of the lines a fill touches are cleared. -/
def Chip.refill (c : Chip) (lines : List Nat) : Chip := { c with held := c.held.filter (fun h => !lines.contains h.line) }

/-- HOST_FILL_WRITE (R118, R133, R158). -/
def execHostFillWrite (addr : Nat) (bytes : List (BitVec 8)) (s : State) : Host.Outcome State Fault Refusal :=
  runChip s (fun c =>
    let n := bytes.length
    let off := 2 ^ 40 + addr
    if !c.running || !c.priv.hfill.getLsbD 0 || 2 ^ 40 < addr + n || !rangeExists off n then c.unsupported
    else
      let parts := (lineParts off n).map (fun (p : Nat × Nat) => (devPa p.1, p.2))
      hostStore parts bytes ((c.refill (parts.map (fun p => lineOf p.1))).storeRange hostRequester parts))

/-- HOST_REGISTER_WRITE (R154): a write at a byte offset of BAR2; writes to the trace window are discarded (R389). -/
def execHostRegisterWrite (addr : Nat) (val : BitVec 64) (s : State) : Host.Outcome State Fault Refusal :=
  runChip s (fun c =>
    if !c.running then c.unsupported
    else if 0x400000 ≤ addr ∧ addr < 0x800000 then c
    else if (doorbellAt addr).isSome then c.tailWrite ((doorbellAt addr).getD 0) val.toNat
    else if addr % 8 ≠ 0 then c.unsupported
    else (c.privWrite (addr / 8) val).getD c.unsupported)

/-- RING_DOORBELL (R351). -/
def execRingDoorbell (ring : Nat) (val : BitVec 64) (s : State) : Host.Outcome State Fault Refusal :=
  runChip s (fun c => if !c.running || 64 ≤ ring then c.unsupported else c.tailWrite ring val.toNat)

/-- R403: the causal ID of the latest memory write that has left for a host address, where its operation has one. -/
def Chip.postedCid (c : Chip) (addr : Nat) : Option DWord :=
  (c.hostOut.reverse.findSome? (fun m => match m with
    | .outWrite a _ cid => if a = addr then some cid else none
    | _ => none)).join

/-- HOST_WRITE_REJECTED (R159, R403): the record carries the causal ID of the write; that of a unit of the part is the host port's own. -/
def execHostWriteRejected (addr : Nat) (s : State) : Host.Outcome State Fault Refusal :=
  runChip s (fun c => match c.postedCid addr with
    | some id => c.emit (0xC00 + 48) 0x54 id (dw addr) 0
    | none => c.emitUnit 48 0x54 (dw addr))

end Sys2Proof.Machine
end

