-- ==== Sys2Proof/Machine/Integer.lean ====
section
/-! DEFINITION. NOP, integer, logical, shift, bit-field and predicate instructions (R250-R257). -/

namespace Sys2Proof.Machine

open Sys2Proof

/-- R252: clamped to the signed 32-bit range. -/
def clampS (v : Int) : Nat := wrapInt 32 (max (-(2 ^ 31 : Nat)) (min v ((2 ^ 31 : Nat) - 1)))
/-- R253: logical left shift. -/
def shlW (a s : Nat) : Nat := if s < 32 then a * 2 ^ s % 2 ^ 32 else 0
/-- R253: logical right shift. -/
def shrW (a s : Nat) : Nat := if s < 32 then a / 2 ^ s else 0
/-- R253: arithmetic right shift. -/
def sarW (a s : Nat) : Nat := wrapInt 32 (signed 32 a / (2 ^ (min s 31) : Nat))
/-- R253: rotation to the right. -/
def rotrW (a s : Nat) : Nat := a / 2 ^ (s % 32) + a % 2 ^ (s % 32) * 2 ^ (32 - s % 32) % 2 ^ 32
/-- R254: the effective length of a control value. -/
def fieldLen (ctl : Nat) : Nat := min (bitsAt ctl 8 6) (32 - bitsAt ctl 0 5)
/-- R254: `BFE`. -/
def bfeW (a ctl : Nat) : Nat :=
  let e := fieldLen ctl
  let f := a / 2 ^ bitsAt ctl 0 5 % 2 ^ e
  if e = 0 then 0 else if bitsAt ctl 16 1 = 1 then wrapInt 32 (signed e f) else f
/-- R254: `BFI`. -/
def bfiW (a ctl ins : Nat) : Nat :=
  let e := fieldLen ctl
  let pos := bitsAt ctl 0 5
  a % 2 ^ pos + ins % 2 ^ e * 2 ^ pos + a / 2 ^ (pos + e) * 2 ^ (pos + e)
/-- R255: leading zeros of a 32-bit word. -/
def clzW (a : Nat) : Nat := if a = 0 then 32 else 31 - Nat.log2 a
/-- R255: bits reversed, of the low `n` bits into the top of 32. -/
def brevW (a : Nat) : Nat → Nat
  | 0 => 0
  | n + 1 => a / 2 ^ n % 2 * 2 ^ (31 - n) + brevW a n
/-- R256: IMM24 sign-extended to 32 bits. -/
def simm24 (imm : BitVec 24) : Nat := (imm.signExtend 32).toNat

/-- NOP (R250): takes its slot and changes nothing. -/
def execNop (s : State) : Host.Outcome State Fault Refusal := runIssue s (fun i c => .ok (c.advance i))
/-- IADD (R252). -/
def execIadd (ct : Ctl) (d a b : Reg) (s : State) : Host.Outcome State Fault Refusal :=
  runIssue s (alu2 0x08 ct d a b (fun x y => (x + y) % 2 ^ 32))
/-- ISUB (R252). -/
def execIsub (ct : Ctl) (d a b : Reg) (s : State) : Host.Outcome State Fault Refusal :=
  runIssue s (alu2 0x09 ct d a b (fun x y => (x + 2 ^ 32 - y) % 2 ^ 32))
/-- IMUL (R252). -/
def execImul (ct : Ctl) (d a b : Reg) (s : State) : Host.Outcome State Fault Refusal :=
  runIssue s (alu2 0x0A ct d a b (fun x y => x * y % 2 ^ 32))
/-- IMULHI (R252). -/
def execImulhi (ct : Ctl) (d a b : Reg) (s : State) : Host.Outcome State Fault Refusal :=
  runIssue s (alu2 0x0B ct d a b (fun x y => wrapInt 32 (signed 32 x * signed 32 y / (2 ^ 32 : Nat))))
/-- IMULHN (R252). -/
def execImulhn (ct : Ctl) (d a b : Reg) (s : State) : Host.Outcome State Fault Refusal :=
  runIssue s (alu2 0x0C ct d a b (fun x y => x * y / 2 ^ 32))
/-- IMAD (R252). -/
def execImad (ct : Ctl) (d a b r : Reg) (s : State) : Host.Outcome State Fault Refusal :=
  runIssue s (alu3 0x0D ct d a b r (fun x y z => (x * y + z) % 2 ^ 32))
/-- IMIN (R252): signed minimum. -/
def execImin (ct : Ctl) (d a b : Reg) (s : State) : Host.Outcome State Fault Refusal :=
  runIssue s (alu2 0x0E ct d a b (fun x y => if signed 32 x ≤ signed 32 y then x else y))
/-- IMINN (R252): unsigned minimum. -/
def execIminn (ct : Ctl) (d a b : Reg) (s : State) : Host.Outcome State Fault Refusal :=
  runIssue s (alu2 0x0F ct d a b min)
/-- IMAX (R252): signed maximum. -/
def execImax (ct : Ctl) (d a b : Reg) (s : State) : Host.Outcome State Fault Refusal :=
  runIssue s (alu2 0x10 ct d a b (fun x y => if signed 32 x ≤ signed 32 y then y else x))
/-- IMAXN (R252): unsigned maximum. -/
def execImaxn (ct : Ctl) (d a b : Reg) (s : State) : Host.Outcome State Fault Refusal :=
  runIssue s (alu2 0x11 ct d a b max)
/-- IABS (R252). -/
def execIabs (ct : Ctl) (d a : Reg) (s : State) : Host.Outcome State Fault Refusal :=
  runIssue s (alu1 0x12 ct d a (fun x => (signed 32 x).natAbs % 2 ^ 32))
/-- IADDI (R256). -/
def execIaddi (g : Guard) (d a : Reg) (imm : BitVec 24) (s : State) : Host.Outcome State Fault Refusal :=
  runIssue s (alu1 0x13 (Ctl.ofGuard g) d a (fun x => (x + simm24 imm) % 2 ^ 32))
/-- IADD64 (R252): register pairs. -/
def execIadd64 (ct : Ctl) (d a b : Reg) (s : State) : Host.Outcome State Fault Refusal :=
  runIssue s (aluOp 0x14 ct d 2 [srcA ct a 2, srcB b 2] (fun v => (v.getD 0 0 + v.getD 1 0) % 2 ^ 64))
/-- IMAD64 (R252): unsigned product plus a pair. -/
def execImad64 (ct : Ctl) (d a b r : Reg) (s : State) : Host.Outcome State Fault Refusal :=
  runIssue s (aluOp 0x15 ct d 2 [srcA ct a 1, srcB b 1, srcC r 2] (fun v => (v.getD 0 0 * v.getD 1 0 + v.getD 2 0) % 2 ^ 64))
/-- IADDS (R252): saturating. -/
def execIadds (ct : Ctl) (d a b : Reg) (s : State) : Host.Outcome State Fault Refusal :=
  runIssue s (alu2 0x16 ct d a b (fun x y => clampS (signed 32 x + signed 32 y)))
/-- ISUBS (R252): saturating. -/
def execIsubs (ct : Ctl) (d a b : Reg) (s : State) : Host.Outcome State Fault Refusal :=
  runIssue s (alu2 0x17 ct d a b (fun x y => clampS (signed 32 x - signed 32 y)))
/-- AND (R252). -/
def execAndR (ct : Ctl) (d a b : Reg) (s : State) : Host.Outcome State Fault Refusal :=
  runIssue s (alu2 0x18 ct d a b (fun x y => x &&& y))
/-- OR (R252). -/
def execOrR (ct : Ctl) (d a b : Reg) (s : State) : Host.Outcome State Fault Refusal :=
  runIssue s (alu2 0x19 ct d a b (fun x y => x ||| y))
/-- XOR (R252). -/
def execXorR (ct : Ctl) (d a b : Reg) (s : State) : Host.Outcome State Fault Refusal :=
  runIssue s (alu2 0x1A ct d a b (fun x y => x ^^^ y))
/-- ANDN (R252): A and not B. -/
def execAndn (ct : Ctl) (d a b : Reg) (s : State) : Host.Outcome State Fault Refusal :=
  runIssue s (alu2 0x1B ct d a b (fun x y => x &&& (2 ^ 32 - 1 - y)))
/-- SHL (R253). -/
def execShl (ct : Ctl) (d a b : Reg) (s : State) : Host.Outcome State Fault Refusal :=
  runIssue s (alu2 0x1C ct d a b shlW)
/-- SHR (R253). -/
def execShr (ct : Ctl) (d a b : Reg) (s : State) : Host.Outcome State Fault Refusal :=
  runIssue s (alu2 0x1D ct d a b shrW)
/-- SAR (R253). -/
def execSar (ct : Ctl) (d a b : Reg) (s : State) : Host.Outcome State Fault Refusal :=
  runIssue s (alu2 0x1E ct d a b sarW)
/-- ROTR (R253). -/
def execRotr (ct : Ctl) (d a b : Reg) (s : State) : Host.Outcome State Fault Refusal :=
  runIssue s (alu2 0x1F ct d a b rotrW)
/-- SHLI (R253, R256). -/
def execShli (g : Guard) (d a : Reg) (imm : BitVec 24) (s : State) : Host.Outcome State Fault Refusal :=
  runIssue s (alu1 0x20 (Ctl.ofGuard g) d a (fun x => shlW x imm.toNat))
/-- SHRI (R253, R256). -/
def execShri (g : Guard) (d a : Reg) (imm : BitVec 24) (s : State) : Host.Outcome State Fault Refusal :=
  runIssue s (alu1 0x21 (Ctl.ofGuard g) d a (fun x => shrW x imm.toNat))
/-- SARI (R253, R256). -/
def execSari (g : Guard) (d a : Reg) (imm : BitVec 24) (s : State) : Host.Outcome State Fault Refusal :=
  runIssue s (alu1 0x22 (Ctl.ofGuard g) d a (fun x => sarW x imm.toNat))
/-- ANDI (R256): the immediate is zero-extended. -/
def execAndi (g : Guard) (d a : Reg) (imm : BitVec 24) (s : State) : Host.Outcome State Fault Refusal :=
  runIssue s (alu1 0x23 (Ctl.ofGuard g) d a (fun x => x &&& imm.toNat))
/-- ORI (R256). -/
def execOri (g : Guard) (d a : Reg) (imm : BitVec 24) (s : State) : Host.Outcome State Fault Refusal :=
  runIssue s (alu1 0x24 (Ctl.ofGuard g) d a (fun x => x ||| imm.toNat))
/-- XORI (R256). -/
def execXori (g : Guard) (d a : Reg) (imm : BitVec 24) (s : State) : Host.Outcome State Fault Refusal :=
  runIssue s (alu1 0x25 (Ctl.ofGuard g) d a (fun x => x ^^^ imm.toNat))
/-- BFE (R254). -/
def execBfe (ct : Ctl) (d a b : Reg) (s : State) : Host.Outcome State Fault Refusal :=
  runIssue s (alu2 0x26 ct d a b bfeW)
/-- BFI (R254). -/
def execBfi (ct : Ctl) (d a b r : Reg) (s : State) : Host.Outcome State Fault Refusal :=
  runIssue s (alu3 0x27 ct d a b r bfiW)
/-- POPC (R255). -/
def execPopc (ct : Ctl) (d a : Reg) (s : State) : Host.Outcome State Fault Refusal :=
  runIssue s (alu1 0x28 ct d a (fun x => popCount x 32))
/-- CLZ (R255). -/
def execClz (ct : Ctl) (d a : Reg) (s : State) : Host.Outcome State Fault Refusal :=
  runIssue s (alu1 0x29 ct d a clzW)
/-- BREV (R255). -/
def execBrev (ct : Ctl) (d a : Reg) (s : State) : Host.Outcome State Fault Refusal :=
  runIssue s (alu1 0x2A ct d a (fun x => brevW x 32))
/-- ISET (R257). -/
def execIset (ct : Ctl) (d a b : Reg) (cond : BitVec 4) (pos : BitVec 5) (s : State) : Host.Outcome State Fault Refusal :=
  runIssue s (aluOp 0x2B ct d 1 [srcA ct a 1, srcB b 1, srcD d] (fun v =>
    putBit (v.getD 2 0) pos.toNat (icond cond.toNat (v.getD 0 0) (v.getD 1 0))))
/-- ISETI (R257): B is the sign-extended 15-bit immediate. -/
def execIseti (g : Guard) (d a : Reg) (cond : BitVec 4) (pos : BitVec 5) (imm : BitVec 15) (s : State) :
    Host.Outcome State Fault Refusal :=
  runIssue s (aluOp 0x2C (Ctl.ofGuard g) d 1 [srcA (Ctl.ofGuard g) a 1, srcD d] (fun v =>
    putBit (v.getD 1 0) pos.toNat (icond cond.toNat (v.getD 0 0) (imm.signExtend 32).toNat)))

end Sys2Proof.Machine
end

