-- ==== Sys2Proof/Machine/Moves.lean ====
section
/-! DEFINITION. Moves, selection and the cross-lane instructions (R225, R226, R237-R244). -/

namespace Sys2Proof.Machine

open Sys2Proof

/-- MOV (R226). -/
def execMov (ct : Ctl) (d a : Reg) (s : State) : Host.Outcome State Fault Refusal := runIssue s (alu1 0x01 ct d a (fun x => x))
/-- MOVI (R226). -/
def execMovi (g : Guard) (d : Reg) (imm : BitVec 24) (s : State) : Host.Outcome State Fault Refusal :=
  runIssue s (aluOp 0x02 (Ctl.ofGuard g) d 1 [] (fun _ => (imm.signExtend 32).toNat))
/-- MOVHI (R226). -/
def execMovhi (g : Guard) (d a : Reg) (imm : BitVec 24) (s : State) : Host.Outcome State Fault Refusal :=
  runIssue s (alu1 0x03 (Ctl.ofGuard g) d a (fun x => imm.toNat * 256 + x % 256))
/-- SEL (R226). -/
def execSel (ct : Ctl) (d a b r : Reg) (s : State) : Host.Outcome State Fault Refusal :=
  runIssue s (alu3 0x06 ct d a b r (fun x y z => if z ≠ 0 then x else y))

/-- R237: the lane whose value lane i receives from lane j: the highest executing lane at or below j; none where j is outside the warp
or no lane at or below it executes. -/
def srcLane (x : BitVec 64) (j : Int) : Option Nat :=
  if j < 0 ∨ 64 ≤ j then none else ((lanesOf x).filter (fun (l : Nat) => decide (Int.ofNat l ≤ j))).getLast?

/-- R237: `Src(j, i)`. -/
def fromLane (p : Prep) (a : Src) (idt : Src) (j : Int) (i : Nat) : Nat :=
  match srcLane p.exec j with
  | some l => a.val p.w l
  | none => idt.val p.w i

/-- The common path of the cross-lane instructions: `f` gives a lane's result. -/
def crossOp (op : Nat) (ct : Ctl) (hq : Bool) (ud : UDest) (d : Reg) (n : Nat) (srcs : List Src) (f : Prep → Nat → Nat) (i : Issue)
    (c : Chip) : Except Stop Chip :=
  match prep { op := op, g := ct.g, hq := hq, d := some (d, n), ud := ud, srcs := srcs } i c with
  | .error e => .error e
  | .ok p => finish i p (p.write d.toNat n (f p)) c

/-- RDLANE (R240). -/
def execRdlane (ct : Ctl) (d a b r : Reg) (s : State) : Host.Outcome State Fault Refusal :=
  runIssue s (crossOp 0x04 ct false .always d 1 [srcA ct a 1, srcB b 1, srcC r 1] (fun p _ =>
    let l := lowLane p.act
    fromLane p (srcA ct a 1) (srcC r 1) ((srcB b 1).val p.w l : Nat) l))
/-- WRLANE (R240): one lane of D. -/
def execWrlane (ct : Ctl) (d a b : Reg) (s : State) : Host.Outcome State Fault Refusal :=
  runIssue s (fun i c =>
    match prep { op := 0x05, g := ct.g, hq := false, d := some (d, 1), ud := .never, srcs := [srcA ct a 1, srcB b 1] } i c with
    | .error e => .error e
    | .ok p =>
      let l := lowLane p.act
      let t := (srcB b 1).val p.w l
      if t < 64 ∧ p.act.getLsbD t then finish i p (p.w.setV d.toNat t ((srcA ct a 1).val p.w l) false) c else finish i p p.w c)
/-- R239: the source lane of a shuffle. -/
def shflLane (kind : Nat) (off i : Nat) : Int :=
  match kind with
  | 0 => off
  | 1 => (i : Int) - off
  | 2 => (i : Int) + off
  | _ => (i ^^^ off : Nat)
/-- SHFL (R239). -/
def execShfl (ct : Ctl) (d a : Reg) (kind : BitVec 2) (rel : Bool) (off : BitVec 7) (r : Reg) (s : State) :
    Host.Outcome State Fault Refusal :=
  runIssue s (crossOp 0xA0 ct false .never d 1 [srcA ct a 1, srcC r 1] (fun p l =>
    let o := if rel then warpWidth / 2 ^ (off.toNat % 8) else off.toNat
    fromLane p (srcA ct a 1) (srcC r 1) (shflLane kind.toNat o l) l))
/-- PERM (R240). -/
def execPerm (ct : Ctl) (d a b r : Reg) (s : State) : Host.Outcome State Fault Refusal :=
  runIssue s (crossOp 0xA1 ct false .never d 1 [srcA ct a 1, srcB b 1, srcC r 1] (fun p l =>
    fromLane p (srcA ct a 1) (srcC r 1) ((srcB b 1).val p.w l : Nat) l))
/-- R242: the reduction operations. -/
def redOp (op a b : Nat) : Nat :=
  match op with
  | 0 => (a + b) % 2 ^ 32
  | 1 => if signed 32 a ≤ signed 32 b then a else b
  | 2 => if signed 32 a ≤ signed 32 b then b else a
  | 3 => min a b
  | 4 => max a b
  | 5 => a &&& b
  | 6 => a ||| b
  | 7 => a ^^^ b
  | 8 => fp32.fadd a b
  | 9 => fp32.minMax false a b
  | _ => fp32.minMax true a b
/-- R242: their identities. -/
def redId (op : Nat) : Nat :=
  match op with
  | 1 => 0x7FFFFFFF
  | 2 => 0x80000000
  | 3 => 0xFFFFFFFF
  | 5 => 0xFFFFFFFF
  | 8 => 0x80000000
  | 9 => 0x7F800000
  | 10 => 0xFF800000
  | _ => 0
/-- R242, R243: the values the lanes bring, the identity outside X. -/
def laneVals (p : Prep) (a : Src) (op : Nat) : List Nat :=
  (List.range 64).map (fun l => if p.act.getLsbD l then a.val p.w l else redId op)
/-- R242: one level of the tree. -/
def redLevel (op : Nat) : List Nat → List Nat
  | a :: b :: r => redOp op a b :: redLevel op r
  | l => l
/-- R242: `k` levels of the tree. -/
def redTree (op : Nat) : Nat → List Nat → List Nat
  | 0, l => l
  | k + 1, l => redTree op k (redLevel op l)
/-- R243: one level of the scan, at distance 2^k. -/
def scanLevel (op k : Nat) (x : List Nat) : List Nat :=
  (List.range x.length).map (fun i => if 2 ^ k ≤ i then redOp op (x.getD (i - 2 ^ k) 0) (x.getD i 0) else x.getD i 0)
/-- REDW (R242). -/
def execRedw (ct : Ctl) (d a : Reg) (op : BitVec 4) (s : State) : Host.Outcome State Fault Refusal :=
  runIssue s (crossOp 0xA2 ct false .always d 1 [srcA ct a 1] (fun p _ =>
    (redTree op.toNat 6 (laneVals p (srcA ct a 1) op.toNat)).headD 0))
/-- SCANW (R243). -/
def execScanw (ct : Ctl) (d a : Reg) (op : BitVec 4) (excl : Bool) (s : State) : Host.Outcome State Fault Refusal :=
  runIssue s (crossOp 0xA3 ct false .never d 1 [srcA ct a 1] (fun p l =>
    let x := (List.range 6).foldl (fun y k => scanLevel op.toNat k y) (laneVals p (srcA ct a 1) op.toNat)
    if !excl then x.getD l 0 else if l = 0 then redId op.toNat else x.getD (l - 1) 0))
/-- BALLOT (R244). -/
def execBallot (ct : Ctl) (d a : Reg) (bit : BitVec 5) (s : State) : Host.Outcome State Fault Refusal :=
  runIssue s (crossOp 0xA4 ct false .always d 2 [srcA ct a 1] (fun p _ =>
    (maskOf ((lanesOf p.act).filter (fun l => ((srcA ct a 1).val p.w l).testBit bit.toNat))).toNat))
/-- QSWP (R241). -/
def execQswp (ct : Ctl) (d a : Reg) (mode : BitVec 2) (r : Reg) (s : State) : Host.Outcome State Fault Refusal :=
  runIssue s (crossOp 0xA5 ct ct.hq .never d 1 [srcA ct a 1, srcC r 1] (fun p l =>
    fromLane p (srcA ct a 1) (srcC r 1) (l ^^^ mode.toNat : Nat) l))
/-- QBRD (R241). -/
def execQbrd (ct : Ctl) (d a : Reg) (pos : BitVec 2) (r : Reg) (s : State) : Host.Outcome State Fault Refusal :=
  runIssue s (crossOp 0xA6 ct ct.hq .never d 1 [srcA ct a 1, srcC r 1] (fun p l =>
    fromLane p (srcA ct a 1) (srcC r 1) (4 * (l / 4) + pos.toNat : Nat) l))
/-- ACTMASK (R244). -/
def execActmask (ct : Ctl) (d : Reg) (s : State) : Host.Outcome State Fault Refusal :=
  runIssue s (crossOp 0xA7 ct false .always d 2 [] (fun p _ => p.act.toNat))

end Sys2Proof.Machine
end

