-- ==== Sys2Proof/Machine/Queues.lean ====
section
/-! DEFINITION. Hardware queues (R233-R236). -/

namespace Sys2Proof.Machine

open Sys2Proof

/-- A hardware queue of a cluster. -/
def Chip.hwq (c : Chip) (cl n : Nat) : HwQueue := aget HwQueue.zero (c.cluster cl).hwq n
/-- The chip with a hardware queue replaced; an empty queue belongs to no context. -/
def Chip.setHwq (c : Chip) (cl n : Nat) (q : HwQueue) : Chip :=
  c.setCluster cl { c.cluster cl with hwq := aput HwQueue.zero (c.cluster cl).hwq n (if q.entries = [] then HwQueue.zero else q) }

/-- R233: the capacity of a queue. -/
def hwqRoom : Nat := 512

/-- R235: pops of the executing lanes, in order: entry and status of each lane, and what stays. -/
def popLanes : List Nat → List DWord → List (Nat × Nat × Nat) × List DWord
  | [], q => ([], q)
  | l :: ls, [] => let (r, q) := popLanes ls []; ((l, 2 ^ 64 - 1, 2 ^ 31) :: r, q)
  | l :: ls, e :: es => let (r, q) := popLanes ls es; ((l, e.toNat, es.length) :: r, q)

/-- R235: pushes of the executing lanes, in order: status of each lane, and what stands in the queue. -/
def pushLanes (val : Nat → Nat) : List Nat → List DWord → List (Nat × Nat) × List DWord
  | [], q => ([], q)
  | l :: ls, q =>
    if hwqRoom ≤ q.length then let (r, q') := pushLanes val ls q; ((l, 2 ^ 31) :: r, q')
    else let (r, q') := pushLanes val ls (q ++ [dw (val l)]); ((l, q.length + 1) :: r, q')

/-- R233: the QUEUE trap of a queue that holds another context's entries. -/
def queueTrap (c : Chip) (op cl n tag : Nat) (act : BitVec 64) : Option (Nat × Nat) :=
  let q := c.hwq cl n
  if act != 0 && q.entries != [] && q.owner != tag then some (syndrome 0x14 (opReason op 1), 0) else none

/-- QPOP (R235): lane registers D, D+1 receive the entry, B the status. Helper lanes are suppressed. -/
def execQpop (g : Guard) (_hq : Bool) (fsel : BitVec 2) (d b : Reg) (n : BitVec 4) (s : State) : Host.Outcome State Fault Refusal :=
  runIssue s (fun i c =>
    let flag := flagOf i.hdr fsel.toNat
    withFlag c i flag (match prepLanes { op := 0x8C, g := g, hq := false, d := some (d, 2), ud := .never, srcs := [], also := [(b, 2)] } i c with
      | .error e => .error e
      | .ok p =>
        let cl := clusterOf p.core
        p.orTrap i (queueTrap c 0x8C cl n.toNat (c.tagOf p.w.gang) p.act) (
          let q := c.hwq cl n.toNat
          let (r, left) := popLanes (lanesOf p.act) q.entries
          let (c1, cid) := (c.setHwq cl n.toNat { q with entries := left }).nextCid i.eng
          .ok (c1.issueOp i { Op.blank 0x8C flag cid with
            writes := r.flatMap (fun x => loadWrites d x.1 x.2.1 false 2 0 ++ loadWrites b x.1 x.2.2 false 1 0) }))))

/-- QPUSH (R235): the pair A, A+1 joins the queue, B receives the status. -/
def execQpush (g : Guard) (_hq : Bool) (fsel : BitVec 2) (a b : Reg) (n : BitVec 4) (s : State) : Host.Outcome State Fault Refusal :=
  runIssue s (fun i c =>
    let flag := flagOf i.hdr fsel.toNat
    withFlag c i flag (match prepLanes { op := 0x8D, g := g, hq := false, d := none, ud := .rule,
                                         srcs := [{ code := a, field := 1, n := 2, ia := false }], also := [(b, 2)] } i c with
      | .error e => .error e
      | .ok p =>
        let cl := clusterOf p.core
        let tag := c.tagOf p.w.gang
        p.orTrap i (queueTrap c 0x8D cl n.toNat tag p.act) (
          let q := c.hwq cl n.toNat
          let (r, es) := pushLanes (fun l => p.w.regs a.toNat l 2) (lanesOf p.act) q.entries
          let (c1, cid) := (c.setHwq cl n.toNat { owner := if q.entries = [] then tag else q.owner, entries := es }).nextCid i.eng
          .ok (c1.issueOp i { Op.blank 0x8D flag cid with writes := r.flatMap (fun x => loadWrites b x.1 x.2 false 1 0) }))))

end Sys2Proof.Machine
end

