-- ==== Sys2Proof/Machine/Resets.lean ====
section
/-! DEFINITION. The life of the part: power-up and Hold, resets, clock, ageing, in-field tests, attestation and sensors; errors of memories
(R115, R118, R127, R380, R388, R404-R413). -/

namespace Sys2Proof.Machine

open Sys2Proof

/-- A step of the management side, which may change both sides. -/
def runLife (s : State) (f : Chip → Life → Chip × Life) : Host.Outcome State Fault Refusal :=
  let (c, l) := f s.chip s.life
  .next { s with chip := c, life := l }

/-- R405: an error record joins the 128 of BAR0; the last is overwritten once all are in use. -/
def Life.addError (l : Life) (time : DWord) (code unit : Nat) : Life :=
  let e : ErrRec := { time := time, code := code, unit := unit }
  { l with errors := (if l.errors.length < 128 then l.errors else l.errors.take 127) ++ [e] }

/-- R388: the type 0x0001 record of a power-up or reset, stored at once as the first record after it. -/
def Chip.resetRecord (c : Chip) (cause : Nat) : Chip := (c.emitUnit 4 1 (dw cause)).storeRecord 0xC04

/-- R404, R405: a step of the sequence fails: Hold, the error record, the signal to the host. -/
def hold (step : Nat) (x : Chip × Life) : Chip × Life :=
  (x.1.msix 3, ({ x.2 with state := 3, step := step } : Life).addError x.1.now step 0xC31)

/-- R404, step 3; R410: the marks of a self-test. -/
def Life.selfTest (l : Life) (r : PowerUp) : Life :=
  let l1 := (r.badCores.filter (fun n => n < 512)).foldl Life.markCore l
  (r.badSlicePairs.filter (fun j => j < 32)).foldl (fun (x : Life) j => x.markDomain (256 + j)) l1

/-- R404, step 5; R136, R147: the ports after training. -/
def Chip.trainPorts (c : Chip) (bad : List Nat) : Chip :=
  (List.range 32).foldl (fun (x : Chip) n => x.setLink n (if bad.contains n then Link.zero else { Link.zero with width := 2, up := true })) c

/-- R9, R380, R412: the pairs with an enabled core. -/
def Chip.testPairs (c : Chip) : List Nat := (List.range 256).filter (fun p => c.enabled (2 * p) || c.enabled (2 * p + 1))

/-- R412: the nanoseconds from one in-field test to the next. -/
def Chip.iftInterval (c : Chip) : Nat := c.priv.iftPeriod.toNat * 1000000000 / max 1 c.testPairs.length

/-- R404, step 6; R410, R413: the configuration formed, and the part running; with no legal configuration, Hold. -/
def startPart (x : Chip × Life) : Chip × Life :=
  match x.2.nextFuse with
  | none => hold 6 x
  | some f =>
    let c : Chip := { x.1 with fuse := f, running := true }
    ({ c with priv := { c.priv with iftAt := c.time + c.iftInterval } }, { x.2 with state := 2 })

/-- R406: an image is accepted only when both of its signatures verify. -/
def acceptedImage (x : Signed) : Bool := x.rsa && x.slh

/-- R404: steps 1 and 2; the part then stands in self-test. -/
def powerUpFirst (r : PowerUp) (c : Chip) (l : Life) : Chip × Life :=
  if !(acceptedImage r.own && acceptedImage r.main) then hold 1 (c, l)
  else if !r.lpddr then hold 2 (c, l)
  else (if l.cause = 1 then ({ c with trace := { Trace.reset with poweron := c.now, bufs := c.trace.bufs } } : Chip).resetRecord 1 else c,
    { l with state := 1 })

/-- R404: steps 3 to 6. -/
def powerUpRest (r : PowerUp) (c : Chip) (l : Life) : Chip × Life :=
  let l1 := l.selfTest r
  if !r.arrays then hold 3 (c, l1)
  else if !r.hbm then hold 4 (c, l1)
  else if !r.pcie then hold 5 (c.trainPorts r.badPorts, l1)
  else startPart (c.trainPorts r.badPorts, l1)

/-- POWER_UP_SEQUENCE (R388, R404-R406, R410, R413): the six steps in order, what each finds given by the event. DESIGN CHOICE (log 73): one event
takes the part as far as self-test, which BAR0 shows (R405), and one takes it from there. -/
def execPowerUpSequence (r : PowerUp) (s : State) : Host.Outcome State Fault Refusal :=
  runLife s (fun c l => if l.state = 0 then powerUpFirst r c l else if l.state = 1 then powerUpRest r c l else (c, l))

/-- R386, R388: every accepted record stored. -/
def Chip.drainTrace (c : Chip) : Chip :=
  c.trace.bufs.foldl (fun (x : Chip) b => b.2.recs.foldl (fun (y : Chip) _ => y.storeRecord b.1) x) c

/-- R383, R388-R390: the compute side after a reset: what survives is the LPDDR6 with its marks, the trace store, the time and the sequence
counters, and what has left the part; the lock of the time is to be gained anew. -/
def Chip.afterReset (c : Chip) (cause : Nat) : Chip :=
  let t := c.drainTrace.trace
  let c1 : Chip := { Chip.reset with
    time := c.time, cycle := c.cycle,
    cores := (c.cores.map (fun (p : Nat × Core) => (p.1, { Core.zero with seqW := p.2.seqW, seqM := p.2.seqM, seqD := p.2.seqD }))).filter
      (fun p => p.2 != Core.zero),
    unitSeq := c.unitSeq, freeSeq := c.freeSeq, eccCount := c.eccCount,
    mem := c.mem.filter (fun p => 2 ^ 40 ≤ p.1), pois := c.pois.filter (fun p => 2 ^ 40 ≤ p.1), hostMem := c.hostMem,
    hostOut := c.hostOut, fabricOut := c.fabricOut,
    trace := { t with resets := t.resets + 1, cause := cause, headerAt := t.count, freeze := false, win := 0, bufs := [] } }
  c1.resetRecord cause

/-- R404, R407: a reset with its cause; the power-up sequence follows. -/
def resetPart (cause : Nat) (s : State) : Host.Outcome State Fault Refusal :=
  runLife s (fun c l => (c.afterReset cause, { l with state := 0, step := 0, cause := cause, clock := 1400, dueFits := [] }))

/-- PCIE_FUNDAMENTAL_RESET (R388, R404, R405, R407). -/
def execPcieFundamentalReset (s : State) : Host.Outcome State Fault Refusal := resetPart 2 s

/-- MANAGEMENT_RESET (R388, R404, R405, R407). -/
def execManagementReset (s : State) : Host.Outcome State Fault Refusal := resetPart 3 s

/-- POWER_FAULT (R388, R404, R405, R407). -/
def execPowerFault (s : State) : Host.Outcome State Fault Refusal := resetPart 5 s

/-- THERMAL_TRIP (R388, R404, R405, R407, R408). -/
def execThermalTrip (s : State) : Host.Outcome State Fault Refusal := resetPart 4 s

/-- THERMAL_THROTTLE (R408): the clock falls by 25 MHz, to no less than 1.0 GHz, or rises by the same, to the nominal 1.4 GHz. -/
def execThermalThrottle (hot : Bool) (s : State) : Host.Outcome State Fault Refusal :=
  runLife s (fun c l => (c, { l with clock := if hot then max 1000 (l.clock - 25) else min 1400 (l.clock + 25) }))

/-- AGEING_REFIT (R409, R410): a domain's fit; one that falls due during the pair's in-field test runs after its end. -/
def execAgeingRefit (domain : Nat) (fit : Fit) (s : State) : Host.Outcome State Fault Refusal :=
  runLife s (fun c l =>
    if !c.running || 288 ≤ domain then (c, l)
    else if c.priv.iftActive && domain == c.priv.iftPair.toNat then (c, { l with dueFits := l.dueFits ++ [(domain, fit)] })
    else (c, l.refit domain fit c.time))

/-- R380, R412: the pair to be tested next: the first above the last tested, else the lowest. -/
def Chip.nextPair (c : Chip) : Option Nat :=
  (c.testPairs.find? (fun p => c.priv.iftTested && c.priv.iftPair.toNat < p)).or c.testPairs.head?

/-- R380: the gangs on the cores with a group or child warp on a pair. -/
def Chip.pairGangs (c : Chip) (pair : Nat) : List (Nat × Gang) :=
  c.gangList.filter (fun x => x.2.phase < 2 && (x.2.groups.any (fun gr => !gr.retired && gr.core / 2 == pair)
    || (c.warpsOf x.1).any (fun w => w.1 / 2 == pair)))

/-- IFT_START (R111, R374, R380, R412): the next pair's test: a stop request to every gang on it, with frames reserved, or a deferral. -/
def execIftStart (s : State) : Host.Outcome State Fault Refusal :=
  runChip s (fun c =>
    if !c.running || !c.priv.iftEn || c.priv.iftActive || c.time < c.priv.iftAt then c
    else
      match c.nextPair with
      | none => c
      | some pair =>
        let gs := c.pairGangs pair
        let need := sumOf (gs.map (fun x => if x.2.phase = 0 then c.framesFor x.2 else 0))
        if c.framePool < c.framesUsed + c.resvFrames + need then
          { c with priv := { c.priv with iftDefer := c.priv.iftDefer + 1, iftAt := c.time + 100000000 } }
        else
          let c1 : Chip := { c with iftGangs := gs.map (fun x => x.1),
                                    priv := { c.priv with iftActive := true, iftPair := BitVec.ofNat 8 pair, iftTested := true,
                                                            iftAt := c.time + c.iftInterval } }
          gs.foldl (fun (x : Chip) g =>
            if g.2.phase = 0 then
              let n := c.framesFor g.2
              ({ x with resvFrames := x.resvFrames + n } : Chip).stopGang g.1 (fun k => { k with whyIft := true, reserved := k.reserved + n })
            else x.modGang g.1 (fun k => { k with whyIft := true })) c1)

/-- R412: the gangs a failed test kills: those that it or another save keeps out and whose restore would bring a group or child warp onto a
failed core. -/
def Chip.testKills (c : Chip) (bad : List Nat) : List Nat :=
  (c.gangList.filter (fun x => x.2.phase == 2 && bad.any (fun n => x.2.returnsTo n))).map (fun x => x.1)

/-- IFT_RESULT (R380, R410, R412): a pass, or the failing cores recorded, marked and fenced, and their gangs killed. The test's gangs are
off their cores before it ends. -/
def execIftResult (r : IftOutcome) (s : State) : Host.Outcome State Fault Refusal :=
  runLife s (fun c l =>
    if !c.priv.iftActive || c.iftGangs.any (fun g => ((c.gang g).map (fun k => decide (k.phase < 2))).getD false) then (c, l)
    else
      let pair := c.priv.iftPair.toNat
      let c1 : Chip := { c.iftGangs.foldl (fun (x : Chip) g => x.modGang g (fun k => { k with whyIft := false })) c with
                         iftGangs := [], priv := { c.priv with iftActive := false } }
      let lf : Life := { l.dueFits.foldl (fun (x : Life) f => x.refit f.1 f.2 c.time) l with dueFits := [] }
      match r with
      | .pass => (c1, lf)
      | .fail cause low high =>
        let bad := if low == high then [2 * pair, 2 * pair + 1] else if low then [2 * pair] else [2 * pair + 1]
        let l1 := bad.foldl Life.markCore (lf.addError c.now (0x10 + cause) (bad.headD 0))
        let c2 : Chip := { c1 with fenced := (c1.fenced ++ bad).eraseDups }
        ((c2.testKills bad).foldl (fun (x : Chip) g => x.killGang g 0x11 false none) (c2.msix 3), l1))

/-- R409: the 16 bytes of an entry of the wear log, as the numbers of its fields. -/
def Wear.fields (w : Wear) : List Nat := [w.time, w.delay, w.mv, w.temp]

/-- R406: the digest of the wear log of every domain. -/
def Life.wearDigest (l : Life) : DWord :=
  Sys2Proof.Config.logDigest ((List.range 288).map (fun i => (l.domain i).log.flatMap Wear.fields))

/-- SPDM_ATTESTATION (R406): the measurements; what an image or the wear log measures to is a free value of each. -/
def execSpdmAttestation (s : State) : Host.Outcome State Fault Refusal :=
  runLife s (fun c l => (c, { l with mgmtOut := l.mgmtOut ++
    [.attestation [Sys2Proof.Config.imageMeasure 0, Sys2Proof.Config.imageMeasure 1] c.fuse.config (dw c.srCores) l.wearDigest] }))

/-- R389, R402: what the management controller reads, in every state of the part. -/
def mgmtBytes (c : Chip) (l : Life) (what : MgmtRead) : List Byte :=
  match what with
  | .trace off n => (List.range n).map (fun j => c.trace.byte (off + j))
  | .waits sel => bytesOf 64 (c.snapshot none sel.toNat privSel).toNat
  | .conductor => bytesOf 8 ((c.privRead l 0x468).getD 0) ++ bytesOf 8 ((c.privRead l 0x469).getD 0)
  | .error n => ((l.errors.map ErrRec.bytes)[n]?).getD (bytesOf 32 0)

/-- R389, R402: a read by the management controller answered. -/
def mgmtRead (what : MgmtRead) (s : State) : Host.Outcome State Fault Refusal :=
  runLife s (fun c l => (c, { l with mgmtOut := l.mgmtOut ++ [.bytes (mgmtBytes c l what)] }))

/-- R390: the management controller's discipline of the time: a step forward, never backward, and the slew from now on, of at most 100 ppm. -/
def discipline (step : Nat) (ppm : Int) (s : State) : Host.Outcome State Fault Refusal :=
  runChip s (fun c => { c with time := c.time + step, slewPpm := max (-100) (min 100 ppm) })

/-- PLDM_SENSOR_READ (R411). -/
def execPldmSensorRead (sensor : Sensor) (s : State) : Host.Outcome State Fault Refusal :=
  runLife s (fun c l =>
    (c, { l with mgmtOut := l.mgmtOut ++ [.sensor (match sensor with
      | .residual d => (l.domain d).residual
      | .nextStep => l.daysToStep
      | .untilHold => l.daysToHold)] }))

/-- STREAM_ENTRY_EXPIRE (R127): a detector's entry without a request for 1,024 cycles is cleared. -/
def execStreamEntryExpire (requester entry : Nat) (s : State) : Host.Outcome State Fault Refusal :=
  runChip s (fun c =>
    let es := aget [] c.detectors requester
    match es[entry]? with
    | none => c
    | some e => if c.cycle < e.last + 1024 then c else { c with detectors := aput [] c.detectors requester (es.eraseIdx entry) })

/-- ECC_CORRECTABLE (R115): corrected and counted. -/
def execEccCorrectable (loc : ErrLoc) (s : State) : Host.Outcome State Fault Refusal :=
  runChip s (fun c => match loc with
    | .memory _ => { c with eccCount := c.eccCount + 1 }
    | .bank _ _ _ => { c with eccCount := c.eccCount + 1 }
    | .l1 _ _ => { c with eccCount := c.eccCount + 1 })

/-- R118: a weight-tier line joins its slice's poison list where it finds room, and the host is asked to refill it. -/
def Chip.holdLine (c : Chip) (line : Nat) : Chip :=
  let sl := c.home line
  if c.held.any (fun h => h.line == line) || 16 ≤ (c.held.filter (fun h => h.slice == sl)).length then c
  else ({ c with held := c.held ++ [{ slice := sl, line := line, since := c.time, expired := false }] } : Chip).msix 2

/-- ECC_UNCORRECTABLE (R115, R118): the line or granule is poisoned; a weight-tier line is held for its refill. -/
def execEccUncorrectable (loc : ErrLoc) (s : State) : Host.Outcome State Fault Refusal :=
  runChip s (fun c => match loc with
    | .memory off =>
      let pa := devPa (off / 64 * 64)
      if !offsetExists off then c
      else
        -- R132, R133: the line is no longer sent from an entry of its home
        let c1 : Chip := { c with pois := aput false c.pois (off / 64 * 64) true, mc := closeLine pa c.mc }
        if tierOf pa = 1 then c1.holdLine pa else c1
    | .bank cl b g =>
      if 16384 ≤ g then c
      else
        let k := c.bank cl b
        c.setBank cl b { k with pois := aput false k.pois g true }
    | .l1 core line =>
      c.setCore core { c.core core with l1 := (c.core core).l1.map (fun (e : L1Line) => if e.line = line then { e with pois := true } else e) })

/-- WEIGHT_HOLD_EXPIRE (R118): 10 ms without a refill: the event, and the line's readers get poisoned data. -/
def execWeightHoldExpire (line : Nat) (s : State) : Host.Outcome State Fault Refusal :=
  runChip s (fun c =>
    match c.held.find? (fun h => h.line == devPa line) with
    | none => c
    | some h =>
      if h.expired || c.time < h.since + 10000000 then c
      else ({ c with held := c.held.map (fun (x : HeldLine) => if x.line = h.line then { x with expired := true } else x) } : Chip).emitUnit
        (64 + h.slice) 0x43 (dw (h.line % 2 ^ 64)))

end Sys2Proof.Machine
end

