-- ==== Sys2Proof/Machine/Spawn.lean ====
section
/-! DEFINITION. SPAWN and FORK (R323, R324, R329-R331, R334). -/

namespace Sys2Proof.Machine

open Sys2Proof

/-- R323: the pending children a gang may have. -/
def Kernel.quota (k : Kernel) : Nat := k.spawnWarps * warpWidth

/-- R324: the capacity of a cluster's spawn queue. -/
def spawnRoom : Nat := 8192

/-- R324: why a child is refused: the status, 1 for accepted. -/
def Chip.spawnStatus (c : Chip) (cl g quota : Nat) (j : Nat × Nat) : Nat :=
  let q := (c.cluster cl).spawnQ
  if spawnRoom ≤ q.length then 0b010
  else if quota ≤ (q.filter (fun ch => ch.gang == g)).length then 0b100
  else if (c.bar (.core j.1 j.2)).flags &&& 0xFFF = 0xFFF#16 then 0b110
  else 1

/-- R324: the lanes of a SPAWN in ascending order: the chip, and each lane's status. -/
def spawnLanes (cl g quota entry : Nat) (mk : Nat → (Nat × Nat) × List Word × Nat) : List Nat → Chip → Chip × List (Nat × Nat)
  | [], c => (c, [])
  | l :: ls, c =>
    let (j, payload, unit) := mk l
    let st := c.spawnStatus cl g quota j
    let c1 := if st = 1 then
        let ch : Child := { gang := g, entry := entry, join := j, payload := payload, unit := BitVec.ofNat 32 unit, cycle := c.cycle,
                            due := false }
        let k := c.cluster cl
        let c2 := c.setCluster cl { k with spawnQ := k.spawnQ ++ [ch] }
        let b := c2.bar (.core j.1 j.2)
        c2.setBar (.core j.1 j.2) { b with flags := b.flags + 1 }
      else c.modGang g (fun k => { k with refused := k.refused + 1 })
    let (c3, r) := spawnLanes cl g quota entry mk ls c1
    (c3, (l, st) :: r)

/-- SPAWN (R324). -/
def execSpawn (g : Guard) (d a : Reg) (entry : BitVec 3) (n : BitVec 6) (s : State) : Host.Outcome State Fault Refusal :=
  runIssue s (fun i c =>
    match c.kernelOf (c.gangOf i.eng) with
    | none => .error .wait
    | some kn =>
      let child := c.isChild i.eng
      if !kn.spawnMask.testBit entry.toNat || (!child && (c.barSlot i.eng n.toNat).isNone) || (child && n != 0) then
        .error (illegal9 i 0xB5)
      else
        match prep { op := 0xB5, g := g, hq := false, d := some (d, 1), ud := .never,
                     srcs := [{ code := a, field := 1, n := 4, ia := false }] } i c with
        | .error e => .error e
        | .ok p =>
          if p.act = 0 then .ok (c.advance i)
          else
            let (c0, cid) := c.nextCid i.eng
            let (c1, race) := c0.releaseBy i.eng 3 (some cid)
            let join (l : Nat) : Nat × Nat :=
              if child then ((p.w.lane l).join).getD (p.core, 0) else (p.core, (c.barSlot i.eng n.toNat).getD 0)
            let mk (l : Nat) : (Nat × Nat) × List Word × Nat :=
              (join l, (List.range 4).map (fun k => BitVec.ofNat 32 (p.w.reg (a.toNat + k) l)), unitWord p.core p.slot l child)
            let (c2, sts) := spawnLanes (clusterOf p.core) p.w.gang kn.quota entry.toNat mk (lanesOf p.act) c1
            match c2.warp p.core p.slot with
            | none => .ok c2
            | some w =>
              let w1 := sts.foldl (fun (x : Warp) st => x.setV d.toNat st.1 st.2 false) w
              .ok (((c2.setWarp p.core p.slot (some w1)).advance i).raceAfter race i 0xB5))

/-- R268, R334: the matrix sequencer starts at the kernel's entry. -/
def Chip.startMatrix (c : Chip) (core slot g grp : Nat) (kn : Kernel) : Chip :=
  let m := (c.core core).mat
  let st : Stream := { Stream.zero with st := 1, pos := Pos.at (kn.addr + dw kn.matrix), forker := slot, gang := g, grp := grp }
  c.setMat core { m with s := st, m := [], mstat := 0, prgState := 0, prgOp := 0, chunk := 0, mmas := none, post := none }

/-- R160, R334: the Dray starts at the kernel's entry. -/
def Chip.startDray (c : Chip) (core slot g grp : Nat) (kn : Kernel) : Chip :=
  let st : Stream := { Stream.zero with st := 1, pos := Pos.at (kn.addr + dw kn.copy), forker := slot, gang := g, grp := grp }
  c.setDray core { Dray.zero with s := st }

/-- FORK (R331, R334). DESIGN CHOICE (log 84): of a child's FORK whose D leaves the allocation SPAWN_BLOCK is reported (R50 does not place it). -/
def execFork (d : Reg) (m k : Bool) (s : State) : Host.Outcome State Fault Refusal :=
  runIssue s (fun i c =>
    match c.kernelOf (c.gangOf i.eng) with
    | none => .error .wait
    | some kn =>
      if (!m && !k) || (m && kn.matrix = 0) || (k && kn.copy = 0) then .error (illegal9 i 0xB6)
      else if c.isChild i.eng then .error (laneTrap i (syndrome 0x10 (opReason 0xB6 1)) (lowLane i.lanes) 0)
      else
        match prep { op := 0xB6, g := 0, hq := false, d := some (d, 1), ud := .always, srcs := [] } i c with
        | .error e => .error e
        | .ok p =>
          let (c0, cid) := c.nextCid i.eng
          let (c1, race) := c0.releaseBy i.eng 3 (some cid)
          let newM := m && (c1.core p.core).mat.s.st = 0
          let newK := k && (c1.core p.core).dray.s.st = 0
          let c2 := if newM then c1.startMatrix p.core p.slot p.w.gang p.w.grp kn else c1
          let c3 := if newK then c2.startDray p.core p.slot p.w.gang p.w.grp kn else c2
          let res := (if newM then 1 else 0) + (if newK then 2 else 0)
          match c3.warp p.core p.slot with
          | none => .ok c3
          | some w => .ok (((c3.setWarp p.core p.slot (some ({ p with w := w }.write d.toNat 1 (fun _ => res)))).advance i).raceAfter race i 0xB6))

end Sys2Proof.Machine
end

