-- ==== Sys2Proof/Machine/Dispatch.lean ====
section
/-! DEFINITION. The dispatch: one arm per constructor of Instr, each one call of that instruction's meaning. -/

namespace Sys2Proof.Machine

open Sys2Proof

/-- The meaning of every instruction and step. -/
def exec (i : Instr) (s : State) : Host.Outcome State Fault Refusal :=
  match i with
  | .clauseStart cls h => Sys2Proof.Machine.execClauseStart cls h s
  | .nop => Sys2Proof.Machine.execNop s
  | .mov c d a => Sys2Proof.Machine.execMov c d a s
  | .movi g d imm => Sys2Proof.Machine.execMovi g d imm s
  | .movhi g d a imm => Sys2Proof.Machine.execMovhi g d a imm s
  | .rdlane c d a b cc => Sys2Proof.Machine.execRdlane c d a b cc s
  | .wrlane c d a b => Sys2Proof.Machine.execWrlane c d a b s
  | .sel c d a b cc => Sys2Proof.Machine.execSel c d a b cc s
  | .iadd c d a b => Sys2Proof.Machine.execIadd c d a b s
  | .isub c d a b => Sys2Proof.Machine.execIsub c d a b s
  | .imul c d a b => Sys2Proof.Machine.execImul c d a b s
  | .imulhi c d a b => Sys2Proof.Machine.execImulhi c d a b s
  | .imulhn c d a b => Sys2Proof.Machine.execImulhn c d a b s
  | .imad c d a b cc => Sys2Proof.Machine.execImad c d a b cc s
  | .imin c d a b => Sys2Proof.Machine.execImin c d a b s
  | .iminn c d a b => Sys2Proof.Machine.execIminn c d a b s
  | .imax c d a b => Sys2Proof.Machine.execImax c d a b s
  | .imaxn c d a b => Sys2Proof.Machine.execImaxn c d a b s
  | .iabs c d a => Sys2Proof.Machine.execIabs c d a s
  | .iaddi g d a imm => Sys2Proof.Machine.execIaddi g d a imm s
  | .iadd64 c d a b => Sys2Proof.Machine.execIadd64 c d a b s
  | .imad64 c d a b cc => Sys2Proof.Machine.execImad64 c d a b cc s
  | .iadds c d a b => Sys2Proof.Machine.execIadds c d a b s
  | .isubs c d a b => Sys2Proof.Machine.execIsubs c d a b s
  | .andR c d a b => Sys2Proof.Machine.execAndR c d a b s
  | .orR c d a b => Sys2Proof.Machine.execOrR c d a b s
  | .xorR c d a b => Sys2Proof.Machine.execXorR c d a b s
  | .andn c d a b => Sys2Proof.Machine.execAndn c d a b s
  | .shl c d a b => Sys2Proof.Machine.execShl c d a b s
  | .shr c d a b => Sys2Proof.Machine.execShr c d a b s
  | .sar c d a b => Sys2Proof.Machine.execSar c d a b s
  | .rotr c d a b => Sys2Proof.Machine.execRotr c d a b s
  | .shli g d a imm => Sys2Proof.Machine.execShli g d a imm s
  | .shri g d a imm => Sys2Proof.Machine.execShri g d a imm s
  | .sari g d a imm => Sys2Proof.Machine.execSari g d a imm s
  | .andi g d a imm => Sys2Proof.Machine.execAndi g d a imm s
  | .ori g d a imm => Sys2Proof.Machine.execOri g d a imm s
  | .xori g d a imm => Sys2Proof.Machine.execXori g d a imm s
  | .bfe c d a b => Sys2Proof.Machine.execBfe c d a b s
  | .bfi c d a b cc => Sys2Proof.Machine.execBfi c d a b cc s
  | .popc c d a => Sys2Proof.Machine.execPopc c d a s
  | .clz c d a => Sys2Proof.Machine.execClz c d a s
  | .brev c d a => Sys2Proof.Machine.execBrev c d a s
  | .iset c d a b cond pos => Sys2Proof.Machine.execIset c d a b cond pos s
  | .iseti g d a cond pos imm => Sys2Proof.Machine.execIseti g d a cond pos imm s
  | .fadd c d a b => Sys2Proof.Machine.execFadd c d a b s
  | .fsub c d a b => Sys2Proof.Machine.execFsub c d a b s
  | .fmul c d a b => Sys2Proof.Machine.execFmul c d a b s
  | .ffma c d a b cc => Sys2Proof.Machine.execFfma c d a b cc s
  | .fmin c d a b => Sys2Proof.Machine.execFmin c d a b s
  | .fmax c d a b => Sys2Proof.Machine.execFmax c d a b s
  | .fset c d a b cond pos => Sys2Proof.Machine.execFset c d a b cond pos s
  | .frcp c d a => Sys2Proof.Machine.execFrcp c d a s
  | .frsq c d a => Sys2Proof.Machine.execFrsq c d a s
  | .fsqrt c d a => Sys2Proof.Machine.execFsqrt c d a s
  | .fdiv c d a b => Sys2Proof.Machine.execFdiv c d a b s
  | .fex2 c d a => Sys2Proof.Machine.execFex2 c d a s
  | .flg2 c d a => Sys2Proof.Machine.execFlg2 c d a s
  | .fsinp c d a => Sys2Proof.Machine.execFsinp c d a s
  | .fcosp c d a => Sys2Proof.Machine.execFcosp c d a s
  | .ftanh c d a => Sys2Proof.Machine.execFtanh c d a s
  | .hadd2 c d a b => Sys2Proof.Machine.execHadd2 c d a b s
  | .hmul2 c d a b => Sys2Proof.Machine.execHmul2 c d a b s
  | .hfma2 c d a b cc => Sys2Proof.Machine.execHfma2 c d a b cc s
  | .fscl c d a b => Sys2Proof.Machine.execFscl c d a b s
  | .frnd c d a rm => Sys2Proof.Machine.execFrnd c d a rm s
  | .fclass c d a => Sys2Proof.Machine.execFclass c d a s
  | .cvtf c pk d a b fs => Sys2Proof.Machine.execCvtf c pk d a b fs s
  | .i2f c u d a fs => Sys2Proof.Machine.execI2f c u d a fs s
  | .f2i c u d a fs => Sys2Proof.Machine.execF2i c u d a fs s
  | .bchk c d a fs => Sys2Proof.Machine.execBchk c d a fs s
  | .wfadd count sd sa sb stepd stepa stepb => Sys2Proof.Machine.execWfadd count sd sa sb stepd stepa stepb s
  | .wfmul count sd sa sb stepd stepa stepb => Sys2Proof.Machine.execWfmul count sd sa sb stepd stepa stepb s
  | .wffma count sd sa sb stepd stepa stepb => Sys2Proof.Machine.execWffma count sd sa sb stepd stepa stepb s
  | .wfmax count sd sa sb stepd stepa stepb => Sys2Proof.Machine.execWfmax count sd sa sb stepd stepa stepb s
  | .wiadd count sd sa sb stepd stepa stepb => Sys2Proof.Machine.execWiadd count sd sa sb stepd stepa stepb s
  | .wmov count sd sa stepd stepa => Sys2Proof.Machine.execWmov count sd sa stepd stepa s
  | .wcvt count sd sa fs stepd stepa => Sys2Proof.Machine.execWcvt count sd sa fs stepd stepa s
  | .ldrec g fsel qd q x off => Sys2Proof.Machine.execLdrec g fsel qd q x off s
  | .ld g fsel sz d q x off => Sys2Proof.Machine.execLd g fsel sz d q x off s
  | .st g fsel sz d q x off => Sys2Proof.Machine.execSt g fsel sz d q x off s
  | .ldsx g fsel fs d q x off => Sys2Proof.Machine.execLdsx g fsel fs d q x off s
  | .stsx g fsel fs d q x off => Sys2Proof.Machine.execStsx g fsel fs d q x off s
  | .ldb g fsel sz d x off => Sys2Proof.Machine.execLdb g fsel sz d x off s
  | .stb g fsel sz d x off => Sys2Proof.Machine.execStb g fsel sz d x off s
  | .prf g fsel sz q x off => Sys2Proof.Machine.execPrf g fsel sz q x off s
  | .atom g aop scope sem d q x v => Sys2Proof.Machine.execAtom g aop scope sem d q x v s
  | .atomc g scope sem d q x v => Sys2Proof.Machine.execAtomc g scope sem d q x v s
  | .redm g aop scope sem q x v => Sys2Proof.Machine.execRedm g aop scope sem q x v s
  | .fence scope sem => Sys2Proof.Machine.execFence scope sem s
  | .qpop g hq fsel d b n => Sys2Proof.Machine.execQpop g hq fsel d b n s
  | .qpush g hq fsel a b n => Sys2Proof.Machine.execQpush g hq fsel a b n s
  | .give g fsel d a b => Sys2Proof.Machine.execGive g fsel d a b s
  | .take g fsel d a => Sys2Proof.Machine.execTake g fsel d a s
  | .relb g fsel d a => Sys2Proof.Machine.execRelb g fsel d a s
  | .bmapr g d j => Sys2Proof.Machine.execBmapr g d j s
  | .trig g fsel => Sys2Proof.Machine.execTrig g fsel s
  | .evt g a code => Sys2Proof.Machine.execEvt g a code s
  | .atomw g w8 aop scope sem d x v => Sys2Proof.Machine.execAtomw g w8 aop scope sem d x v s
  | .shfl c d a kind rel off cc => Sys2Proof.Machine.execShfl c d a kind rel off cc s
  | .perm c d a b cc => Sys2Proof.Machine.execPerm c d a b cc s
  | .redw c d a op => Sys2Proof.Machine.execRedw c d a op s
  | .scanw c d a op excl => Sys2Proof.Machine.execScanw c d a op excl s
  | .ballot c d a bit => Sys2Proof.Machine.execBallot c d a bit s
  | .qswp c d a mode cc => Sys2Proof.Machine.execQswp c d a mode cc s
  | .qbrd c d a pos cc => Sys2Proof.Machine.execQbrd c d a pos cc s
  | .actmask c d => Sys2Proof.Machine.execActmask c d s
  | .bra g off => Sys2Proof.Machine.execBra g off s
  | .bri g ia a => Sys2Proof.Machine.execBri g ia a s
  | .call g d off => Sys2Proof.Machine.execCall g d off s
  | .ret g ia a => Sys2Proof.Machine.execRet g ia a s
  | .exit g => Sys2Proof.Machine.execExit g s
  | .spawn g d a entry n => Sys2Proof.Machine.execSpawn g d a entry n s
  | .fork d m k => Sys2Proof.Machine.execFork d m k s
  | .binit g mem n d a b => Sys2Proof.Machine.execBinit g mem n d a b s
  | .arrive g scope mem n d b => Sys2Proof.Machine.execArrive g scope mem n d b s
  | .expb g n a => Sys2Proof.Machine.execExpb g n a s
  | .waitph g scope mem n a b => Sys2Proof.Machine.execWaitph g scope mem n a b s
  | .binitMatrix mem n ma mb => Sys2Proof.Machine.execBinitMatrix mem n ma mb s
  | .arriveMatrix scope mem n ma mb => Sys2Proof.Machine.execArriveMatrix scope mem n ma mb s
  | .expbMatrix n ma => Sys2Proof.Machine.execExpbMatrix n ma s
  | .waitphMatrix scope mem n ma mb => Sys2Proof.Machine.execWaitphMatrix scope mem n ma mb s
  | .binitCopy mem n ka kb => Sys2Proof.Machine.execBinitCopy mem n ka kb s
  | .arriveCopy scope mem n ka kb => Sys2Proof.Machine.execArriveCopy scope mem n ka kb s
  | .expbCopy n ka => Sys2Proof.Machine.execExpbCopy n ka s
  | .waitphCopy scope mem n ka kb => Sys2Proof.Machine.execWaitphCopy scope mem n ka kb s
  | .trap g bk code => Sys2Proof.Machine.execTrap g bk code s
  | .rft g => Sys2Proof.Machine.execRft g s
  | .rdsr g d addr => Sys2Proof.Machine.execRdsr g d addr s
  | .wrsr g addr a => Sys2Proof.Machine.execWrsr g addr a s
  | .waitselWrite g a => Sys2Proof.Machine.execWaitselWrite g a s
  | .nopre g on d => Sys2Proof.Machine.execNopre g on d s
  | .tcfg b td fs => Sys2Proof.Machine.execTcfg b td fs s
  | .tld fsel b td ma fs kblk => Sys2Proof.Machine.execTld fsel b td ma fs kblk s
  | .tst fsel ta ma kblk => Sys2Proof.Machine.execTst fsel ta ma kblk s
  | .mma fsel acc ta tb kblk => Sys2Proof.Machine.execMma fsel acc ta tb kblk s
  | .mmaz fsel acc ta tb kblk => Sys2Proof.Machine.execMmaz fsel acc ta tb kblk s
  | .mmas fsel z acc ma mb fs count kblk => Sys2Proof.Machine.execMmas fsel z acc ma mb fs count kblk s
  | .mpair fsel acc ta tb kblk => Sys2Proof.Machine.execMpair fsel acc ta tb kblk s
  | .mdrn fsel z ma acc fs => Sys2Proof.Machine.execMdrn fsel z ma acc fs s
  | .mdrnb fsel z td acc fs => Sys2Proof.Machine.execMdrnb fsel z td acc fs s
  | .mzero fsel acc => Sys2Proof.Machine.execMzero fsel acc s
  | .tmov fsel td ta => Sys2Proof.Machine.execTmov fsel td ta s
  | .ttrn fsel td ta => Sys2Proof.Machine.execTtrn fsel td ta s
  | .mli cat ma imm => Sys2Proof.Machine.execMli cat ma imm s
  | .madd ma mb => Sys2Proof.Machine.execMadd ma mb s
  | .mbr cond ma mb off => Sys2Proof.Machine.execMbr cond ma mb off s
  | .mexit => Sys2Proof.Machine.execMexit s
  | .mprg ma => Sys2Proof.Machine.execMprg ma s
  | .maddi ma mb imm => Sys2Proof.Machine.execMaddi ma mb imm s
  | .dcopy c ka kb => Sys2Proof.Machine.execDcopy c ka kb s
  | .dmcast c ka kb kc kd slot bar cluster => Sys2Proof.Machine.execDmcast c ka kb kc kd slot bar cluster s
  | .dfill c ka kb => Sys2Proof.Machine.execDfill c ka kb s
  | .dchain c ka kb kc kd => Sys2Proof.Machine.execDchain c ka kb kc kd s
  | .dred c op ka kb => Sys2Proof.Machine.execDred c op ka kb s
  | .dcoll c ka => Sys2Proof.Machine.execDcoll c ka s
  | .dproxy c ka shadow => Sys2Proof.Machine.execDproxy c ka shadow s
  | .dstat ka queue => Sys2Proof.Machine.execDstat ka queue s
  | .dresume ka queue => Sys2Proof.Machine.execDresume ka queue s
  | .dcancel ka queue => Sys2Proof.Machine.execDcancel ka queue s
  | .kli cat ka imm => Sys2Proof.Machine.execKli cat ka imm s
  | .kadd ka kb kc => Sys2Proof.Machine.execKadd ka kb kc s
  | .kaddi ka kb imm => Sys2Proof.Machine.execKaddi ka kb imm s
  | .kbr cond ka kb off => Sys2Proof.Machine.execKbr cond ka kb off s
  | .kexit => Sys2Proof.Machine.execKexit s
  | .kld acq scope ka kb imm => Sys2Proof.Machine.execKld acq scope ka kb imm s
  | .kst rel scope ka kb imm => Sys2Proof.Machine.execKst rel scope ka kb imm s
  | .kprg ka queue => Sys2Proof.Machine.execKprg ka queue s
  | .opComplete id => Sys2Proof.Machine.execOpComplete id s
  | .postedTrapTake core slot => Sys2Proof.Machine.execPostedTrapTake core slot s
  | .gangSaveComplete gang => Sys2Proof.Machine.execGangSaveComplete gang s
  | .gangRestore gang => Sys2Proof.Machine.execGangRestore gang s
  | .killMarkersDone gang => Sys2Proof.Machine.execKillMarkersDone gang s
  | .gangRelaunch gang => Sys2Proof.Machine.execGangRelaunch gang s
  | .warpRetire core slot => Sys2Proof.Machine.execWarpRetire core slot s
  | .groupRetire gang grp => Sys2Proof.Machine.execGroupRetire gang grp s
  | .gangRetire gang => Sys2Proof.Machine.execGangRetire gang s
  | .gridRetire grid => Sys2Proof.Machine.execGridRetire grid s
  | .gridAdmit => Sys2Proof.Machine.execGridAdmit s
  | .priorityAge grid => Sys2Proof.Machine.execPriorityAge grid s
  | .counterStarve core slot => Sys2Proof.Machine.execCounterStarve core slot s
  | .warpAgeLimit core slot => Sys2Proof.Machine.execWarpAgeLimit core slot s
  | .pendingWarpTimeout core => Sys2Proof.Machine.execPendingWarpTimeout core s
  | .warpPromote core => Sys2Proof.Machine.execWarpPromote core s
  | .drayCommandStart core queue => Sys2Proof.Machine.execDrayCommandStart core queue s
  | .drayCommandEnd core queue => Sys2Proof.Machine.execDrayCommandEnd core queue s
  | .drayFaultResume core queue => Sys2Proof.Machine.execDrayFaultResume core queue s
  | .hansomWalkStart core queue => Sys2Proof.Machine.execHansomWalkStart core queue s
  | .turntableGrant core queue => Sys2Proof.Machine.execTurntableGrant core queue s
  | .byteLand core queue => Sys2Proof.Machine.execByteLand core queue s
  | .scoreboardRetire core entry => Sys2Proof.Machine.execScoreboardRetire core entry s
  | .giveAttach core slot => Sys2Proof.Machine.execGiveAttach core slot s
  | .multicastRead core queue => Sys2Proof.Machine.execMulticastRead core queue s
  | .multicastEntryClose line => Sys2Proof.Machine.execMulticastEntryClose line s
  | .streamEntryExpire requester entry => Sys2Proof.Machine.execStreamEntryExpire requester entry s
  | .flitReceive port f => Sys2Proof.Machine.execFlitReceive port f s
  | .flitReplayTimeout port => Sys2Proof.Machine.execFlitReplayTimeout port s
  | .linkRetrain port width => Sys2Proof.Machine.execLinkRetrain port width s
  | .packetDeliver p => Sys2Proof.Machine.execPacketDeliver p s
  | .packetResendTimeout dst cls => Sys2Proof.Machine.execPacketResendTimeout dst cls s
  | .pieceOffer piece => Sys2Proof.Machine.execPieceOffer piece s
  | .admissionHintExpiry piece => Sys2Proof.Machine.execAdmissionHintExpiry piece s
  | .inboundRequest r => Sys2Proof.Machine.execInboundRequest r s
  | .remoteRetry req => Sys2Proof.Machine.execRemoteRetry req s
  | .remoteTimeout req => Sys2Proof.Machine.execRemoteTimeout req s
  | .mailBatchSend queue => Sys2Proof.Machine.execMailBatchSend queue s
  | .mailBatchTimeout queue => Sys2Proof.Machine.execMailBatchTimeout queue s
  | .collectiveCombine coll => Sys2Proof.Machine.execCollectiveCombine coll s
  | .eccCorrectable loc => Sys2Proof.Machine.execEccCorrectable loc s
  | .eccUncorrectable loc => Sys2Proof.Machine.execEccUncorrectable loc s
  | .weightHoldExpire line => Sys2Proof.Machine.execWeightHoldExpire line s
  | .hostMemoryRead bar addr n => Sys2Proof.Machine.execHostMemoryRead bar addr n s
  | .hostMemoryWrite addr bytes => Sys2Proof.Machine.execHostMemoryWrite addr bytes s
  | .hostFetchadd addr w8 val => Sys2Proof.Machine.execHostFetchadd addr w8 val s
  | .hostFillWrite addr bytes => Sys2Proof.Machine.execHostFillWrite addr bytes s
  | .hostRegisterWrite addr val => Sys2Proof.Machine.execHostRegisterWrite addr val s
  | .hostCompletionError req => Sys2Proof.Machine.execHostCompletionError req s
  | .hostWriteRejected addr => Sys2Proof.Machine.execHostWriteRejected addr s
  | .ringDoorbell ring val => Sys2Proof.Machine.execRingDoorbell ring val s
  | .ringConsume ring => Sys2Proof.Machine.execRingConsume ring s
  | .stampPoll ring => Sys2Proof.Machine.execStampPoll ring s
  | .spawnListTimeout cluster gang entry => Sys2Proof.Machine.execSpawnListTimeout cluster gang entry s
  | .childWarpIssue cluster gang entry => Sys2Proof.Machine.execChildWarpIssue cluster gang entry s
  | .mpairStart pair => Sys2Proof.Machine.execMpairStart pair s
  | .mpairTimeout core => Sys2Proof.Machine.execMpairTimeout core s
  | .nopreLimit core slot => Sys2Proof.Machine.execNopreLimit core slot s
  | .deadlinePass d => Sys2Proof.Machine.execDeadlinePass d s
  | .summaryQuery dev nid => Sys2Proof.Machine.execSummaryQuery dev nid s
  | .collectiveQuery dev id => Sys2Proof.Machine.execCollectiveQuery dev id s
  | .queryAnswer walk a => Sys2Proof.Machine.execQueryAnswer walk a s
  | .queryTimeout walk => Sys2Proof.Machine.execQueryTimeout walk s
  | .traceRecordWrite source => Sys2Proof.Machine.execTraceRecordWrite source s
  | .timeLockChange gained sec nsec offset => Sys2Proof.Machine.execTimeLockChange gained sec nsec offset s
  | .powerUpSequence r => Sys2Proof.Machine.execPowerUpSequence r s
  | .pcieFundamentalReset => Sys2Proof.Machine.execPcieFundamentalReset s
  | .managementReset => Sys2Proof.Machine.execManagementReset s
  | .powerFault => Sys2Proof.Machine.execPowerFault s
  | .thermalTrip => Sys2Proof.Machine.execThermalTrip s
  | .thermalThrottle hot => Sys2Proof.Machine.execThermalThrottle hot s
  | .ageingRefit domain fit => Sys2Proof.Machine.execAgeingRefit domain fit s
  | .iftStart => Sys2Proof.Machine.execIftStart s
  | .iftResult r => Sys2Proof.Machine.execIftResult r s
  | .spdmAttestation => Sys2Proof.Machine.execSpdmAttestation s
  | .pldmSensorRead sensor => Sys2Proof.Machine.execPldmSensorRead sensor s
  | .xinvWrite page tag => Sys2Proof.Machine.execXinvWrite page tag s
  | .invalidationComplete => Sys2Proof.Machine.execInvalidationComplete s
  | .pfackWrite count => Sys2Proof.Machine.execPfackWrite count s
  | .pfdoneResolve id => Sys2Proof.Machine.execPfdoneResolve id s
  | .pfdoneFail id => Sys2Proof.Machine.execPfdoneFail id s
  | .killWrite tag => Sys2Proof.Machine.execKillWrite tag s
  | .pwselWrite val => Sys2Proof.Machine.execPwselWrite val s
  | .ringctlSkip => Sys2Proof.Machine.execRingctlSkip s
  | .pqcfgErrClear => Sys2Proof.Machine.execPqcfgErrClear s
  | .conductorBarrierQuery dev nid => Sys2Proof.Machine.execConductorBarrierQuery dev nid s

end Sys2Proof.Machine
end

