-- ==== Sys2Proof/Machine/Sched.lean ====
section
/-! DEFINITION. Fetch, issue and the order of what happens: the issue of one counter of an engine, the choice of warps and counters, the
steps the part takes of itself, the end of a cycle (R18, R22-R24, R36, R39, R40, R356-R359, R374, R386). -/

namespace Sys2Proof.Machine

open Sys2Proof

/-- An outcome of the machine. -/
abbrev Out := Host.Outcome State Fault Refusal

/-- A header with every field zero, for a word that is itself a header. -/
def Header.none : Header :=
  { count := 0, wait := 0, setaEn := false, seta := 0, setbEn := false, setb := 0, trace := false }

/-- R39, R40, R50: the trap of a word that names no instruction. -/
def illegalStop (i : Issue) (w : Nat) (e : Illegal) : Stop :=
  match e with
  | .clause r => laneTrap i (syndrome 2 (opcodeOf w * 65536 + r)) (lowLane i.lanes) 0
  | .instruction r => laneTrap i (syndrome 1 (opcodeOf w * 65536 + r)) (lowLane i.lanes) 0

/-- A stop as an outcome. -/
def stopOut (s : State) (c : Chip) (i : Issue) (st : Stop) : Out :=
  match c.stopAt i st with
  | .ok c1 => .next { s with chip := c1 }
  | .error off => .fault (.reservedOffset off)

/-- R357: whether an operation is one that a flag's wait for is predicted to be long: stalled on the scoreboard, or long as issued. -/
def Op.slow (o : Op) : Bool := o.late.isSome || o.long

/-- R357: whether a lane stands at a demotion point that demotes. -/
def Chip.atDemotion (c : Chip) (e : Eng) (cf : AMap Nat) (l : Lane) : Bool :=
  match l.wait with
  | none => false
  | some r =>
    if l.sync.isSome || r.met then false
    else if r.state = 2 then
      flagsHeld cf (r.phase.setWidth 12)
      && (List.range 12).any (fun k => r.phase.getLsbD k && c.ops.any (fun o => o.eng == e && o.flag == some k && o.slow))
    else r.state = 1 && l.pos.entered && (match l.hdr with
      | none => false
      | some h => h.count.toNat == l.pos.idx)

/-- WARP_DEMOTE (R357): a warp all of whose lane sets stand at such points joins the tail of the pending set. -/
def Chip.demoteWhere (c : Chip) (e : Eng) : Chip :=
  match e with
  | .warp n s =>
    (match c.warp n s with
    | none => c
    | some w =>
      if w.active && !w.handler && w.live != 0 && w.lanes.all (fun l => l.exited || c.atDemotion e w.cf l) then
        c.setWarp n s (some (w.demote c.cycle))
      else c)
  | .matrix _ => c
  | .copy _ => c

/-- After an issue: none is in progress, and the warp is demoted where R357 says. -/
def State.settled (e : Eng) (s : State) : State := { s with chip := ({ s.chip with cur := Option.none } : Chip).demoteWhere e }

/-- An outcome with its next state changed. -/
def Out.map (f : State → State) (o : Out) : Out :=
  match o with
  | .next t => .next (f t)
  | .fault r => .fault r
  | .refused r => .refused r

/-- The machine with an issue in progress. -/
def State.withCur (s : State) (c : Chip) (i : Issue) : State := { s with chip := { c with cur := some i } }

/-- R39: the header fetched for the clause in which the lanes of an engine stand; none where it is still to be fetched. -/
def Chip.hdrAt (c : Chip) (e : Eng) (lanes : BitVec 64) : Option Header :=
  match e with
  | .warp n s => (c.warp n s).bind (fun w => (w.lane (lowLane lanes)).hdr)
  | .matrix _ => (c.stream e).hdr
  | .copy _ => (c.stream e).hdr

/-- R39: the header fetched once by the lanes of an engine that wait at it for its flags; none where they have not begun to wait. -/
def Chip.heldHdr (c : Chip) (e : Eng) (lanes : BitVec 64) : Option Header :=
  let of (w : Option WaitRec) (h : Option Header) : Option Header := if (w.map (fun r => r.state)) = some 2 then h else none
  match e with
  | .warp n s => (c.warp n s).bind (fun w => let l := w.lane (lowLane lanes); of l.wait l.hdr)
  | .matrix _ => of (c.stream e).wait (c.stream e).hdr
  | .copy _ => of (c.stream e).wait (c.stream e).hdr

/-- R36, R40: the word at a position of an entered clause fetched, decoded and run. -/
def runWord (i : Issue) (c : Chip) (s : State) : Out :=
  let tag := c.tagOf (c.gangOf i.eng)
  if i.hdr.count.toNat < i.pos.idx then .next { s with chip := c.place i i.next }
  else
    match c.fetchAt i.eng.core tag i.pos.word.toNat with
    | .error x => stopOut s c i (fetchStop c i tag i.pos.word.toNat x)
    | .ok (w, c1) =>
      match decodeIn i.eng.cls i.hdr i.pos.idx w with
      | .error r => stopOut s c i (illegalStop i w r)
      | .ok k => exec k (s.withCur c1 i)

/-- R36, R39: what stands at a position of an engine's lanes run: a clause's header, or a word of a clause, under the header that was fetched
once for it. DESIGN CHOICE (log 20): where lanes that meet at one word have fetched different headers there, the lowest lane's counts. -/
def runAt (e : Eng) (lanes : BitVec 64) (p : Pos) (s : State) : Out :=
  let c := s.chip
  let tag := c.tagOf (c.gangOf e)
  let i0 : Issue := { eng := e, lanes := lanes, pos := p, hdr := Header.none }
  match if p.entered then c.hdrAt e lanes else c.heldHdr e lanes with
  | some h => if p.entered then runWord { i0 with hdr := h } c s else exec (.clauseStart e.cls h) (s.withCur c i0)
  | none =>
    match c.fetchAt e.core tag p.addr.toNat with
    | .error x => stopOut s c i0 (fetchStop c i0 tag p.addr.toNat x)
    | .ok (h, c1) =>
      if p.entered then runWord { i0 with hdr := Header.ofNat h } (c1.keepHeader e lanes (Header.ofNat h)) s
      else
        match decodeHeader e.cls h with
        | .error r => stopOut s c i0 (illegalStop i0 h r)
        | .ok k => exec k (s.withCur c1 i0)

/-- R373, R374, R386: whether an engine may issue: its gang runs, or waits to stop until a section closes; no record of it waits for a place. -/
def Chip.mayIssue (c : Chip) (e : Eng) : Bool :=
  let g := c.gangOf e
  ((c.gang g).map (fun k => decide (k.phase = 0) || (decide (k.phase = 1) && !k.whyPage && c.sectionsOpen g))).getD false
  && !c.traceFull e.ident

/-- R22: the lane set at a counter of a warp: lanes there that no synchronous operation holds (R44). -/
def Warp.laneSet (w : Warp) (p : Pos) : BitVec 64 :=
  maskOf ((liveLanes 0 w.lanes).filter (fun k => (w.lane k).pos = p && (w.lane k).sync.isNone))

/-- R109, R111: the lanes of an engine that wait at a position for a page. -/
def Chip.pageHeld (c : Chip) (e : Eng) (p : Pos) : BitVec 64 :=
  (c.faults.filter (fun f => f.gang == c.gangOf e && f.pos == p)).foldl (fun (m : BitVec 64) f => match f.party with
    | .lanes n s mask => if e = .warp n s then m ||| mask else m
    | .matrix n => if e = .matrix n then 1 else m
    | .drayStream n => if e = .copy n then 1 else m
    | .drayQueue _ _ => m
    | .coachman => m
    | .mail _ => m) 0

/-- R22, R391: the lane set that may go on among lanes of a warp that stand at one counter. Lanes that arrive where others wait are a lane set of
their own: they go first, except that the lanes at a clause's address start it together once its flags are zero (R39). Of several that wait in
a WAITPH the one whose wait has ended goes, or whose peer is to be asked, else the one of the lowest lane. -/
def Chip.laneGroup (c : Chip) (n s : Nat) (w : Warp) (p : Pos) (m : BitVec 64) : BitVec 64 :=
  let fresh := maskOf ((lanesOf m).filter (fun l => (w.lane l).wait.isNone))
  let group (l : Nat) : BitVec 64 := maskOf ((lanesOf m).filter (fun k => (w.lane k).wait == (w.lane l).wait))
  if p.entered then
    if fresh != 0 then fresh
    else
      group (((lanesOf m).find? (fun l => match (w.lane l).wait with
        | none => true
        | some r => r.met || (nidPeer c r.on && !c.remotes.any (fun q => q.who == .lanes n s (group l) && q.isPoll)))).getD (lowLane m))
  else if fresh != 0 && (lanesOf m).any (fun l => match (w.lane l).wait with
      | none => false
      | some r => flagsHeld w.cf (r.phase.setWidth 12)) then fresh
  else m
where
  /-- R391: whether a node stands on another device. -/
  nidPeer (c : Chip) (on : DWord) : Bool := on.toNat / 2 ^ 42 != c.priv.gwdev.toNat

/-- The lanes that an issue at a position of an engine takes; none where it cannot issue. -/
def Chip.lanesAt (c : Chip) (e : Eng) (p : Pos) : BitVec 64 :=
  if !c.running || !c.mayIssue e then 0
  else match e with
    | .warp n s => (match c.warp n s with
      | none => 0
      | some w => if w.active then c.laneGroup n s w p (w.laneSet p &&& ~~~ c.pageHeld e p) else 0)
    | .matrix _ => if (c.stream e).st = 1 && (c.stream e).sync.isNone && (c.stream e).pos = p && c.pageHeld e p = 0 then 1 else 0
    | .copy _ => if (c.stream e).st = 1 && (c.stream e).sync.isNone && (c.stream e).pos = p && c.pageHeld e p = 0 then 1 else 0

/-- Whether some lanes of an engine have issued the word at a position of an entered clause: they have left it, or wait in it. -/
def Chip.left (c : Chip) (e : Eng) (lanes : BitVec 64) (p : Pos) : Bool :=
  p.entered && (match e with
    | .warp n s => (match c.warp n s with
      | none => true
      | some w => let l := w.lane (lowLane lanes); l.exited || l.pos != p || l.wait.isSome)
    | .matrix _ => (c.stream e).pos != p || (c.stream e).st != 1 || (c.stream e).wait.isSome
    | .copy _ => (c.stream e).pos != p || (c.stream e).st != 1 || (c.stream e).wait.isSome)

/-- R362: the earlier operations, those below `next`, of some lanes of an engine that have issued further. -/
def State.moveOn (e : Eng) (lanes : BitVec 64) (p : Pos) (next : Nat) (s : State) : State :=
  if s.chip.left e lanes p then
    { s with chip := { s.chip with ops := s.chip.ops.map (fun (o : Op) =>
        if o.eng == e && (o.mask &&& lanes) != 0 && o.id < next then { o with moved := true } else o) } }
  else s

/-- After an issue of some lanes of an engine at a position: their earlier operations, those below `next`, and the engine's demotion. -/
def State.issued (e : Eng) (lanes : BitVec 64) (p : Pos) (next : Nat) (s : State) : State := (s.moveOn e lanes p next).settled e

/-- The issue of those of some lanes of an engine that stand at a counter; nothing where none can issue. -/
def issueLanes (e : Eng) (p : Pos) (m : BitVec 64) (s : State) : Out :=
  let lanes := s.chip.lanesAt e p &&& m
  if lanes = 0 then .next s else (runAt e lanes p s).map (State.issued e lanes p s.chip.nextOp)

/-- The issue of one counter of an engine; nothing where it cannot issue. -/
def issueAt (e : Eng) (p : Pos) (s : State) : Out := issueLanes e p (BitVec.allOnes 64) s

/-- Whether an issue would change anything. -/
def ready (s : State) (e : Eng) (p : Pos) : Bool :=
  match issueAt e p s with
  | .next t => t ≠ s
  | .fault _ => true
  | .refused _ => true

/-- R22: the counters of a warp. -/
def Warp.counters (w : Warp) : List Pos :=
  (((liveLanes 0 w.lanes).filter (fun k => (w.lane k).sync.isNone)).map (fun k => (w.lane k).pos)).eraseDups

/-- R22: the most populous of some counters, ties to the lower address; `n` is how many lanes each would issue. -/
def mostOf (n : Pos → Nat) (ps : List Pos) : Option Pos :=
  ps.foldl (fun (r : Option Pos) p => match r with
    | none => some p
    | some q => if n q < n p || (n p == n q && p.word.toNat < q.word.toNat) then some p else some q) none

/-- R24: how often a counter has gone unchosen. -/
def Warp.lagOf (w : Warp) (p : Pos) : Nat := ((w.lag.find? (fun x => x.1 == p)).map (fun x => x.2)).getD 0

/-- R24: of starved counters the one unchosen longest, ties to the lower address. -/
def Warp.longest (w : Warp) (ps : List Pos) : Option Pos :=
  (ps.filter (fun p => 65 ≤ w.lagOf p)).foldl (fun (r : Option Pos) p => match r with
    | none => some p
    | some q => if w.lagOf q < w.lagOf p || (w.lagOf q == w.lagOf p && p.word.toNat < q.word.toNat) then some p else some q) none

/-- R23: the single pipe an opcode uses: special function, load-store, cross-lane, control. -/
def pipeOf (op : Nat) : Option Nat :=
  if 0x47 ≤ op ∧ op ≤ 0x4F then some 0
  else if (0x60 ≤ op ∧ op ≤ 0x66) ∨ (0x80 ≤ op ∧ op ≤ 0x95) then some 1
  else if 0xA0 ≤ op ∧ op ≤ 0xA7 then some 2
  else if 0xB0 ≤ op ∧ op ≤ 0xBF then some 3
  else none

/-- R23, R247: the single pipe of a word; a special-function word with a uniform destination runs on the uniform unit. -/
def wordPipe (w : Nat) : Option Nat := if pipeOf (opcodeOf w) = some 0 ∧ 960 ≤ (LR.ofNat w).d.toNat then none else pipeOf (opcodeOf w)

/-- The word at a position of an entered clause, where it can be fetched. -/
def Chip.wordAt (c : Chip) (e : Eng) (p : Pos) : Option Nat :=
  if !p.entered then none
  else match c.fetchAt e.core (c.tagOf (c.gangOf e)) p.word.toNat with
    | .ok (w, _) => some w
    | .error _ => none

/-- R23: whether the words at two counters of an engine use the same single pipe. -/
def Chip.clash (c : Chip) (e : Eng) (p q : Pos) : Bool :=
  match (c.wordAt e p).bind wordPipe, (c.wordAt e q).bind wordPipe with
  | some a, some b => a == b
  | _, _ => false

/-- R24: the counts of the counters after an issue cycle; of a counter that is chosen none. DESIGN CHOICE (log 21): in an issue cycle in which
a counter has no eligible lane its count stands. -/
def Warp.tally (w : Warp) (ps chosen : List Pos) : List (Pos × Nat) :=
  let now := w.counters
  let old := w.lag.filter (fun x => now.contains x.1 && !ps.contains x.1)
  old ++ (ps.filter (fun p => !chosen.contains p)).map (fun p => (p, if w.lagOf p = 64 then 64 else w.lagOf p + 1))

/-- R22-R24: the counters that a warp issues at in an issue cycle, and the warp that has chosen them: the deferred instruction or the most
populous counter first, then a starved or the next most populous one. DESIGN CHOICE (log 22): a deferred instruction that cannot issue in
the warp's next issue cycle is deferred no longer. DESIGN CHOICE (log 3): a clause's header that is passed takes one of the two places. -/
def Chip.choose (c : Chip) (e : Eng) (w : Warp) (ps : List Pos) : Warp × List Pos :=
  let n (p : Pos) : Nat := (lanesOf (c.lanesAt e p)).length
  let first := match w.deferred with
    | some p => if ps.contains p then some p else mostOf n ps
    | none => mostOf n ps
  match first with
  | none => (w, [])
  | some p =>
    let others := ps.filter (fun q => q != p)
    let second := match w.longest others with
      | some q => some q
      | none => mostOf n others
    let late := second.filter (fun q => c.clash e p q)
    let chosen := if late.isSome then [p] else p :: second.toList
    ({ w with lag := w.tally ps chosen, deferred := late, unchosen := 0 }, chosen)

/-- R356: age: the earlier start, then the lower slot. -/
def oldest (l : List (Nat × Warp × List Pos)) : Option (Nat × Warp × List Pos) :=
  l.foldl (fun (r : Option (Nat × Warp × List Pos)) x => match r with
    | none => some x
    | some y => if x.2.1.start < y.2.1.start || (x.2.1.start == y.2.1.start && x.1 < y.1) then some x else some y) none

/-- R356: the warp chosen among the ready ones: in its handler, unchosen too long, oldest. -/
def chooseWarp (l : List (Nat × Warp × List Pos)) : Option (Nat × Warp × List Pos) :=
  match oldest (l.filter (fun x => x.2.1.handler)) with
  | some x => some x
  | none => match oldest (l.filter (fun x => 256 < x.2.1.unchosen)) with
    | some x => some x
    | none => oldest l

/-- The ready warps of a core's active set with their ready counters. -/
def readyWarps (s : State) (core : Nat) : List (Nat × Warp × List Pos) :=
  ((s.chip.coreWarps core).filter (fun x => x.2.active)).filterMap (fun x =>
    let ps := x.2.counters.filter (fun p => ready s (.warp core x.1) p)
    if ps = [] then none else some (x.1, x.2, ps))

/-- R356: the ready warps that were not chosen; not counted while a handler issues. -/
def passOver (c : Chip) (core chosen : Nat) (l : List (Nat × Warp × List Pos)) : Chip :=
  l.foldl (fun (x : Chip) y =>
    if y.1 = chosen then x else x.setWarp core y.1 (some { y.2.1 with unchosen := if y.2.1.unchosen = 256 then 256 else y.2.1.unchosen + 1 })) c

/-- R364, R109: whether an issue of a state ends in a trap or a stop of its gang. -/
def disturbs (s : State) (t : Turn) : Bool :=
  match t with
  | .chunk _ => false
  | .issue e p lanes => match issueLanes e p lanes s with
    | .next u =>
      (match e with
        | .warp n k => ((u.chip.warp n k).map (fun w => w.handler)).getD false && !((s.chip.warp n k).map (fun w => w.handler)).getD false
        | .matrix _ => (u.chip.stream e).st = 2
        | .copy _ => (u.chip.stream e).st = 2)
      || ((u.chip.gang (s.chip.gangOf e)).map (fun k => k.phase)) != ((s.chip.gang (s.chip.gangOf e)).map (fun k => k.phase))
    | .fault _ => true
    | .refused _ => true

/-- R22, R381: the issues of a warp's chosen counters; where both of them trap the first one's trap is taken, and the other lane set stays at
its instruction. -/
def pairTurns (s : State) (e : Eng) (ps : List Pos) : List Turn :=
  let ts := ps.map (fun p => Turn.issue e p (s.chip.lanesAt e p))
  if 1 < ts.length && ts.all (disturbs s) then ts.take 1 else ts

/-- R22, R356: the issues of a core's warps in a cycle, and the chip that has chosen them. -/
def coreTurns (s : State) (core : Nat) (c : Chip) : Chip × List Turn :=
  let l := readyWarps s core
  match chooseWarp l with
  | none => (c, [])
  | some x =>
    let e : Eng := .warp core x.1
    let (w, ps) := s.chip.choose e x.2.1 x.2.2
    ((if x.2.1.handler then c else passOver c core x.1 l).setWarp core x.1 (some w), pairTurns s e ps)

/-- The issue of a sequencer at its position; none where it would change nothing. -/
def streamTurn (s : State) (e : Eng) : List Turn :=
  let p := (s.chip.stream e).pos
  if (s.chip.stream e).st = 1 && ready s e p then [.issue e p 1] else []

/-- R289: the next chunk of a core's running MMAS; none where there is none or it waits. -/
def chunkTurn (s : State) (core : Nat) : List Turn :=
  if (s.chip.core core).mat.mmas.isSome && !s.chip.traceFull (Eng.matrix core).ident && s.chip.mmasChunk core ≠ s.chip then [.chunk core] else []

/-- The address of the memory barrier that an arrival names; none for a core's barrier. -/
def Chip.arrivalAt (c : Chip) (e : Eng) (lanes : BitVec 64) (k : Instr) : Option Nat :=
  match k with
  | .arrive g _ mem _ _ b =>
    if !mem then none
    else match e with
      | .warp n s => (c.warp n s).bind (fun w => (lanesOf lanes).find? (fun l => w.guard g l)
          |>.map (fun l => w.regs b.toNat l 2))
      | .matrix _ => none
      | .copy _ => none
  | .arriveMatrix _ mem _ _ mb => if mem then some (aget 0 (c.core e.core).mat.m mb.toNat).toNat else none
  | .arriveCopy _ mem _ _ kb => if mem then some (aget 0 (c.core e.core).dray.k kb.toNat).toNat else none
  | _ => none

/-- R204, R206: the index of an engine as a party to the barrier that its arrival names; past every index where its table names it not. -/
def Chip.partyAt (c : Chip) (e : Eng) (lanes : BitVec 64) (w : Nat) : Nat :=
  match (match decodeIn e.cls Header.none 0 w with
    | .ok k => c.arrivalAt e lanes k
    | .error _ => none) with
  | none => e.party.2.2
  | some va => match c.xlate e.core (c.tagOf (c.gangOf e)) va .atomic 0 with
    | .ok (pa, _) => (c.tableParty (pa % 2 ^ 64) c.priv.gwdev.toNat e.core e.party.1 e.party.2.1).getD 128
    | .error _ => 128

/-- The place of an issue among those of its cycle: WRSR first, so that a sticky bit set in the cycle stands (R83); a SPAWN before an EXIT
(R333); then EXPB, BINIT and ARRIVE by ascending party index (R214); then every other word. DESIGN CHOICE (log 3) where no rule orders them. -/
def Chip.rank (c : Chip) (t : Turn) : Nat :=
  match t with
  | .chunk _ => 6 * 256
  | .issue e p lanes =>
    match c.wordAt e p with
    | none => 6 * 256
    | some w =>
      match opcodeOf w with
      | 0xBE => 0
      | 0xB5 => 256
      | 0xB4 => 2 * 256
      | 0xB9 => 3 * 256
      | 0xB7 => 4 * 256
      | 0xB8 => 5 * 256 + c.partyAt e lanes w
      | _ => 6 * 256

/-- R22, R381: the place of an issue that traps is behind every other, so that its warp's other lane set issues in the cycle too. -/
def State.rank (s : State) (t : Turn) : Nat := if disturbs s t then 7 * 256 else s.chip.rank t

/-- A turn put behind those of no higher rank. -/
def insertTurn (x : Nat × Turn) : List (Nat × Turn) → List (Nat × Turn)
  | [] => [x]
  | y :: ys => if y.1 ≤ x.1 then y :: insertTurn x ys else x :: y :: ys

/-- The machine that has chosen the issues of its cycle (R22-R24, R356): by ascending core its warps', its sequencers' and its array unit's,
in the order of their ranks. -/
def State.planned (s : State) : State :=
  let (c, ts) := s.chip.cores.foldl (fun (x : Chip × List Turn) k =>
    let (c, l) := coreTurns s k.1 x.1
    (c, x.2 ++ l ++ streamTurn s (.matrix k.1) ++ streamTurn s (.copy k.1) ++ chunkTurn s k.1)) (s.chip, [])
  let sorted := ts.foldl (fun (l : List (Nat × Turn)) t => insertTurn (s.rank t, t) l) []
  { s with chip := { c with plan := some (sorted.map (fun x => x.2)) } }

/-- One of a cycle's issues performed. -/
def Turn.run (t : Turn) (s : State) : Out :=
  match t with
  | .issue e p lanes => issueLanes e p lanes s
  | .chunk core => .next { s with chip := s.chip.mmasChunk core }

/-- R358, R374: a warp at the end of a cycle: an open section counts while the gang is resident; an eligible pending warp waits. -/
def Warp.cycleEnd (resident : Bool) (w : Warp) : Warp :=
  { w with sectCount := if w.sectOpen && resident then w.sectCount + 1 else w.sectCount,
           unchosen := if w.eligible then min 1024 (w.unchosen + 1) else w.unchosen }

/-- R390: the time after some nominal nanoseconds under the slew in force, and the millionths of a nanosecond left over. -/
def Chip.timeAfter (c : Chip) (ns : Nat) : Nat × Nat :=
  let acc := c.slewFrac + ns * (1000000 + c.slewPpm).toNat
  (c.time + acc / 1000000, acc % 1000000)

/-- The end of a cycle: the cycle and the time go on; of each slice's staging buffer 512 lines leave (log 19), and a requester that has not asked
again for 128 cycles waits at no slice. -/
def State.tick (s : State) : State :=
  let c := s.chip
  let resident (g : Nat) : Bool := ((c.gang g).map (fun k => decide (k.phase < 2))).getD false
  let cores := c.cores.map (fun (p : Nat × Core) => (p.1, { p.2 with warps := p.2.warps.map (fun (q : Nat × Option Warp) =>
    (q.1, q.2.map (fun w => w.cycleEnd (resident w.gang)))) }))
  let m := max 1 s.life.clock
  let t := c.timeAfter ((c.cycle + 1) * 1000 / m - c.cycle * 1000 / m)
  { s with chip := { c with cores := cores, plan := Option.none, staged := stagedAfter c.staged (fun _ => 512),
                            sliceWaits := c.sliceWaits.filter (fun x => c.cycle < x.asked + 128), cycle := c.cycle + 1,
                            time := t.1, slewFrac := t.2 } }

/-- The steps that grids, gangs and their parts may be due for. -/
def lifeEvents (c : Chip) : List Instr :=
  c.gangs.flatMap (fun g => [.killMarkersDone g.1, .gangSaveComplete g.1, .gangRestore g.1, .gangRelaunch g.1]
    ++ ((g.2.map (fun k => (List.range k.groups.length).map (fun j => Instr.groupRetire g.1 j))).getD []) ++ [.gangRetire g.1])
  ++ c.grids.flatMap (fun g => [.gridRetire g.1, .priorityAge g.1]) ++ [.gridAdmit, .iftStart, .iftResult .pass]

/-- The steps that a core's parts may be due for. -/
def coreEvents (n : Nat) (k : Core) : List Instr :=
  k.warps.flatMap (fun w => [.warpRetire n w.1, .nopreLimit n w.1, .postedTrapTake n w.1, .counterStarve n w.1, .warpAgeLimit n w.1])
  ++ [.warpPromote n, .pendingWarpTimeout n, .mpairStart (n / 2), .mpairTimeout n]
  ++ (List.range k.score.length).map (fun j => Instr.scoreboardRetire n j)
  ++ k.gives.map (fun g => Instr.giveAttach n g.slot)
  ++ k.dray.queues.flatMap (fun q => [.drayCommandStart n q.1, .drayFaultResume n q.1, .multicastRead n q.1, .turntableGrant n q.1,
      .byteLand n q.1, .hansomWalkStart n q.1, .drayCommandEnd n q.1])

/-- R326, R327, R333: the steps that the spawn queues may be due for once a cycle's SPAWNs have been performed. -/
def spawnEvents (c : Chip) : List Instr :=
  c.clusters.flatMap (fun cl => (cl.2.spawnQ.map (fun ch => (ch.gang, ch.entry))).eraseDups.flatMap (fun x =>
    [.spawnListTimeout cl.1 x.1 x.2, .childWarpIssue cl.1 x.1 x.2]))

/-- R396, R400: the deadlines that may pass in a cycle, after the completions of the cycle. -/
def deadlineEvents (c : Chip) : List Instr :=
  c.cores.flatMap (fun k => k.2.dray.queues.map (fun q => Instr.deadlinePass (.dcoll k.1 q.1))
    ++ k.2.bars.map (fun b => Instr.deadlinePass (.core k.1 b.1)))
  ++ c.memBars.map (fun b => Instr.deadlinePass (.mem b.1))

/-- The steps that the units of the device may be due for. -/
def deviceEvents (c : Chip) : List Instr :=
  (List.range c.colls.length).map Instr.collectiveCombine
  ++ c.rings.flatMap (fun r => [.ringConsume r.1, .stampPoll r.1])
  ++ c.proxies.flatMap (fun p => [.mailBatchSend p.1, .mailBatchTimeout p.1])
  ++ c.mc.map (fun e => Instr.multicastEntryClose e.line)
  ++ c.held.map (fun h => Instr.weightHoldExpire (h.line % 2 ^ 64))
  ++ c.detectors.flatMap (fun d => (List.range d.2.length).map (fun j => Instr.streamEntryExpire d.1 j))
  ++ c.pieces.flatMap (fun p => [.admissionHintExpiry p.id, .pieceOffer p.id])
  ++ c.remotes.flatMap (fun r => [.remoteRetry r.id, .remoteTimeout r.id])
  ++ c.outFlows.map (fun f => Instr.packetResendTimeout (f.1 / 4) (f.1 % 4))
  ++ c.links.map (fun l => Instr.flitReplayTimeout l.1)
  ++ c.walks.map (fun w => Instr.queryTimeout w.id) ++ [.invalidationComplete]

/-- The steps that the part may be due for, in the order in which the machine tries them. -/
def internalEvents (c : Chip) : List Instr :=
  c.trace.bufs.map (fun b => Instr.traceRecordWrite b.1) ++ c.ops.map (fun o => Instr.opComplete o.id) ++ lifeEvents c
  ++ c.cores.flatMap (fun p => coreEvents p.1 p.2) ++ deviceEvents c

/-- R386: the source of the trace records of the engine or unit that takes a step of the part; none for a step that emits none. -/
def Chip.sourceOf (c : Chip) (i : Instr) : Option Nat :=
  match i with
  | .opComplete id => (c.ops.find? (fun o => o.id == id)).map (fun o => o.eng.ident)
  | .postedTrapTake core _ => some core
  | .warpRetire core _ => some core
  | .nopreLimit core _ => some core
  | .mpairStart pair => some (Eng.matrix (2 * pair)).ident
  | .mpairTimeout core => some (Eng.matrix core).ident
  | .drayCommandStart core _ => some (Eng.copy core).ident
  | .drayFaultResume core _ => some (Eng.copy core).ident
  | .hansomWalkStart core _ => some (Eng.copy core).ident
  | .multicastRead core _ => some (Eng.copy core).ident
  | .drayCommandEnd core _ => some (Eng.copy core).ident
  | .turntableGrant core _ => some (0xC08 + clusterOf core)
  | .byteLand core _ => some (0xC08 + clusterOf core)
  | .gridAdmit => some 0xC00
  | .gridRetire _ => some 0xC00
  | .gangRetire _ => some 0xC00
  | .groupRetire _ _ => some 0xC00
  | .gangRelaunch _ => some 0xC00
  | .gangRestore _ => some 0xC00
  | .gangSaveComplete _ => some 0xC00
  | .killMarkersDone _ => some 0xC00
  | .ringConsume _ => some 0xC00
  | .stampPoll _ => some 0xC00
  | .ringDoorbell _ _ => some 0xC00
  | .ringctlSkip => some 0xC00
  | .collectiveCombine _ => some 0xC01
  | .mailBatchSend _ => some 0xC02
  | .mailBatchTimeout _ => some 0xC02
  | .deadlinePass _ => some 0xC03
  | .summaryQuery _ _ => some 0xC03
  | .collectiveQuery _ _ => some 0xC03
  | .conductorBarrierQuery _ _ => some 0xC03
  | .queryAnswer _ _ => some 0xC03
  | .queryTimeout _ => some 0xC03
  | .packetDeliver p => some (c.portSource p.src.toNat)
  | .inboundRequest r => some (c.portSource r.src.toNat)
  | .pieceOffer n => (c.pieces.find? (fun p => p.id == n)).map (fun p => c.portSource p.dst)
  | .remoteRetry n => (c.remotes.find? (fun r => r.id == n)).map (fun r => c.portSource r.dst)
  | .remoteTimeout n => (c.remotes.find? (fun r => r.id == n)).map (fun r => c.portSource r.dst)
  | .hostMemoryWrite _ _ => some 0xC30
  | .hostFetchadd _ _ _ => some 0xC30
  | .hostFillWrite _ _ => some 0xC30
  | .hostRegisterWrite _ _ => some 0xC30
  | .hostWriteRejected _ => some 0xC30
  | .hostCompletionError _ => some 0xC30
  | .timeLockChange _ _ _ _ => some 0xC31
  | .weightHoldExpire line => some (0xC40 + c.home (devPa line))
  | _ => none

/-- R386: whether the unit that takes a step stalls behind a record of it that finds no place. -/
def Chip.stalls (c : Chip) (i : Instr) : Bool := ((c.sourceOf i).map c.traceFull).getD false

/-- The first step of a list that changes the machine, of those whose unit does not stall (R386). -/
def firstChange (s : State) : List Instr → Option Out
  | [] => none
  | i :: is => if s.chip.stalls i then firstChange s is else match exec i s with
    | .next t => if t = s then firstChange s is else some (.next t)
    | .fault r => some (.fault r)
    | .refused r => some (.refused r)

/-- R39: counters whose header holds them and who have no wait record yet. -/
def parkings (s : State) : List (Eng × Pos) :=
  s.chip.cores.flatMap (fun p =>
    ((s.chip.coreWarps p.1).filter (fun x => x.2.active)).flatMap (fun x =>
      let e : Eng := .warp p.1 x.1
      (x.2.counters.filter (fun q => !q.entered && (lanesOf (x.2.laneSet q)).any (fun l => (x.2.lane l).wait.isNone) &&
        (match s.chip.fetchAt p.1 (s.chip.tagOf x.2.gang) q.addr.toNat with
          | .ok (h, _) => flagsHeld x.2.cf (Header.ofNat h).wait
          | .error _ => false) && ready s e q)).map (fun q => (e, q))))

/-- R404: a power-up sequence in which every step passes. -/
def allPass : PowerUp :=
  { own := { rsa := true, slh := true }, main := { rsa := true, slh := true }, lpddr := true, arrays := true, hbm := true, pcie := true, badCores := [], badSlicePairs := [], badPorts := [] }

/-- R409: the daily fits that are due, of domains with an enabled unit, as their monitors measure. -/
def dueFits (s : State) : List Instr :=
  ((List.range 288).filter (fun i => s.life.fitDue i s.chip.time)).map (fun i =>
    let m := Sys2Proof.Config.monitors i s.chip.time
    Instr.ageingRefit i { delay := m.1, mv := m.2.1, temp := m.2.2 })

/-- The running part, left to itself: the steps that are due, the header waits that begin, the choice of the cycle's issues, these one after
another, the spawn queues and the deadlines, the end of the cycle. -/
def runPart (s : State) : Out :=
  match s.chip.plan with
  | some (t :: ts) => t.run { s with chip := { s.chip with plan := some ts } }
  | some [] =>
    match firstChange s (spawnEvents s.chip ++ deadlineEvents s.chip) with
    | some o => o
    | none => .next s.tick
  | none =>
    match firstChange s (internalEvents s.chip ++ dueFits s) with
    | some o => o
    | none =>
      match parkings s with
      | (e, p) :: _ => issueAt e p s
      | [] => .next s.planned

/-- The machine left to itself: the power-up sequence, the running part, or Hold, in which time and the Brake van go on (R388, R405). -/
def leftAlone (s : State) : Out :=
  if s.life.state < 2 then exec (.powerUpSequence allPass) s
  else if s.life.state = 2 then runPart s
  else match firstChange s (s.chip.trace.bufs.map (fun b => Instr.traceRecordWrite b.1)) with
    | some o => o
    | none => .next s.tick

/-- What an input does. -/
def act (a : Act) (s : State) : Out :=
  match a with
  | .event i => exec i s
  | .issue e p => issueAt e p s
  | .chunk core => .next { s with chip := s.chip.mmasChunk core }
  | .tick => .next s.tick
  | .upset core row grp => .next { s with chip := s.chip.setCore core { s.chip.core core with upset := some { row := row, grp := grp } } }
  | .hostStore addr bytes => .next { s with chip := { s.chip with hostMem := aputN 0 s.chip.hostMem addr bytes } }
  | .declare port canonical => runChip s (fun c => c.declareOrder port canonical)
  | .migrate frame on => runChip s (fun c => c.moveFrame frame on)
  | .mgmtRead what => mgmtRead what s
  | .discipline ns ppm => discipline ns ppm s
  | .route dst ports => .next { s with chip := ({ s.chip with routes := aput [] s.chip.routes dst ports } : Chip).reroute }

end Sys2Proof.Machine
end

