-- ==== Sys2Proof/Machine/Boot.lean ====
section
/-! DEFINITION. A kernel of one word in place on core 0, for the question what that word does as the first instruction of a program. -/

namespace Sys2Proof.Machine

open Sys2Proof

/-- The address of the clause that holds the word. -/
def bootAddr : Nat := 0x10000

/-- The kernel whose first clause holds the word: every resource of a core declared. -/
def bootKernel : Kernel :=
  { addr := dw bootAddr, code := 0, regs := 960, uregs := 64, tiles := 16, banks := 8, barriers := 64, spawnWarps := 1, spawnMask := 255,
    matrix := 1, copy := 1, handler := 0x800, spawn := List.replicate 8 0x1000, fs := List.replicate 8 0, bounds := [] }

/-- The task of that kernel, in context 1. -/
def bootTask : Task :=
  { entry := dw bootAddr, args := 0, tilex := 0, tiley := 0, tilez := 0, succ0 := 0, succ1 := 0, width := 1, flags := 0x20, count := 1,
    tag := 1, status := 0 }

/-- Its one group, on core 0. -/
def bootGroup : Group := { core := 0, slots := [0], bbase := 0, bcount := 8, nbase := 0, ncount := 64, retired := false }

/-- Its grid, running. -/
def bootGrid : Grid :=
  { task := bootTask, kernel := bootKernel, recAddr := 0, recTag := 1, phase := 1, prio := 0, ring := false, posted := 0, aged := 0,
    admitted := 0, triggered := false, relaunches := 0, fail := none, front := none }

/-- The position at which an engine meets the word: at a clause address for a header, else the first word of a clause. -/
def bootPos (w : Nat) : Pos :=
  let op := opcodeOf w
  { addr := dw bootAddr, idx := 0, entered := !(0xF0 ≤ op && op ≤ 0xF3) }

/-- The header of the clause that holds the word: SETA names cf0 and SETB cf1. -/
def bootHeader (cls : Class) : Nat :=
  Header.toNat cls { count := 0, wait := 0, setaEn := true, seta := 0, setbEn := true, setb := 1, trace := false }

/-- The engine of a class on core 0. -/
def bootEng : Class → Eng
  | .lane => .warp 0 0
  | .matrix => .matrix 0
  | .copy => .copy 0

/-- The eight banks of the group, attached to its window slots. -/
def bootBanks : AMap Bank := (List.range 8).map (fun j => (j, { Bank.zero with at_ := some (0, j), gang := some 0, tag := some 1 }))

/-- The window slots of the group. -/
def bootWins : AMap Win := (List.range 8).map (fun j => (j, { Win.zero with gen := 1, w := true, v := true, bank := j }))

/-- The translation of the page of code. -/
def bootTlb : TlbEntry := { tag := 1, level := 0, page := bootAddr / 65536, leaf := dw (bootAddr + 0x3F), entryAt := 0 }

/-- Core 0 with a warp, or a sequencer's stream, at the word. -/
def bootCore (cls : Class) (p : Pos) : Core :=
  let w := Warp.fresh bootKernel 0 0 0 0 false (List.replicate warpWidth (Lane.fresh p false none)) 0
  let st : Stream := { Stream.zero with st := 1, pos := p, forker := 0, gang := 0, grp := 0 }
  let w0 : Warp := if cls = .lane then w else { w with lanes := List.replicate warpWidth (Lane.fresh (Pos.at 0) false none), active := false }
  { Core.zero with
    warps := [(0, some { w0 with active := cls = .lane })],
    tlb := [bootTlb], win := bootWins,
    mat := if cls = .matrix then { Mat.zero with s := st } else Mat.zero,
    dray := if cls = .copy then { Dray.zero with s := st } else Dray.zero }

/-- A part that runs, with the word in place and its issue the next input. -/
def bootState (s : State) (w : Nat) : State :=
  let cls := tableClass w
  let p := bootPos w
  let mem0 := s.chip.mem.filter (fun x => x.1 < bootAddr || bootAddr + 65536 ≤ x.1)
  let word := w % 2 ^ 64
  { s with
    life := { s.life with state := 2 },
    chip := { s.chip with
      running := true, cur := none, plan := none,
      mem := if p.entered then aputN 0 (aputN 0 mem0 bootAddr (bytesOf 8 (bootHeader cls))) (bootAddr + 8) (bytesOf 8 word)
        else aputN 0 mem0 bootAddr (bytesOf 8 word),
      owner := aput noOwner s.chip.owner (bootAddr / 65536) 1,
      cores := aput Core.zero s.chip.cores 0 (bootCore cls p),
      clusters := aput Cluster.zero s.chip.clusters 0 { Cluster.zero with banks := bootBanks },
      grids := aput none s.chip.grids 0 (some bootGrid), nextGrid := max 1 s.chip.nextGrid,
      gangs := aput none s.chip.gangs 0 (some (Gang.fresh 0 0 0 [bootGroup])), nextGang := max 1 s.chip.nextGang },
    agenda := .issue (bootEng cls) p :: s.agenda }

end Sys2Proof.Machine
end

