-- ==== Sys2Proof/Machine/Step.lean ====
section
/-! DEFINITION. One step of the machine: the next input, or what the part does left to itself. -/

namespace Sys2Proof.Machine

open Sys2Proof

/-- R386: whether an input waits for a unit that stalls behind a record of it. -/
def Act.stalls (a : Act) (c : Chip) : Bool :=
  match a with
  | .event i => c.stalls i
  | .chunk core => c.traceFull (Eng.matrix core).ident
  | .issue _ _ => false
  | .tick => false
  | .upset _ _ _ => false
  | .hostStore _ _ => false
  | .route _ _ => false
  | .declare _ _ => false
  | .migrate _ _ => false
  | .mgmtRead _ => false
  | .discipline _ _ => false

/-- One step; an input for a unit that stalls waits while the part goes on. -/
def step (s : State) : Host.Outcome State Fault Refusal :=
  match s.agenda with
  | [] => leftAlone s
  | a :: rest => if a.stalls s.chip then leftAlone s else act a { s with agenda := rest }

/-- The machine with an instruction word in place, so that the next step runs it. -/
def State.withFetchWord (s : State) (nbits w : Nat) : State := bootState s (w % 2 ^ (min nbits 64))

end Sys2Proof.Machine
end

