-- ==== Sys2Proof/Safety.lean ====
section
/-! DEFINITION. The terms in which claims about the part are made: runs, an instruction in issue, when it may execute, what it leaves. -/

namespace Sys2Proof.Machine

open Sys2Proof

/-- A run of `k` steps that ends in a state: no step of it stops. -/
def runsTo (k : Nat) (s t : State) : Prop := core.run k s = .next t

/-- A lane set of the warp in a slot is in issue. -/
structure Issuing (s : State) (i : Issue) (core slot : Nat) (w : Warp) : Prop where
  cur : s.chip.cur = some i
  eng : i.eng = .warp core slot
  warp : s.chip.warp core slot = some w

/-- The machine once the word in issue has ended in a precise trap of its lane set (R362, R364): a syndrome, a lane, an address. -/
def State.trapped (s : State) (i : Issue) (syn lane addr : Nat) : State := { s with chip := s.chip.trapFor i syn lane addr i.lanes }

/-- R50, R53-R55: every register that the instruction names lies in the warp's allocation, a uniform one only where the rule of R54 lets it
stand; R55: the codes that lanes name through a register do so too. -/
def Form.legal (f : Form) (i : Issue) (w : Warp) : Prop :=
  (∀ k ∈ f.regChecks w, k.2.1 = false) ∧ ∀ l ∈ lanesOf (f.active i w), ∀ r ∈ f.srcs, r.okIn w l = true

/-- R46: no operation in flight will write a register that the instruction reads or writes. -/
def Form.free (f : Form) (c : Chip) (i : Issue) (w : Warp) : Prop :=
  (f.g ≠ 0 → c.pending i.eng (f.g.toNat / 32 % 64) 1 = false)
  ∧ (∀ r ∈ f.srcs ++ f.extra, c.pending i.eng r.code.toNat r.n = false)
  ∧ (∀ r ∈ f.also, c.pending i.eng r.1.toNat 1 = false)
  ∧ (∀ d n, f.d = some (d, n) → c.pending i.eng d.toNat n = false)
  ∧ ∀ r ∈ f.srcs, r.ia = true → ∀ l ∈ lanesOf (f.computing i w), c.pending i.eng (r.codeIn w l) r.n = false

/-- R116: no active lane reads a register that carries a poison mark. -/
def Form.clean (f : Form) (i : Issue) (w : Warp) : Prop :=
  ∀ l ∈ lanesOf (f.active i w), ((f.low = false ∨ l = lowLane (f.active i w)) → ∀ r ∈ f.srcs, r.poisIn w l = false)
    ∧ (f.g ≠ 0 → w.pois (f.g.toNat / 32 % 64) l = false)

/-- When a lane instruction's operands let it execute: R46, R50-R55, R116. -/
def Form.Ready (f : Form) (c : Chip) (i : Issue) (w : Warp) : Prop := f.legal i w ∧ f.free c i w ∧ f.clean i w

/-- R39, R40: a lane of the issued set stands at the word after the one in issue, and any other lane where it stood. -/
def Warp.Passed (w w' : Warp) (i : Issue) : Prop :=
  ∀ l, w'.lane l = if i.lanes.getLsbD l && decide (l < w.lanes.length) then { w.lane l with pos := i.pos.after i.hdr, wait := none }
    else w.lane l

/-- R21, R52, R116: the lanes in which a result is written; of a uniform destination, the one lane whose value it takes. -/
def Form.writing (f : Form) (i : Issue) (w : Warp) : BitVec 64 :=
  if f.once then (if f.active i w = 0 then 0 else laneBit (lowLane (f.active i w))) else f.reached i w

/-- What a lane instruction leaves of its warp that writes `n` registers from D in some lanes, sets sticky bits and passes on: `v l` in each
of those lanes, with no mark; every other register, mark and field as it was. -/
structure Wrote (lanes : BitVec 64) (d n : Nat) (v : Nat → Nat) (fl : Flags) (i : Issue) (w w' : Warp) : Prop where
  result : (d + n ≤ 960 ∨ 960 ≤ d) → ∀ l ∈ lanesOf lanes, w'.regs d l n = v l % 2 ^ (32 * n) ∧ w'.poisN d l n = false
  kept : ∀ code l, l < 64 → (code < d ∨ d + n ≤ code ∨ lanes = 0 ∨ (isU code = false ∧ lanes.getLsbD l = false)) →
    w'.reg code l = w.reg code l ∧ w'.pois code l = w.pois code l
  passed : w.Passed w' i
  flags : w'.fpstat = w.fpstat ||| fl
  rest : { w' with v := w.v, vp := w.vp, u := w.u, up := w.up, lanes := w.lanes, fpstat := w.fpstat } = w

/-- The lane instruction in issue completes: in the whole machine only its warp changes, as `Wrote` says. -/
def CompletesWriting (k : Instr) (lanes : BitVec 64) (d n : Nat) (v : Nat → Nat) (fl : Flags) (s : State) (i : Issue) (core slot : Nat)
    (w : Warp) : Prop :=
  ∃ w', exec k s = .next { s with chip := s.chip.setWarp core slot (some w') } ∧ Wrote lanes d n v fl i w w'

end Sys2Proof.Machine
end

