-- ==== Sys2Proof/Certificates/Slice0/Obligations.lean ====
section
/-! DEFINITION. What is claimed of the part, in the words of its rules: statements of parts, then the obligations, each one part or several of a kind. -/

namespace Sys2Proof.Claims

open Sys2Proof Sys2Proof.Machine

/-- A lane instruction that computes a result and writes it: its operands, how many registers D names, the result in a lane, given the
lanes that compute. -/
structure Alu where
  form : Form
  d : Reg
  n : Nat
  val : BitVec 64 → Warp → Nat → Nat

/-- The value of a one-register source in a lane. -/
def word (r : Src) (w : Warp) (l : Nat) : Word := BitVec.ofNat 32 (r.val w l)

/-- The value of a register-pair source in a lane. -/
def pair (r : Src) (w : Warp) (l : Nat) : DWord := BitVec.ofNat 64 (r.val w l)

/-- One source. -/
def Alu.one (op : Nat) (ct : Ctl) (d a : Reg) (f : Word → Word) : Alu :=
  { form := { op := op, g := ct.g, hq := ct.hq, d := some (d, 1), ud := .rule, srcs := [srcA ct a 1] }, d := d, n := 1,
    val := fun _ w l => (f (word (srcA ct a 1) w l)).toNat }

/-- Two sources. -/
def Alu.two (op : Nat) (ct : Ctl) (d a b : Reg) (f : Word → Word → Word) : Alu :=
  { form := { op := op, g := ct.g, hq := ct.hq, d := some (d, 1), ud := .rule, srcs := [srcA ct a 1, srcB b 1] }, d := d, n := 1,
    val := fun _ w l => (f (word (srcA ct a 1) w l) (word (srcB b 1) w l)).toNat }

/-- Three sources. -/
def Alu.three (op : Nat) (ct : Ctl) (d a b r : Reg) (f : Word → Word → Word → Word) : Alu :=
  { form := { op := op, g := ct.g, hq := ct.hq, d := some (d, 1), ud := .rule, srcs := [srcA ct a 1, srcB b 1, srcC r 1] }, d := d, n := 1,
    val := fun _ w l => (f (word (srcA ct a 1) w l) (word (srcB b 1) w l) (word (srcC r 1) w l)).toNat }

/-- Every instruction of a table completes wherever its operands let it, computes what the table says in each lane that executes, and leaves
the rest of the machine as it was. -/
def Computes (table : Instr → Option Alu) : Prop :=
  ∀ k a, table k = some a → k.wf = true → ∀ s i core slot w, Issuing s i core slot w → a.form.Ready s.chip i w →
    CompletesWriting k (a.form.writing i w) a.d.toNat a.n (a.val (a.form.computing i w) w) 0 s i core slot w

/-- A signed sum or difference clamped to 32 bits. -/
def clamp (v : Int) : Word := BitVec.ofInt 32 (max (-2147483648) (min v 2147483647))

/-- R252, R256: integer arithmetic and logic on words. -/
def integer : Instr → Option Alu
  | .iadd ct d a b => some (Alu.two 0x08 ct d a b (fun x y => x + y))
  | .isub ct d a b => some (Alu.two 0x09 ct d a b (fun x y => x - y))
  | .imul ct d a b => some (Alu.two 0x0A ct d a b (fun x y => x * y))
  | .imulhi ct d a b => some (Alu.two 0x0B ct d a b (fun x y => ((x.signExtend 64 * y.signExtend 64) >>> 32).setWidth 32))
  | .imulhn ct d a b => some (Alu.two 0x0C ct d a b (fun x y => ((x.setWidth 64 * y.setWidth 64) >>> 32).setWidth 32))
  | .imad ct d a b r => some (Alu.three 0x0D ct d a b r (fun x y z => x * y + z))
  | .imin ct d a b => some (Alu.two 0x0E ct d a b (fun x y => if y.slt x then y else x))
  | .iminn ct d a b => some (Alu.two 0x0F ct d a b (fun x y => if y.ult x then y else x))
  | .imax ct d a b => some (Alu.two 0x10 ct d a b (fun x y => if x.slt y then y else x))
  | .imaxn ct d a b => some (Alu.two 0x11 ct d a b (fun x y => if x.ult y then y else x))
  | .iabs ct d a => some (Alu.one 0x12 ct d a (fun x => if x.msb then -x else x))
  | .iadds ct d a b => some (Alu.two 0x16 ct d a b (fun x y => clamp (x.toInt + y.toInt)))
  | .isubs ct d a b => some (Alu.two 0x17 ct d a b (fun x y => clamp (x.toInt - y.toInt)))
  | .andR ct d a b => some (Alu.two 0x18 ct d a b (fun x y => x &&& y))
  | .orR ct d a b => some (Alu.two 0x19 ct d a b (fun x y => x ||| y))
  | .xorR ct d a b => some (Alu.two 0x1A ct d a b (fun x y => x ^^^ y))
  | .andn ct d a b => some (Alu.two 0x1B ct d a b (fun x y => x &&& ~~~y))
  | .iaddi g d a imm => some (Alu.one 0x13 (Ctl.ofGuard g) d a (fun x => x + imm.signExtend 32))
  | .andi g d a imm => some (Alu.one 0x23 (Ctl.ofGuard g) d a (fun x => x &&& imm.setWidth 32))
  | .ori g d a imm => some (Alu.one 0x24 (Ctl.ofGuard g) d a (fun x => x ||| imm.setWidth 32))
  | .xori g d a imm => some (Alu.one 0x25 (Ctl.ofGuard g) d a (fun x => x ^^^ imm.setWidth 32))
  | _ => none

/-- R252: arithmetic on register pairs. -/
def wide : Instr → Option Alu
  | .iadd64 ct d a b => some
      { form := { op := 0x14, g := ct.g, hq := ct.hq, d := some (d, 2), ud := .rule, srcs := [srcA ct a 2, srcB b 2] }, d := d, n := 2,
        val := fun _ w l => (pair (srcA ct a 2) w l + pair (srcB b 2) w l).toNat }
  | .imad64 ct d a b r => some
      { form := { op := 0x15, g := ct.g, hq := ct.hq, d := some (d, 2), ud := .rule, srcs := [srcA ct a 1, srcB b 1, srcC r 2] }, d := d,
        n := 2, val := fun _ w l => ((word (srcA ct a 1) w l).setWidth 64 * (word (srcB b 1) w l).setWidth 64 + pair (srcC r 2) w l).toNat }
  | _ => none

/-- R253: shifts and rotations; the amount is the whole second operand. -/
def shifts : Instr → Option Alu
  | .shl ct d a b => some (Alu.two 0x1C ct d a b (fun x s => x <<< s.toNat))
  | .shr ct d a b => some (Alu.two 0x1D ct d a b (fun x s => x >>> s.toNat))
  | .sar ct d a b => some (Alu.two 0x1E ct d a b (fun x s => x.sshiftRight s.toNat))
  | .rotr ct d a b => some (Alu.two 0x1F ct d a b (fun x s => x.rotateRight s.toNat))
  | .shli g d a imm => some (Alu.one 0x20 (Ctl.ofGuard g) d a (fun x => x <<< imm.toNat))
  | .shri g d a imm => some (Alu.one 0x21 (Ctl.ofGuard g) d a (fun x => x >>> imm.toNat))
  | .sari g d a imm => some (Alu.one 0x22 (Ctl.ofGuard g) d a (fun x => x.sshiftRight imm.toNat))
  | _ => none

/-- R254: the effective length of a control value. -/
def effLen (ctl : Word) : Nat := min ((ctl >>> 8).toNat % 64) (32 - ctl.toNat % 32)

/-- R254: the mask of a field of `e` bits. -/
def ones (e : Nat) : Word := (1#32 <<< e) - 1#32

/-- R254, R255: bit fields and counts. -/
def fields : Instr → Option Alu
  | .bfe ct d a b => some (Alu.two 0x26 ct d a b (fun x ctl =>
      let e := effLen ctl
      let f := (x >>> (ctl.toNat % 32)) &&& ones e
      if e = 0 then 0 else if ctl.getLsbD 16 then (f.setWidth e).signExtend 32 else f))
  | .bfi ct d a b r => some (Alu.three 0x27 ct d a b r (fun x ctl y =>
      let pos := ctl.toNat % 32
      let m := ones (effLen ctl) <<< pos
      (x &&& ~~~m) ||| ((y <<< pos) &&& m)))
  | .popc ct d a => some (Alu.one 0x28 ct d a (fun x => BitVec.ofNat 32 ((List.range 32).countP (fun j => x.getLsbD j))))
  | .clz ct d a => some (Alu.one 0x29 ct d a (fun x => BitVec.ofNat 32 (((List.range 32).takeWhile (fun j => !x.getMsbD j)).length)))
  | .brev ct d a => some (Alu.one 0x2A ct d a (fun x => x.reverse))
  | _ => none

/-- R257: the conditions of ISET and ISETI. -/
def condition (cond : BitVec 4) (x y : Word) : Bool :=
  match cond.toNat with
  | 0 => x == y
  | 1 => x != y
  | 2 => x.slt y
  | 3 => !y.slt x
  | 4 => y.slt x
  | 5 => !x.slt y
  | 6 => x.ult y
  | 7 => !y.ult x
  | 8 => y.ult x
  | 9 => !x.ult y
  | 10 => (x &&& y) != 0
  | _ => (x &&& y) == 0

/-- R257: one bit of a word replaced. -/
def setBit (x : Word) (pos : BitVec 5) (b : Bool) : Word := (x &&& ~~~(1#32 <<< pos.toNat)) ||| ((if b then 1#32 else 0#32) <<< pos.toNat)

/-- R257: predicates of integers. -/
def predicates : Instr → Option Alu
  | .iset ct d a b cond pos => some
      { form := { op := 0x2B, g := ct.g, hq := ct.hq, d := some (d, 1), ud := .rule, srcs := [srcA ct a 1, srcB b 1, srcD d] }, d := d, n := 1,
        val := fun _ w l => (setBit (word (srcD d) w l) pos (condition cond (word (srcA ct a 1) w l) (word (srcB b 1) w l))).toNat }
  | .iseti g d a cond pos imm => some
      { form := { op := 0x2C, g := g, hq := false, d := some (d, 1), ud := .rule, srcs := [srcA (Ctl.ofGuard g) a 1, srcD d] }, d := d, n := 1,
        val := fun _ w l => (setBit (word (srcD d) w l) pos (condition cond (word (srcA (Ctl.ofGuard g) a 1) w l) (imm.signExtend 32))).toNat }
  | _ => none

/-- R226: moves and selection. -/
def moves : Instr → Option Alu
  | .mov ct d a => some (Alu.one 0x01 ct d a (fun x => x))
  | .movi g d imm => some { form := { op := 0x02, g := g, hq := false, d := some (d, 1), ud := .rule, srcs := [] }, d := d, n := 1,
                            val := fun _ _ _ => (imm.signExtend 32).toNat }
  | .movhi g d a imm => some (Alu.one 0x03 (Ctl.ofGuard g) d a (fun x => imm ++ x.setWidth 8))
  | .sel ct d a b r => some (Alu.three 0x06 ct d a b r (fun x y z => if z = 0 then y else x))
  | _ => none

/-- R258-R260, R88-R90: floating point on words, each result the format's own operation on exact values. -/
def floats : Instr → Option Alu
  | .fadd ct d a b => some (Alu.two 0x40 ct d a b (fun x y => BitVec.ofNat 32 (fp32.fadd x.toNat y.toNat)))
  | .fsub ct d a b => some (Alu.two 0x41 ct d a b (fun x y => BitVec.ofNat 32 (fp32.fsub x.toNat y.toNat)))
  | .fmul ct d a b => some (Alu.two 0x42 ct d a b (fun x y => BitVec.ofNat 32 (fp32.fmul x.toNat y.toNat)))
  | .ffma ct d a b r => some (Alu.three 0x43 ct d a b r (fun x y z => BitVec.ofNat 32 (fp32.ffma x.toNat y.toNat z.toNat)))
  | .fmin ct d a b => some (Alu.two 0x44 ct d a b (fun x y => BitVec.ofNat 32 (fp32.minMax false x.toNat y.toNat)))
  | .fmax ct d a b => some (Alu.two 0x45 ct d a b (fun x y => BitVec.ofNat 32 (fp32.minMax true x.toNat y.toNat)))
  | .fdiv ct d a b => some (Alu.two 0x4A ct d a b (fun x y => BitVec.ofNat 32 (fp32.div (fp32.unpack x.toNat) (fp32.unpack y.toNat))))
  | .hadd2 ct d a b => some (Alu.two 0x50 ct d a b (fun x y =>
      BitVec.ofNat 16 (fp16.fadd (x.extractLsb' 16 16).toNat (y.extractLsb' 16 16).toNat)
      ++ BitVec.ofNat 16 (fp16.fadd (x.setWidth 16).toNat (y.setWidth 16).toNat)))
  | .hmul2 ct d a b => some (Alu.two 0x51 ct d a b (fun x y =>
      BitVec.ofNat 16 (fp16.fmul (x.extractLsb' 16 16).toNat (y.extractLsb' 16 16).toNat)
      ++ BitVec.ofNat 16 (fp16.fmul (x.setWidth 16).toNat (y.setWidth 16).toNat)))
  | .hfma2 ct d a b r => some (Alu.three 0x52 ct d a b r (fun x y z =>
      BitVec.ofNat 16 (fp16.ffma (x.extractLsb' 16 16).toNat (y.extractLsb' 16 16).toNat (z.extractLsb' 16 16).toNat)
      ++ BitVec.ofNat 16 (fp16.ffma (x.setWidth 16).toNat (y.setWidth 16).toNat (z.setWidth 16).toNat)))
  | .fscl ct d a b => some (Alu.two 0x53 ct d a b (fun x y => BitVec.ofNat 32 (fsclBits x.toNat y.toInt)))
  | .frnd ct d a rm => some (Alu.one 0x54 ct d a (fun x => BitVec.ofNat 32 (frndBits (rndOf rm.toNat) x.toNat)))
  | .fclass ct d a => some (Alu.one 0x55 ct d a (fun x => 1#32 <<< fclassBit x.toNat))
  | .fset ct d a b cond pos => some
      { form := { op := 0x46, g := ct.g, hq := ct.hq, d := some (d, 1), ud := .rule, srcs := [srcA ct a 1, srcB b 1, srcD d] }, d := d, n := 1,
        val := fun _ w l => (setBit (word (srcD d) w l) pos
          (fcond cond.toNat (fp32.unpack (word (srcA ct a 1) w l).toNat) (fp32.unpack (word (srcB b 1) w l).toNat))).toNat }
  | _ => none

/-- R259: the special functions. -/
def functions : Instr → Option Alu
  | .frcp ct d a => some (Alu.one 0x47 ct d a (fun x => BitVec.ofNat 32 (fp32.div (.fin false 1 0) (fp32.unpack x.toNat))))
  | .frsq ct d a => some (Alu.one 0x48 ct d a (fun x => BitVec.ofNat 32 (fp32.rsqrt (fp32.unpack x.toNat))))
  | .fsqrt ct d a => some (Alu.one 0x49 ct d a (fun x => BitVec.ofNat 32 (fp32.sqrt (fp32.unpack x.toNat))))
  | .fex2 ct d a => some (Alu.one 0x4B ct d a (fun x => BitVec.ofNat 32 (fex2Bits x.toNat)))
  | .flg2 ct d a => some (Alu.one 0x4C ct d a (fun x => BitVec.ofNat 32 (flg2Bits x.toNat)))
  | .fsinp ct d a => some (Alu.one 0x4D ct d a (fun x => BitVec.ofNat 32 (fsinpBits x.toNat)))
  | .fcosp ct d a => some (Alu.one 0x4E ct d a (fun x => BitVec.ofNat 32 (fcospBits x.toNat)))
  | .ftanh ct d a => some (Alu.one 0x4F ct d a (fun x => BitVec.ofNat 32 (ftanhBits x.toNat)))
  | _ => none

/-- R237: the highest executing lane at or below lane `j`: its value, or the identity where there is none. -/
def fall (x : BitVec 64) (v : Nat → Word) (own : Word) : Nat → Word
  | 0 => if x.getLsbD 0 then v 0 else own
  | j + 1 => if x.getLsbD (j + 1) then v (j + 1) else fall x v own j

/-- R237: `Src(j, i)`: the value that a lane receives from lane `j`, `own` its identity operand. -/
def source (x : BitVec 64) (v : Nat → Word) (own : Word) (j : Int) : Word := if j < 0 ∨ 64 ≤ j then own else fall x v own j.toNat

/-- R242: the operations of reductions and scans. -/
def combine (op : BitVec 4) (x y : Word) : Word :=
  match op.toNat with
  | 0 => x + y
  | 1 => if y.slt x then y else x
  | 2 => if x.slt y then y else x
  | 3 => if y.ult x then y else x
  | 4 => if x.ult y then y else x
  | 5 => x &&& y
  | 6 => x ||| y
  | 7 => x ^^^ y
  | 8 => BitVec.ofNat 32 (fp32.fadd x.toNat y.toNat)
  | 9 => BitVec.ofNat 32 (fp32.minMax false x.toNat y.toNat)
  | _ => BitVec.ofNat 32 (fp32.minMax true x.toNat y.toNat)

/-- R242: their identities. -/
def identity (op : BitVec 4) : Word :=
  match op.toNat with
  | 1 => 0x7FFFFFFF#32
  | 2 => 0x80000000#32
  | 3 => 0xFFFFFFFF#32
  | 5 => 0xFFFFFFFF#32
  | 8 => 0x80000000#32
  | 9 => 0x7F800000#32
  | 10 => 0xFF800000#32
  | _ => 0#32

/-- R242: the reduction of `2 ^ k` lanes from lane `i` on, the lower half the left operand. -/
def tree (op : BitVec 4) (x : Nat → Word) : Nat → Nat → Word
  | 0, i => x i
  | k + 1, i => combine op (tree op x k i) (tree op x k (i + 2 ^ k))

/-- R243: lane `i` after `k` levels of the scan. -/
def scan (op : BitVec 4) (x : Nat → Word) : Nat → Nat → Word
  | 0, i => x i
  | k + 1, i => if 2 ^ k ≤ i then combine op (scan op x k (i - 2 ^ k)) (scan op x k i) else scan op x k i

/-- R242: what the lanes bring: their value of A, the identity outside the executing lanes. -/
def brought (m : BitVec 64) (op : BitVec 4) (a : Src) (w : Warp) (l : Nat) : Word := if m.getLsbD l then word a w l else identity op

/-- A cross-lane instruction's operands. -/
def crossForm (op : Nat) (ct : Ctl) (hq : Bool) (ud : UDest) (d : Reg) (n : Nat) (srcs : List Src) : Form :=
  { op := op, g := ct.g, hq := hq, d := some (d, n), ud := ud, srcs := srcs }

/-- R237-R244: the cross-lane instructions that write every executing lane; `x` is the set X. -/
def crossings : Instr → Option Alu
  | .rdlane ct d a b r => some
      { form := crossForm 0x04 ct false .always d 1 [srcA ct a 1, srcB b 1, srcC r 1], d := d, n := 1,
        val := fun x w _ => (source x (word (srcA ct a 1) w) (word (srcC r 1) w (lowLane x)) ((srcB b 1).val w (lowLane x) : Nat)).toNat }
  | .shfl ct d a kind rel off r => some
      { form := crossForm 0xA0 ct false .never d 1 [srcA ct a 1, srcC r 1], d := d, n := 1,
        val := fun x w l =>
          let o : Nat := if rel then 64 / 2 ^ (off.toNat % 8) else off.toNat
          let j : Int := if kind = 0 then o else if kind = 1 then l - o else if kind = 2 then l + o else (l ^^^ o : Nat)
          (source x (word (srcA ct a 1) w) (word (srcC r 1) w l) j).toNat }
  | .perm ct d a b r => some
      { form := crossForm 0xA1 ct false .never d 1 [srcA ct a 1, srcB b 1, srcC r 1], d := d, n := 1,
        val := fun x w l => (source x (word (srcA ct a 1) w) (word (srcC r 1) w l) ((srcB b 1).val w l : Nat)).toNat }
  | .redw ct d a op => some
      { form := crossForm 0xA2 ct false .always d 1 [srcA ct a 1], d := d, n := 1,
        val := fun x w _ => (tree op (brought x op (srcA ct a 1) w) 6 0).toNat }
  | .scanw ct d a op excl => some
      { form := crossForm 0xA3 ct false .never d 1 [srcA ct a 1], d := d, n := 1,
        val := fun x w l =>
          if excl then (if l = 0 then (identity op).toNat else (scan op (brought x op (srcA ct a 1) w) 6 (l - 1)).toNat)
          else (scan op (brought x op (srcA ct a 1) w) 6 l).toNat }
  | .ballot ct d a bit => some
      { form := crossForm 0xA4 ct false .always d 2 [srcA ct a 1], d := d, n := 2,
        val := fun x w _ => (maskOf ((List.range 64).filter (fun l => x.getLsbD l && (word (srcA ct a 1) w l).getLsbD bit.toNat))).toNat }
  | .qswp ct d a mode r => some
      { form := crossForm 0xA5 ct ct.hq .never d 1 [srcA ct a 1, srcC r 1], d := d, n := 1,
        val := fun x w l => (source x (word (srcA ct a 1) w) (word (srcC r 1) w l) (l ^^^ mode.toNat : Nat)).toNat }
  | .qbrd ct d a pos r => some
      { form := crossForm 0xA6 ct ct.hq .never d 1 [srcA ct a 1, srcC r 1], d := d, n := 1,
        val := fun x w l => (source x (word (srcA ct a 1) w) (word (srcC r 1) w l) (4 * (l / 4) + pos.toNat : Nat)).toNat }
  | .actmask ct d => some
      { form := crossForm 0xA7 ct false .always d 2 [], d := d, n := 2, val := fun x _ _ => x.toNat }
  | _ => none

/-- The operands of a conversion. -/
def cvtForm (op : Nat) (ct : Ctl) (d : Reg) (srcs : List Src) : Form :=
  { op := op, g := ct.g, hq := ct.hq, d := some (d, 1), ud := .rule, srcs := srcs }

/-- Whether a bound check lets its value go on. -/
def passes : Checked → Bool
  | .pass _ _ _ => true
  | .range _ => false

/-- The value that a bound check lets go on. -/
def passed : Checked → FVal
  | .pass x _ _ => x
  | .range _ => .fin false 0 0

/-- The bits that a bound check puts in place of a value that it clamps. -/
def clampedTo : Checked → Option Word
  | .pass _ k _ => k
  | .range _ => none

/-- The sticky bits that a bound check sets. -/
def raised : Checked → Flags
  | .pass _ _ f => f
  | .range _ => 0

/-- The lanes of a set whose checks all pass. -/
def passing (m : BitVec 64) (chk : Nat → List Checked) : BitVec 64 := maskOf ((lanesOf m).filter (fun l => (chk l).all passes))

/-- R83: the sticky bits of the active lanes of a set. -/
def stickies (m act : BitVec 64) (g : Nat → Flags) : Flags := orFlags ((lanesOf m).map (fun l => if act.getLsbD l then g l else 0))

/-- R85: the sixteen values of the block that lane `l` belongs to: +0 for a lane outside the set; on the uniform unit one value alone. -/
def block (m : BitVec 64) (once : Bool) (v : Nat → FVal) (l : Nat) : List FVal :=
  (List.range 16).map (fun j =>
    let k := if once then l + j else l / 16 * 16 + j
    if (!once || j == 0) && m.getLsbD k then v k else .fin false 0 0)

/-- A control instruction's operands. -/
def ctlForm (op : Nat) (g : Guard) (d : Option (Reg × Nat)) (ud : UDest) (srcs : List Src) (low : Bool := false) : Form :=
  { op := op, g := g, hq := false, d := d, ud := ud, srcs := srcs, low := low }

/-- R39, R320: the next clause address after the clause in issue. -/
def nextClause (i : Issue) : DWord := i.pos.addr + BitVec.ofNat 64 (8 * (i.hdr.count.toNat + 2))

/-- R320: the clause address an offset names from the header of the clause in issue. -/
def branchTarget (i : Issue) (off : BitVec 24) : DWord := i.pos.addr + 8 * off.signExtend 64

/-- A clause address not yet entered. -/
def clauseAt (a : DWord) : Pos := { addr := a, idx := 0, entered := false }

/-- R320-R322: every executing lane of the issued set stands at its target, the others of the set at the next clause. -/
def Transferred (act : BitVec 64) (tgt : Nat → DWord) (i : Issue) (w w' : Warp) : Prop :=
  ∀ l, w'.lane l = if i.lanes.getLsbD l && decide (l < w.lanes.length) then
      { w.lane l with pos := clauseAt (if act.getLsbD l then tgt l else nextClause i), wait := none }
    else w.lane l

/-- The pair A, A+1 as a source. -/
def srcPair (a : Reg) (ia : Bool) : Src := { code := a, field := 1, n := 2, ia := ia }

/-- The warp in a slot after a step. -/
def warpIn (t : State) (core slot : Nat) : Option Warp := t.chip.warp core slot

/-- R235: what the `j`th of the executing lanes takes from a queue: the entry and the status. -/
def popped (es : List DWord) (j : Nat) : DWord × Nat :=
  match es[j]? with
  | some e => (e, es.length - j - 1)
  | none => (BitVec.allOnes 64, 2 ^ 31)

/-- R42-R44: an operation in flight as its issue leaves it. -/
def inFlight (c : Chip) (i : Issue) (o : Op) : Op :=
  { o with id := c.nextOp, eng := i.eng, mask := i.lanes, pos := i.pos, gang := c.gangOf i.eng }

/-- R42: the register writes of an operation, made in a warp. -/
def written (ws : List (Nat × Word × Bool)) (us : List (Nat × Word × Bool)) (w w' : Warp) : Prop :=
  (∀ k, aget 0 w'.v k = ((ws.reverse.find? (fun x => x.1 == k)).map (fun x => x.2.1)).getD (aget 0 w.v k))
  ∧ (∀ k, aget 0 w'.u k = ((us.reverse.find? (fun x => x.1 == k)).map (fun x => x.2.1)).getD (aget 0 w.u k))

/-- R364: the clause address of the handler of a kernel. -/
def handlerAt (kn : Kernel) : Pos := clauseAt (kn.addr + BitVec.ofNat 64 kn.handler)

/-- R365: what a trap puts into the trap registers of a warp whose task has tile `tile`. -/
def trapRegs (t : TrapInfo) (tile : DWord) (core slot : Nat) (child : Bool) : TrapRegs :=
  { pc := t.pos.addr, idx := BitVec.ofNat 5 t.pos.idx, ent := t.pos.entered, posted := t.posted, abandon := false,
    syn := BitVec.ofNat 32 t.syn,
    unit := BitVec.ofNat 32 (t.kind * 2 ^ 30 + (if child then 2 ^ 28 else 0) + core / 256 * 2 ^ 27 + core / 128 * 2 ^ 25 + core * 2 ^ 16
      + t.queue * 2 ^ 13 + slot * 2 ^ 8 + t.lane),
    tile := tile, addr := BitVec.ofNat 64 t.addr, mask0 := t.mask, inner := BitVec.ofNat 32 t.inner, mask1 := 0, stopped := t.stopped }

/-- R334: a sequencer's stream as FORK starts it. -/
def forked (a : DWord) (slot gang grp : Nat) : Stream :=
  { Stream.zero with st := 1, pos := clauseAt a, forker := slot, gang := gang, grp := grp }

/-- R371: the unprivileged special registers: the first and the last address of each run of them. -/
def readableRegisters : List (Nat × Nat) :=
  [(0x000, 0x004), (0x008, 0x017), (0x020, 0x022), (0x030, 0x040), (0x050, 0x060), (0x070, 0x070), (0x080, 0x080), (0x090, 0x091),
   (0x0A0, 0x0A9), (0x0C0, 0x0C9)]

/-- R252, R256: each integer instruction on words writes the result of its line in every lane that executes, and changes nothing else. -/
def IntegerResults : Prop := Computes integer

/-- R252: the 64-bit sum and multiply-add on register pairs. -/
def PairResults : Prop := Computes wide

/-- R253: shifts by any amount. -/
def ShiftResults : Prop := Computes shifts

/-- R257: ISET and ISETI write one bit of D. -/
def PredicateResults : Prop := Computes predicates

/-- R258, R260, R88-R90, R257: floating point in the lanes. -/
def FloatResults : Prop := Computes floats

/-- R259: the special functions. -/
def FunctionResults : Prop := Computes functions

/-- R237-R244: the cross-lane instructions, through one set of executing lanes. The model's choice (log entry 37): the result that an active lane
takes from a marked helper lane through QSWP and QBRD carries no mark. -/
def CrossLanes : Prop := Computes crossings

/-- R240: WRLANE sets one lane of D to the value of the lowest executing lane, where the index names an executing lane; else nothing. -/
def WriteLaneResult : Prop :=
  ∀ (ct : Ctl) (d a b : Reg) s i core slot w,
    let f : Form := { op := 0x05, g := ct.g, hq := false, d := some (d, 1), ud := .never, srcs := [srcA ct a 1, srcB b 1] }
    let x := f.active i w
    let t := (srcB b 1).val w (lowLane x)
    Issuing s i core slot w → f.Ready s.chip i w →
    CompletesWriting (.wrlane ct d a b) (if x.getLsbD t then laneBit t else 0) d.toNat 1 (fun _ => (srcA ct a 1).val w (lowLane x)) 0 s i core
      slot w

/-- R86: I2F converts the slot's integers to its floats, and F2I back, with ISAT where a value does not fit or is no number. -/
def IntegerConversions : Prop :=
  ∀ (ct : Ctl) (u : Bool) (d a : Reg) (fs : BitVec 3) s i core slot w,
    let sl := s.chip.slot i.eng fs.toNat
    let v (l : Nat) : Nat := (srcA ct a 1).val w l
    Issuing s i core slot w →
    ((cvtForm 0x59 ct d [srcA ct a 1]).Ready s.chip i w → (sl.fa = 6 ∨ sl.fa = 7) → sl.fb < 3 →
      CompletesWriting (.i2f ct u d a fs) ((cvtForm 0x59 ct d [srcA ct a 1]).writing i w) d.toNat 1
        (fun l => convertTo sl.fb sl (intSource sl.fa u (v l))) 0 s i core slot w)
    ∧ ((cvtForm 0x5A ct d [srcA ct a 1]).Ready s.chip i w → sl.fa < 3 → (sl.fb = 6 ∨ sl.fb = 7) →
      let f := cvtForm 0x5A ct d [srcA ct a 1]
      CompletesWriting (.f2i ct u d a fs) (f.writing i w) d.toNat 1
        (fun l => (floatToInt sl.fb u sl.rnd (widen sl.fa (v l))).1)
        (stickies (f.writing i w) (f.active i w) (fun l => if (floatToInt sl.fb u sl.rnd (widen sl.fa (v l))).2 then flagISAT else 0))
        s i core slot w)

/-- R85, R87, R81: CVTF and BCHK where no active lane's check traps: each lane that computes and whose checks pass gets its value, bounded and
converted; the sticky bits of the active lanes are set. The model's choice (log entry 15): a block's overflow and underflow are raised by each
active lane of the block. -/
def BoundedConversions : Prop :=
  ∀ (ct : Ctl) (d a b : Reg) (fs : BitVec 3) s i core slot w,
    let sl := s.chip.slot i.eng fs.toNat
    let chk (r : Src) (l : Nat) : Checked := boundCheck (s.chip.bounds i.eng) sl (widen sl.fa (r.val w l))
    let A := srcA ct a 1
    let B := srcB b 1
    Issuing s i core slot w →
    (let f := cvtForm 0x58 ct d [A]
     let m := passing (f.writing i w) (fun l => [chk A l])
     f.Ready s.chip i w → sl.fa < 3 → sl.fb < 3 → (∀ l ∈ lanesOf (f.writing i w), (f.active i w).getLsbD l → passes (chk A l)) →
     CompletesWriting (.cvtf ct false d a 0 fs) m d.toNat 1 (fun l => convertTo sl.fb sl (passed (chk A l)))
       (stickies m (f.active i w) (fun l => raised (chk A l))) s i core slot w)
    ∧ (let f := cvtForm 0x58 ct d [A, B]
     let m := passing (f.writing i w) (fun l => [chk A l, chk B l])
     f.Ready s.chip i w → sl.fa = 0 → (sl.fb = 1 ∨ sl.fb = 2) →
     (∀ l ∈ lanesOf (f.writing i w), (f.active i w).getLsbD l → passes (chk A l) ∧ passes (chk B l)) →
     CompletesWriting (.cvtf ct true d a b fs) m d.toNat 1
       (fun l => convertTo sl.fb sl (passed (chk A l)) + 65536 * convertTo sl.fb sl (passed (chk B l)))
       (stickies m (f.active i w) (fun l => raised (chk A l) ||| raised (chk B l))) s i core slot w)
    ∧ (let f := cvtForm 0x58 ct d [A]
     let m := passing (f.writing i w) (fun l => [chk A l])
     let blk (l : Nat) := toSX sl.fb sl.sb sl.rnd sl.sat (block m f.once (fun k => passed (chk A k)) l)
     f.Ready s.chip i w → sl.fa = 0 → isSx sl.fb → (∀ l ∈ lanesOf (f.writing i w), (f.active i w).getLsbD l → passes (chk A l)) →
     CompletesWriting (.cvtf ct false d a 0 fs) m d.toNat 1
       (fun l => fp32.pack .rne false (sxElement sl.fb sl.sb ((blk l).1.bytes sl.fb) (if f.once then 0 else l % 16)))
       (stickies m (f.active i w) (fun l => raised (chk A l) ||| (blk l).2)) s i core slot w)
    ∧ (let f := cvtForm 0x5B ct d [A]
     let m := passing (f.writing i w) (fun l => [chk A l])
     f.Ready s.chip i w → sl.fa = 0 → (∀ l ∈ lanesOf (f.writing i w), (f.active i w).getLsbD l → passes (chk A l)) →
     CompletesWriting (.bchk ct d a fs) m d.toNat 1
       (fun l => match clampedTo (chk A l) with
         | some k => k.toNat
         | none => A.val w l)
       (stickies m (f.active i w) (fun l => raised (chk A l))) s i core slot w)

/-- R81, R85, R87, R8: a bound check that traps in an active lane ends CVTF, in its plain, block and pair forms, and BCHK with RANGE for the
lowest such lane, of a pair for the value of A first: nothing is written, no sticky bit is set. -/
def ConversionRanges : Prop :=
  ∀ (ct : Ctl) (d a b : Reg) (fs : BitVec 3) s i core slot w l detail,
    let sl := s.chip.slot i.eng fs.toNat
    let chk (r : Src) (k : Nat) : Checked := boundCheck (s.chip.bounds i.eng) sl (widen sl.fa (r.val w k))
    let A := srcA ct a 1
    let B := srcB b 1
    Issuing s i core slot w →
    (∀ k op, ((k = Instr.cvtf ct false d a 0 fs ∧ op = 0x58 ∧ ((sl.fa < 3 ∧ sl.fb < 3) ∨ (sl.fa = 0 ∧ isSx sl.fb = true)))
        ∨ (k = Instr.bchk ct d a fs ∧ op = 0x5B ∧ sl.fa = 0)) →
      let f := cvtForm op ct d [A]
      f.Ready s.chip i w → (f.active i w).getLsbD l → l ∈ lanesOf (f.writing i w) → chk A l = .range detail →
      (∀ j ∈ lanesOf (f.writing i w), j < l → (f.active i w).getLsbD j → passes (chk A j)) →
      exec k s = .next (s.trapped i (0x09 * 2 ^ 24 + (op * 65536 + detail) % 2 ^ 24) l 0))
    ∧ (let f := cvtForm 0x58 ct d [A, B]
      f.Ready s.chip i w → sl.fa = 0 → (sl.fb = 1 ∨ sl.fb = 2) → (f.active i w).getLsbD l → l ∈ lanesOf (f.writing i w) →
      (chk A l = .range detail ∨ (passes (chk A l) ∧ chk B l = .range detail)) →
      (∀ j ∈ lanesOf (f.writing i w), j < l → (f.active i w).getLsbD j → passes (chk A j) ∧ passes (chk B j)) →
      exec (.cvtf ct true d a b fs) s = .next (s.trapped i (0x09 * 2 ^ 24 + (0x58 * 65536 + detail) % 2 ^ 24) l 0))

/-- R78: a valid slot whose formats do not suit CVTF, in either form, I2F, F2I or BCHK ends it with FORMAT in the lowest active lane, nothing
written; R85: a pair of formats that CVTF accepts and its pair form does not ends that form with ILLEGAL_INSTRUCTION, reason 9. -/
def ConversionFormats : Prop :=
  ∀ (ct : Ctl) (u pk : Bool) (d a b : Reg) (fs : BitVec 3) s i core slot w,
    let sl := s.chip.slot i.eng fs.toNat
    let A := srcA ct a 1
    let suits := decide (sl.fa < 3) && decide (sl.fb < 6) && (!isSx sl.fb || sl.fa == 0)
    Issuing s i core slot w →
    (∀ k op srcs ok, (k, op, srcs, ok) ∈
        [(Instr.cvtf ct pk d a (if pk then b else 0) fs, 0x58, if pk then [A, srcB b 1] else [A], suits),
         (Instr.i2f ct u d a fs, 0x59, [A], (sl.fa == 6 || sl.fa == 7) && decide (sl.fb < 3)),
         (Instr.f2i ct u d a fs, 0x5A, [A], decide (sl.fa < 3) && (sl.fb == 6 || sl.fb == 7)),
         (Instr.bchk ct d a fs, 0x5B, [A], sl.fa == 0)] →
      let f := cvtForm op ct d srcs
      f.Ready s.chip i w → f.active i w ≠ 0 → ok = false →
      exec k s = .next (s.trapped i (0x0A * 2 ^ 24 + (op * 65536 + fs.toNat * 256 + sl.fa * 16 + sl.fb) % 2 ^ 24) (lowLane (f.active i w)) 0))
    ∧ (suits = true → (sl.fa ≠ 0 ∨ (sl.fb ≠ 1 ∧ sl.fb ≠ 2)) →
      exec (.cvtf ct true d a b fs) s = .next (s.trapped i (0x01 * 2 ^ 24 + 0x58 * 65536 + 9) (lowLane i.lanes) 0))

/-- R250, R39: NOP passes on and changes nothing else; a header whose class is the engine's and whose flags are clear is entered. -/
def WordsWithoutEffect : Prop :=
  (∀ s i core slot w, Issuing s i core slot w →
    ∃ w', exec .nop s = .next { s with chip := s.chip.setWarp core slot (some w') } ∧ w.Passed w' i ∧ { w' with lanes := w.lanes } = w)
  ∧ ∀ (h : Header) s i core slot w, Issuing s i core slot w → (∀ k < 12, h.wait.getLsbD k → cfGet w.cf k = 0) →
    ∃ t w', exec (.clauseStart .lane h) s = .next t ∧ warpIn t core slot = some w' ∧ { w' with lanes := w.lanes } = w
      ∧ (∀ l, w'.lane l = if i.lanes.getLsbD l && decide (l < w.lanes.length) then
          { w.lane l with pos := { addr := i.pos.addr, idx := 0, entered := true }, wait := none, hdr := some h } else w.lane l)
      ∧ t.chip.mem = s.chip.mem ∧ (h.trace = false → t = { s with chip := s.chip.setWarp core slot (some w') })

/-- R39: a header of another class than the engine's ends in ILLEGAL_CLAUSE, reason 3. -/
def ClauseClassTrap : Prop :=
  ∀ (cls : Sys2Proof.Class) (h : Header) s i core slot w, Issuing s i core slot w → cls ≠ .lane →
    exec (.clauseStart cls h) s
      = .next (s.trapped i (0x02000000 + (if cls = .matrix then 0xF1 else 0xF2) * 0x10000 + 3) (lowLane i.lanes) 0)

/-- R320, R321: BRA, CALL, BRI and RET move every executing lane to its target and the others of the lane set to the next clause; CALL
writes the return address in the executing lanes; nothing else changes. -/
def ControlTransfers : Prop :=
  ∀ (g : Guard) (d a : Reg) (ia : Bool) (off : BitVec 24) s i core slot w, Issuing s i core slot w →
    (let f := ctlForm 0xB0 g none .rule []
     f.Ready s.chip i w → ∃ w', exec (.bra g off) s = .next { s with chip := s.chip.setWarp core slot (some w') }
       ∧ Transferred (f.active i w) (fun _ => branchTarget i off) i w w' ∧ { w' with lanes := w.lanes } = w)
    ∧ (let f := ctlForm 0xB2 g (some (d, 2)) .never []
     f.Ready s.chip i w → ∃ w', exec (.call g d off) s = .next { s with chip := s.chip.setWarp core slot (some w') }
       ∧ Transferred (f.active i w) (fun _ => branchTarget i off) i w w'
       ∧ (d.toNat + 2 ≤ 960 → ∀ l ∈ lanesOf (f.active i w), w'.regs d.toNat l 2 = (nextClause i).toNat)
       ∧ (∀ code l, l < 64 → code < d.toNat ∨ d.toNat + 2 ≤ code ∨ (f.active i w).getLsbD l = false → isU code = false →
           w'.reg code l = w.reg code l)
       ∧ { w' with lanes := w.lanes, v := w.v, vp := w.vp, u := w.u, up := w.up } = w)
    ∧ ∀ k op, (k, op) ∈ [(Instr.bri g ia a, 0xB1), (Instr.ret g ia a, 0xB3)] →
     let f := ctlForm op g none .rule [srcPair a ia]
     f.Ready s.chip i w → (∀ l ∈ lanesOf (f.active i w), canonical ((srcPair a ia).val w l) ∧ (srcPair a ia).val w l % 8 = 0) →
     ∃ w', exec k s = .next { s with chip := s.chip.setWarp core slot (some w') }
       ∧ Transferred (f.active i w) (fun l => BitVec.ofNat 64 ((srcPair a ia).val w l)) i w w' ∧ { w' with lanes := w.lanes } = w

/-- R321: a target that is not canonical, or not a multiple of 8, stops BRI and RET for the lowest such lane: TRANSLATION or ALIGNMENT with
the target as its address. -/
def TransferTraps : Prop :=
  ∀ (g : Guard) (a : Reg) (ia : Bool) s i core slot w l k op, (k, op) ∈ [(Instr.bri g ia a, 0xB1), (Instr.ret g ia a, 0xB3)] →
    let f := ctlForm op g none .rule [srcPair a ia]
    let v (j : Nat) : Nat := (srcPair a ia).val w j
    Issuing s i core slot w → f.Ready s.chip i w → l ∈ lanesOf (f.active i w) →
    (∀ j ∈ lanesOf (f.active i w), j < l → canonical (v j) ∧ v j % 8 = 0) →
    (canonical (v l) = false → exec k s = .next (s.trapped i (0x05000000 + op * 0x10000 + 1) l (v l)))
    ∧ (canonical (v l) = true → v l % 8 ≠ 0 → exec k s = .next (s.trapped i (0x0B000000 + op * 0x10000) l (v l)))

/-- R322, R330: EXIT ends the executing lanes and passes the others on; a child's lanes then leave their join barriers after a release at
cluster scope. -/
def ExitResult : Prop :=
  ∀ (g : Guard) s i core slot w,
    let f := ctlForm 0xB4 g none .rule []
    let w' := w.onLanes i.lanes (fun k l =>
      if (f.active i w).getLsbD k then { l with exited := true, wait := none, sync := none }
      else { l with pos := clauseAt (nextClause i), wait := none })
    let c := s.chip.setWarp core slot (some w')
    Issuing s i core slot w → f.Ready s.chip i w →
    (w.child = false → exec (.exit g) s = .next { s with chip := c })
    ∧ (w.child = true → f.active i w ≠ 0 → (c.releaseBy i.eng 3 none).2 = none →
      exec (.exit g) s = .next { s with chip := childExits ((lanesOf (f.active i w)).map (fun l => (w.lane l).join)) (c.releaseBy i.eng 3 none).1 })

/-- R371: RDSR of every register of the unprivileged space completes: it writes the pair D, D+1 with the register's value in each executing
lane; R83: of SR.FPSTAT once no operation of the lanes is in flight that may still set a bit of it. -/
def SpecialRegisterRead : Prop :=
  ∀ (g : Guard) (d : Reg) (addr : BitVec 11) s i core slot w,
    let f := ctlForm 0xBD g (some (d, 2)) .always []
    Issuing s i core slot w → f.Ready s.chip i w → (addr = 0x020 → s.chip.bitsDue i = false) →
    (addr.toNat < 0x400 ∧ (s.chip.srRead core slot w 0 addr.toNat).isSome) ∨ (∃ x ∈ readableRegisters, x.1 ≤ addr.toNat ∧ addr.toNat ≤ x.2) →
    ∃ v : Nat → Nat, (∀ l, s.chip.srRead core slot w l addr.toNat = some (v l))
      ∧ CompletesWriting (.rdsr g d addr) (f.writing i w) d.toNat 2 v 0 s i core slot w

/-- R13, R14, R82, R218, R365, R390: what the registers hold that RDSR reads of a warp and of its place. -/
def SpecialRegisterValues : Prop :=
  ∀ (c : Chip) core slot (w : Warp) lane,
    c.srRead core slot w lane 0x000 = some 64
    ∧ c.srRead core slot w lane 0x001 = some ((if w.child then 2 ^ 28 else 0) + core / 256 * 2 ^ 27 + core / 128 * 2 ^ 25 + core * 2 ^ 16
        + slot * 2 ^ 8 + lane)
    ∧ c.srRead core slot w lane 0x020 = some w.fpstat.toNat
    ∧ c.srRead core slot w lane 0x0A0 = some (BitVec.ofNat 64 (c.time / 1000000000 * 2 ^ 30 + c.time % 1000000000)).toNat
    ∧ c.srRead core slot w lane 0x0C0 = some w.tr.pc.toNat ∧ c.srRead core slot w lane 0x0C1 = some w.tr.idx.toNat
    ∧ c.srRead core slot w lane 0x0C2 = some ((if w.tr.abandon then 8 else 0) + (if w.handler then 4 else 0) + (if w.tr.posted then 2 else 0)
        + (if w.tr.ent then 1 else 0))
    ∧ c.srRead core slot w lane 0x0C3 = some w.tr.syn.toNat ∧ c.srRead core slot w lane 0x0C6 = some w.tr.addr.toNat

/-- R371, R82, R365: WRSR clears the sticky bits that are written with ones; in handler mode it writes the trap registers' writable fields;
outside handler mode that is PROTECTION, reason 0xB; R8, R372: a privileged address is PROTECTION, reason 0xA, in the lowest executing lane, for
WRSR and RDSR alike; R51: where no lane executes, either passes on and writes nothing. -/
def SpecialRegisterWrite : Prop :=
  ∀ (g : Guard) (a : Reg) (addr : BitVec 11) s i core slot w,
    let f := ctlForm 0xBE g none .rule [srcPair a false] true
    let v := w.regs a.toNat (lowLane (f.active i w)) 2
    Issuing s i core slot w → f.Ready s.chip i w → f.active i w ≠ 0 →
    (addr = 0x020 → ∃ w', exec (.wrsr g addr a) s = .next { s with chip := s.chip.setWarp core slot (some w') } ∧ w.Passed w' i
      ∧ w'.fpstat = w.fpstat &&& ~~~BitVec.ofNat 5 v ∧ { w' with lanes := w.lanes, fpstat := w.fpstat } = w)
    ∧ (w.handler = true → ∀ tr, (addr, tr) ∈ [(0x0C0, { w.tr with pc := BitVec.ofNat 64 v }), (0x0C1, { w.tr with idx := BitVec.ofNat 5 v }),
        (0x0C2, { w.tr with ent := v.testBit 0, abandon := v.testBit 3 })] →
      ∃ w', exec (.wrsr g addr a) s = .next { s with chip := s.chip.setWarp core slot (some w') } ∧ w.Passed w' i ∧ w'.tr = tr
        ∧ { w' with lanes := w.lanes, tr := w.tr } = w)
    ∧ (w.handler = false → addr = 0x0C0 ∨ addr = 0x0C1 ∨ addr = 0x0C2 →
      exec (.wrsr g addr a) s = .next (s.trapped i (0x06000000 + 0xBE * 0x10000 + 0xB) (lowLane (f.active i w)) 0))
    ∧ (0x400 ≤ addr.toNat → exec (.wrsr g addr a) s = .next (s.trapped i (0x06000000 + 0xBE * 0x10000 + 0xA) (lowLane (f.active i w)) 0))

/-- R8, R372: RDSR of a privileged address is PROTECTION, reason 0xA, in the lowest executing lane; R51: RDSR and WRSR of a privileged or an
assigned address that no lane executes pass on and change nothing else. -/
def SpecialRegisterGuard : Prop :=
  ∀ (g : Guard) (a d : Reg) (addr : BitVec 11) s i core slot w, Issuing s i core slot w →
    (let f := ctlForm 0xBD g (some (d, 2)) .always []
     f.Ready s.chip i w → f.active i w ≠ 0 → 0x400 ≤ addr.toNat →
     exec (.rdsr g d addr) s = .next (s.trapped i (0x06000000 + 0xBD * 0x10000 + 0xA) (lowLane (f.active i w)) 0))
    ∧ ∀ k f, (k, f) ∈ [(Instr.wrsr g addr a, ctlForm 0xBE g none .rule [srcPair a false] true),
        (Instr.rdsr g d addr, ctlForm 0xBD g (some (d, 2)) .always [])] →
     f.Ready s.chip i w → f.active i w = 0 → (addr = 0x020 → s.chip.bitsDue i = false) →
     (0x400 ≤ addr.toNat ∨ ∃ x ∈ readableRegisters, x.1 ≤ addr.toNat ∧ addr.toNat ≤ x.2) →
     ∃ w', exec k s = .next { s with chip := s.chip.setWarp core slot (some w') } ∧ w.Passed w' i ∧ { w' with lanes := w.lanes } = w

/-- R82, R274, R365, R371: WRSR of every register with a field that it may write completes: SR.FPSTAT and, of a warp whose group has the
matrix engine, SR.MSTAT lose the bits written with ones; in handler mode the trap registers take their fields. A register with no such field
is PROTECTION, reason 9. -/
def SpecialRegisterWritten : Prop :=
  ∀ (g : Guard) (a : Reg) (addr : BitVec 11) s i core slot w,
    let f := ctlForm 0xBE g none .rule [srcPair a false] true
    let v := w.regs a.toNat (lowLane (f.active i w)) 2
    Issuing s i core slot w → f.Ready s.chip i w → f.active i w ≠ 0 →
    (addr ∈ [0x020, 0x021] ∨ (addr ∈ [0x0C0, 0x0C1, 0x0C2] ∧ w.handler = true) →
      ∃ w' m, exec (.wrsr g addr a) s = .next { s with chip := (s.chip.setMat core m).setWarp core slot (some w') } ∧ w.Passed w' i
        ∧ w'.fpstat = (if addr = 0x020 then w.fpstat &&& ~~~BitVec.ofNat 5 v else w.fpstat)
        ∧ w'.tr = (if addr = 0x0C0 then { w.tr with pc := BitVec.ofNat 64 v } else if addr = 0x0C1 then { w.tr with idx := BitVec.ofNat 5 v }
            else if addr = 0x0C2 then { w.tr with ent := v.testBit 0, abandon := v.testBit 3 } else w.tr)
        ∧ { w' with lanes := w.lanes, fpstat := w.fpstat, tr := w.tr } = w
        ∧ m = (if addr = 0x021 ∧ s.chip.declared w false = true then
            { (s.chip.core core).mat with mstat := (s.chip.core core).mat.mstat &&& ~~~BitVec.ofNat 6 v } else (s.chip.core core).mat))
    ∧ ((∃ x ∈ readableRegisters, x.1 ≤ addr.toNat ∧ addr.toNat ≤ x.2) → addr ∉ [0x020, 0x021, 0x0A1, 0x0C0, 0x0C1, 0x0C2] →
      exec (.wrsr g addr a) s = .next (s.trapped i (0x06000000 + 0xBE * 0x10000 + 9) (lowLane (f.active i w)) 0))

/-- R394: a write of SR.WAITSEL keeps the selection and takes the snapshot that it names in the warp's own context. -/
def WaitSelection : Prop :=
  ∀ (g : Guard) (a : Reg) s i core slot w,
    let f := ctlForm 0xBE g none .rule [srcPair a false] true
    let v := w.regs a.toNat (lowLane (f.active i w)) 2
    let tag := s.chip.tagOf w.gang
    Issuing s i core slot w → f.Ready s.chip i w → f.active i w ≠ 0 →
    ∃ w', exec (.waitselWrite g a) s = .next { s with chip := s.chip.setWarp core slot (some w') } ∧ w.Passed w' i
      ∧ w'.waitsel = BitVec.ofNat 64 v ∧ w'.waitr = s.chip.snapshot (some tag) v (s.chip.selAddr core tag)
      ∧ { w' with lanes := w.lanes, waitsel := w.waitsel, waitr := w.waitr } = w

/-- R374: NOPRE opens a section and writes 1 where no stop of the gang is pending, else it writes 0; its other form closes the section. -/
def SectionResult : Prop :=
  ∀ (g : Guard) (d : Reg) s i core slot w k, Issuing s i core slot w → s.chip.gang w.gang = some k →
    (let f := ctlForm 0xBF g (some (d, 1)) .always []
     let pend := decide (k.phase ≠ 0) || k.whyPage || k.whyPrio || k.whyIft
     f.Ready s.chip i w → f.active i w ≠ 0 →
     ∃ w', exec (.nopre g true d) s = .next { s with chip := s.chip.setWarp core slot (some w') } ∧ w.Passed w' i
       ∧ ((d.toNat < 960 ∨ 960 ≤ d.toNat) → ∀ l ∈ lanesOf (f.writing i w), w'.reg d.toNat l = if pend then 0 else 1)
       ∧ w'.sectOpen = (w.sectOpen || !pend) ∧ (w.sectOpen = false → pend = false → w'.sectCount = 0))
    ∧ (let f := ctlForm 0xBF g none .always []
     f.Ready s.chip i w → f.active i w ≠ 0 →
     ∃ w', exec (.nopre g false d) s = .next { s with chip := s.chip.setWarp core slot (some w') } ∧ w.Passed w' i ∧ w'.sectOpen = false
       ∧ { w' with lanes := w.lanes, sectOpen := w.sectOpen } = w)

/-- R401: EVT records an event of type 0x8000 | CODE with the pair of the lowest executing lane, under a fresh causal ID, as an operation. -/
def EventRecord : Prop :=
  ∀ (g : Guard) (a : Reg) (code : BitVec 12) s i core slot w,
    let f := ctlForm 0x94 g none .rule [srcPair a false] true
    let l := lowLane (f.active i w)
    let c := (s.chip.nextCid i.eng).1
    let id := (s.chip.nextCid i.eng).2
    Issuing s i core slot w → f.Ready s.chip i w → f.active i w ≠ 0 → s.chip.flagFull i.eng (flagSeta i.hdr) = false →
    exec (.evt g a code) s = .next { s with
      chip := (c.emit (core + slot * 2 ^ 12 + l * 2 ^ 17) (0x8000 + code.toNat) id (BitVec.ofNat 64 (w.regs a.toNat l 2))
        (if w.child then 4 else 0)).issueOp i (Op.blank 0x94 (flagSeta i.hdr) id) }

/-- R42-R44: a long-latency operation is in flight once it has issued; its flag has risen by one, or its lane set waits for it; the lane set
has passed the word. -/
def LongLatencyIssue : Prop :=
  ∀ (c : Chip) (i : Issue) (o : Op) core slot w, i.eng = .warp core slot → c.warp core slot = some w →
    ∃ w', (c.issueOp i o).ops = c.ops ++ [inFlight c i o] ∧ (c.issueOp i o).nextOp = c.nextOp + 1
      ∧ (c.issueOp i o).warp core slot = some w' ∧ (c.issueOp i o).mem = c.mem
      ∧ { w' with lanes := w.lanes, cf := w.cf } = w
      ∧ (∀ k, cfGet w'.cf k = cfGet w.cf k + (if o.flag = some k then 1 else 0))
      ∧ ∀ l, w'.lane l = if i.lanes.getLsbD l && decide (l < w.lanes.length) then
          { w.lane l with pos := i.pos.after i.hdr, wait := none, sync := if o.flag = none then some c.nextOp else (w.lane l).sync }
        else w.lane l

/-- R42, R43, R46: an operation of a warp that has nothing left to wait for completes: its registers are written, its flag falls by one, the
lanes that waited for it go on, and it is in flight no more. -/
def OperationCompletes : Prop :=
  ∀ s (o : Op) core slot w, s.chip.ops.find? (fun x => x.id == o.id) = some o → o.eng = .warp core slot → s.chip.warp core slot = some w →
    o.hold = false → o.late = none → o.fail = none → o.race = none → o.code ≠ 0x94 → (∃ k, s.chip.gang o.gang = some k ∧ k.phase < 2) →
    ∃ t w', exec (.opComplete o.id) s = .next t ∧ warpIn t core slot = some w' ∧ (∀ x ∈ t.chip.ops, x.id ≠ o.id)
      ∧ written (o.writes.filter (fun x => !(w.lane (x.1 % 64)).exited)) o.uwrites w w'
      ∧ (∀ k, cfGet w'.cf k = cfGet w.cf k - (if o.flag = some k then 1 else 0))
      ∧ (∀ q, aget 0 w'.q q = ((o.qwrite.filter (fun x => x.1 == q)).map (fun x => x.2.1)).getD (aget 0 w.q q))
      ∧ (∀ l, (w'.lane l).sync = if (w.lane l).sync = some o.id then none else (w.lane l).sync)
      ∧ t.chip.mem = s.chip.mem

/-- R364, R365, R82: a trap that is not fatal: every lane that has not exited saves its position and starts at the handler, the trap registers
take the trap's facts, the warp enters handler mode; registers, sticky bits, flags and memory stay as the trap found them. -/
def TrapEntry : Prop :=
  ∀ (c : Chip) core slot (w : Warp) (x : TrapInfo) kn gr, c.warp core slot = some w → c.kernelOf w.gang = some kn → c.gridOf w.gang = some gr →
    x.syn / 2 ^ 24 ≠ 0x0C → w.handler = false → kn.handler ≠ 0 → core < 512 → slot < 32 → x.lane < 64 → x.queue < 8 → x.kind < 4 →
    ∃ w', (c.trapEnter core slot x).warp core slot = some w' ∧ w'.handler = true ∧ w'.tr = trapRegs x gr.task.tile core slot w.child
      ∧ (∀ l, w'.lane l = if (w.lane l).exited then w.lane l else
          { w.lane l with
            saved := (w.lane l).pos, savedHdr := (w.lane l).hdr, pos := handlerAt kn, wait := none, held := (w.lane l).sync,
            sync := none })
      ∧ w'.v = w.v ∧ w'.u = w.u ∧ w'.q = w.q ∧ w'.fpstat = w.fpstat ∧ w'.cf = w.cf ∧ w'.posted = w.posted
      ∧ (c.trapEnter core slot x).mem = c.mem ∧ ∀ n s, (n, s) ≠ (core, slot) → (c.trapEnter core slot x).warp n s = c.warp n s

/-- R364, R376: a POISON cause, a trap in handler mode and a kernel without a handler kill the gang with the cause's class. -/
def FatalTrap : Prop :=
  ∀ (c : Chip) core slot (w : Warp) (x : TrapInfo) kn gr k, c.warp core slot = some w → c.kernelOf w.gang = some kn → c.gridOf w.gang = some gr →
    c.gang w.gang = some k → k.phase < 3 → (x.syn / 2 ^ 24 = 0x0C ∨ w.handler = true ∨ kn.handler = 0) →
    ∃ k', (c.trapEnter core slot x).gang w.gang = some k' ∧ k'.phase = 3 ∧ k'.cause = x.syn / 2 ^ 24
      ∧ (∀ o ∈ (c.trapEnter core slot x).ops, o.gang ≠ w.gang) ∧ (c.trapEnter core slot x).mem = c.mem

/-- R366: RFT, once every lane that has not exited stands at it, ends handler mode: the lanes the trap names resume at the position in the trap
registers, the others at their saved positions. -/
def TrapReturn : Prop :=
  ∀ s i core slot w,
    let f := ctlForm 0xBC 0 none .rule []
    Issuing s i core slot w → f.Ready s.chip i w → f.active i w ≠ 0 → w.handler = true → (∀ l, (w.lane l).exited = false → i.lanes.getLsbD l) →
    w.tr.posted = true → w.tr.stopped = 0 →
    ∃ w', exec (.rft 0) s = .next { s with chip := s.chip.setWarp core slot (some w') } ∧ w'.handler = false
      ∧ (∀ l, l < 64 → (w'.lane l).pos = if (w.lane l).exited then (w.lane l).pos else (w.lane l).saved)
      ∧ (∀ l, (w'.lane l).exited = (w.lane l).exited) ∧ w'.v = w.v ∧ w'.u = w.u ∧ w'.fpstat = w.fpstat ∧ w'.cf = w.cf ∧ w'.posted = w.posted

/-- R366: where a trap that stopped no stream was precise, the lanes of its mask resume at the trap registers' clause, index and entered bit. The
model's choice (log entry 40): they hold the header that RFT has fetched. -/
def PreciseReturn : Prop :=
  ∀ s i core slot w h (c : Chip),
    let f := ctlForm 0xBC 0 none .rule []
    Issuing s i core slot w → f.Ready s.chip i w → f.active i w ≠ 0 → w.handler = true → (∀ l, (w.lane l).exited = false → i.lanes.getLsbD l) →
    w.tr.posted = false → w.tr.stopped = 0 → canonical w.tr.pc.toNat → w.tr.pc.toNat % 8 = 0 →
    s.chip.fetchAt core (s.chip.tagOf w.gang) w.tr.pc.toNat = .ok (h, c) → w.tr.idx.toNat ≤ h / 2 ^ 52 % 16 + 1 → c.warp core slot = some w →
    ∃ w', exec (.rft 0) s = .next { s with chip := c.setWarp core slot (some w') } ∧ w'.handler = false
      ∧ (∀ l, l < 64 → (w'.lane l).pos = if (w.lane l).exited then (w.lane l).pos
          else if w.tr.mask0.getLsbD l then { addr := w.tr.pc, idx := if w.tr.ent then w.tr.idx.toNat else 0, entered := w.tr.ent }
          else (w.lane l).saved)
      ∧ (∀ l, l < 64 → (w.lane l).exited = false → (w'.lane l).hdr = if w.tr.mask0.getLsbD l then some (Header.ofNat h) else (w.lane l).savedHdr)
      ∧ (∀ l, (w'.lane l).exited = (w.lane l).exited) ∧ w'.v = w.v ∧ w'.u = w.u ∧ w'.fpstat = w.fpstat ∧ w'.cf = w.cf

/-- R235: QPOP gives its executing lanes, in ascending order, the oldest entries of the queue and how many stay behind, all ones and 2^31 where
none is left. -/
def QueuePop : Prop :=
  ∀ (g : Guard) (hq : Bool) (fsel : BitVec 2) (d b : Reg) (n : BitVec 4) s i core slot w,
    let f : Form := { op := 0x8C, g := g, hq := false, d := some (d, 2), ud := .never, srcs := [], also := [(b, 2)] }
    let q := s.chip.hwq (core / 128) n.toNat
    Issuing s i core slot w → f.Ready s.chip i w → s.chip.flagFull i.eng (flagOf i.hdr fsel.toNat) = false →
    (f.active i w = 0 ∨ q.entries = [] ∨ q.owner = s.chip.tagOf w.gang) →
    ∃ t, exec (.qpop g hq fsel d b n) s = .next t
      ∧ (t.chip.hwq (core / 128) n.toNat).entries = q.entries.drop (lanesOf (f.active i w)).length
      ∧ (∃ o ∈ t.chip.ops, o.id = s.chip.nextOp ∧ o.flag = flagOf i.hdr fsel.toNat ∧ o.hold = false ∧ o.writes =
          ((lanesOf (f.active i w)).zipIdx).flatMap (fun p =>
            loadWrites d p.1 (popped q.entries p.2).1.toNat false 2 0 ++ loadWrites b p.1 (popped q.entries p.2).2 false 1 0))
      ∧ t.chip.mem = s.chip.mem

/-- R233, R235: QPUSH appends the pairs of its executing lanes, in ascending order, while the queue has room for 512, and gives each the
entries then held, or 2^31 where there was no room. -/
def QueuePush : Prop :=
  ∀ (g : Guard) (hq : Bool) (fsel : BitVec 2) (a b : Reg) (n : BitVec 4) s i core slot w,
    let f : Form := { op := 0x8D, g := g, hq := false, d := none, ud := .rule, srcs := [srcPair a false], also := [(b, 2)] }
    let q := s.chip.hwq (core / 128) n.toNat
    let ls := lanesOf (f.active i w)
    Issuing s i core slot w → f.Ready s.chip i w → s.chip.flagFull i.eng (flagOf i.hdr fsel.toNat) = false → q.entries.length ≤ 512 →
    (ls = [] ∨ q.entries = [] ∨ q.owner = s.chip.tagOf w.gang) →
    ∃ t, exec (.qpush g hq fsel a b n) s = .next t
      ∧ (t.chip.hwq (core / 128) n.toNat).entries
          = q.entries ++ (ls.take (512 - q.entries.length)).map (fun l => BitVec.ofNat 64 (w.regs a.toNat l 2))
      ∧ (∃ o ∈ t.chip.ops, o.id = s.chip.nextOp ∧ o.flag = flagOf i.hdr fsel.toNat ∧ o.hold = false ∧ o.writes =
          (ls.zipIdx).flatMap (fun p =>
            loadWrites b p.1 (if q.entries.length + p.2 < 512 then q.entries.length + p.2 + 1 else 2 ^ 31) false 1 0))
      ∧ t.chip.mem = s.chip.mem

/-- R233: QPOP and QPUSH do not touch the entries of another context's queue: QUEUE, reason 1, in the lowest executing lane. -/
def QueueOwnerTrap : Prop :=
  ∀ (g : Guard) (hq : Bool) (fsel : BitVec 2) (d a b : Reg) (n : BitVec 4) s i core slot w,
    ∀ k f op, (k, f, op) ∈
        [(Instr.qpop g hq fsel d b n,
          ({ op := 0x8C, g := g, hq := false, d := some (d, 2), ud := .never, srcs := [], also := [(b, 2)] } : Form), 0x8C),
         (Instr.qpush g hq fsel a b n,
          ({ op := 0x8D, g := g, hq := false, d := none, ud := .rule, srcs := [srcPair a false], also := [(b, 2)] } : Form), 0x8D)] →
    let q := s.chip.hwq (core / 128) n.toNat
    Issuing s i core slot w → f.Ready s.chip i w → s.chip.flagFull i.eng (flagOf i.hdr fsel.toNat) = false →
    f.active i w ≠ 0 → q.entries ≠ [] → q.owner ≠ s.chip.tagOf w.gang →
    exec k s = .next (s.trapped i (0x14000000 + op * 0x10000 + 1) (lowLane (f.active i w)) 0)

/-- R331, R334, R268, R160: FORK releases at cluster scope, starts the sequencers that it names and that do not run at the kernel's entries,
and writes which it started. -/
def ForkResult : Prop :=
  ∀ (d : Reg) (m k : Bool) s i core slot w kn,
    let f := ctlForm 0xB6 0 (some (d, 1)) .always []
    let c := (s.chip.nextCid i.eng).1
    let mat := (s.chip.core core).mat
    let dray := (s.chip.core core).dray
    Issuing s i core slot w → f.Ready s.chip i w → w.child = false → s.chip.kernelOf w.gang = some kn → (m || k) →
    (m → kn.matrix ≠ 0) → (k → kn.copy ≠ 0) → (c.releaseBy i.eng 3 (some (s.chip.nextCid i.eng).2)).2 = none →
    ∃ t w', exec (.fork d m k) s = .next t ∧ warpIn t core slot = some w'
      ∧ Wrote (f.writing i w) d.toNat 1 (fun _ => (if m ∧ mat.s.st = 0 then 1 else 0) + (if k ∧ dray.s.st = 0 then 2 else 0)) 0 i w w'
      ∧ (m = true → mat.s.st = 0 → (t.chip.core core).mat.s = forked (kn.addr + BitVec.ofNat 64 kn.matrix) slot w.gang w.grp
          ∧ (t.chip.core core).mat.m = [] ∧ (t.chip.core core).mat.mstat = 0)
      ∧ ((m = false ∨ mat.s.st ≠ 0) → (t.chip.core core).mat = mat)
      ∧ (k = true → dray.s.st = 0 →
          (t.chip.core core).dray = { Dray.zero with s := forked (kn.addr + BitVec.ofNat 64 kn.copy) slot w.gang w.grp })
      ∧ ((k = false ∨ dray.s.st ≠ 0) → (t.chip.core core).dray = dray)

/-- R324, R323: SPAWN of one executing lane: an accepted child joins the cluster's spawn queue with the lane's four words and raises its join
barrier's CHILD count; a refused one is counted; the lane receives the status. -/
def SpawnResult : Prop :=
  ∀ (g : Guard) (d a : Reg) (entry : BitVec 3) (n : BitVec 6) s i core slot w kn l j,
    let f := ctlForm 0xB5 g (some (d, 1)) .never [{ code := a, field := 1, n := 4, ia := false }]
    let c := ((s.chip.nextCid i.eng).1.releaseBy i.eng 3 (some (s.chip.nextCid i.eng).2)).1
    let st := c.spawnStatus (core / 128) w.gang (kn.spawnWarps * 64) (core, j)
    Issuing s i core slot w → f.Ready s.chip i w → w.child = false → s.chip.kernelOf w.gang = some kn → kn.spawnMask.testBit entry.toNat →
    s.chip.barSlot i.eng n.toNat = some j → lanesOf (f.active i w) = [l] → d.toNat < 960 →
    ((s.chip.nextCid i.eng).1.releaseBy i.eng 3 (some (s.chip.nextCid i.eng).2)).2 = none →
    ∃ t w', exec (.spawn g d a entry n) s = .next t ∧ warpIn t core slot = some w' ∧ Wrote (laneBit l) d.toNat 1 (fun _ => st) 0 i w w'
      ∧ (st = 1 → (t.chip.cluster (core / 128)).spawnQ = (c.cluster (core / 128)).spawnQ ++
            [{ gang := w.gang, entry := entry.toNat, join := (core, j),
               payload := (List.range 4).map (fun k => BitVec.ofNat 32 (w.reg (a.toNat + k) l)),
               unit := BitVec.ofNat 32 (unitWord core slot l false), cycle := s.chip.cycle, due := false }]
          ∧ (t.chip.bar (.core core j)).flags = (c.bar (.core core j)).flags + 1)
      ∧ (st ≠ 1 → (t.chip.cluster (core / 128)).spawnQ = (c.cluster (core / 128)).spawnQ
          ∧ ∀ k, s.chip.gang w.gang = some k → ∃ k', t.chip.gang w.gang = some k' ∧ k'.refused = k.refused + 1)

/-- R105: the lanes that access memory: the executing lanes, or the lowest of them where the uniform unit does it once. -/
def takers (f : Form) (i : Issue) (w : Warp) : List Nat := if f.once then [lowLane (f.active i w)] else lanesOf (f.active i w)

/-- R105: an access that ends in no trap. -/
def inBounds : LaneAddr → Prop
  | .oob => True
  | .hit _ => True
  | .bad _ _ => False

/-- The accesses of `n` bytes of some lanes that fall in memory. -/
def hitsIn (at_ : Nat → LaneAddr) (n : Nat) (ls : List Nat) : List Hit :=
  ls.filterMap (fun l => match at_ l with
    | .hit a => some { lane := l, addr := a, n := n }
    | .oob => none
    | .bad _ _ => none)

/-- R46, R104, R116: a record that an instruction may use. -/
def RecordUsable (c : Chip) (i : Issue) (w : Warp) (q : BitVec 5) (op : Nat) (write : Bool) : Prop :=
  c.pendingQ i.eng q.toNat = false ∧ aget false w.qp q.toNat = false ∧ (Rec.ofBits (aget 0 w.q q.toNat)).bad op write = none

/-- R105, R107, R108: every line of some accesses translates, and its bytes can be read. -/
def Gathered (i : Issue) (op core tag : Nat) (r : Rec) (hs : List Hit) (c : Chip) (ld : LineData) (c' : Chip) : Prop :=
  ∃ pas c1, translateAll i op core tag .read r.pol hs (linesOf hs) c = .ok (pas, c1)
    ∧ readLines i op core tag r.priv r.pol hs c pas c1 = .ok (ld, c')

/-- R105, R107: what a lane's access brought: its bytes and mark, zero outside the extent. -/
def brings (ld : LineData) (n : Nat) : LaneAddr → Nat × Bool
  | .hit a => (ld.bytes a n, ld.pois { lane := 0, addr := a, n := n })
  | .oob => (0, false)
  | .bad _ _ => (0, false)

/-- A load's operation: in flight with what each lane's registers will receive; memory, host memory and intents as the reads left them. -/
def LoadIssued (flag : Option Nat) (d : Reg) (nr : Nat) (once : Bool) (ls : List Nat) (v : Nat → Nat × Bool) (c' : Chip) (t : State) : Prop :=
  ∃ o, t.chip.ops = c'.ops ++ [o] ∧ o.id = c'.nextOp ∧ o.flag = flag ∧ o.hold = false ∧ o.fail = none ∧ o.late = none
    ∧ (if once then o.uwrites = ls.flatMap (fun l => loadUWrites d (v l).1 (v l).2 nr 0) ∧ o.writes = []
       else o.writes = ls.flatMap (fun l => loadWrites d l (v l).1 (v l).2 nr 0) ∧ o.uwrites = [])
    ∧ t.chip.mem = c'.mem ∧ t.chip.hostMem = c'.hostMem ∧ t.chip.intents = c'.intents

/-- R228, R105, R107: LD reads each executing lane's bytes through its record; its operation will write them to D, zero where the lane lies
outside the extent. LDSX decodes from them one element of the lane's block (R230). -/
def LoadResult : Prop :=
  ∀ (g : Guard) (fsel sz : BitVec 2) (fs : BitVec 3) (d x : Reg) (q : BitVec 5) (off : BitVec 15) (off' : BitVec 12) s i core slot w ld c',
    let r := Rec.ofBits (aget 0 w.q q.toNat)
    let flag := flagOf i.hdr fsel.toNat
    let sl := s.chip.slot i.eng fs.toNat
    Issuing s i core slot w → s.chip.flagFull i.eng flag = false →
    (let nr := if sz = 3#2 then 2 else 1
     let n := 2 ^ sz.toNat
     let f : Form := { op := 0x81, g := g, hq := false, d := some (d, nr), ud := .rule, srcs := [srcX x] }
     let at_ (l : Nat) := r.addr 0x81 (w.reg x.toNat l) off.toInt n
     let ls := takers f i w
     f.Ready s.chip i w → f.active i w ≠ 0 → RecordUsable s.chip i w q 0x81 false → (∀ l ∈ ls, inBounds (at_ l)) →
     Gathered i 0x81 core (s.chip.tagOf w.gang) r (hitsIn at_ n ls) s.chip ld c' →
     ∃ t, exec (.ld g fsel sz d q x off) s = .next t ∧ LoadIssued flag d nr f.once ls (fun l => brings ld n (at_ l)) c' t)
    ∧ (let n := sxSize sl.fa
     let f : Form := { op := 0x83, g := g, hq := false, d := some (d, 1), ud := .never, srcs := [srcX x] }
     let at_ (l : Nat) := r.addr 0x83 (w.reg x.toNat l) off'.toInt n
     let ls := lanesOf (f.active i w)
     f.Ready s.chip i w → f.active i w ≠ 0 → isSx sl.fa → isFloat sl.fb → RecordUsable s.chip i w q 0x83 false →
     (∀ l ∈ ls, inBounds (at_ l)) → Gathered i 0x83 core (s.chip.tagOf w.gang) r (hitsIn at_ n ls) s.chip ld c' →
     ∃ t, exec (.ldsx g fsel fs d q x off') s = .next t
       ∧ LoadIssued flag d 1 false ls (fun l =>
           match at_ l with
           | .hit _ => (convertTo sl.fb sl (sxElement sl.fa sl.sa (bytesOf n (brings ld n (at_ l)).1) (l % 16)), (brings ld n (at_ l)).2)
           | .oob => (0, false)
           | .bad _ _ => (0, false)) c' t)

/-- R229: LDREC loads the 32 bytes at the address of the lowest executing lane into a record, zeros where it lies outside the extent. -/
def RecordLoad : Prop :=
  ∀ (g : Guard) (fsel : BitVec 2) (x : Reg) (qd q : BitVec 5) (off : BitVec 15) s i core slot w ld c',
    let r := Rec.ofBits (aget 0 w.q q.toNat)
    let flag := flagOf i.hdr fsel.toNat
    let f : Form := { op := 0x80, g := g, hq := false, d := none, ud := .rule, srcs := [srcX x], low := true }
    let l := lowLane (f.active i w)
    let a := r.addr 0x80 (w.reg x.toNat l) off.toInt 32
    Issuing s i core slot w → s.chip.flagFull i.eng flag = false → f.Ready s.chip i w → f.active i w ≠ 0 →
    s.chip.pendingQ i.eng qd.toNat = false → RecordUsable s.chip i w q 0x80 false → inBounds a →
    Gathered i 0x80 core (s.chip.tagOf w.gang) r (hitsIn (fun _ => a) 32 [l]) s.chip ld c' →
    ∃ t o, exec (.ldrec g fsel qd q x off) s = .next t ∧ t.chip.ops = c'.ops ++ [o] ∧ o.flag = flag ∧ o.hold = false ∧ o.writes = []
      ∧ o.uwrites = [] ∧ o.qwrite = some (qd.toNat, BitVec.ofNat 256 (brings ld 32 a).1, (brings ld 32 a).2)
      ∧ t.chip.mem = c'.mem ∧ t.chip.intents = c'.intents

/-- R228, R105, R107, R231: ST stores the low bytes of each executing lane's D, and STSX a block for each sixteen lanes, in ascending lane
order through the record; the lines written are those that the addresses name. -/
def StoreResult : Prop :=
  ∀ (g : Guard) (fsel sz : BitVec 2) (d x : Reg) (q : BitVec 5) (off : BitVec 15) s i core slot w pas c1,
    let r := Rec.ofBits (aget 0 w.q q.toNat)
    let flag := flagOf i.hdr fsel.toNat
    let nr := if sz = 3#2 then 2 else 1
    let n := 2 ^ sz.toNat
    let f : Form := { op := 0x82, g := g, hq := false, d := none, ud := .rule,
                      srcs := [{ code := d, field := 0, n := nr, ia := false }, srcX x] }
    let at_ (l : Nat) := r.addr 0x82 (w.reg x.toNat l) off.toInt n
    let ls := takers f i w
    let hs := hitsIn at_ n ls
    let tag := s.chip.tagOf w.gang
    let cid := (c1.nextCid i.eng).2
    let o := writeLines (partyOf i.eng i.lanes) 0x82 core tag c1.nextOp i.pos r.priv r.pol cid
      (hs.map (fun h => (h, w.regs d.toNat h.lane nr % 2 ^ (8 * n)))) pas (c1.nextCid i.eng).1
    Issuing s i core slot w → s.chip.flagFull i.eng flag = false → f.Ready s.chip i w → f.active i w ≠ 0 →
    RecordUsable s.chip i w q 0x82 true → (∀ l ∈ ls, inBounds (at_ l)) →
    translateAll i 0x82 core tag .write r.pol hs (linesOf hs) s.chip = .ok (pas, c1) →
    ∃ long, exec (.st g fsel sz d q x off) s = .next { s with
      chip := (o.1.intendedBy slot cid).issueOp i { Op.blank 0x82 flag cid with hold := o.1.opAsks c1.nextOp, race := o.2, long := long } }

/-- R231: STSX checks, bounds and encodes the sixteen values of each group of lanes into one block and stores it at the address of the group's
lowest executing lane; the sticky bits of its conversions are set. -/
def BlockStore : Prop :=
  ∀ (g : Guard) (fsel : BitVec 2) (fs : BitVec 3) (d x : Reg) (q : BitVec 5) (off : BitVec 12) s i core slot w pas c1,
    let r := Rec.ofBits (aget 0 w.q q.toNat)
    let flag := flagOf i.hdr fsel.toNat
    let sl := s.chip.slot i.eng fs.toNat
    let n := sxSize sl.fb
    let f : Form := { op := 0x84, g := g, hq := false, d := none, ud := .rule, srcs := [{ code := d, field := 0, n := 1, ia := false }],
                      extra := [srcX x] }
    let act := f.active i w
    let leads := (lanesOf act).filter (fun l => !(lanesOf act).any (fun k => k / 16 == l / 16 && k < l))
    let chk (l : Nat) : Checked := boundCheck (s.chip.bounds i.eng) sl (widen sl.fa (w.reg d.toNat l))
    let blk (l : Nat) := toSX sl.fb sl.sb sl.rnd sl.sat (block act false (fun k => passed (chk k)) l)
    let at_ (l : Nat) := r.addr 0x84 (w.reg x.toNat l) off.toInt n
    let hs := hitsIn at_ n leads
    let tag := s.chip.tagOf w.gang
    let cid := (c1.nextCid i.eng).2
    let o := writeLines (partyOf i.eng i.lanes) 0x84 core tag c1.nextOp i.pos r.priv r.pol cid
      (hs.map (fun h => (h, natOfBytes ((blk h.lane).1.bytes sl.fb)))) pas (c1.nextCid i.eng).1
    Issuing s i core slot w → s.chip.flagFull i.eng flag = false → isU d.toNat = false → f.Ready s.chip i w →
    (∀ l ∈ leads, (srcX x).poisIn w l = false) → act ≠ 0 → isFloat sl.fa → isSx sl.fb → RecordUsable s.chip i w q 0x84 true →
    (∀ l ∈ lanesOf act, passes (chk l)) → (∀ l ∈ leads, inBounds (at_ l)) →
    translateAll i 0x84 core tag .write r.pol hs (linesOf hs) s.chip = .ok (pas, c1) →
    ∃ t w' long, exec (.stsx g fsel fs d q x off) s = .next t ∧ warpIn t core slot = some w'
      ∧ t.chip = ((o.1.intendedBy slot cid).issueOp i { Op.blank 0x84 flag cid with hold := o.1.opAsks c1.nextOp, race := o.2, long := long }).setWarp core slot (some w')
      ∧ w'.fpstat = w.fpstat ||| orFlags ((lanesOf act).map (fun l => raised (chk l))) ||| orFlags (leads.map (fun l => (blk l).2))

/-- R232: PRF never traps on an address: once its lines have been brought, asked for or dropped it is an operation that writes nothing, and the
warp passes on. -/
def PrefetchResult : Prop :=
  ∀ (g : Guard) (fsel sz : BitVec 2) (q : BitVec 5) (x : Reg) (off : BitVec 15) s i core slot w c2 sent,
    let f : Form := { op := 0x87, g := g, hq := false, d := none, ud := .rule, srcs := [srcX x] }
    let flag := flagOf i.hdr fsel.toNat
    let r := Rec.ofBits (aget 0 w.q q.toNat)
    let hs := if (r.bad 0x87 false).isSome then [] else
      hitsIn (fun l => r.addr 0x87 (w.reg x.toNat l) off.toInt (2 ^ sz.toNat)) (2 ^ sz.toNat) (lanesOf (f.active i w))
    let c1 := (s.chip.nextCid i.eng).1
    Issuing s i core slot w → s.chip.flagFull i.eng flag = false → f.Ready s.chip i w → s.chip.pendingQ i.eng q.toNat = false →
    (f.active i w = 0 ∨ aget false w.qp q.toNat = false) →
    prefetchLines i core (s.chip.tagOf w.gang) c1.nextOp (s.chip.nextCid i.eng).2 r hs s.chip (linesOf hs) c1 = .ok (c2, sent) →
    ∃ t w' o, exec (.prf g fsel sz q x off) s = .next t ∧ t.chip.ops = s.chip.ops ++ [o] ∧ o.flag = flag ∧ o.hold = sent
      ∧ o.writes = [] ∧ o.uwrites = []
      ∧ o.qwrite = none ∧ o.kwrite = none ∧ warpIn t core slot = some w' ∧ { w' with lanes := w.lanes, cf := w.cf } = w
      ∧ ∀ n k, (n, k) ≠ (core, slot) → t.chip.warp n k = s.chip.warp n k

/-- R220, R303: a lane read of a line gives its core's dirty bytes over those of memory, or all from the L1 where every byte is valid there;
memory is untouched where no line is evicted. -/
def LineReadResult : Prop :=
  ∀ (c : Chip) core tag line (need : BitVec 64) (priv : Bool) pol, tierOf line < 2 →
    let e := (l1Find (c.core core).l1 line tag).getD
      { line := line, tag := tag, valid := 0, dirty := 0, priv := priv, data := 0, pois := false, pol := pol }
    (∀ t, c.meets core line (need &&& ~~~e.valid) = some t → need &&& ~~~e.valid ≠ 0 → c.lineRead core tag line need priv pol = .race t)
    ∧ (c.meets core line (need &&& ~~~e.valid) = none → (c.held.all (fun h => h.line != line)) → (c.sliceRead core line pol).isSome →
      ∃ v p c', c.lineRead core tag line need priv pol = .ok v p c'
        ∧ (∀ k < 64, need.getLsbD k → lineByte v k =
            if need &&& ~~~e.valid = 0 ∨ e.dirty.getLsbD k then lineByte e.data k else aget 0 c.mem (line % 2 ^ 64 + k))
        ∧ (p = true ↔ e.pois ∨ (need &&& ~~~e.valid ≠ 0 ∧ aget false c.pois (line % 2 ^ 64)))
        ∧ ((c.core core).l1.length < 16 → c'.mem = c.mem ∧ c'.intents = c.intents))

/-- R220, R300: a lane store of bytes of a line is what its core then reads of them; memory keeps its bytes where no line is evicted and no
quota forces a release; the core holds an intent for the bytes. -/
def StoreForwarding : Prop :=
  ∀ (c : Chip) core tag line (mask need : BitVec 64) (d : BitVec 512) (priv priv' : Bool) cid pol (who : Storer),
    let c' := (c.lineWrite core tag line mask d priv pol cid who).1
    (need &&& ~~~mask = 0 → ∃ v p c2, c'.lineRead core tag line need priv' pol = .ok v p c2
      ∧ ∀ k < 64, need.getLsbD k → lineByte v k = lineByte d k)
    ∧ (∃ t ∈ c'.intents, t.owner = .core core ∧ t.tag = tag ∧ t.line = line ∧ t.mask &&& mask = mask ∧ t.cover = none)
    ∧ (tierOf line < 2 → c.intentCount core < 4096 → (c.core core).l1.length < 16 → c'.mem = c.mem ∧ c'.pois = c.pois)

/-- R223, R300, R302, R224: a release of a core's lanes at cluster scope or wider leaves no dirty byte in its L1, puts every byte that was
dirty into memory, and clears or covers its intents; below cluster scope it does nothing. An acquire leaves only dirty bytes valid outside
private lines, and no byte of memory changes. -/
def ReleaseAcquire : Prop :=
  ∀ (c : Chip) core slot scope cid,
    (scope < 3 → c.releaseBy (.warp core slot) scope cid = (c, none) ∧ c.acquire core scope = c)
    ∧ (3 ≤ scope →
      let c' := (c.releaseBy (.warp core slot) scope cid).1
      (∀ e ∈ (c'.core core).l1, e.dirty = 0)
      ∧ (∀ t ∈ c'.intents, t.owner = .core core → ∃ k, t.cover = some k ∧ scope ≤ k ∧ scope < 6 ∧ (scope = 5 → 2 ≤ tierOf t.line))
      ∧ (c.rings = [] → (∀ e ∈ (c.core core).l1, e.dirty ≠ 0 → tierOf e.line < 2 ∧ e.line % 2 ^ 64 % 64 = 0) →
          ((c.core core).l1.map (fun e => e.line % 2 ^ 64)).Nodup →
          ∀ e ∈ (c.core core).l1, ∀ k < 64, e.dirty.getLsbD k → aget 0 c'.mem (e.line % 2 ^ 64 + k) = lineByte e.data k)
      ∧ (c.rings = [] → (∀ e ∈ (c.core core).l1, e.dirty ≠ 0 → tierOf e.line < 2) →
          ∀ a, (∀ e ∈ (c.core core).l1, ∀ k < 64, e.dirty.getLsbD k → a ≠ e.line % 2 ^ 64 + k) → aget 0 c'.mem a = aget 0 c.mem a)
      ∧ (∀ e ∈ ((c.acquire core scope).core core).l1, e.priv = false → e.valid &&& ~~~e.dirty = 0)
      ∧ (c.acquire core scope).mem = c.mem)

/-- R309, R310: `Apply` on words and on pairs. -/
def AtomicOperations : Prop :=
  ∀ (n : Nat) (x v : BitVec (8 * n)), n = 4 ∨ n = 8 →
    applyAop 0 n x.toNat v.toNat = (x + v).toNat
    ∧ applyAop 1 n x.toNat v.toNat = (if v.slt x then v else x).toNat
    ∧ applyAop 2 n x.toNat v.toNat = (if x.slt v then v else x).toNat
    ∧ applyAop 3 n x.toNat v.toNat = (if v.ult x then v else x).toNat
    ∧ applyAop 4 n x.toNat v.toNat = (if x.ult v then v else x).toNat
    ∧ applyAop 5 n x.toNat v.toNat = (x &&& v).toNat
    ∧ applyAop 6 n x.toNat v.toNat = (x ||| v).toNat
    ∧ applyAop 7 n x.toNat v.toNat = (x ^^^ v).toNat
    ∧ applyAop 8 n x.toNat v.toNat = v.toNat

/-- R306, R307: an atomic at a home slice by one lane, of a line that its core does not hold: the lane gets the old value, memory the new one,
and no other byte of memory changes. -/
def AtomicAtHome : Prop :=
  ∀ (a : Atomic) core tag cid (who : Storer) v1 v2 (h : Hit) pa (c : Chip),
    let f := a.rmw v1 v2
    let line := pa / 64 * 64 % 2 ^ 64
    let at_ := line + h.addr % 64
    let old := c.rdMem at_ h.n
    tierOf pa < 2 → 3 ≤ a.scope → l1Find (c.core core).l1 (lineOf pa) tag = none → c.ringAt (lineOf pa) = none → h.addr % 64 + h.n ≤ 64 →
    (∃ e, tlbFind (c.core core).tlb tag (h.addr / 64 * 64) = some e ∧ (c.rdMem e.entryAt 1).testBit 5) →
    let o := a.line core tag cid who v1 v2 [h] (h.addr / 64 * 64) pa c
    o.2 = ([(h.lane, old)], none)
      ∧ o.1.rdMem at_ h.n = ((f h.lane old).getD old) % 2 ^ (8 * h.n)
      ∧ ∀ x, x < at_ ∨ at_ + h.n ≤ x → aget 0 o.1.mem x = aget 0 c.mem x

/-- R314: FENCE releases, then acquires, as SEM asks, and is an operation of its lane set. -/
def FenceResult : Prop :=
  ∀ (scope : BitVec 3) (sem : BitVec 2) s i core slot w c1 race,
    Issuing s i core slot w → s.chip.flagFull i.eng (flagSeta i.hdr) = false → s.chip.laneBusy i = false →
    semRelease 0x8B sem scope.toNat none i s.chip = .ok (c1, race) →
    exec (.fence scope sem) s = .next { s with
      chip := (semAcquire sem scope.toNat i c1).issueOp i { Op.blank 0x8B (flagSeta i.hdr) (s.chip.nextCid i.eng).2 with
        race := race, long := 3 ≤ scope.toNat } }

/-- R202: the bank address of a lane: its X plus OFF elements of `n` bytes. -/
def bankAddr (w : Warp) (x : Reg) (off : Int) (n l : Nat) : Int := w.reg x.toNat l + off * n

/-- R202, R189: the bank that a bank address of an engine leads to. -/
def bankOf (c : Chip) (e : Eng) (a : Nat) : Nat := (c.win e.core (c.physSlot e (a / 2 ^ 29))).bank

/-- R202: an address that an access may use. -/
def BankUsable (c : Chip) (e : Eng) (op n : Nat) (write : Bool) (a : Int) : Prop :=
  0 ≤ a ∧ ∃ s b, c.bankCheck e op a.toNat n write = .ok (s, b)

/-- A lane's access to a bank. -/
def bankAcc (c : Chip) (e : Eng) (n : Nat) (a : Nat → Int) (v : Nat → Nat) (l : Nat) : BankAcc :=
  { lane := l, bank := bankOf c e (a l).toNat, off := (a l).toNat % 2 ^ 20, n := n, val := v l }

/-- What a lane's access touches. -/
def bankTouch (c : Chip) (e : Eng) (n : Nat) (write : Bool) (a : Nat → Int) (l : Nat) : Touch :=
  { slot := c.physSlot e ((a l).toNat / 2 ^ 29), bank := bankOf c e (a l).toNat, lo := (a l).toNat % 2 ^ 20, hi := (a l).toNat % 2 ^ 20 + n - 1,
    w := write }

/-- R263: the three operands of a sweep as they are checked: WCVT's elements are of the sizes of its formats, and its destination of whole
blocks where that format is block-scaled. -/
def sweepOperands (op : Nat) (sl : Slot) (vd va vb : Nat) (sd sa sb : BitVec 8) (two : Bool) (ls : List Nat) : List SweepOperand :=
  let first := ls.headD 0
  let last := ls.getLastD 0
  let nd := if op = 0x66 then (if isSx sl.fb then sxSize sl.fb else elemSize sl.fb) else 4
  let na := if op = 0x66 then elemSize sl.fa else 4
  let blk := op = 0x66 && isSx sl.fb
  [{ addr := vd, step := sd.toNat, n := nd, first := if blk then first / 16 else first, last := if blk then last / 16 else last,
     align := if blk then 2 else nd, write := true },
   { addr := va, step := sa.toNat, n := na, first := first, last := last, align := na, write := false }]
  ++ (if two then [{ addr := vb, step := sb.toNat, n := 4, first := first, last := last, align := 4, write := false }] else [])

/-- R264: what a sweep on words makes of an element: of a, b and the destination. -/
def swept (op : Nat) (x y z : Word) : Word :=
  if op = 0x60 then BitVec.ofNat 32 (fp32.fadd x.toNat y.toNat)
  else if op = 0x61 then BitVec.ofNat 32 (fp32.fmul x.toNat y.toNat)
  else if op = 0x62 then BitVec.ofNat 32 (fp32.ffma x.toNat y.toNat z.toNat)
  else if op = 0x63 then BitVec.ofNat 32 (fp32.minMax true x.toNat y.toNat)
  else if op = 0x64 then x + y
  else x

/-- A word of a bank. -/
def bankWord (c : Chip) (cl b off : Nat) : Word := BitVec.ofNat 32 ((c.bank cl b).read off 4)

/-- What a barrier instruction reads, when it may run, and where its result goes. -/
structure BarCase where
  instr : Instr
  ok : Prop
  a : Nat
  b : Nat
  received : Nat → State → Prop
  waiting : WaitRec → State → Prop

/-- A lane set has passed the word and its executing lanes hold a value in D; the warp's other registers, sticky bits and flags stay. -/
def Received (lanes : BitVec 64) (d : Option Reg) (v : Nat) (i : Issue) (w w' : Warp) : Prop :=
  (∀ r, d = some r → ∀ l ∈ lanesOf lanes, w'.reg r.toNat l = v % 2 ^ 32)
  ∧ (∀ code l, l < 64 → (∀ r, d = some r → code ≠ r.toNat ∨ (isU code = false ∧ lanes.getLsbD l = false)) → w'.reg code l = w.reg code l)
  ∧ (∀ l, (w'.lane l).pos = if i.lanes.getLsbD l && decide (l < w.lanes.length) then i.pos.after i.hdr else (w.lane l).pos)
  ∧ (∀ l, i.lanes.getLsbD l → l < w.lanes.length → (w'.lane l).wait = none)
  ∧ w'.fpstat = w.fpstat ∧ w'.cf = w.cf ∧ w'.q = w.q

/-- The same instruction in the three clause classes (R208, R209): in a lane clause with its guard and registers, in a matrix and in a copy
clause with scalars. `reads` says whether A is read, `writes` whether the result is written, `two` whether B is read. -/
def barCases (s : State) (i : Issue) (core slot : Nat) (w : Warp) (op : Nat) (g : Guard) (d a b : Reg) (ma mb ka kb : BitVec 5)
    (reads writes two : Bool) (lane matrix copy : Instr) : List BarCase :=
  let f : Form := { op := op, g := g, hq := false, d := if writes then some (d, 1) else none, ud := .rule,
                    srcs := (if reads then [{ code := a, field := 1, n := 1, ia := false }] else []) ++ (if two then [srcB b 2] else []),
                    low := true }
  let l := lowLane (f.active i w)
  let m := (s.chip.core core).mat
  let k := (s.chip.core core).dray
  let kb' := if two then kb else ka
  [{ instr := lane, ok := Issuing s i core slot w ∧ f.Ready s.chip i w ∧ f.active i w ≠ 0, a := if reads then w.reg a.toNat l else 0,
     b := if two then w.regs b.toNat l 2 else 0,
     received := fun v t => ∃ w', warpIn t core slot = some w'
       ∧ Received (f.writing i w) (if writes then some d else none) v i w w',
     waiting := fun r t => ∃ w', warpIn t core slot = some w' ∧ { w' with lanes := w.lanes } = w ∧ (∀ k, (w'.lane k).pos = (w.lane k).pos)
       ∧ ∀ k, i.lanes.getLsbD k → k < w.lanes.length → (w'.lane k).wait = some r },
   { instr := matrix, ok := s.chip.cur = some i ∧ i.eng = .matrix core, a := (aget 0 m.m ma.toNat).toNat, b := (aget 0 m.m mb.toNat).toNat,
     received := fun v t => (t.chip.core core).mat.s.pos = i.pos.after i.hdr ∧ (t.chip.core core).mat.s.wait = none
       ∧ ∀ r, aget 0 (t.chip.core core).mat.m r = if writes ∧ r = ma.toNat then BitVec.ofNat 64 v else aget 0 m.m r,
     waiting := fun r t => (t.chip.core core).mat = { m with s := { m.s with wait := some r } } },
   { instr := copy, ok := s.chip.cur = some i ∧ i.eng = .copy core ∧ s.chip.pendingK i.eng ka.toNat = false
       ∧ s.chip.pendingK i.eng kb'.toNat = false ∧ aget false k.kp ka.toNat = false ∧ aget false k.kp kb'.toNat = false,
     a := (aget 0 k.k ka.toNat).toNat, b := (aget 0 k.k kb'.toNat).toNat,
     received := fun v t => (t.chip.core core).dray.s.pos = i.pos.after i.hdr ∧ (t.chip.core core).dray.s.wait = none
       ∧ ∀ r, aget 0 (t.chip.core core).dray.k r = if writes ∧ r = ka.toNat then BitVec.ofNat 64 v else aget 0 k.k r,
     waiting := fun r t => (t.chip.core core).dray = { k with s := { k.s with wait := some r } } }]

/-- R207: a barrier whose phase has completed, else the barrier. -/
def checked (k : Barrier) : Barrier :=
  if k.arrived = k.expect ∧ k.flags &&& 0xFFF = 0 ∧ k.lbytes = k.xbytes then
    { k with phase := k.phase + 1, arrived := 0, xbytes := 0, lbytes := 0, arr := 0, since := 0, cid := 0, passed := false }
  else k

/-- R206: the declared parties of a memory barrier. -/
def declared (valid : Nat → Bool) : BitVec 128 :=
  ((List.range 128).filter valid).foldl (fun (m : BitVec 128) p => m ||| BitVec.ofNat 128 (2 ^ p)) 0

/-- R204, R206: the index of the arriving engine: of its warp slot or sequencer on a core, of its table entry in memory. -/
def arriver (c : Chip) (i : Issue) : BarAt → Option Nat
  | .core _ _ => some i.eng.party.2.2
  | .mem off => c.tableParty off c.priv.gwdev.toNat i.eng.core i.eng.party.1 i.eng.party.2.1
  | .peer _ => none

/-- A barrier that stands here, not at a peer and not in a ring's control block. -/
def Local (c : Chip) : BarAt → Prop
  | .core _ _ => True
  | .mem off => c.ringAt off = none
  | .peer _ => False

/-- R202, R191: LDB reads each executing lane's bytes of the bank at its address and STB writes them, lane by lane in ascending order, once
no earlier work and no copy in flight stands in the way; no other byte of a bank changes, and no byte of memory. -/
def BankAccessResult : Prop :=
  ∀ (g : Guard) (fsel sz : BitVec 2) (d x : Reg) (off : BitVec 15) s i core slot w,
    let n := 2 ^ sz.toNat
    let nr := if sz = 3#2 then 2 else 1
    let a (l : Nat) := bankAddr w x off.toInt n l
    let flag := flagOf i.hdr fsel.toNat
    Issuing s i core slot w → s.chip.flagFull i.eng flag = false →
    (let f : Form := { op := 0x85, g := g, hq := false, d := some (d, nr), ud := .rule, srcs := [srcX x] }
     let ls := if f.active i w = 0 then [] else takers f i w
     let b (l : Nat) := s.chip.bank (core / 128) (bankOf s.chip i.eng (a l).toNat)
     let v (l : Nat) := ((b l).read ((a l).toNat % 2 ^ 20) n, (b l).marked ((a l).toNat % 2 ^ 20) n)
     f.Ready s.chip i w → (∀ l ∈ ls, BankUsable s.chip i.eng 0x85 n false (a l)) →
     s.chip.bankReady core s.chip.nextOp (ls.map (bankTouch s.chip i.eng n false a)) →
     ∃ t, exec (.ldb g fsel sz d x off) s = .next t ∧ LoadIssued flag d nr f.once ls v s.chip t ∧ t.chip.clusters = s.chip.clusters)
    ∧ (let f : Form := { op := 0x86, g := g, hq := false, d := none, ud := .rule,
                         srcs := [{ code := d, field := 0, n := nr, ia := false }, srcX x] }
     let ls := if f.active i w = 0 then [] else takers f i w
     let hit (l cl b o : Nat) : Prop := cl = core / 128 ∧ b = bankOf s.chip i.eng (a l).toNat ∧ (a l).toNat % 2 ^ 20 ≤ o
       ∧ o < (a l).toNat % 2 ^ 20 + n
     f.Ready s.chip i w → (∀ l ∈ ls, BankUsable s.chip i.eng 0x86 n true (a l)) →
     s.chip.bankReady core s.chip.nextOp (ls.map (bankTouch s.chip i.eng n true a)) →
     ∃ t o, exec (.stb g fsel sz d x off) s = .next t ∧ t.chip.ops = s.chip.ops ++ [o] ∧ o.flag = flag ∧ o.hold = false ∧ o.late = none
       ∧ o.writes = [] ∧ t.chip.mem = s.chip.mem
       ∧ (∀ l ∈ ls, ∀ cl b k, hit l cl b k → (∀ l' ∈ ls, l < l' → ¬ hit l' cl b k) →
           aget 0 (t.chip.bank cl b).data k = BitVec.ofNat 8 (w.regs d.toNat l nr % 2 ^ (8 * n) / 2 ^ (8 * (k - (a l).toNat % 2 ^ 20))))
       ∧ (∀ cl b k, (∀ l ∈ ls, ¬ hit l cl b k) → aget 0 (t.chip.bank cl b).data k = aget 0 (s.chip.bank cl b).data k))

/-- R311: ATOMW performs its operation in the banks lane by lane and gives each lane the old value; for one lane, the element at its address
becomes what R309 makes of it and no other byte of a bank changes. -/
def BankAtomicResult : Prop :=
  ∀ (g : Guard) (w8 : Bool) (aop : BitVec 4) (scope : BitVec 3) (sem : BitVec 2) (d x v : Reg) s i core slot w c1 race,
    let n := if w8 then 8 else 4
    let f : Form := { op := 0x95, g := g, hq := false, d := some (d, n / 4), ud := .rule,
                      srcs := [srcX x, { code := v, field := 5, n := n / 4, ia := false }] }
    let a (l : Nat) := bankAddr w x 0 n l
    let ls := if f.active i w = 0 then [] else takers f i w
    let acc := bankAcc s.chip i.eng n a (fun l => w.regs v.toNat l (n / 4))
    let o := Chip.bankAtomics (core / 128) aop.toNat (ls.map acc) c1
    Issuing s i core slot w → s.chip.flagFull i.eng (flagSeta i.hdr) = false → f.Ready s.chip i w →
    (∀ l ∈ ls, BankUsable s.chip i.eng 0x95 n true (a l)) → s.chip.atomicBusy i = false →
    semRelease 0x95 sem scope.toNat (some (s.chip.nextCid i.eng).2) i (s.chip.nextCid i.eng).1 = .ok (c1, race) →
    c1.bankReady core c1.nextOp (ls.map (bankTouch s.chip i.eng n true a)) →
    (∀ l ∈ ls, (c1.bank (core / 128) (acc l).bank).marked (acc l).off n = false) →
    ∃ t b, exec (.atomw g w8 aop scope sem d x v) s = .next t ∧ t.chip.ops = c1.ops ++ [b] ∧ b.flag = flagSeta i.hdr ∧ b.race = race ∧ t.chip.mem = c1.mem
      ∧ t.chip.clusters = o.1.clusters ∧ (isU d.toNat = false → b.writes = o.2.flatMap (fun y => loadWrites d y.1 y.2.1 y.2.2 (n / 4) 0))
      ∧ ∀ l, ls = [l] →
          let old := (c1.bank (core / 128) (acc l).bank).read (acc l).off n
          o.2 = [(l, old, false)]
          ∧ (t.chip.bank (core / 128) (acc l).bank).read (acc l).off n = applyAop aop.toNat n old (acc l).val % 2 ^ (8 * n)
          ∧ ∀ cl b k, (cl ≠ core / 128 ∨ b ≠ (acc l).bank ∨ k < (acc l).off ∨ (acc l).off + n ≤ k) →
              aget 0 (t.chip.bank cl b).data k = aget 0 (c1.bank cl b).data k

/-- R195-R197, R199: GIVE, TAKE and RELB by a lane set that executes. GIVE past its decision point empties the giver's slot, reserves the
receiver's and drains the bank; TAKE attaches the first bank of the gang's reserve and RELB drains a slot for the reserve; each refuses
with its status and no other effect where R196 says so. -/
def BankMapResults : Prop :=
  ∀ (g : Guard) (fsel : BitVec 2) (d a b : Reg) s i core slot w,
    let flag := flagOf i.hdr fsel.toNat
    let form (op : Nat) (srcs : List Src) : Form := { op := op, g := g, hq := false, d := some (d, 1), ud := .rule, srcs := srcs }
    let sa : Src := { code := a, field := 1, n := 1, ia := false }
    let j := w.reg a.toNat 0
    let bv := w.reg b.toNat 0
    let p := s.chip.physSlot i.eng j
    let wn := s.chip.win core p
    let c1 := (s.chip.nextCid i.eng).1
    let cid := (s.chip.nextCid i.eng).2
    let status (op st : Nat) : Op := { Op.blank op flag cid with uwrites := [(d.toNat - 960, BitVec.ofNat 32 st, false)] }
    Issuing s i core slot w → s.chip.flagFull i.eng flag = false → isU d.toNat →
    (∀ k op srcs, (k, op, srcs) ∈ [(Instr.give g fsel d a b, 0x8E, [sa, srcB b 1]), (Instr.take g fsel d a, 0x8F, [sa]),
        (Instr.relb g fsel d a, 0x90, [sa])] → (form op srcs).Ready s.chip i w → (form op srcs).active i w ≠ 0 →
      (s.chip.bcount i.eng ≤ j → exec k s = .next { s with chip := c1.issueOp i (status op 3) })
      ∧ (j < s.chip.bcount i.eng → op ≠ 0x8F → wn.v = false → exec k s = .next { s with chip := c1.issueOp i (status op 2) })
      ∧ (j < s.chip.bcount i.eng → op = 0x8F → s.chip.slotTaken core p → exec k s = .next { s with chip := c1.issueOp i (status op 1) }))
    ∧ (let f := form 0x8E [sa, srcB b 1]
     let rc := bv % 512
     let rs := bv / 2 ^ 16 % 8
     let c2 := c1.setWin rc rs { c1.win rc rs with resv := true }
     f.Ready s.chip i w → f.active i w ≠ 0 → j < s.chip.bcount i.eng → wn.v →
     (∀ st, s.chip.giveCheck core w.gang bv = some st → exec (.give g fsel d a b) s = .next { s with chip := c1.issueOp i (status 0x8E st) })
     ∧ (s.chip.giveCheck core w.gang bv = none → (rc, rs) ≠ (core, p) →
       ∃ t o, exec (.give g fsel d a b) s = .next t ∧ t.chip.ops = (c2.releaseBy i.eng 3 (some cid)).1.ops ++ [o] ∧ o.hold = true ∧ o.race = (c2.releaseBy i.eng 3 (some cid)).2
         ∧ o.uwrites = [(d.toNat - 960, 0, false)] ∧ t.chip.win core p = { wn with w := false, v := false, bank := 0 }
         ∧ (t.chip.win rc rs).resv = true ∧ (t.chip.win rc rs).gen = (s.chip.win rc rs).gen
         ∧ (t.chip.core core).gives = (s.chip.core core).gives ++
             [{ slot := p, toCore := rc, toSlot := rs, bank := wn.bank, w := wn.w && !bv.testBit 24, op := o.id }]))
    ∧ (let f := form 0x8F [sa]
     f.Ready s.chip i w → f.active i w ≠ 0 → j < s.chip.bcount i.eng → s.chip.slotTaken core p = false →
     ∀ k, s.chip.gang w.gang = some k →
       (k.reserve = [] → exec (.take g fsel d a) s = .next { s with chip := c1.issueOp i (status 0x8F 6) })
       ∧ ∀ r rs, k.reserve = r :: rs → ∃ t o, exec (.take g fsel d a) s = .next t ∧ t.chip.ops = s.chip.ops ++ [o] ∧ o.hold = false
           ∧ o.uwrites = [(d.toNat - 960, 0, false)] ∧ t.chip.gang w.gang = some { k with reserve := rs }
           ∧ t.chip.win core p = { gen := wn.gen + 1, w := true, v := true, bank := r, resv := false }
           ∧ (t.chip.bank (core / 128) r).at_ = some (core, p)
           ∧ ((s.chip.bank (core / 128) r).tag ≠ some (s.chip.tagOf w.gang) → (t.chip.bank (core / 128) r).data = [])
           ∧ ((s.chip.bank (core / 128) r).tag = some (s.chip.tagOf w.gang) → (t.chip.bank (core / 128) r).data = (s.chip.bank (core / 128) r).data))
    ∧ (let f := form 0x90 [sa]
     f.Ready s.chip i w → f.active i w ≠ 0 → j < s.chip.bcount i.eng → wn.v →
     ∃ t o, exec (.relb g fsel d a) s = .next t ∧ t.chip.ops = s.chip.ops ++ [o] ∧ o.hold = true ∧ o.uwrites = [(d.toNat - 960, 0, false)]
       ∧ t.chip.win core p = { wn with w := false, v := false, bank := 0 }
       ∧ (t.chip.core core).gives = (s.chip.core core).gives ++ [{ slot := p, toCore := 512, toSlot := 0, bank := wn.bank, w := false, op := o.id }])

/-- R192, R200: BMAPR gives its executing lanes the 64 bits of a bank-map register, after an acquire at cluster scope where V is set. -/
def BankMapRead : Prop :=
  ∀ (g : Guard) (d : Reg) (j : BitVec 3) s i core slot w,
    let f : Form := { op := 0x91, g := g, hq := false, d := some (d, 2), ud := .always, srcs := [] }
    let wn := s.chip.win core (s.chip.physSlot i.eng j.toNat)
    let v := wn.gen.toNat * 2 ^ 32 + (if wn.v then (if wn.w then 512 else 0) + 256 + wn.bank else 0)
    Issuing s i core slot w → f.Ready s.chip i w → j.toNat < s.chip.bcount i.eng →
    ∃ w', exec (.bmapr g d j) s = .next { s with
        chip := (if wn.v && f.active i w != 0 then s.chip.acquire core 3 else s.chip).setWarp core slot (some w') }
      ∧ Wrote (f.writing i w) d.toNat 2 (fun _ => v) 0 i w w'

/-- R197, R199: a drained bank attaches at its receiver's slot, whose GEN rises by one, or returns to the reserve of its gang; then the
operation of the GIVE or RELB has nothing left to wait for. -/
def BankAttach : Prop :=
  ∀ s core slot (gv : Give) gn k, (s.chip.core core).gives.find? (fun x => x.slot == slot) = some gv → s.chip.drained core gv →
    (s.chip.bank (core / 128) gv.bank).gang = some gn → s.chip.gang gn = some k → k.phase < 2 →
    ∃ t, exec (.giveAttach core slot) s = .next t ∧ (∀ o ∈ t.chip.ops, o.id = gv.op → o.hold = false) ∧ t.chip.mem = s.chip.mem
      ∧ (∀ x ∈ (t.chip.core core).gives, x.op ≠ gv.op)
      ∧ (gv.toCore = 512 → (t.chip.bank (core / 128) gv.bank).at_ = none ∧ t.chip.gang gn = some { k with reserve := k.reserve ++ [gv.bank] })
      ∧ (gv.toCore ≠ 512 → gv.toCore / 128 = core / 128 → (t.chip.bank (core / 128) gv.bank).at_ = some (gv.toCore, gv.toSlot)
          ∧ (t.chip.bank (core / 128) gv.bank).data = (s.chip.bank (core / 128) gv.bank).data
          ∧ t.chip.win gv.toCore gv.toSlot
              = { gen := (s.chip.win gv.toCore gv.toSlot).gen + 1, w := gv.w, v := true, bank := gv.bank, resv := false })

/-- R261-R267: a sweep whose operands pass their checks and whose banks are ready performs its rows and becomes an operation of its lane set;
where a row stops, the trap is taken with the rows before it written. -/
def SweepResult : Prop :=
  ∀ (count : BitVec 12) (ud ua ub : BitVec 6) (fs : BitVec 3) (sd sa sb : BitVec 8) s i core slot w k op two ts c2 st,
    (k, op, two) ∈ [(Instr.wfadd count ud ua ub sd sa sb, 0x60, true), (Instr.wfmul count ud ua ub sd sa sb, 0x61, true),
      (Instr.wffma count ud ua ub sd sa sb, 0x62, true), (Instr.wfmax count ud ua ub sd sa sb, 0x63, true),
      (Instr.wiadd count ud ua ub sd sa sb, 0x64, true), (Instr.wmov count ud ua sd sa, 0x65, false),
      (Instr.wcvt count ud ua fs sd sa, 0x66, false)] →
    let src (r : BitVec 6) (field : Nat) : Src := { code := BitVec.ofNat 10 (960 + r.toNat), field := field, n := 1, ia := false }
    let f : Form := { op := op, g := 0, hq := false, d := none, ud := .rule, srcs := [src ud 11, src ua 12] ++ (if two then [src ub 13] else []) }
    let sl := s.chip.slot i.eng fs.toNat
    let u (r : BitVec 6) := w.reg (960 + r.toNat) 0
    let c1 := (s.chip.nextCid i.eng).1
    let bank (n : Nat) := (ts.map (fun (t : Touch) => t.bank)).getD n 0
    Issuing s i core slot w → s.chip.flagFull i.eng (flagSeta i.hdr) = false → f.Ready s.chip i w → (op = 0x66 → cvtPairOk sl) →
    sweepChecks s.chip i.eng op count.toNat (sweepOperands op sl (u ud) (u ua) (if two then u ub else 0) sd sa sb two (lanesOf i.lanes)) = .ok ts →
    c1.bankReady core c1.nextOp ts →
    c1.sweepRun i.eng op i.lanes count.toNat (if op = 0x66 then fs.toNat else 0) (bank 0, u ud) (bank 1, u ua) (bank 2, if two then u ub else 0)
      sd.toNat sa.toNat (if two then sb.toNat else 0) = (c2, st) →
    (st = none → exec k s = .next { s with chip := c2.issueOp i (Op.blank op (flagSeta i.hdr) (s.chip.nextCid i.eng).2) })
    ∧ (∀ syn l ad, st = some (syn, l, ad) → exec k s = .next { s with chip := c2.trapFor i syn l ad i.lanes })

/-- R262, R264: the rows of a sweep on words whose destination rows do not overlap and lie in another bank than its sources: every element of
every row is what the operation makes of its operands, and no other bank changes. -/
def SweepRows : Prop :=
  ∀ (c : Chip) core slot (w : Warp) op (mask : BitVec 64) count fs (d a b : Nat × Nat) sd sa sb,
    c.warp core slot = some w → op ∈ [0x60, 0x61, 0x62, 0x63, 0x64, 0x65] → 8 ≤ sd → d.1 ≠ a.1 → (op = 0x65 ∨ d.1 ≠ b.1) →
    (∀ x ∈ [a.1, b.1, d.1], (c.bank (core / 128) x).pois = []) →
    ∃ c', c.sweepRun (.warp core slot) op mask count fs d a b sd sa sb = (c', none) ∧ c'.mem = c.mem
      ∧ (∀ k < count, ∀ l ∈ lanesOf mask, bankWord c' (core / 128) d.1 (elemOff d.2 sd k l 4) =
          swept op (bankWord c (core / 128) a.1 (elemOff a.2 sa k l 4)) (bankWord c (core / 128) b.1 (elemOff b.2 sb k l 4))
            (bankWord c (core / 128) d.1 (elemOff d.2 sd k l 4)))
      ∧ (∀ cl x, (cl, x) ≠ (core / 128, d.1) → c'.bank cl x = c.bank cl x)

/-- R210, R203, R207: BINIT in the three clause classes: a barrier at which no copy, child or byte source stands open is set up and status 0
given; another is left as it is with status 1; a declaration of a party that a core has not gives status 2. -/
def BarrierSetup : Prop :=
  ∀ (g : Guard) (n : BitVec 6) (d a b : Reg) (ma mb ka kb : BitVec 5) s i core slot w j,
    ∀ o ∈ barCases s i core slot w 0xB7 g d a b ma mb ka kb true true true (.binit g false n d a b) (.binitMatrix false n ma mb) (.binitCopy false n ka kb),
    o.ok → s.chip.barSlot i.eng n.toNat = some j →
    let k := s.chip.bar (.core core j)
    let busy := k.srcValid || k.flags &&& 0xFFF != 0 || k.granted != 0
    let st := if busy then 1 else if o.b / 2 ^ 34 ≠ 0 then 2 else 0
    ∃ t, exec o.instr s = .next t ∧ o.received st t ∧ t.chip.mem = s.chip.mem
      ∧ t.chip.bar (.core core j) = if st = 0 then
          { k with expect := BitVec.ofNat 16 o.a, deadline := o.a / 2 ^ 16 % 2 ^ 16, decl := BitVec.ofNat 128 o.b, arrived := 0, xbytes := 0,
                   lbytes := 0, arr := 0, flags := 0 } else k

/-- R206, R210: BINIT of a memory barrier, whose line holds no entry of its own page's table, reads its party table: an entry that must not stand
gives status 3; else the declared parties are those of its valid entries. -/
def MemoryBarrierSetup : Prop :=
  ∀ (g : Guard) (n : BitVec 6) (d a b : Reg) (ma mb ka kb : BitVec 5) s i core slot w off c1,
    ∀ o ∈ barCases s i core slot w 0xB7 g d a b ma mb ka kb true true true (.binit g true n d a b) (.binitMatrix true n ma mb) (.binitCopy true n ka kb),
    o.ok → barrierAt i 0xB7 true n.toNat o.b s.chip = .ok (.mem off, c1) → c1.ringAt off = none →
    (∃ e, tlbFind (c1.core core).tlb (s.chip.tagOf (s.chip.gangOf i.eng)) o.b = some e ∧ (e.entryAt < off ∨ off + 64 ≤ e.entryAt)) →
    let k := c1.bar (.mem off)
    let es := (List.range 128).map (c1.partyEntry off)
    let st := if k.srcValid || k.flags &&& 0xFFF != 0 || k.granted != 0 then 1 else if es.any entryBad then 3 else 0
    ∃ t, exec o.instr s = .next t ∧ o.received st t
      ∧ t.chip.bar (.mem off) = if st = 0 then
          { k with expect := BitVec.ofNat 16 o.a, deadline := o.a / 2 ^ 16 % 2 ^ 16,
                   decl := declared (fun p => (c1.partyEntry off p).testBit 63),
                   arrived := 0, xbytes := 0, lbytes := 0, arr := 0, flags := 0 } else k

/-- R207, R211: ARRIVE in the three clause classes: after a release at SCOPE, an arrival beyond EXPECT sets bit 15 of FLAGS; any other raises
ARRIVED by one, marks its party, and completes the phase where nothing is left to wait for. The result is the phase it arrived in. -/
def BarrierArrival : Prop :=
  ∀ (g : Guard) (scope : BitVec 3) (mem : Bool) (n : BitVec 6) (d b : Reg) (ma mb ka kb : BitVec 5) s i core slot w p c1 c2,
    ∀ o ∈ barCases s i core slot w 0xB8 g d 0 b ma mb ka kb false true mem (.arrive g scope mem n d b) (.arriveMatrix scope mem n ma mb)
      (.arriveCopy scope mem n ka kb),
    o.ok → barrierAt i 0xB8 mem n.toNat o.b s.chip = .ok (p, c1) → Local c1 p →
    (c1.issueCid i).1.releaseFor i 0xB8 scope.toNat (some (c1.issueCid i).2) = .ok (c2, none) →
    let k := c2.bar p
    ∃ t, exec o.instr s = .next t ∧ o.received k.phase.toNat t
      ∧ t.chip.bar p = if k.arrived = k.expect then { k with flags := k.flags ||| 0x8000 }
          else checked { k with arrived := k.arrived + 1, arr := match arriver c2 i p with
            | none => k.arr
            | some x => k.arr ||| BitVec.ofNat 128 (2 ^ x) }

/-- R212: EXPB in the three clause classes adds its bytes to XBYTES, or sets bit 15 of FLAGS where they do not fit. -/
def BarrierBytes : Prop :=
  ∀ (g : Guard) (n : BitVec 6) (a : Reg) (ma ka : BitVec 5) s i core slot w j,
    ∀ o ∈ barCases s i core slot w 0xB9 g 0 a 0 ma 0 ka ka true false false (.expb g n a) (.expbMatrix n ma) (.expbCopy n ka),
    o.ok → s.chip.barSlot i.eng n.toNat = some j →
    let k := s.chip.bar (.core core j)
    ∃ t, exec o.instr s = .next t ∧ o.received 0 t ∧ t.chip.mem = s.chip.mem
      ∧ t.chip.bar (.core core j) = if k.xbytes.toNat + o.a < 2 ^ 32 then { k with xbytes := k.xbytes + BitVec.ofNat 32 o.a }
          else { k with flags := k.flags ||| 0x8000 }

/-- R213, R392: WAITPH in the three clause classes passes on, after an acquire at SCOPE, where the barrier's phase differs from P, and then
changes no barrier; else its lane set or stream stays at the word and waits, with the wait recorded. -/
def BarrierWait : Prop :=
  ∀ (g : Guard) (scope : BitVec 3) (mem : Bool) (n : BitVec 6) (a b : Reg) (ma mb ka kb : BitVec 5) s i core slot w p c1,
    ∀ o ∈ barCases s i core slot w 0xBA g 0 a b ma mb ka kb true false mem (.waitph g scope mem n a b) (.waitphMatrix scope mem n ma mb)
      (.waitphCopy scope mem n ka kb),
    o.ok → s.chip.isChild i.eng = false → barrierAt i 0xBA mem n.toNat o.b s.chip = .ok (p, c1) → Local c1 p → s.chip.waitOf i = none →
    ((c1.bar p).phase.toNat ≠ o.a % 2 ^ 16 → ∃ t, exec o.instr s = .next t ∧ o.received 0 t ∧ t.chip.bar p = c1.bar p)
    ∧ ((c1.bar p).phase.toNat = o.a % 2 ^ 16 → ∃ t, exec o.instr s = .next t
        ∧ o.waiting { on := c1.nidBar p, phase := BitVec.ofNat 16 o.a, state := 1, scope := scope.toNat, since := s.chip.now,
                       cid := (c1.nextCid i.eng).2, met := false } t
        ∧ (t.chip.bar p).phase = (c1.bar p).phase ∧ (t.chip.bar p).arrived = (c1.bar p).arrived)

/-- R213: a wait that has begun goes on with the phase that its WAITPH read at issue, whatever its registers hold now: while its barrier stands in
that phase and none has completed since, nothing changes; else its lane set or stream passes on, after an acquire at SCOPE. -/
def BarrierWaitEnds : Prop :=
  ∀ (g : Guard) (scope : BitVec 3) (mem : Bool) (n : BitVec 6) (a b : Reg) (ma mb ka kb : BitVec 5) s i r,
    ∀ k ∈ [Instr.waitph g scope mem n a b, .waitphMatrix scope mem n ma mb, .waitphCopy scope mem n ka kb],
    let at_ := s.chip.barNamed r.on
    s.chip.cur = some i → s.chip.waitOf i = some r → r.state = 1 → (∀ pa, at_ ≠ .peer pa) →
    (r.met = false → (s.chip.bar at_).phase = r.phase → exec k s = .next s)
    ∧ ((r.met = true ∨ (s.chip.bar at_).phase ≠ r.phase) →
      exec k s = .next { s with chip := (s.chip.acquireBy i.eng scope.toNat).advance i })

/-- Only the matrix engine of a core changes, to `m`. -/
def OnlyMat (core : Nat) (m : Mat) (s t : State) : Prop :=
  { t with chip := { t.chip with cores := s.chip.cores } } = s
  ∧ ∀ n, t.chip.core n = if n = core then { s.chip.core core with mat := m } else s.chip.core n

/-- Only the Dray of a core changes, to `d`. -/
def OnlyDray (core : Nat) (d : Dray) (s t : State) : Prop :=
  { t with chip := { t.chip with cores := s.chip.cores } } = s
  ∧ ∀ n, t.chip.core n = if n = core then { s.chip.core core with dray := d } else s.chip.core n

/-- A stream moved to a position, its wait ended. -/
def moved (st : Stream) (p : Pos) : Stream := { st with pos := p, wait := none }

/-- An instruction of a core's matrix stream is in issue; no m register that it names is still to be written (R46). -/
def MatIssuing (s : State) (i : Issue) (core : Nat) (rs : List (BitVec 5)) : Prop :=
  s.chip.cur = some i ∧ i.eng = .matrix core ∧ ∀ r ∈ rs, s.chip.pendingK i.eng r.toNat = false

/-- An instruction of a core's copy stream is in issue; the k registers that it names are not to be written, those it reads carry no mark. -/
def CopyIssuing (s : State) (i : Issue) (core : Nat) (reads writes : List (BitVec 5)) : Prop :=
  s.chip.cur = some i ∧ i.eng = .copy core ∧ (∀ r ∈ reads ++ writes, s.chip.pendingK i.eng r.toNat = false)
  ∧ ∀ r ∈ reads, aget false (s.chip.core core).dray.kp r.toNat = false

/-- The value of an m register. -/
def mval (s : State) (core : Nat) (r : BitVec 5) : DWord := aget 0 (s.chip.core core).mat.m r.toNat

/-- The value of a k register. -/
def kval (s : State) (core : Nat) (r : BitVec 5) : DWord := aget 0 (s.chip.core core).dray.k r.toNat

/-- R277: the scalar instructions of the matrix sequencer: the registers they name, the one they write, its value. -/
def matScalars (s : State) (core : Nat) : Instr → Option (List (BitVec 5) × BitVec 5 × DWord)
  | .mli cat a imm => some ([a], a, if cat then (mval s core a <<< 24) ||| imm.setWidth 64 else imm.signExtend 64)
  | .madd a b => some ([a, b], a, mval s core a + mval s core b)
  | .maddi a b imm => some ([a, b], a, mval s core b + imm.signExtend 64)
  | .mprg a =>
    let m := (s.chip.core core).mat
    some ([a], a, BitVec.ofNat 64 (m.prgState * 2 ^ 24 + m.prgOp * 2 ^ 16 + m.chunk))
  | _ => none

/-- R186, R183, R166: those of the copy sequencer: the registers they read, the one they write, its value. -/
def copyScalars (s : State) (core : Nat) : Instr → Option (List (BitVec 5) × BitVec 5 × DWord)
  | .kli cat a imm => some (if cat then [a] else [], a, if cat then (kval s core a <<< 26) ||| imm.setWidth 64 else imm.signExtend 64)
  | .kadd a b c => some ([b, c], a, kval s core b + kval s core c)
  | .kaddi a b imm => some ([b], a, kval s core b + imm.signExtend 64)
  | .kprg a q => some ([], a, BitVec.ofNat 64 ((s.chip.queue core q.toNat).prog % 2 ^ 40))
  | .dstat a q =>
    let k := s.chip.queue core q.toNat
    some ([], a, BitVec.ofNat 64 (k.op * 2 ^ 40 + k.detail % 2 ^ 24 * 2 ^ 16 + k.cmds.length * 2 ^ 8
      + ((k.run.map (fun r => r.state)).getD 0) * 2 ^ 4 + k.status))
  | _ => none

/-- R187, R278: the conditions of a sequencer's branch. -/
def taken (cond : Nat) (x y : DWord) : Prop :=
  (cond = 0 ∨ (cond = 1 ∧ x = 0) ∨ (cond = 2 ∧ x ≠ 0) ∨ (cond = 3 ∧ x.toInt < y.toInt) ∨ (cond = 4 ∧ y.toInt ≤ x.toInt)
    ∨ (cond = 5 ∧ x.toNat < y.toNat) ∨ (cond = 6 ∧ y.toNat ≤ x.toNat))

/-- R56, R42, R271: when a matrix instruction may run: its tiles are declared, its flag has room, its unit is free, and no earlier
instruction is still to write its tiles or to read the one that it writes. -/
def MatReady (s : State) (i : Issue) (core op : Nat) (fsel : BitVec 2) (tiles : List (BitVec 4)) (dest : Option (BitVec 4)) : Prop :=
  s.chip.cur = some i ∧ i.eng = .matrix core ∧ s.chip.flagFull i.eng (flagOf i.hdr fsel.toNat) = false
  ∧ (∀ t ∈ tiles, t.toNat < ((s.chip.kernelOf (s.chip.gangOf i.eng)).map (fun k => k.tiles)).getD 0)
  ∧ (op ≠ 0xC0 → s.chip.unitBusy core (isArrayOp op) = false) ∧ ∀ t ∈ tiles, s.chip.tileHeld core t.toNat (dest == some t) = false

/-- An instruction of the matrix engine has become an operation: its stream has passed the word, the engine is `m` but for its stream, and the
other cores and memory are as they were. -/
def MatIssued (s : State) (i : Issue) (core : Nat) (flag : Option Nat) (hold : Bool) (m : Mat) (t : State) : Prop :=
  (∃ o, t.chip.ops = s.chip.ops ++ [o] ∧ o.id = s.chip.nextOp ∧ o.flag = flag ∧ o.hold = hold ∧ (hold = false → o.late = none) ∧ o.fail = none)
  ∧ { (t.chip.core core).mat with s := m.s } = m ∧ (t.chip.core core).mat.s.pos = i.pos.after i.hdr
  ∧ t.chip.mem = s.chip.mem ∧ ∀ n, n ≠ core → t.chip.core n = s.chip.core n

/-- A byte of a tile: row and offset in it. -/
def tileByte (m : Mat) (t row k : Nat) : Byte := aget 0 (m.tile t).data (row * 256 + k)

/-- The word of an accumulator at a row and a column. -/
def accWord (m : Mat) (acc row col : Nat) : Word := aget 0 m.acc (acc * 16384 + row * 128 + col)

/-- The format and scale of a slot's side as a tile takes them. -/
def sideTag (sl : Slot) (b : Bool) : Nat × BitVec 8 := if b then (sl.fb, scaleBits sl.sb) else (sl.fa, scaleBits sl.sa)

/-- R286: an element of a product: row of A, column of B, from the word it accumulates on. -/
def productAt (as bs : List (List (List FVal))) (row col : Nat) (old : Nat) : Nat × Bool := accElem (as.getD row []) (bs.getD col []) (old, false)

/-- R39: a header of a sequencer's own class whose flags are clear is entered by its stream, which keeps the header; one of another class is
ILLEGAL_CLAUSE, reason 3, and the stream stops for its trap. -/
def SequencerClauses : Prop :=
  ∀ (cls : Sys2Proof.Class) (h : Header) s i core, s.chip.cur = some i →
    let entered (st : Stream) : Stream := { moved st { addr := i.pos.addr, idx := 0, entered := true } with hdr := some h }
    (i.eng = .matrix core →
      let m := (s.chip.core core).mat
      ((∀ k < 12, h.wait.getLsbD k → cfGet m.s.cf k = 0) →
        ∃ t, exec (.clauseStart .matrix h) s = .next t ∧ (t.chip.core core).mat = { m with s := entered m.s } ∧ t.chip.mem = s.chip.mem
          ∧ (h.trace = false → OnlyMat core { m with s := entered m.s } s t))
      ∧ (cls ≠ .matrix → exec (.clauseStart cls h) s
          = .next (s.trapped i (0x02000000 + (if cls = .lane then 0xF0 else 0xF2) * 0x10000 + 3) (lowLane i.lanes) 0)))
    ∧ (i.eng = .copy core →
      let k := (s.chip.core core).dray
      ((∀ j < 12, h.wait.getLsbD j → cfGet k.s.cf j = 0) →
        ∃ t, exec (.clauseStart .copy h) s = .next t ∧ (t.chip.core core).dray = { k with s := entered k.s } ∧ t.chip.mem = s.chip.mem
          ∧ (h.trace = false → OnlyDray core { k with s := entered k.s } s t))
      ∧ (cls ≠ .copy → exec (.clauseStart cls h) s
          = .next (s.trapped i (0x02000000 + (if cls = .lane then 0xF0 else 0xF1) * 0x10000 + 3) (lowLane i.lanes) 0)))

/-- R277, R186, R183, R166: the scalar instructions of both sequencers write one register and change nothing else; a register written carries
no mark. -/
def SequencerScalars : Prop :=
  ∀ s i core k rs a v,
    (matScalars s core k = some (rs, a, v) → MatIssuing s i core rs →
      let m := (s.chip.core core).mat
      ∃ t, exec k s = .next t ∧ OnlyMat core { m with m := aput 0 m.m a.toNat v, s := moved m.s (i.pos.after i.hdr) } s t)
    ∧ (copyScalars s core k = some (rs, a, v) → CopyIssuing s i core rs [a] →
      let d := (s.chip.core core).dray
      ∃ t, exec k s = .next t
        ∧ OnlyDray core { d with k := aput 0 d.k a.toNat v, kp := aput false d.kp a.toNat false, s := moved d.s (i.pos.after i.hdr) } s t)

/-- R278, R187, R279, R188: MBR and KBR move their stream to the target where the condition holds, else to the next clause; a COND
above 6 is ILLEGAL_INSTRUCTION, reason 9, in the forking warp; MEXIT and KEXIT end their streams. -/
def SequencerControl : Prop :=
  ∀ (cond : BitVec 3) (kc a b : BitVec 5) (off : BitVec 24) (koff : BitVec 26) s i core,
    let m := (s.chip.core core).mat
    let d := (s.chip.core core).dray
    let ktarget : DWord := i.pos.addr + 8 * koff.signExtend 64
    (MatIssuing s i core [a, b] → cond ≠ 7 → ∃ t, exec (.mbr cond a b off) s = .next t
      ∧ (taken cond.toNat (mval s core a) (mval s core b) → OnlyMat core { m with s := moved m.s (clauseAt (branchTarget i off)) } s t)
      ∧ (¬ taken cond.toNat (mval s core a) (mval s core b) → OnlyMat core { m with s := moved m.s (clauseAt (nextClause i)) } s t))
    ∧ (CopyIssuing s i core (kcondReads kc.toNat a b) [] → kc.toNat < 7 → ∃ t, exec (.kbr kc a b koff) s = .next t
      ∧ (taken kc.toNat (kval s core a) (kval s core b) → OnlyDray core { d with s := moved d.s (clauseAt ktarget) } s t)
      ∧ (¬ taken kc.toNat (kval s core a) (kval s core b) → OnlyDray core { d with s := moved d.s (clauseAt (nextClause i)) } s t))
    ∧ (MatIssuing s i core [] → exec (.mbr 7 a b off) s = .next (s.trapped i (0x01000000 + 0xCE * 0x10000 + 9) (lowLane i.lanes) 0))
    ∧ (CopyIssuing s i core [] [] → 7 ≤ kc.toNat →
      exec (.kbr kc a b koff) s = .next (s.trapped i (0x01000000 + 0xE5 * 0x10000 + 9) (lowLane i.lanes) 0))
    ∧ (MatIssuing s i core [] → ∃ t, exec .mexit s = .next t
      ∧ OnlyMat core { m with s := { moved m.s (clauseAt (nextClause i)) with st := 3 },
                              prgState := if m.post.isSome then 2 else if s.chip.matOps core (fun o => isArrayOp o.code) then 1
                                else if s.chip.matOps core (fun _ => true) then 0 else 4 } s t)
    ∧ (CopyIssuing s i core [] [] → ∃ t, exec .kexit s = .next t
      ∧ OnlyDray core { d with s := { moved d.s (clauseAt (nextClause i)) with st := 3 } } s t)

/-- R280-R284: TCFG clears a tile and gives it the format and scale of a side of a slot; TMOV copies a tile, TTRN transposes one of two-byte
elements, MZERO clears an accumulator. A format that no tile holds is FORMAT. -/
def TileResults : Prop :=
  ∀ (b : Bool) (fsel acc : BitVec 2) (td ta : BitVec 4) (fs : BitVec 3) s i core,
    let m := (s.chip.core core).mat
    let sl := s.chip.slot i.eng fs.toNat
    let flag := flagOf i.hdr fsel.toNat
    (MatReady s i core 0xC0 0 [td] (some td) → tileCap (sideTag sl b).1 ≠ 0 →
      ∃ t, exec (.tcfg b td fs) s = .next t
        ∧ OnlyMat core { m with tiles := aput Tile.zero m.tiles td.toNat { fmt := (sideTag sl b).1, scale := (sideTag sl b).2, data := [], marks := [] },
                                s := moved m.s (i.pos.after i.hdr) } s t)
    ∧ (MatReady s i core 0xC0 0 [td] (some td) → tileCap (sideTag sl b).1 = 0 →
      exec (.tcfg b td fs) s
        = .next (s.trapped i (0x0A000000 + (0xC0 * 65536 + fs.toNat * 256 + sl.fa * 16 + sl.fb) % 2 ^ 24) 0 0))
    ∧ (MatReady s i core 0xCA fsel [td, ta] (some td) →
      ∃ t, exec (.tmov fsel td ta) s = .next t ∧ MatIssued s i core flag false
        { m with tiles := aput Tile.zero m.tiles td.toNat (m.tile ta.toNat), prgState := 1, prgOp := 0xCA, chunk := 0, mmas := none } t)
    ∧ (MatReady s i core 0xCB fsel [td, ta] (some td) → ((m.tile ta.toNat).fmt = 1 ∨ (m.tile ta.toNat).fmt = 2) →
      ∃ t k, exec (.ttrn fsel td ta) s = .next t ∧ MatIssued s i core flag false
          { m with tiles := aput Tile.zero m.tiles td.toNat k, prgState := 1, prgOp := 0xCB, chunk := 0, mmas := none } t
        ∧ k.fmt = (m.tile ta.toNat).fmt ∧ k.scale = (m.tile ta.toNat).scale
        ∧ (∀ r < 128, ∀ j < 128, ∀ x < 2, aget 0 k.data (r * 256 + 2 * j + x) = tileByte m ta.toNat j (2 * r + x))
        ∧ ∀ r < 128, (k.marked r = true ↔ ∃ q < 128, (m.tile ta.toNat).marked q))
    ∧ (MatReady s i core 0xC9 fsel [] none →
      ∃ t a, exec (.mzero fsel acc) s = .next t ∧ MatIssued s i core flag false { m with acc := a, prgState := 1, prgOp := 0xC9, chunk := 0, mmas := none } t
        ∧ ∀ x < 4, ∀ r < 128, ∀ j < 128, accWord { m with acc := a } x r j = if x = acc.toNat then 0 else accWord m x r j)

/-- R270, R281, R282: TLD fills a tile with the bytes of a bank and takes its marks, TST writes a tile's bytes to a bank, row by row,
once the bank is ready. -/
def TileTransfers : Prop :=
  ∀ (fsel : BitVec 2) (b : Bool) (td : BitVec 4) (ma : BitVec 5) (fs : BitVec 3) (kblk : BitVec 6) s i core bank ts,
    let m := (s.chip.core core).mat
    let sl := s.chip.slot i.eng fs.toNat
    let flag := flagOf i.hdr fsel.toNat
    (let fmt := (sideTag sl b).1
     let n := kblkOf kblk.toNat (tileCap fmt) * blockBytes fmt
     let o := matOperand (mval s core ma).toNat n fmt false
     let k := s.chip.bank (core / 128) bank
     MatReady s i core 0xC1 fsel [td] (some td) → s.chip.pendingK i.eng ma.toNat = false → tileCap fmt ≠ 0 → kblk.toNat ≤ tileCap fmt →
     o.check s.chip i.eng 0xC1 = .ok (bank, ts) → s.chip.bankReady core s.chip.nextOp ts →
     ∃ t x, exec (.tld fsel b td ma fs kblk) s = .next t ∧ MatIssued s i core flag false { m with tiles := aput Tile.zero m.tiles td.toNat x } t
       ∧ t.chip.clusters = s.chip.clusters ∧ x.fmt = fmt ∧ x.scale = (sideTag sl b).2
       ∧ (∀ r < 128, ∀ j < 256, aget 0 x.data (r * 256 + j) = if j < n then aget 0 k.data (o.row r + j) else 0)
       ∧ ∀ r < 128, x.marked r = k.marked (o.row r) n)
    ∧ (let x := m.tile td.toNat
     let n := kblkOf kblk.toNat (tileCap x.fmt) * blockBytes x.fmt
     let o := matOperand (mval s core ma).toNat n x.fmt true
     MatReady s i core 0xC2 fsel [td] none → s.chip.pendingK i.eng ma.toNat = false → kblk.toNat ≤ tileCap x.fmt →
     o.check s.chip i.eng 0xC2 = .ok (bank, ts) → s.chip.bankReady core s.chip.nextOp ts →
     ∃ t, exec (.tst fsel td ma kblk) s = .next t ∧ MatIssued s i core flag false m t
       ∧ (∀ r < 128, ∀ j < n, (∀ q, r < q → q < 128 → ¬ (o.row q ≤ o.row r + j ∧ o.row r + j < o.row q + n)) →
           aget 0 (t.chip.bank (core / 128) bank).data (o.row r + j) = tileByte m td.toNat r j)
       ∧ (∀ cl y a, (cl ≠ core / 128 ∨ y ≠ bank ∨ ∀ r < 128, a < o.row r ∨ o.row r + n ≤ a) →
           aget 0 (t.chip.bank cl y).data a = aget 0 (s.chip.bank cl y).data a))

/-- R285-R287, R50: MMA and MMAZ where the array unit makes no silent error: each element of the accumulator becomes the accumulation of the groups'
products in rising order, on its own word or on zero; a flushed result sets bit 5 of SR.MSTAT. -/
def ProductResults : Prop :=
  ∀ (fsel acc : BitVec 2) (ta tb : BitVec 4) (kblk : BitVec 6) s i core k op zero,
    (k, op, zero) ∈ [(Instr.mma fsel acc ta tb kblk, 0xC3, false), (Instr.mmaz fsel acc ta tb kblk, 0xC4, true)] →
    let m := (s.chip.core core).mat
    let a := m.tile ta.toNat
    let b := m.tile tb.toNat
    let cap := min (tileCap a.fmt) (tileCap b.fmt)
    let n := if kblk = 0 then cap else kblk.toNat
    let e (r j : Nat) := productAt (a.groups n) (b.groups n) r j (if zero then 0 else (accWord m acc.toNat r j).toNat)
    MatReady s i core op fsel [ta, tb] none → pairOk a.fmt b.fmt → kblk.toNat ≤ cap → (∀ r < 128, a.marked r = false ∧ b.marked r = false) →
    (s.chip.core core).upset = none →
    ∃ t x st, exec k s = .next t
      ∧ MatIssued s i core (flagOf i.hdr fsel.toNat) false { m with acc := x, mstat := st, prgState := 1, prgOp := op, chunk := 0, mmas := none } t
      ∧ (∀ r < 128, ∀ j < 128, accWord { m with acc := x } acc.toNat r j = BitVec.ofNat 32 (e r j).1)
      ∧ (∀ y < 4, y ≠ acc.toNat → ∀ r < 128, ∀ j < 128, accWord { m with acc := x } y r j = accWord m y r j)
      ∧ ((∃ r < 128, ∃ j < 128, (e r j).2) → st = m.mstat ||| 0x20) ∧ ((∀ r < 128, ∀ j < 128, (e r j).2 = false) → st = m.mstat)

/-- R288, R289: MMAS is checked and bound to its banks at issue; each chunk that then commits accumulates its block columns and counts in
SR.MPRG, the last one ends it. One that is issued again where an earlier one stopped (R289) goes on at the chunk that SR.MPRG names. -/
def StreamedProduct : Prop :=
  (∀ (fsel : BitVec 2) (z : Bool) (acc : BitVec 2) (ma mb : BitVec 5) (fs : BitVec 3) (count : BitVec 12) (kblk : BitVec 6) s i core ba bb ta tb,
    let m := (s.chip.core core).mat
    let sl := s.chip.slot i.eng fs.toNat
    let n := mmasBlocks sl kblk.toNat
    let a := (mval s core ma).toNat
    let b := (mval s core mb).toNat
    MatReady s i core 0xC5 fsel [] none → (∀ r ∈ [ma, mb], s.chip.pendingK i.eng r.toNat = false) → pairOk sl.fa sl.fb → count ≠ 0 →
    kblk.toNat ≤ min (tileCap sl.fa) (tileCap sl.fb) →
    (matOperand a (count.toNat * n * blockBytes sl.fa) sl.fa false).check s.chip i.eng 0xC5 = .ok (ba, ta) →
    (matOperand b (count.toNat * n * blockBytes sl.fb) sl.fb false).check s.chip i.eng 0xC5 = .ok (bb, tb) →
    ∃ t, exec (.mmas fsel z acc ma mb fs count kblk) s = .next t ∧ MatIssued s i core (flagOf i.hdr fsel.toNat) true
      { m with mmas := some { acc := acc.toNat, fs := fs.toNat, opA := mval s core ma, opB := mval s core mb, bankA := ba, bankB := bb,
                              count := count.toNat, kblk := kblk.toNat, zero := z, op := s.chip.nextOp, pos := i.pos, hdr := i.hdr },
               prgState := 1, prgOp := 0xC5, chunk := if m.mmas.isSome then m.chunk else 0 } t)
  ∧ ∀ (c : Chip) core (r : Mmas),
    let m := (c.core core).mat
    let e : Eng := .matrix core
    let sl := c.slot e r.fs
    let n := mmasBlocks sl r.kblk
    let oa := matOperand r.opA.toNat (r.count * n * blockBytes sl.fa) sl.fa false
    let ob := matOperand r.opB.toNat (r.count * n * blockBytes sl.fb) sl.fb false
    let ts := chunkTouches oa (c.physSlot e (bitsAt r.opA.toNat 29 3)) r.bankA sl.fa n m.chunk
      ++ chunkTouches ob (c.physSlot e (bitsAt r.opB.toNat 29 3)) r.bankB sl.fb n m.chunk
    let as := chunkGroups (c.bank (core / 128) r.bankA) oa sl.fa sl.sa n m.chunk
    let bs := chunkGroups (c.bank (core / 128) r.bankB) ob sl.fb sl.sb n m.chunk
    m.mmas = some r → c.mmasBusy core → c.bankReady core r.op ts → (∀ t ∈ ts, (c.bank (core / 128) t.bank).marked t.lo (t.hi - t.lo + 1) = false) →
    (c.core core).upset = none → r.acc < 4 →
    let m' := ((c.mmasChunk core).core core).mat
    m'.chunk = m.chunk + 1 ∧ (r.count ≤ m.chunk + 1 → m'.mmas = none ∧ ∀ o ∈ (c.mmasChunk core).ops, o.id = r.op → o.hold = false)
    ∧ (m.chunk + 1 < r.count → m'.mmas = some r)
    ∧ (∀ q < 128, ∀ j < 128, accWord m' r.acc q j =
        BitVec.ofNat 32 (productAt as bs q j (if r.zero ∧ m.chunk = 0 then 0 else (accWord m r.acc q j).toNat)).1)

/-- R292: MDRN writes the bounded and converted values of an accumulator to a bank, MDRNB to a tile; their sticky bits go to SR.MSTAT, and Z
clears the accumulator. A value that its bound traps ends them with RANGE and nothing written but SR.MPRG (R275; the model's choice, log entry 63: it then names the drain, state 1). -/
def DrainResults : Prop :=
  ∀ (fsel acc : BitVec 2) (z : Bool) (ma : BitVec 5) (td : BitVec 4) (fs : BitVec 3) s i core bank ts rows f,
    let m := (s.chip.core core).mat
    let sl := s.chip.slot i.eng fs.toNat
    let flag := flagOf i.hdr fsel.toNat
    let cleared (a : AMap Word) : Prop := ∀ x < 4, ∀ r < 128, ∀ j < 128,
      accWord { m with acc := a } x r j = if z ∧ x = acc.toNat then 0 else accWord m x r j
    let st := m.mstat ||| (f &&& 0xF).setWidth 6
    let range (op d : Nat) : State := { s with
      chip := (s.chip.setMat core { m with prgState := 1, prgOp := op, chunk := 0, mmas := none }).trapFor i (0x09000000 + op * 65536 + d) 0 0
        i.lanes }
    let n := 8 * (if isSx sl.fb then sxSize sl.fb else 16 * elemSize sl.fb)
    let o := matOperand (mval s core ma).toNat n sl.fb true
    sl.fa = 0 → sl.fb < 6 →
    (MatReady s i core 0xC7 fsel [] none → s.chip.pendingK i.eng ma.toNat = false → o.check s.chip i.eng 0xC7 = .ok (bank, ts) →
     (∀ d, drainCheck (s.chip.bounds i.eng) sl (m.accWords acc.toNat) = .error d → exec (.mdrn fsel z ma acc fs) s = .next (range 0xC7 d))
     ∧ (s.chip.bankReady core s.chip.nextOp ts → drainRows (s.chip.bounds i.eng) sl (m.accWords acc.toNat) = .ok (rows, f) →
       ∃ t a, exec (.mdrn fsel z ma acc fs) s = .next t
         ∧ MatIssued s i core flag false { m with acc := a, mstat := st, prgState := 1, prgOp := 0xC7, chunk := 0, mmas := none } t ∧ cleared a
         ∧ (∀ r < 128, ∀ j < n, (∀ q, r < q → q < 128 → ¬ (o.row q ≤ o.row r + j ∧ o.row r + j < o.row q + n)) →
             aget 0 (t.chip.bank (core / 128) bank).data (o.row r + j) = (rows.getD r []).getD j 0)
         ∧ (∀ cl y x, (cl ≠ core / 128 ∨ y ≠ bank ∨ ∀ r < 128, x < o.row r ∨ o.row r + n ≤ x) →
             aget 0 (t.chip.bank cl y).data x = aget 0 (s.chip.bank cl y).data x)))
    ∧ (MatReady s i core 0xC8 fsel [td] (some td) → sl.fb ≠ 0 →
      (∀ d, drainCheck (s.chip.bounds i.eng) sl (m.accWords acc.toNat) = .error d → exec (.mdrnb fsel z td acc fs) s = .next (range 0xC8 d))
      ∧ (drainRows (s.chip.bounds i.eng) sl (m.accWords acc.toNat) = .ok (rows, f) →
        ∃ t a x, exec (.mdrnb fsel z td acc fs) s = .next t
          ∧ MatIssued s i core flag false
            { m with acc := a, tiles := aput Tile.zero m.tiles td.toNat x, mstat := st, prgState := 1, prgOp := 0xC8, chunk := 0, mmas := none } t
          ∧ cleared a ∧ x.fmt = sl.fb ∧ x.scale = scaleBits sl.sb ∧ x.marks = []
          ∧ ∀ r < 128, ∀ j < 256, aget 0 x.data (r * 256 + j) = (rows.getD r []).getD j 0))

/-- R290, R291: MPAIR posts; two posts that agree give each core its product and end; two that do not, or a post that has waited 65,536 cycles
alone, end with faults of class PAIR. -/
def PairedProduct : Prop :=
  (∀ (fsel acc : BitVec 2) (ta tb : BitVec 4) (kblk : BitVec 6) s i core p,
    let m := (s.chip.core core).mat
    MatReady s i core 0xC6 fsel ((if core % 2 = 0 then [ta] else []) ++ [tb]) none → (core % 2 = 0 ∨ ta = 0) → s.chip.partner core = some p →
    ∃ t, exec (.mpair fsel acc ta tb kblk) s = .next t ∧ MatIssued s i core (flagOf i.hdr fsel.toNat) true
      { m with post := some { acc := acc.toNat, ta := ta.toNat, tb := tb.toNat, kblk := kblk.toNat, at_ := s.chip.cycle, since := s.chip.now,
                              cid := (s.chip.nextCid i.eng).2, op := s.chip.nextOp, pos := i.pos },
               prgState := 2, prgOp := 0xC6, chunk := 0, mmas := none } t)
  ∧ (∀ s pair (pe po : PairPost) me mo,
    let ce := (s.chip.core (2 * pair)).mat
    let co := (s.chip.core (2 * pair + 1)).mat
    let a := ce.tile pe.ta
    let wrong := syndrome 0x0E (0xC6 * 65536 + 3)
    ce.post = some pe → co.post = some po →
    (pe.kblk = po.kblk → ce.s.gang = co.s.gang → pairCheck pe.kblk a (ce.tile pe.tb) = none → pairCheck po.kblk a (co.tile po.tb) = none →
      s.chip.pairProduct (2 * pair) pe a = .ok me → s.chip.pairProduct (2 * pair + 1) po a = .ok mo →
      ∃ t, exec (.mpairStart pair) s = .next t ∧ { (t.chip.core (2 * pair)).mat with prgState := ce.prgState } = { me with post := none }
        ∧ { (t.chip.core (2 * pair + 1)).mat with prgState := co.prgState } = { mo with post := none }
        ∧ (∀ o ∈ t.chip.ops, o.id = pe.op ∨ o.id = po.op → o.hold = false) ∧ t.chip.mem = s.chip.mem)
    ∧ ((pe.kblk ≠ po.kblk ∨ ce.s.gang ≠ co.s.gang) →
      exec (.mpairStart pair) s = .next { s with
        chip := (s.chip.pairEnd (2 * pair) pe (.error wrong)).pairEnd (2 * pair + 1) po (.error wrong) }))
  ∧ ∀ s core (p : PairPost), (s.chip.core core).mat.post = some p → p.at_ + 65536 ≤ s.chip.cycle →
    (∀ q, s.chip.partner core = some q → (s.chip.core q).mat.post = none) →
    exec (.mpairTimeout core) s = .next { s with
      chip := ((s.chip.setMat core { (s.chip.core core).mat with post := none }).dropOp p.op).seqFault (.matrix core) p.pos
        (syndrome 0x0E (0xC6 * 65536 + 1)) 0 (some p.cid) }

/-- R50, R276: a KBLK above the capacity is ILLEGAL_INSTRUCTION, reason 9, in the products before formats that do not pair, which end with FORMAT. -/
def ProductTraps : Prop :=
  ∀ (fsel acc : BitVec 2) (ta tb : BitVec 4) (kblk : BitVec 6) s i core k op,
    (k, op) ∈ [(Instr.mma fsel acc ta tb kblk, 0xC3), (Instr.mmaz fsel acc ta tb kblk, 0xC4)] →
    let m := (s.chip.core core).mat
    let a := m.tile ta.toNat
    let b := m.tile tb.toNat
    let cap := min (tileCap a.fmt) (tileCap b.fmt)
    MatReady s i core op fsel [ta, tb] none →
    (cap ≠ 0 → cap < kblk.toNat → exec k s = .next (s.trapped i (0x01000000 + op * 0x10000 + 9) (lowLane i.lanes) 0))
    ∧ ((cap = 0 ∨ kblk.toNat ≤ cap) → pairOk a.fmt b.fmt = false →
      exec k s = .next (s.trapped i (0x0A000000 + op * 0x10000 + a.fmt * 16 + b.fmt) 0 0))

/-- R175: the commands: opcode, queue control, the k registers in the order of KA to KD, the bits of the word that the command keeps. -/
def commands : Instr → Option (Nat × CmdCtl × List (BitVec 5) × Nat)
  | .dcopy ct a b => some (0xD8, ct, [a, b], 0)
  | .dmcast ct a b c d slot bar cl => some (0xD9, ct, [a, b, c, d], slot.toNat + bar.toNat * 8 + cl.toNat * 512)
  | .dfill ct a b => some (0xDA, ct, [a, b], 0)
  | .dchain ct a b c d => some (0xDB, ct, [a, b, c, d], 0)
  | .dred ct op a b => if op = 3 then none else some (0xDC, ct, [a, b], op.toNat)
  | .dcoll ct a => some (0xDD, ct, [a], 0)
  | .dproxy ct a sh => some (0xDE, ct, [a], sh.toNat)
  | _ => none

/-- R161, R162: the command as it enters its queue. -/
def entering (s : State) (i : Issue) (core op : Nat) (ct : CmdCtl) (ks : List (BitVec 5)) (imm : Nat) : Cmd :=
  let v (n : Nat) : DWord := if n < ks.length then kval s core (ks.getD n 0) else 0
  { op := op, ka := v 0, kb := v 1, kc := v 2, kd := v 3, imm := imm, acq := ct.acq, rel := ct.rel, scope := ct.scope.toNat,
    opId := some s.chip.nextOp, pos := i.pos, issued := s.chip.time, cid := (s.chip.nextCid i.eng).2, prog := 0, sentTo := [],
    cancelled := false }

/-- R184: a command that ends CANCELLED in its turn. -/
def withdrawn (k : Cmd) : Cmd := { k with cancelled := true }

/-- R174, R184: whether a running command can still be cancelled. -/
def cancellable (r : Run) : Prop :=
  match r.ending with
  | some (st, _, _) => 1 < st
  | none => ¬ (r.begun = true ∧ r.p = r.count ∧ r.count ≠ 0)

/-- A queue that runs a command. -/
def Running (c : Chip) (core q : Nat) (k : Cmd) (r : Run) : Prop :=
  ∃ ks, (c.queue core q).cmds = k :: ks ∧ (c.queue core q).run = some r

/-- The run of a queue after a step. -/
def runIn (t : State) (core q : Nat) : Option Run := (t.chip.queue core q).run

/-- The gang of a core's Dray is on its cores (R173). -/
def DrayOn (c : Chip) (core : Nat) : Prop :=
  (c.core core).dray.s.st ≠ 0 ∧ ∃ g, c.gang (c.core core).dray.s.gang = some g ∧ g.phase = 0

/-- R130: the chip in which a queue's walk reads: a DCOPY or DMCAST holds one of the contexts of its first line's port, at each home of the lines
of its first element. -/
def WalkingIn (c : Chip) (l : Lane8) (k : Cmd) (r : Run) (c1 : Chip) : Prop :=
  (k.op ≠ 0xD8 ∧ k.op ≠ 0xD9 ∧ c1 = c)
  ∨ ((k.op = 0xD8 ∨ k.op = 0xD9) ∧ ∃ m, r.src = some m
      ∧ c.takeHansoms l (c.homesOf l.core (c.drayTag l.core) m.pol (lineParts (m.at r.fetchedTo) m.esize)) = (c1, true))

/-- No read of host memory by a queue is under way. -/
def HostQuiet (c : Chip) (core q : Nat) : Prop := ∀ x ∈ c.remotes, x.who = .drayQueue core q → x.dst ≠ 2 ^ 22

/-- R161: a queue with a command at its head that has not been tried. -/
def Waiting (c : Chip) (core q : Nat) (k : Cmd) : Prop :=
  DrayOn c core ∧ (∃ ks, (c.queue core q).cmds = k :: ks) ∧ (c.queue core q).run = none ∧ HostQuiet c core q

/-- R163: the chip in which a command is tried for the first time, after the acquire that ACQ asks for. -/
def triedIn (c : Chip) (core q : Nat) (k : Cmd) : Chip :=
  (if k.acq then c.acquireBy (.copy core) k.scope else c).setQueue core q { c.queue core q with run := some (Run.fresh k), prog := k.prog }

/-- R168, R175-R180: the source map of a command and its destination map; a DFILL has no source map, a DMCAST no destination map. -/
def mapsOf (k : Cmd) : Option Nat × Option Nat :=
  (if k.op = 0xDA then none else some k.ka.toNat, if k.op = 0xD9 then none else if k.op = 0xDA then some k.ka.toNat else some k.kb.toNat)

/-- R168: one map read at a command's start, where it has that map. -/
def mapRead (l : Lane8) (k : Cmd) (tag : Nat) (a : Option Nat) (h : Haul) : Haul × Option (List Byte) :=
  match a with
  | none => (h, none)
  | some x => ((readMap l k [] tag x 256 h).1, some (readMap l k [] tag x 256 h).2)

/-- R168: the maps of a command in chip `c`, read: the chip after, and the bytes of the source and of the destination map. -/
def MapsRead (c : Chip) (l : Lane8) (k : Cmd) (c1 : Chip) (sb db : Option (List Byte)) : Prop :=
  ∃ h h1, mapRead l k (c.drayTag l.core) (mapsOf k).1 { c := c, elem := k.prog, seen := [], stop := none } = (h, sb) ∧ h.stop = none
    ∧ mapRead l k (c.drayTag l.core) (mapsOf k).2 h = (h1, db) ∧ h1.stop = none ∧ h1.c = c1 ∧ (c1.queue l.core l.q).run = some (Run.fresh k)

/-- R167, R184: a target of a bank-bound command as it begins, the bytes that have landed there before left out. -/
def targetAt (k : Cmd) (es : Nat) (t : (Nat × Nat × Nat) × Nat) : Target :=
  let b := max (k.sentTo.getD t.2 0) (k.prog * es)
  { core := t.1.1, slot := t.1.2.1, barrier := t.1.2.2, sent := b, landed := b, flight := [] }

/-- R171: the fault that a stalled command waits for. -/
def stallsOn (core q : Nat) (k : Cmd) (r : Run) (f : PageFault) : Bool :=
  f.party == .drayQueue core q && !f.gone && f.cid == k.cid && r.fault == some f.addr.toNat

/-- R161, R162, R175: a command joins the tail of its queue with its operands as read, while the queue holds fewer than sixteen, and becomes an
operation that waits for the command's end; DRED's operation 3 is ILLEGAL_INSTRUCTION. -/
def CommandIssue : Prop :=
  (∀ k op ct ks imm s i core, commands k = some (op, ct, ks, imm) → CopyIssuing s i core ks [] →
    s.chip.flagFull i.eng (flagOf i.hdr ct.fsel.toNat) = false → (s.chip.queue core ct.queue.toNat).cmds.length < 16 →
    let q := s.chip.queue core ct.queue.toNat
    ∃ t o, exec k s = .next t ∧ t.chip.ops = s.chip.ops ++ [o] ∧ o.id = s.chip.nextOp ∧ o.flag = flagOf i.hdr ct.fsel.toNat ∧ o.hold = true
      ∧ t.chip.queue core ct.queue.toNat = { q with cmds := q.cmds ++ [entering s i core op ct ks imm] }
      ∧ (∀ x, x ≠ ct.queue.toNat → t.chip.queue core x = s.chip.queue core x)
      ∧ (t.chip.core core).dray.k = (s.chip.core core).dray.k ∧ (t.chip.core core).dray.s.pos = i.pos.after i.hdr
      ∧ t.chip.mem = s.chip.mem ∧ ∀ n, n ≠ core → t.chip.core n = s.chip.core n)
  ∧ ∀ (ct : CmdCtl) (a b : BitVec 5) s i core, CopyIssuing s i core [] [] →
    exec (.dred ct 3 a b) s = .next (s.trapped i (0x01000000 + 0xDC * 0x10000 + 9) (lowLane i.lanes) 0)

/-- R183, R184: DRESUME places the last command of an idle queue in front again where it ended CANCELLED, REMOTE or FAULT, and gives 1, else 0;
DCANCEL marks the commands that wait, ends the running one CANCELLED unless it has finished, and gives how many it cancelled; the fault records of
the command it ends concern the queue no longer (R174). That the count leaves out the commands that have been cancelled already, and not ended, is
the model's choice (log 56). -/
def QueueControl : Prop :=
  ∀ (a : BitVec 5) (qn : BitVec 3) s i core, CopyIssuing s i core [] [a] →
    let d := (s.chip.core core).dray
    let q := s.chip.queue core qn.toNat
    let after (k : Queue) (v : Nat) : Dray := { d with queues := aput Queue.zero d.queues qn.toNat k, k := aput 0 d.k a.toNat (BitVec.ofNat 64 v),
                                                        kp := aput false d.kp a.toNat false, s := moved d.s (i.pos.after i.hdr) }
    (∀ k, q.cmds = [] → q.last = some k → q.status ∈ [1, 2, 4] →
      ∃ t, exec (.dresume a qn) s = .next t ∧ OnlyDray core (after { q with cmds := [{ k with opId := none, cancelled := false }] } 1) s t)
    ∧ ((q.cmds ≠ [] ∨ q.last = none ∨ q.status ∉ [1, 2, 4]) → ∃ t, exec (.dresume a qn) s = .next t
        ∧ OnlyDray core { d with k := aput 0 d.k a.toNat 0, kp := aput false d.kp a.toNat false, s := moved d.s (i.pos.after i.hdr) } s t)
    ∧ (q.run = none → ∃ t, exec (.dcancel a qn) s = .next t
        ∧ OnlyDray core (after { q with cmds := q.cmds.map withdrawn } (q.cmds.countP (fun k => !k.cancelled))) s t)
    ∧ ∀ r, q.run = some r →
        (cancellable r → ∃ t, exec (.dcancel a qn) s = .next t
          ∧ OnlyDray core (after { q with run := some { r with ending := some (1, 0, 0), fetched := [], got := [], fault := none },
                                          cmds := q.cmds.take 1 ++ (q.cmds.drop 1).map withdrawn }
              (1 + (q.cmds.drop 1).countP (fun k => !k.cancelled))) { s with chip := s.chip.orphanFaults core qn.toNat } t)
        ∧ (¬ cancellable r → ∃ t, exec (.dcancel a qn) s = .next t
          ∧ OnlyDray core (after { q with cmds := q.cmds.take 1 ++ (q.cmds.drop 1).map withdrawn }
              ((q.cmds.drop 1).countP (fun k => !k.cancelled))) s t)

/-- R186, R305: KLD reads eight bytes at their home and KST writes them there; an address that is not a multiple of 8 is ALIGNMENT. At a peer
both become operations that wait for the reply, as does a KST whose quota's implicit release has asked a peer (R304). -/
def ScalarMemory : Prop :=
  ∀ (ord : Bool) (scope : BitVec 3) (ka kb : BitVec 5) (imm : BitVec 26) s i core pa c1,
    let a := (kval s core kb + imm.signExtend 64).toNat
    let tag := s.chip.tagOf (s.chip.gangOf i.eng)
    (a % 8 ≠ 0 → (CopyIssuing s i core [kb] [ka] →
        exec (.kld ord scope ka kb imm) s = .next (s.trapped i (0x0B000000 + 0xE7 * 0x10000) 0 a))
      ∧ (CopyIssuing s i core [ka, kb] [] → exec (.kst ord scope ka kb imm) s = .next (s.trapped i (0x0B000000 + 0xE8 * 0x10000) 0 a)))
    ∧ (a % 8 = 0 → CopyIssuing s i core [kb] [ka] → s.chip.xlate core tag a .read 0 = .ok (pa, c1) →
      (tierOf pa < 3 → s.chip.held.all (fun h => h.line != lineOf pa || h.expired) →
        s.chip.meetsDray core (lineOf pa) (BitVec.ofNat 64 (255 * 2 ^ (pa % 64))) = none →
        let v := BitVec.ofNat 64 (eightOf (c1.homeBytes (lineOf pa)) (pa % 64))
        (tierOf pa < 2 → (c1.sliceRead core (lineOf pa) 0).isSome →
          ∃ t, exec (.kld ord scope ka kb imm) s = .next t ∧ kval t core ka = v ∧ (∀ r, r ≠ ka → kval t core r = kval s core r)
            ∧ aget false (t.chip.core core).dray.kp ka.toNat
                = (c1.linePois (lineOf pa) || s.chip.held.any (fun h => h.line == lineOf pa && h.expired))
            ∧ (t.chip.core core).dray.s.pos = i.pos.after i.hdr ∧ t.chip.mem = c1.mem ∧ t.chip.ops = s.chip.ops)
        ∧ (tierOf pa = 2 → ∃ t o, exec (.kld ord scope ka kb imm) s = .next t ∧ t.chip.ops = s.chip.ops ++ [o] ∧ o.kwrite = some (ka.toNat, v, false)
            ∧ o.acq = (if ord then scope.toNat else 0) ∧ o.flag = none ∧ t.chip.mem = c1.mem))
      ∧ (tierOf pa = 3 → ∃ t o, exec (.kld ord scope ka kb imm) s = .next t ∧ t.chip.ops = s.chip.ops ++ [o] ∧ o.hold = true
          ∧ o.kwrite = some (ka.toNat, 0, false) ∧ o.acq = (if ord then scope.toNat else 0) ∧ o.flag = none
          ∧ ∃ r ∈ t.chip.remotes, r.op = some o.id ∧ r.kind = .read 8 ∧ r.dst = (peerOf pa).1 ∧ r.off = (peerOf pa).2))
    ∧ (a % 8 = 0 → CopyIssuing s i core [ka, kb] [] → s.chip.xlate core tag a .write 0 = .ok (pa, c1) → ∀ c3 race,
      let cid := (c1.issueCid i).2
      (if ord then (c1.issueCid i).1.releaseFor i 0xE8 scope.toNat (some cid) else .ok ((c1.issueCid i).1, none)) = .ok (c3, race) →
      let mask := BitVec.ofNat 64 (255 * 2 ^ (pa % 64))
      let v := (kval s core ka).toNat
      let o := c3.drayWrite core tag (lineOf pa) mask (BitVec.ofNat 512 (v * 2 ^ (8 * (pa % 64)))) false 0 cid
        { who := .drayStream core, op := 0xE8, tag := tag, pos := i.pos, id := some c3.nextOp }
      let waits (c : Chip) : State := { s with chip := c.issueOp i { Op.blank 0xE8 none cid with hold := true, race := race.or o.2 } }
      (tierOf pa < 3 → o.1.opAsks o.1.nextOp = false →
        exec (.kst ord scope ka kb imm) s = .next { s with chip := (o.1.advance i).raceAfter (race.or o.2) i 0xE8 })
      ∧ (tierOf pa < 3 → o.1.opAsks o.1.nextOp = true → exec (.kst ord scope ka kb imm) s = .next (waits o.1))
      ∧ (tierOf pa = 3 → exec (.kst ord scope ka kb imm) s = .next (waits
          (o.1.ask pa (.write (bytesOf 8 v) false) (.drayStream core) (some o.1.nextOp) 0 0xE8 tag 2 8 cid (a / 64 * 64) i.pos false ord))))

/-- R305, R300, R115: a Dray's write of bytes of a line with its quota free stands in memory at once and under its intent; no other byte
changes. -/
def DrayWriteResult : Prop :=
  ∀ (c : Chip) core tag line (mask : BitVec 64) (d : BitVec 512) pois pol cid who,
    tierOf line < 2 → c.ringAt line = none → c.quotaFull (.dray core) core tag line = false →
    let o := c.drayWrite core tag line mask d pois pol cid who
    o.2 = none
      ∧ (∀ k < 64, mask.getLsbD k → aget 0 o.1.mem (line % 2 ^ 64 + k) = lineByte d k)
      ∧ (∀ a, (∀ k < 64, mask.getLsbD k → a ≠ line % 2 ^ 64 + k) → aget 0 o.1.mem a = aget 0 c.mem a)
      ∧ (∃ t ∈ o.1.intents, t.owner = .dray core ∧ t.tag = tag ∧ t.line = line ∧ t.mask &&& mask = mask ∧ t.cover = none ∧ t.cid = cid)
      ∧ ∀ t ∈ c.intents, t.owner ≠ .dray core → t ∈ o.1.intents

/-- R315, R316: TRIG releases at device scope and is an operation; the first of its task lowers the counters of the task's successors; a task
without the flag refuses it with PROTECTION, reason 8. -/
def TriggerResult : Prop :=
  ∀ (g : Guard) (fsel : BitVec 2) s i core slot w gr k,
    let f := ctlForm 0x92 g none .rule []
    let flag := flagOf i.hdr fsel.toNat
    let cid := (s.chip.issueCid i).2
    let o := (s.chip.issueCid i).1.releaseBy i.eng 5 (some cid)
    let o1 := o.1.takePeerRace (partyOf i.eng i.lanes) w.gang i.pos
    let done (x : Chip) : Chip := x.issueOp i { Op.blank 0x92 flag cid with race := o1.2.or o.2 }
    Issuing s i core slot w → f.Ready s.chip i w → s.chip.flagFull i.eng flag = false → s.chip.gang w.gang = some k →
    s.chip.gridOf w.gang = some gr →
    (f.active i w = 0 → exec (.trig g fsel) s = .next { s with chip := s.chip.issueOp i (Op.blank 0x92 flag (s.chip.nextCid i.eng).2) })
    ∧ (f.active i w ≠ 0 → gr.task.flags.getLsbD 5 = false →
        exec (.trig g fsel) s = .next (s.trapped i (0x06000000 + 0x92 * 0x10000 + 8) (lowLane (f.active i w)) 0))
    ∧ (f.active i w ≠ 0 → gr.task.flags.getLsbD 5 = true → gr.triggered = true → gr.dec = none → o1.1.grid k.grid = some gr →
        exec (.trig g fsel) s = .next { s with chip := done o1.1 })
    ∧ ∀ c3, f.active i w ≠ 0 → gr.task.flags.getLsbD 5 = true → gr.triggered = false →
        (o1.1.setGrid k.grid { gr with triggered := true, dec := some (0, cid) }).successors k.grid = (c3, none) →
        exec (.trig g fsel) s = .next { s with chip := done c3 }

/-- R315, R343: the decrements of a grid's successors go one after the other; an address of 0 names no counter, a decrement that has completed is not
repeated, and with the last of the two none is under way. -/
def SuccessorSteps : Prop :=
  (∀ (c : Chip) grid, (∀ gr, c.grid grid = some gr → gr.dec = none) → c.successors grid = (c, none))
  ∧ (∀ (c : Chip) grid gr id, c.grid grid = some gr → gr.dec = some (0, id) → gr.task.succ0 = 0 → gr.task.succ1 = 0 →
      ∃ t, c.successors grid = (t, none) ∧ t.grid grid = some { gr with dec := none } ∧ t.mem = c.mem)
  ∧ ∀ (c : Chip) grid gr id n c1, c.grid grid = some gr → gr.dec = some (n, id) → (n = 0 ∧ gr.task.succ1 = 0 ∨ n = 1) →
      (if n = 0 then gr.task.succ0 else gr.task.succ1) ≠ 0 →
      c.counterDec grid id gr.task.tag (if n = 0 then gr.task.succ0 else gr.task.succ1).toNat false = .ok c1 → c1.grid grid = some gr →
      ∃ t, c.successors grid = (t, none) ∧ t.grid grid = some { gr with dec := none } ∧ t.mem = c1.mem

/-- R161, R168, R170, R175: the head of a queue starts: a cancelled one is to end CANCELLED, a non-canonical address FAULT, a map
that is not at a multiple of 64 BADMAP; so does a map that is read, after the acquire that ACQ asks for, and found bad, with the least reason. A
command of good maps with memory for its destination begins with the count of its elements; a bank-bound one begins when the scoreboards of
all its targets have room, and else waits in STATE 4 (R194); a DMCAST without a target is to end OK (R177). -/
def CommandStart : Prop :=
  ∀ s core q k,
    let l : Lane8 := { core := core, q := q }
    let as := if k.op ∈ [0xD9, 0xDA, 0xDD, 0xDE] then [k.ka.toNat] else [k.ka.toNat, k.kb.toNat]
    let mapped := k.op ∈ [0xD8, 0xD9, 0xDA, 0xDB, 0xDC]
    let starts (p : Chip → Run → Prop) : Prop := ∃ t r, exec (.drayCommandStart core q) s = .next t ∧ runIn t core q = some r ∧ p t.chip r
    Waiting s.chip core q k →
    (k.cancelled = true → starts (fun c r => r.ending = some (1, 0, 0) ∧ r.p = 0 ∧ c.mem = s.chip.mem))
    ∧ (∀ a, k.cancelled = false → as.find? (fun a => !canonical a) = some a →
      starts (fun c r => r.ending = some (4, 0x50001, a) ∧ c.mem = s.chip.mem))
    ∧ (k.cancelled = false → as.all canonical → mapped → ((mapsOf k).1.getD 0 % 64 ≠ 0 ∨ (mapsOf k).2.getD 0 % 64 ≠ 0) →
      starts (fun c r => r.ending = some (5, 0x101, 0) ∧ c.mem = s.chip.mem))
    ∧ ∀ c1 sb db, k.cancelled = false → as.all canonical → mapped → (mapsOf k).1.getD 0 % 64 = 0 → (mapsOf k).2.getD 0 % 64 = 0 →
      MapsRead (triedIn s.chip core q k) l k c1 sb db →
      let src := sb.map TMap.ofBytes
      let dst := db.map TMap.ofBytes
      let ts := cmdTargets k dst
      let m? := src.or dst
      let es := (m?.map (fun m => m.esize)).getD 1
      let begun (r : Run) : Prop := r.begun = true ∧ r.state = 1 ∧ r.src = src ∧ r.dst = dst ∧ r.count = (m?.map TMap.count).getD 0
        ∧ r.p = k.prog ∧ r.upto = k.prog ∧ r.targets = ts.zipIdx.map (targetAt k es)
      (∀ n, n ∈ mapReasons c1 k sb db → (∀ m ∈ mapReasons c1 k sb db, n ≤ m) →
        starts (fun c r => r.ending = some (5, n, 0) ∧ r.begun = false ∧ c.mem = c1.mem))
      ∧ (mapReasons c1 k sb db = [] → ts = [] →
        starts (fun c r => begun r ∧ r.ending = (if k.op = 0xD9 then some (0, 0, 0) else none) ∧ c.mem = c1.mem))
      ∧ (∀ c2, mapReasons c1 k sb db = [] → ts ≠ [] → c1.allocTargets l k src dst ts = (c2, true) →
        starts (fun c r => begun r ∧ r.ending = none ∧ c.mem = c1.mem))
      ∧ ∀ c2, mapReasons c1 k sb db = [] → ts ≠ [] → c1.allocTargets l k src dst ts = (c2, false) →
        starts (fun c r => r.state = 4 ∧ r.begun = false ∧ r.src = src ∧ r.dst = dst ∧ r.ending = none ∧ c.mem = c1.mem
          ∧ ((c.queue core q).wait.map (fun w => w.state)) = some 5)

/-- R194, R205: a bank-bound command takes an entry of the scoreboard of each of its targets' cores at once, none of which may be full, and
is entered among the byte sources of their barriers; else it waits in the order of arrival, and takes nothing. -/
def TargetAllocation : Prop :=
  (∀ (c : Chip) (l : Lane8) k src dst (x : Nat × Nat × Nat), c.laterAt l (clusterOf x.1) = false → (c.core x.1).score.length < 16 →
    let r := cmdRange k src dst
    let b := c.bar (.core x.1 x.2.2)
    let o := c.allocTargets l k src dst [x]
    o.2 = true
      ∧ (o.1.core x.1).score = (c.core x.1).score
          ++ [{ gang := (c.core l.core).dray.s.gang, core := l.core, queue := l.q, slot := x.2.1, lo := r.1, hi := r.2, done := false }]
      ∧ o.1.bar (.core x.1 x.2.2) = b.register l (c.fromPeer l.core (c.drayTag l.core) src)
      ∧ (l.place (clusterOf x.1)) ∉ o.1.scoreWaits ∧ o.1.mem = c.mem)
  ∧ ∀ (c : Chip) (l : Lane8) k src dst (x : Nat × Nat × Nat) xs, (c.laterAt l (clusterOf x.1) = true ∨ ∃ y ∈ x :: xs, 16 ≤ (c.core y.1).score.length) →
    let o := c.allocTargets l k src dst (x :: xs)
    o.2 = false ∧ o.1.cores = c.cores ∧ l.place (clusterOf x.1) ∈ o.1.scoreWaits

/-- R181, R182: a DCOLL whose descriptor, ranks and source are read and found good joins its collective: it waits in STATE 6 for the elements
of its result, and its contribution stands here; a bad descriptor is BADMAP. A DPROXY's entry goes into its shadow queue, which may be full
(STATE 5), have failed (REMOTE), or be off (BADMAP 0x010A). -/
def OtherStarts : Prop :=
  ∀ s core q k,
    let l : Lane8 := { core := core, q := q }
    let tag := s.chip.drayTag core
    let h0 : Haul := { c := triedIn s.chip core q k, elem := k.prog, seen := [], stop := none }
    let starts (p : Chip → Run → Prop) : Prop := ∃ t r, exec (.drayCommandStart core q) s = .next t ∧ runIn t core q = some r ∧ p t.chip r
    Waiting s.chip core q k → k.cancelled = false → canonical k.ka.toNat →
    (k.op ∈ [0xDD, 0xDE] → k.ka.toNat % 64 ≠ 0 → starts (fun _ r => r.ending = some (5, 0x101, 0)))
    ∧ (∀ h bs, k.op = 0xDD → k.ka.toNat % 64 = 0 → readMap l k [] tag k.ka.toNat 64 h0 = (h, bs) → h.stop = none →
      runIn { s with chip := h.c } core q = some (Run.fresh k) →
      let d := Desc.ofBytes bs
      (∀ why, d.bad bs = some why → starts (fun c r => r.ending = some (5, why, 0) ∧ c.mem = h.c.mem))
      ∧ ∀ h1 rb h2 sb, d.bad bs = none →
        let told := h.c.modRun l (fun x => { x with coll := some (d.run k []) })
        let devs := (List.range d.p).map (fun i => fieldOf rb (4 * i) 4 % 2 ^ 22)
        let n := contribBytes d.pack d.rank
        readMap l k [] tag d.ranks (4 * d.p) { h with c := told } = (h1, rb) → h1.stop = none →
        devs.getD d.rank 0 = h1.c.priv.gwdev.toNat → (∀ x, h1.c.coll (dw d.id) = some x → x.bad = false ∧ x.desc = d.pack) →
        (n ≠ 0 → d.src % fmtBytes d.fmt = 0) → drayRead l k [] tag 0 d.src n h1 = (h2, sb) → h2.stop = none →
        runIn { s with chip := h2.c } core q = some { Run.fresh k with coll := some (d.run k []) } → h2.c.coll (dw d.id) = none →
        starts (fun c r => r.begun = true ∧ r.state = 6 ∧ r.count = resultCount d.pack ∧ r.coll = some (d.run k devs) ∧ r.ending = none
          ∧ ((c.queue core q).wait.map (fun w => (w.on, w.state))) = some (dw d.id, 4)
          ∧ (∃ y ∈ c.colls, y.id = dw d.id ∧ y.desc = d.pack ∧ y.bad = false ∧ y.got = [(d.rank, sb)]) ∧ c.mem = h2.c.mem))
    ∧ (k.op = 0xDE → k.ka.toNat % 64 = 0 →
      let n := k.imm % 64
      let p (c : Chip) : Proxy := aget Proxy.zero c.proxies n
      ((p s.chip).en = false → starts (fun _ r => r.ending = some (5, 0x10A, 0)))
      ∧ ∀ h bs, (p s.chip).en = true → drayRead l k [] tag 0 k.ka.toNat 64 h0 = (h, bs) → h.stop = none →
        runIn { s with chip := h.c } core q = some (Run.fresh k) →
        ((p h.c).err = true → starts (fun c r => r.ending = some (2, (p h.c).why, 0) ∧ p c = p h.c))
        ∧ ((p h.c).err = false → 256 ≤ (p h.c).entries.length → starts (fun c r => r.state = 5 ∧ r.ending = none ∧ p c = p h.c))
        ∧ ((p h.c).err = false → (p h.c).entries.length < 256 → starts (fun c r => r.ending = some (0, 0, 0)
            ∧ p c = { p h.c with entries := (p h.c).entries ++ [(h.c.time, BitVec.ofNat 512 (natOfBytes (bs.map (fun b => b.1))))] })))

/-- R130, R167: a walk of a command whose destination is memory writes the lines of its elements and moves p on, once no peer's answer is
outstanding (R167); a bank-bound walk and a multicast walk add the bytes they read to those that wait for a grant. That DCOPY and DMCAST alone hold
a context of a Hansom, and that p waits for the answers of the walk's peers, are the model's choices (logs 55 and 56). -/
def CommandWalks : Prop :=
  ∀ s core q k r c1,
    let l : Lane8 := { core := core, q := q }
    let tag := s.chip.drayTag core
    let haul : Haul := { c := c1, elem := r.fetchedTo, seen := [], stop := none, multi := k.op = 0xD9 }
    DrayOn s.chip core → Running s.chip core q k r → r.canWalk → HostQuiet s.chip core q → WalkingIn s.chip l k r c1 →
    (∀ h n ws, k.op ∉ [0xD9, 0xDD, 0xDE] → r.targets = [] → s.chip.queueOwes l = false →
      walkElems l k r tag r.upto 8192 r.upto [] haul = (h, n, ws) → h.stop = none →
      let o := flushLines l k tag ((r.dst.map (fun m => m.pol)).getD 0) ws h.c
      o.2 = none → runIn { s with chip := o.1 } core q = some r →
      ∃ t r', exec (.hansomWalkStart core q) s = .next t ∧ runIn t core q = some r' ∧ r'.upto = n
        ∧ r'.p = (if o.1.queueOwes l then r.p else max r.p n) ∧ r'.ending = r.ending ∧ r'.count = r.count
        ∧ r'.wrote = ws.foldl (fun y w => addWrote y w.line w.mask) r.wrote
        ∧ t.chip.mem = o.1.mem ∧ (t.chip.queue core q).prog = r'.p)
    ∧ ∀ x h bs, ((x = .multicastRead core q ∧ k.op = 0xD9) ∨ (x = .hansomWalkStart core q ∧ k.op ∉ [0xD9, 0xDD, 0xDE])) → r.targets ≠ [] →
      fetchElems l k r tag r.fetchedTo 8192 r.fetchedTo haul = (h, bs) → h.stop = none → runIn { s with chip := h.c } core q = some r →
      ∃ t r', exec x s = .next t ∧ runIn t core q = some r' ∧ r'.fetched = r.fetched ++ bs.drop (r.fetchedByte - r.fetchedTo * r.esize)
        ∧ r'.via = h.via ++ r.via ∧ r'.p = r.p ∧ r'.targets = r.targets ∧ t.chip.mem = h.c.mem

/-- R163, R165, R166, R171: a command that has finished or is to end leaves its queue, with its status, detail and progress in SR.DQST and
SR.KPRG0-SR.KPRG7 and its operation ended; one that a page fault stalled goes on, or ends with FAULT, once the fault is settled. -/
def CommandEnd : Prop :=
  (∀ s core q k r st detail addr, DrayOn s.chip core → Running s.chip core q k r → (k.rel = true → k.scope < 6 ∧ (k.scope = 5 → s.chip.owedBy (.dray core) core = [])) → s.chip.queueAsks { core := core, q := q } = false →
    ((r.ending = some (st, detail, addr) ∧ r.quiet) ∨ (r.ending = none ∧ r.finished ∧ (st, detail, addr) = (0, 0, 0))) →
    let old := s.chip.queue core q
    let p := if st = 0 then max r.p r.count else r.p
    ∃ t, exec (.drayCommandEnd core q) s = .next t
      ∧ t.chip.queue core q = { cmds := old.cmds.drop 1, run := none, last := some { k with prog := p, sentTo := if r.targets = [] then k.sentTo else r.targets.map (fun x => x.landed) },
                                op := k.op, status := st, detail := detail, prog := p, wait := none }
      ∧ (∀ o ∈ t.chip.ops, some o.id ≠ k.opId) ∧ t.chip.mem = s.chip.mem)
  ∧ (∀ s core q k r, Running s.chip core q k r → r.state = 2 → s.chip.faults.all (fun f => !stallsOn core q k r f) →
    ∃ t, exec (.drayFaultResume core q) s = .next t ∧ runIn t core q = some { r with state := if r.begun && r.coll.isSome then 6 else 1, fault := none }
      ∧ t.chip.mem = s.chip.mem)
  ∧ ∀ s core q k r f, Running s.chip core q k r → r.state = 2 → s.chip.faults.find? (stallsOn core q k r) = some f →
    (f.failed = false → exec (.drayFaultResume core q) s = .next s)
    ∧ (f.failed = true → ∃ t, exec (.drayFaultResume core q) s = .next t
      ∧ runIn t core q = some { r with state := 1, fault := none, ending := r.ending.or (some (4, 0x50002, f.addr.toNat)), got := [] }
      ∧ t.chip.faults = s.chip.faults.filter (fun x => !stallsOn core q k r x))

/-- R148, R150, R181: a collective with a result for a waiting rank of this device gives it that result, and the rank has its result once
all of it is written; one that a page fault stalls waits no longer for the collective. The result is the reduction here of all contributions, by
pairs, level after level, in the format's wide values; switches in canonical order may return it where the ordered flag is clear. A collective
whose descriptors differ ends its commands with BADMAP. -/
def CollectiveResult : Prop :=
  (∀ s n k l cmd r x bs c1, s.chip.colls[n]? = some k → s.chip.queuesOf.find? (s.chip.awaitsColl k.id) = some l → s.chip.runOf l = some (cmd, r) →
    r.coll = some x → k.bad = false → s.chip.drayOn l.core → s.chip.collOutcome k x = some bs →
    s.chip.writeResult l cmd x bs = .ok c1 →
    ((∀ y, c1.runOf l = some y → y.2.count ≤ y.2.upto) → (c1.runOf l).isSome → exec (.collectiveCombine n) s = .next { s with chip := c1.collDone x })
    ∧ (∀ y, c1.runOf l = some y → y.2.upto < y.2.count → y.2.state = 2 → exec (.collectiveCombine n) s = .next { s with chip := c1.endWait l }))
  ∧ (∀ s n k l cmd r x, s.chip.colls[n]? = some k → s.chip.queuesOf.find? (s.chip.awaitsColl k.id) = some l → s.chip.runOf l = some (cmd, r) →
    r.coll = some x → k.bad = true →
    ∃ t, exec (.collectiveCombine n) s = .next t ∧ runIn t l.core l.q = some { r with state := 1, ending := some (5, 0x109, 0) }
      ∧ (t.chip.queue l.core l.q).wait = none ∧ t.chip.mem = s.chip.mem)
  ∧ (∀ (c : Chip) k x, (x.ordered = true ∨ c.canonicalTree = false ∨ k.switched = []) →
      c.collOutcome k x = k.whole.map (collResult k.desc x.rank))
  ∧ (∀ (c : Chip) (k : Coll) x bs xs, x.ordered = false → c.canonicalTree = true → descKind k.desc < 2 → k.switched = (x.rank, bs) :: xs →
      bs.length = resultCount k.desc * fmtBytes (descFmt k.desc) → c.collOutcome k x = some bs)
  ∧ (∀ op fmt a, canonicalLevels op fmt 12 [a] = [a]) ∧ (∀ op fmt a b, canonicalLevels op fmt 12 [a, b] = [combine32 op fmt a b])
  ∧ ∀ op fmt a b c d, canonicalLevels op fmt 12 [a, b, c, d]
      = [combine32 op fmt (combine32 op fmt a b) (combine32 op fmt c d)]

/-- R322, R377: whether a gang is on its cores and not being killed. -/
def GangRuns (c : Chip) (g : Nat) : Prop := ∃ k, c.gang g = some k ∧ k.phase < 2

/-- R378: whether a killed gang is to be relaunched. -/
def Relaunches (c : Chip) (g : Nat) (k : Gang) (gr : Grid) : Prop :=
  gr.task.flags.getLsbD 0 ∧ k.noRelaunch = false ∧ k.kills ≤ 16 ∧ ∀ x ∈ c.kills, x.gang = g → x.ctx = none

/-- R349: the gangs of a grid. -/
def gangsOf (c : Chip) (grid : Nat) : List Gang := (c.gangList.filter (fun x => x.2.grid == grid)).map (fun x => x.2)

/-- R345-R347: GRID_ADMIT takes a waiting grid of the highest priority and admits it where all its gangs can be placed; with none waiting it
does nothing, nor where a restore or relaunch ranks ahead or a victim that leaves for the grid has not been saved yet (R348). PRIORITY_AGE raises a waiting grid's priority by one, to 7 at most, each 2 ms. -/
def GridAdmission : Prop :=
  ∀ s g gr,
    (∀ c1, s.chip.chosenGrid = some (g, gr) → s.chip.outranked gr.prio = false → s.chip.roomPending g = false →
      gr.phase = 0 → s.chip.placeGrid g gr = some c1 →
      (∀ g' gr', s.chip.grid g' = some gr' → gr'.waits → gr'.prio < 8 → gr'.prio ≤ gr.prio)
      ∧ ∃ t, exec .gridAdmit s = .next t ∧ t.chip.grid g = some { gr with phase := 1, admitted := c1.time }
        ∧ t.chip.gangs = c1.gangs ∧ t.chip.cores = c1.cores ∧ t.chip.mem = c1.mem)
    ∧ (s.chip.chosenGrid = none → exec .gridAdmit s = .next s)
    ∧ (s.chip.chosenGrid = some (g, gr) → (s.chip.outranked gr.prio = true ∨ s.chip.roomPending g = true) → exec .gridAdmit s = .next s)
    ∧ (s.chip.grid g = some gr → gr.waits → gr.prio < 7 → gr.aged + 2000000 ≤ s.chip.time →
      exec (.priorityAge g) s
        = .next { s with chip := s.chip.setGrid g { gr with prio := gr.prio + 1, aged := gr.aged + 2000000, front := none } })
    ∧ (s.chip.grid g = some gr → (gr.waits = false ∨ 7 ≤ gr.prio ∨ s.chip.time < gr.aged + 2000000) → exec (.priorityAge g) s = .next s)

/-- R325, R327: 256 cycles after its oldest child a list is due; a list of 64 children or one that is due issues a child warp into a slot
reserved for its gang: lane by lane its oldest children with their payloads in v0-v3 and their spawners in v4, the lanes beyond exited. -/
def ChildWarps : Prop :=
  ∀ s cluster gang entry k gr,
    let l := s.chip.childList cluster gang entry
    (∀ ch r, l = ch :: r → s.chip.childFrom gang ch + 256 ≤ s.chip.cycle →
      ∃ t, exec (.spawnListTimeout cluster gang entry) s = .next t
        ∧ (t.chip.childList cluster gang entry).head? = some { ch with due := true } ∧ t.chip.cores = s.chip.cores ∧ t.chip.mem = s.chip.mem)
    ∧ ∀ core slot, s.chip.gang gang = some k → s.chip.gridOf gang = some gr → k.phase = 0 →
      (64 ≤ l.length ∨ ∃ ch, l.head? = some ch ∧ ch.due = true) → s.chip.childPlace k = some (core, slot) →
      s.chip.warp core slot = none
      ∧ ∃ t w, exec (.childWarpIssue cluster gang entry) s = .next t ∧ warpIn t core slot = some w ∧ w.gang = gang ∧ w.child = true
        ∧ t.chip.childList cluster gang entry = l.drop 64
        ∧ (∀ j ch, (l.take 64)[j]? = some ch →
            (w.lane j).exited = false ∧ (w.lane j).join = some ch.join
            ∧ (w.lane j).pos = clauseAt (gr.kernel.addr + BitVec.ofNat 64 (gr.kernel.spawn.getD entry 0))
            ∧ (∀ q v, q < 4 → ch.payload[q]? = some v → w.reg q j = v.toNat) ∧ w.reg 4 j = ch.unit.toNat)
        ∧ (∀ j, l.length ≤ j → (w.lane j).exited = true)
        ∧ (∀ n r, (n, r) ≠ (core, slot) → t.chip.warp n r = s.chip.warp n r) ∧ t.chip.mem = s.chip.mem

/-- R24, R356-R359: the steps of a core's selection: a counter unchosen in 64 issue cycles and a warp unchosen in 256 come first from then on;
an eligible pending warp enters the active set where fewer than 8 are in it, and one pending for 1,024 cycles takes the place of the warp
longest in it. -/
def WarpSelection : Prop :=
  ∀ s core slot (w : Warp),
    (s.chip.warp core slot = some w →
      exec (.counterStarve core slot) s = .next { s with
        chip := s.chip.setWarp core slot (some { w with lag := w.lag.map (fun (p : Pos × Nat) => (p.1, if p.2 = 64 then 65 else p.2)) }) })
    ∧ (s.chip.warp core slot = some w → w.active → w.unchosen = 256 →
      exec (.warpAgeLimit core slot) s = .next { s with chip := s.chip.setWarp core slot (some { w with unchosen := 257 }) })
    ∧ (firstJoined ((s.chip.coreWarps core).filter (fun x => x.2.eligible)) = some (slot, w) → s.chip.activeCount core < 8 →
      exec (.warpPromote core) s = .next { s with
        chip := s.chip.setWarp core slot (some { w with active := true, joined := s.chip.cycle, unchosen := 0 }) })
    ∧ (8 ≤ s.chip.activeCount core → exec (.warpPromote core) s = .next s)
    ∧ ∀ out (v : Warp), s.chip.overdue core = some (slot, w) → s.chip.oldestActive core = some (out, v) → slot ≠ out →
      s.chip.activeCount core ≤ 8 →
      ∃ t, exec (.pendingWarpTimeout core) s = .next t
        ∧ warpIn t core slot = some { w with active := true, joined := s.chip.cycle, unchosen := 0 }
        ∧ warpIn t core out = some { v with active := false, joined := s.chip.cycle, unchosen := 0 }
        ∧ (∀ n r, (n, r) ≠ (core, slot) → (n, r) ≠ (core, out) → t.chip.warp n r = s.chip.warp n r) ∧ t.chip.mem = s.chip.mem

/-- R322, R335, R363, R375: a warp whose lanes have all exited and whose flags are zero leaves its slot; outside handler mode the oldest posted
trap is taken, and fails the gang where no lane is left to take it; a section that reaches 65,536 instructions closes and posts NOPRE reason 1.
That a posted trap which a retiring warp leaves behind fails its gang is the model's choice (log 48), as are lane 0 and the next cycle in the
trap of a section's limit (log 81). -/
def WarpEvents : Prop :=
  ∀ s core slot (w : Warp), s.chip.warp core slot = some w →
    (w.live = 0 → w.cf = [] → (∀ o ∈ s.chip.ops, o.eng ≠ .warp core slot) → GangRuns s.chip w.gang →
      (w.posted = [] → exec (.warpRetire core slot) s = .next { s with chip := s.chip.setWarp core slot none })
      ∧ ∀ p ps, w.posted = p :: ps → exec (.warpRetire core slot) s = .next { s with
          chip := (s.chip.setWarp core slot none).failGang w.gang ((if p.kind = 0 then p.syn else p.inner).toNat / 2 ^ 24) p.cid })
    ∧ (w.live ≠ 0 → exec (.warpRetire core slot) s = .next s)
    ∧ (∀ p ps, w.handler = false → GangRuns s.chip w.gang → w.posted = p :: ps → p.from_ ≤ s.chip.cycle →
      let c1 := s.chip.setWarp core slot (some { w with posted := ps })
      (w.live ≠ 0 → exec (.postedTrapTake core slot) s = .next { s with
        chip := c1.trapEnter core slot
          { syn := p.syn.toNat, pos := p.pos, posted := true, kind := p.kind, queue := p.queue, lane := p.lane, addr := p.addr.toNat, mask := 0,
            inner := p.inner.toNat, stopped := p.stopped, cid := p.cid } })
      ∧ (w.live = 0 → exec (.postedTrapTake core slot) s = .next { s with
          chip := c1.failGang w.gang ((if p.kind = 0 then p.syn else p.inner).toNat / 2 ^ 24) p.cid }))
    ∧ (w.handler = true → exec (.postedTrapTake core slot) s = .next s)
    ∧ (w.sectOpen = true → 65536 ≤ w.sectCount → w.live ≠ 0 → w.posted.length < 4 →
      exec (.nopreLimit core slot) s = .next { s with
        chip := s.chip.setWarp core slot (some { w with sectOpen := false, posted := w.posted ++
          [{ syn := 0x0FBF0001#32, pos := (w.lane (lowLane w.live)).pos, lane := 0, from_ := s.chip.cycle + 1, kind := 0, queue := 0,
             addr := 0, inner := 0, stopped := 0 }] }) })

/-- R377, R378: once the kill's markers are back, the gang's intents, warps and banks are gone, and it awaits its relaunch or has failed; a
relaunch places it in its cluster again with its banks zeroed and counts. -/
def KillAndRelaunch : Prop :=
  ∀ s g k gr, s.chip.gang g = some k → s.chip.grid k.grid = some gr →
    (k.phase = 3 → (∀ r ∈ s.chip.remotes, s.chip.remoteGang r = some g → s.chip.requested r = false) →
      ∃ t k', exec (.killMarkersDone g) s = .next t ∧ t.chip.gang g = some k'
        ∧ (Relaunches s.chip g k gr → k'.phase = 4) ∧ (¬ Relaunches s.chip g k gr → k'.phase = 5)
        ∧ (∀ x ∈ t.chip.kills, x.gang ≠ g)
        ∧ (∀ x ∈ t.chip.intents, x.tag = gr.task.tag → ∀ n ∈ k.cores, x.owner ≠ .core n ∧ x.owner ≠ .dray n)
        ∧ (∀ b, b < 64 → (t.chip.bank k.cluster b).gang ≠ some g))
    ∧ ∀ c1, k.phase = 4 → gr.phase = 1 → s.chip.roomPending k.grid = false → s.chip.placeIn g { k with refused := 0 } gr k.cluster = some c1 →
      ∃ t, exec (.gangRelaunch g) s = .next t ∧ t.chip.grid k.grid = some { gr with relaunches := gr.relaunches + 1 }
        ∧ t.chip.gangs = c1.gangs ∧ t.chip.cores = c1.cores ∧ t.chip.mem = c1.mem
        ∧ ∀ b, b < 64 → (c1.bank k.cluster b).gang = some g → (t.chip.bank k.cluster b).data = [] ∧ (t.chip.bank k.cluster b).pois = []

/-- R18, R190: a group with nothing left gives up its sequencers; a gang whose groups have retired and that has no children frees its banks. Its barriers keep what they hold (R377 zeroes them at a kill alone). -/
def GroupAndGangRetire : Prop :=
  ∀ s g k, s.chip.gang g = some k → k.phase < 2 →
    (∀ j gr, k.groups[j]? = some gr → gr.retired = false → s.chip.groupDone g j gr →
      ∃ t, exec (.groupRetire g j) s = .next t ∧ t.chip.gang g = some { k with groups := k.groups.set j { gr with retired := true } }
        ∧ ((s.chip.core gr.core).mat.s.st ≠ 0 → (s.chip.core gr.core).mat.s.gang = g → (t.chip.core gr.core).mat = Mat.zero)
        ∧ ((s.chip.core gr.core).dray.s.st ≠ 0 → (s.chip.core gr.core).dray.s.gang = g → (t.chip.core gr.core).dray = Dray.zero)
        ∧ (∀ n, n ≠ gr.core → t.chip.core n = s.chip.core n) ∧ t.chip.mem = s.chip.mem)
    ∧ ((∀ gr ∈ k.groups, gr.retired = true) → s.chip.hasChildren g k = false →
      ∃ t, exec (.gangRetire g) s = .next t ∧ t.chip.gang g = some { k with phase := 5, reserved := 0 }
        ∧ (∀ b, b < 64 → (t.chip.bank k.cluster b).gang ≠ some g) ∧ t.chip.mem = s.chip.mem
        ∧ ((∀ gr ∈ k.groups, (s.chip.core gr.core).dray.s.gang ≠ g) → ∀ n j, t.chip.bar (.core n j) = s.chip.bar (.core n j)))

/-- R341, R343, R349: a grid whose gangs have all ended leaves the part: a failed one writes its status; a completed one first releases at
system scope, writes its status and, unless it has triggered, decrements its successors' counters, all under one causal ID. A decrement that must
wait keeps what has been done: neither the release nor the status word is repeated. -/
def GridRetire : Prop :=
  ∀ s g gr, s.chip.grid g = some gr → gr.phase = 1 → (∀ k ∈ gangsOf s.chip g, k.phase = 5) →
    let cores := ((gangsOf s.chip g).flatMap Gang.cores).eraseDups
    let gone (t : State) : Prop := t.chip.grid g = none ∧ ∀ q k, t.chip.gang q = some k → k.grid ≠ g
    let c0 := (s.chip.unitCid 0).1
    let id := (s.chip.unitCid 0).2
    let c1 := (c0.gridRelease cores id).statusWrite gr.task gr.recAddr (statusWord 1 0 gr.relaunches) (some id)
    let begun (dec : Option (Nat × DWord)) : Grid := { gr with retire := some id, ended := true, dec := dec }
    (∀ cls, gr.fail = some cls → gr.retire = none → gr.ended = false → gr.dec = none →
      ∃ t, exec (.gridRetire g) s = .next t ∧ gone t
        ∧ t.chip.mem = (c0.statusWrite gr.task gr.recAddr (statusWord 3 cls gr.relaunches) (some id)).mem)
    ∧ (gr.fail = none → gr.retire = none → gr.ended = false → (∀ r ∈ s.chip.remotes, r.who = .coachman → isRelease r.kind = false) →
      (∀ n ∈ cores, s.chip.peerBusy n = false ∧ s.chip.owedBy (.core n) n = [] ∧ s.chip.owedBy (.dray n) n = []) →
      (gr.triggered = true → gr.dec = none → ∃ t, exec (.gridRetire g) s = .next t ∧ gone t ∧ t.chip.mem = c1.mem)
      ∧ (∀ c2, gr.triggered = false → (c1.setGrid g (begun (some (0, id)))).successors g = (c2, none) →
        ∃ t, exec (.gridRetire g) s = .next t ∧ gone t ∧ t.chip.mem = c2.mem)
      ∧ ∀ c2 st c3, gr.triggered = false → (c1.setGrid g (begun (some (0, id)))).successors g = (c2, some st) → c2.coachStop st = .ok c3 →
        exec (.gridRetire g) s = .next { s with chip := c3 })
    ∧ ∀ x c2, gr.retire = some x → gr.ended = true → s.chip.successors g = (c2, none) →
      ∃ t, exec (.gridRetire g) s = .next t ∧ gone t ∧ t.chip.mem = c2.mem

/-- R386: one record more in a source's buffer, of which `p` holds. -/
def Recorded (c c' : Chip) (key : Nat) (p : Caseg → Prop) : Prop :=
  ∃ r, (aget TraceBuf.zero c'.trace.bufs key).recs = (aget TraceBuf.zero c.trace.bufs key).recs ++ [r] ∧ p r

/-- R396, R399, R400, R435: a walk is over: its record names a node with a reason, at the time of the deadline; the count rises, the host is
signalled. -/
structure WalkEnded (s t : State) (w : Walk) (n : DWord) (reason : Nat) : Prop where
  gone : t.chip.walks = s.chip.walks.filter (fun x => x.id != w.id)
  record : Recorded s.chip t.chip 0xC03 (fun r => r.type = 0x60#16 ∧ r.cid = w.cid ∧ r.payload = n ∧ r.flags.toNat / 256 = reason
    ∧ r.time = timeWord w.passedAt)
  counted : t.chip.priv.condEvents = s.chip.priv.condEvents + 1
  told : t.chip.hostOut = s.chip.hostOut ++ [.msix 1]
  mem : t.chip.mem = s.chip.mem

/-- R397, R433: a query answered: counted, and the answer sent in class 0. -/
def answered (s : State) (dev : BitVec 22) (n : DWord) (a : Answer) : State :=
  let c := (s.chip.unitCid 3).1
  let c1 : Chip := { c with priv := { c.priv with condQueries := c.priv.condQueries + 1 } }
  { s with chip := c1.send dev.toNat 0 0 0 (s.chip.unitCid 3).2 (.answer n a) }

/-- R131, R206: the part is up and has its device identifier. -/
def Joined (s : State) : Prop := s.chip.running = true ∧ s.chip.priv.gwdev ≠ 0x3FFFFF#22

/-- R396: a deadline that has passed in a phase whose deadline had not. -/
def Overdue (c : Chip) (b : Barrier) : Prop :=
  b.deadline ≠ 0 ∧ b.since ≠ 0 ∧ b.passed = false ∧ nsOf b.since + b.deadline * 10000 ≤ c.time

/-- R141: the rate of a class at a port, in 1/256 bytes per ns. -/
def rate (c : Chip) (p : Piece) (n : Nat) : Nat := c.share p.cls * c.portRate n

/-- R143, R144, R119: this device as it stands when it performs a request: the frames claimed, the lines asked of their slices. -/
def admitted (c : Chip) (r : Inbound) : Chip :=
  let parts := lineParts r.off (reqBytes r.kind)
  let lines := parts.map (fun (p : Nat × Nat) => (localPa p.1, p.2))
  let c1 := parts.foldl (fun (x : Chip) (p : Nat × Nat) => if p.1 < 0xC000000000 then x.claimFrame p.1 r.tag.toNat else x) c
  match r.kind with
  | .write _ _ => c1.storeRange (c.portSource r.src.toNat) lines
  | _ => c1.touchRange (c.portSource r.src.toNat) lines

/-- R144, R146: a request that this device performs: not of an old generation, of a known context that is on its cores or has nothing saved, at
offsets that exist, in frames that are not zeroed or moved, and at lines that are not held. -/
def Served (c : Chip) (r : Inbound) : Prop :=
  genOld r.gen (aget 0 c.gens r.tag.toNat) = false ∧ (c.ctxRoot r.tag.toNat).isSome = true ∧ c.savedOut r.tag.toNat = false
  ∧ writesWeights r.kind (lineParts r.off (reqBytes r.kind)) = false
  ∧ ∀ p ∈ lineParts r.off (reqBytes r.kind), offsetExists p.1 = true ∧ (p.1 < 0xC000000000 → c.frameHeld p.1 r.tag.toNat = false ∧ p.1 / 65536 ∉ c.moving)
    ∧ ∀ h ∈ c.held, h.line = lineOf (localPa p.1) → h.expired = true

/-- R396, R399: an answer ends a walk or sends it on: a party that does not wait, is saved or is unknown is named with its reason; one blocked
on a node visited before closes a cycle, named by its lowest identifier; one past the limit of nodes ends it; no answer in time ends it. -/
def WalkSteps : Prop :=
  ∀ s (w : Walk) (a : Answer), s.chip.running = true → s.chip.walks.find? (fun x => x.id == w.id) = some w →
    (w.asked ≠ none → w.coll = none → nidKind w.node = 3 →
      (∀ reason, (a, reason) ∈ [(Answer.present, 1), (.free, 1), (.saved, 7), (.unknown, 3)] →
        ∃ t, exec (.queryAnswer w.id a) s = .next t ∧ WalkEnded s t w w.node reason)
      ∧ ∀ st on since, a = .blocked st on since → st ≠ 4 →
        (on ∈ w.visited → ∃ m ∈ w.visited, (∀ x ∈ w.visited.dropWhile (fun x => x != on), m.toNat ≤ x.toNat)
          ∧ ∃ t, exec (.queryAnswer w.id a) s = .next t ∧ WalkEnded s t w m 4)
        ∧ (on ∉ w.visited → s.chip.maxNodes ≤ w.visited.length → ∃ t, exec (.queryAnswer w.id a) s = .next t ∧ WalkEnded s t w on 6))
    ∧ (w.asked ≠ none → w.coll = none → nidKind w.node ≠ 3 → ∀ st absent src, a = .barrier st absent src →
      (st.getLsbD 2 = true → ∃ t, exec (.queryAnswer w.id a) s = .next t ∧ WalkEnded s t w w.node 2)
      ∧ (st.getLsbD 2 = false → absent = none → src = none → ∃ t, exec (.queryAnswer w.id a) s = .next t ∧ WalkEnded s t w w.node 8))
    ∧ (∀ dev, w.asked ≠ none → w.coll = some dev → a = .party none →
      ∃ t, exec (.queryAnswer w.id a) s = .next t ∧ WalkEnded s t w dev 5)
    ∧ ∀ x since, w.asked = some (x, since) → since + bitsAt s.chip.priv.condcfg.toNat 16 16 * 1000 ≤ s.chip.time →
      ∃ t, exec (.queryTimeout w.id) s = .next t ∧ WalkEnded s t w (w.coll.getD w.node) 3

/-- R396, R398: a deadline passes once in a phase, and starts a walk at its node where the Conductor is enabled. -/
def DeadlineWalk : Prop :=
  ∀ s, s.chip.running = true →
    (∀ n k, let b := s.chip.bar (.core n k)
      let c := s.chip.setBar (.core n k) { b with passed := true }
      Overdue s.chip b →
      (s.chip.priv.condcfg.getLsbD 0 = false → exec (.deadlinePass (.core n k)) s = .next { s with chip := c })
      ∧ (s.chip.priv.condcfg.getLsbD 0 = true → exec (.deadlinePass (.core n k)) s = .next { s with
          chip := c.startWalk (BitVec.ofNat 64 (s.chip.priv.gwdev.toNat * 2 ^ 42 + 2 ^ 40 + k * 2 ^ 9 + n)) b.cid b.phase (nsOf b.since + b.deadline * 10000) }))
    ∧ (∀ n k, ¬ Overdue s.chip (s.chip.bar (.core n k)) → exec (.deadlinePass (.core n k)) s = .next s)
    ∧ (∀ off, let b := s.chip.bar (.mem off)
      let c : Chip := { s.chip with memBars := aput none s.chip.memBars off (some { b with passed := true }) }
      off % 64 = 0 → Overdue s.chip b →
      (s.chip.priv.condcfg.getLsbD 0 = false → exec (.deadlinePass (.mem off)) s = .next { s with chip := c })
      ∧ (s.chip.priv.condcfg.getLsbD 0 = true → exec (.deadlinePass (.mem off)) s = .next { s with
          chip := c.startWalk (BitVec.ofNat 64 (s.chip.priv.gwdev.toNat * 2 ^ 42 + 2 ^ 41 + off / 64 % 2 ^ 36)) b.cid b.phase
            (nsOf b.since + b.deadline * 10000) }))
    ∧ ∀ n q k r x t0, Running s.chip n q k r → r.coll = some x → x.passed = false → x.deadline = some t0 → t0 ≤ s.chip.time →
      let c := s.chip.modRun { core := n, q := q } (fun y => { y with coll := some { x with passed := true } })
      (s.chip.priv.condcfg.getLsbD 0 = false → exec (.deadlinePass (.dcoll n q)) s = .next { s with chip := c })
      ∧ (s.chip.priv.condcfg.getLsbD 0 = true → exec (.deadlinePass (.dcoll n q)) s = .next { s with
          chip := c.startWalk (BitVec.ofNat 64 (s.chip.priv.gwdev.toNat * 2 ^ 42 + 3 * 2 ^ 40 + (35 + q) * 2 ^ 9 + n)) k.cid 0 t0 })

/-- R396-R398, R433: every event of the Conductor is taken in every state, and none of them touches memory, a bank or a warp: a part that does
not run, a query without a walk and an answer that nobody awaits change nothing. -/
def ConductorCompletes : Prop :=
  ∀ s k, ((∃ d, k = Instr.deadlinePass d) ∨ (∃ dev n, k = .summaryQuery dev n ∨ k = .collectiveQuery dev n ∨ k = .conductorBarrierQuery dev n)
      ∨ (∃ w a, k = .queryAnswer w a) ∨ ∃ w, k = .queryTimeout w) →
    ∃ t, exec k s = .next t ∧ t.chip.mem = s.chip.mem ∧ t.chip.clusters = s.chip.clusters ∧ (∀ n slot, t.chip.warp n slot = s.chip.warp n slot)
      ∧ (s.chip.running = false → t = s)
      ∧ (∀ w a, (k = .queryAnswer w a ∨ k = .queryTimeout w) → (∀ x ∈ s.chip.walks, x.id ≠ w) → t = s)

/-- R391, R397, R433: a Conductor's queries are answered from the state they meet, in class 0, and counted: a party by its wait record, a
collective by the queue party of its command, a barrier by its state; what is not this device's is unknown. One that waits answers with what it waits for and since when. -/
def QueryAnswers : Prop :=
  ∀ s (dev : BitVec 22) (n : DWord), Joined s →
    let mine := n.toNat / 2 ^ 42 = s.chip.priv.gwdev.toNat
    (nidKind n = 3 → mine → exec (.summaryQuery dev n) s = .next (answered s dev n (s.chip.summary none n)))
    ∧ (nidKind n ≠ 3 ∨ ¬ mine → exec (.summaryQuery dev n) s = .next (answered s dev n .unknown))
    ∧ exec (.collectiveQuery dev n) s = .next (answered s dev n (s.chip.collAnswer n))
    ∧ (nidKind n = 1 ∨ nidKind n = 2 → mine → ∃ st absent src,
        exec (.conductorBarrierQuery dev n) s = .next (answered s dev n (.barrier st absent src))
        ∧ st.toNat = (s.chip.bar (nidBarAt n)).state % 256)
    ∧ (nidKind n = 0 ∨ nidKind n = 3 ∨ ¬ mine → exec (.conductorBarrierQuery dev n) s = .next (answered s dev n .unknown))
    ∧ ∀ w g l, bitsAt n.toNat 9 6 < 32 → s.chip.enabled (bitsAt n.toNat 0 9) → s.chip.warp (bitsAt n.toNat 0 9) (bitsAt n.toNat 9 6) = some w →
        s.chip.gang w.gang = some g → g.phase < 2 → w.setLane (bitsAt n.toNat 15 1) = some l →
        s.chip.summary none n = match (w.lane l).wait with
          | none => .free
          | some r => if r.state = 1 ∨ r.state = 3 ∨ r.state = 4 ∨ r.state = 5 then .blocked r.state r.on r.since else .free

/-- R138, R139: packets of a flow are delivered in order (their format is the model's choice, log 10): the next one takes effect and is acknowledged, one ahead of a gap is held, one already
delivered is acknowledged again; a packet unacknowledged for 50 us leaves again under its number. -/
def FlowDelivery : Prop :=
  ∀ s (p : Packet), Joined s →
    let k := flowKey p.src.toNat p.cls
    let f := s.chip.inFlow k
    let c := s.chip.takeAck k p.ack
    let d := (p.seq - f.next).toNat
    (∀ q ∈ (c.outFlow k).unacked, ∃ n, q.seq = some n ∧ 2 ^ 31 ≤ (p.ack - n).toNat)
    ∧ (∀ cls, p.body = .ack cls → exec (.packetDeliver p) s = .next { s with chip := s.chip.takeAck (flowKey p.src.toNat cls) p.ack })
    ∧ ((∀ cls, p.body ≠ .ack cls) → 0 < d → d ≤ 256 → (∀ x ∈ f.ahead, x.seq ≠ p.seq) →
      exec (.packetDeliver p) s = .next { s with chip := c.setIn k { f with ahead := f.ahead ++ [p] } })
    ∧ ((∀ cls, p.body ≠ .ack cls) → 2 ^ 31 ≤ d → exec (.packetDeliver p) s = .next { s with chip := c.sendAck p.src.toNat p.cls p.tag.toNat p.cid })
    ∧ (∀ req bs marked r id, p.body = .reply req bs marked → d = 0 → p.byNs = 0 → f.ahead = [] → s.chip.answeredBy p req = some r → r.op = some id →
      isRelease r.kind = false →
      ∃ t, exec (.packetDeliver p) s = .next t ∧ (t.chip.inFlow k).next = f.next + 1 ∧ (∀ x ∈ t.chip.remotes, x.id ≠ r.id)
        ∧ (∀ o ∈ s.chip.ops, o.id = id → ∃ o' ∈ t.chip.ops, o'.id = id ∧ o'.writes = (o.answered r (natOfBytes bs) marked).writes)
        ∧ (((∃ n, n ≠ 64 ∧ r.kind = .read n) ∨ (∃ bs m, r.kind = .write bs m) ∨ ∃ x y z, r.kind = .arrive x y z) → t.chip.mem = s.chip.mem))
    ∧ ∀ dst cls, let g := s.chip.outFlow (flowKey dst cls)
      let late (q : OutPacket) : Prop := q.sentAt + 50000 ≤ s.chip.time
      (∃ q ∈ g.unacked, late q) →
      ∃ t, exec (.packetResendTimeout dst cls) s = .next t
        ∧ (t.chip.outFlow (flowKey dst cls)).unacked.map (fun q => (q.seq, q.msg)) = g.unacked.map (fun q => (q.seq, q.msg))
        ∧ (∀ q ∈ (t.chip.outFlow (flowKey dst cls)).unacked, ¬ late q) ∧ (t.chip.outFlow (flowKey dst cls)).next = g.next
        ∧ t.chip.mem = s.chip.mem

/-- R137, R141, R142: a piece is admitted while its class's backlog and its bytes fit the allowance at the class's rate, with its delivered-by
time, and its packets join the flow; else it gets a hint: the microseconds in which the class's rate carries what does not fit, rounded up, and at
least 1 and at most 4,095; 4,095 for a share of 0. With no port up its request ends with REMOTE reason 4. What the backlog counts, the number that
a bare acknowledgement lacks, and the choice of the port are the model's (log 10). -/
def Admission : Prop :=
  (∀ s (p : Piece) (r : Remote), s.chip.running = true → s.chip.pieces.find? (fun x => x.id == p.id) = some p →
    s.chip.remotes.find? (fun x => x.id == p.req) = some r → p.admitted = none → p.hintAt = none →
    (s.chip.flowPort p.dst = none → exec (.pieceOffer p.id) s = .next { s with chip := s.chip.failRemote r 4 })
    ∧ (∀ n, s.chip.flowPort p.dst = some n →
      let sr := rate s.chip p n
      let need := s.chip.backlog n p.cls + p.bytes
      let fits := sr ≠ 0 ∧ need ≤ sr * allowance p.cls / 256
      let due := s.chip.time + allowance p.cls + (p.bytes * 256 + sr - 1) / sr
      let hinted (us : Nat) : State := { s with chip := { s.chip with pieces := s.chip.pieces.map (fun (x : Piece) =>
        if x.id = p.id then { x with hintAt := some (s.chip.time + 1000 * us) } else x) } }
      (fits → ∃ t, exec (.pieceOffer p.id) s = .next t
        ∧ (∀ x ∈ t.chip.pieces, x.id = p.id → x.admitted = some due ∧ x.port = n) ∧ (∀ x ∈ t.chip.remotes, x.id = r.id → x.byNs = due)
        ∧ (t.chip.outFlow (flowKey p.dst p.cls)).unacked.length
          = (s.chip.outFlow (flowKey p.dst p.cls)).unacked.length + (packetsOf (r.id + 1) r.off r.kind r.flag).length
        ∧ t.chip.mem = s.chip.mem)
      ∧ (sr = 0 → exec (.pieceOffer p.id) s = .next (hinted 4095))
      ∧ (sr ≠ 0 → ¬ fits → ∃ us, (us = min 4095 (max 1 us) ∧ (us < 4095 → need * 256 - sr * allowance p.cls ≤ us * (sr * 1000))
            ∧ (1 < us → (us - 1) * (sr * 1000) < need * 256 - sr * allowance p.cls))
          ∧ exec (.pieceOffer p.id) s = .next (hinted us))))
  ∧ ∀ s id, s.chip.running = true → ∃ t, exec (.admissionHintExpiry id) s = .next t ∧ t.chip.mem = s.chip.mem
    ∧ t.chip.pieces.map (fun x => (x.id, x.req, x.admitted)) = s.chip.pieces.map (fun x => (x.id, x.req, x.admitted))
    ∧ ∀ x ∈ t.chip.pieces, x.id = id → ∀ h, x.hintAt = some h → s.chip.time < h

/-- R144, R145: a refused request is offered again when its hint has elapsed; one unacknowledged 1 ms past its delivered-by time ends with
REMOTE reason 3: its event is recorded under its causal ID, and its operation ends with the trap. -/
def RemoteEnds : Prop :=
  ∀ s (r : Remote), s.chip.remotes.find? (fun x => x.id == r.id) = some r →
    (∀ t0, s.chip.running = true → r.retryAt = some t0 → t0 ≤ s.chip.time →
      ∃ t, exec (.remoteRetry r.id) s = .next t
        ∧ t.chip.pieces = s.chip.pieces ++ [Piece.mk s.chip.nextReq r.dst r.cls r.bytes 0 r.id none none]
        ∧ (∀ x ∈ t.chip.remotes, x.id = r.id → x.retryAt = none) ∧ t.chip.mem = s.chip.mem)
    ∧ (s.chip.running = true → r.dst ≠ 2 ^ 22 → r.byNs ≠ 0 → r.retryAt = none → r.byNs + 1000000 < s.chip.time →
      exec (.remoteTimeout r.id) s = .next { s with chip := s.chip.failRemote r 3 })
    ∧ ∀ reason id, reason < 0x8000 → r.op = some id →
      Recorded s.chip (s.chip.failRemote r reason) (s.chip.portSource r.dst % 4096) (fun x => x.type = 0x50#16 ∧ x.cid = r.cid
        ∧ x.payload = BitVec.ofNat 64 (r.dst * 2 ^ 42 + reason))
      ∧ (∀ x ∈ (s.chip.failRemote r reason).remotes, x.id ≠ r.id)
      ∧ ∀ o ∈ (s.chip.failRemote r reason).ops, o.id = id → (∀ o' ∈ s.chip.ops, o'.id = id → o'.fail = none) →
        ∃ lane, o.fail = some (BitVec.ofNat 32 (0x0D * 2 ^ 24 + (r.opcode * 65536 + reason) % 2 ^ 24), 0, lane)

/-- R119, R143, R144, R146: a request of another device: one of an older generation is dropped and counted; a read is answered with the bytes,
and a write puts its bytes into memory, and nothing else, and is acknowledged. What counts as older (1 to 127 generations behind, log 66) and
what a target performs at once (log 68) are the model's reading. -/
def InboundRequests : Prop :=
  ∀ s (r : Inbound), Joined s →
    let c := admitted s.chip r
    let k := flowKey r.src.toNat 2
    (genOld r.gen (aget 0 s.chip.gens r.tag.toNat) = true →
      exec (.inboundRequest r) s = .next { s with
        chip := { s.chip with priv := { s.chip.priv with gwdrop := s.chip.priv.gwdrop + 1 } } })
    ∧ (∀ n, r.kind = .read n → Served s.chip r → r.req ≠ 0 → c.meetsRemote (remoteOwner r.src r.cid) (lineParts r.off n) = none →
      (∀ p ∈ lineParts r.off n, c.linePois (lineOf (localPa p.1)) = false ∧ ∀ h ∈ c.held, h.line ≠ lineOf (localPa p.1)) →
      ∃ t q, exec (.inboundRequest r) s = .next t ∧ (t.chip.outFlow k).unacked = (c.outFlow k).unacked ++ [q]
        ∧ q.msg = .reply r.req (agetN 0 c.mem r.off n) false ∧ t.chip.mem = c.mem)
    ∧ ∀ bs, r.kind = .write bs false → Served s.chip r → r.req ≠ 0 → (∀ p ∈ lineParts r.off bs.length, c.ringAt (lineOf (localPa p.1)) = none) →
      ∃ t q, exec (.inboundRequest r) s = .next t ∧ (t.chip.outFlow k).unacked = (c.outFlow k).unacked ++ [q] ∧ q.msg = .reply r.req [] false
        ∧ (∀ j b, bs[j]? = some b → aget 0 t.chip.mem (r.off + j) = b)
        ∧ (∀ a, a < r.off ∨ r.off + bs.length ≤ a → aget 0 t.chip.mem a = aget 0 c.mem a)

/-- Bytes stand at an offset, and every other byte of memory is as it was. -/
def Stored (s t : State) (off : Nat) (bs : List Byte) : Prop :=
  (∀ j b, bs[j]? = some b → aget 0 t.chip.mem (off + j) = b)
  ∧ ∀ a, a < off ∨ off + bs.length ≤ a → aget 0 t.chip.mem a = aget 0 s.chip.mem a

/-- R351: no ring's control block stands at the lines of a range. -/
def NoRings (c : Chip) (off n : Nat) : Prop := ∀ p ∈ lineParts off n, c.ringAt (lineOf p.1) = none

/-- R154: an access that no unit answers. -/
def refusedByPort (s : State) : State := { s with chip := { s.chip with hostOut := s.chip.hostOut ++ [.unsupported] } }

/-- The privileged registers that are plain cells: address and what a write of `v` leaves in it. -/
def plainRegisters (v : Nat) : List (Nat × Nat) :=
  [(0x400, v / 2 ^ 20 % 2 ^ 22 * 2 ^ 20), (0x403, v % 2 ^ 42), (0x404, v / 2 ^ 12 % 2 ^ 30 * 2 ^ 12 + min 10 (v % 16)), (0x410, v % 64),
   (0x420, v % 2 ^ 22), (0x421, v % 32), (0x426, max 1 (v % 16)), (0x428, v % 4), (0x430, v % 64), (0x436, v % 64), (0x450, v % 2),
   (0x453, v % 4096), (0x458, v), (0x470, v % 512)]

/-- R352: a ring that the Coachman serves: enabled, not stopped, its control block and head slot in memory, with no slot in progress. -/
def Serving (c : Chip) (n : Nat) : Prop :=
  let k := c.ring n
  c.running = true ∧ k.en = true ∧ k.state ≠ 3 ∧ (k.state = 2 → k.awake = true) ∧ offsetExists k.cb = true
  ∧ offsetExists (k.slotAt (c.ringHead k) + 63) = true ∧ k.slot = none

/-- R151: a batch begun: the request for its slots is on its way. -/
def BatchBegun (s t : State) (n : Nat) : Prop :=
  let p := s.chip.proxy n
  let count := min (min 64 (2 ^ p.log2)) p.entries.length
  (∃ b, (t.chip.proxy n).batch = some b ∧ b.count = count ∧ b.stage = 0) ∧ (t.chip.proxy n).entries = p.entries
  ∧ (∃ r, t.chip.remotes = s.chip.remotes ++ [r] ∧ r.kind = .atomic 0 true (BitVec.ofNat 64 count) ∧ r.who = .mail n ∧ r.cls = 3)
  ∧ t.chip.mem = s.chip.mem

/-- R102, R222: the bytes stored through translations of some contexts written back from every L1. -/
def afterFlush (c : Chip) (tags : List Nat) : Chip :=
  tags.foldl (fun (x : Chip) t => (x.cores.map (fun p => p.1)).foldl (fun (y : Chip) n => y.flushTag t n) x) c

/-- R154, R155, R405: reads by the host: memory through its BAR, a privileged register, the part's state word; an absent one is Unsupported. -/
def HostReads : Prop :=
  ∀ s addr n,
    (s.chip.running = true → addr + n ≤ 2 ^ 40 → rangeExists addr n = true →
      ∃ t, exec (.hostMemoryRead 4 addr n) s = .next t ∧ t.chip.hostOut = s.chip.hostOut ++ [.data (agetN 0 s.chip.mem addr n)]
        ∧ t.chip.mem = s.chip.mem ∧ t.chip.cores = s.chip.cores)
    ∧ (s.chip.running = true → s.chip.priv.hfill.getLsbD 0 = true → addr + n ≤ 2 ^ 40 → rangeExists (2 ^ 40 + addr) n = true →
      ∃ t, exec (.hostMemoryRead 6 addr n) s = .next t
        ∧ t.chip.hostOut = s.chip.hostOut ++ [.data (agetN 0 s.chip.mem (2 ^ 40 + addr) n)] ∧ t.chip.mem = s.chip.mem)
    ∧ (s.chip.running = true → s.chip.priv.hfill.getLsbD 0 = false → exec (.hostMemoryRead 6 addr n) s = .next (refusedByPort s))
    ∧ (s.chip.running = true → rangeExists addr n = false → exec (.hostMemoryRead 4 addr n) s = .next (refusedByPort s))
    ∧ (∀ v, s.chip.running = true → addr < 0x400 → s.chip.privRead s.life (0x400 + addr) = some v →
      exec (.hostMemoryRead 2 (8 * (0x400 + addr)) 8) s = .next { s with
        chip := { s.chip with hostOut := s.chip.hostOut ++ [.data (bytesOf 8 v)] } })
    ∧ exec (.hostMemoryRead 0 0 8) s = .next { s with
        chip := { s.chip with hostOut := s.chip.hostOut ++ [.data (bytesOf 8 (s.life.step * 2 ^ 24 + s.life.cause * 2 ^ 8 + s.life.state))] } }
    ∧ (s.chip.running = false → exec (.hostMemoryRead 4 addr n) s = .next (refusedByPort s)
      ∧ exec (.hostMemoryRead 2 addr n) s = .next (refusedByPort s))

/-- R133, R155, R156, R158, R441: the host's writes, fills and FetchAdds reach the bytes they name and no others; a fill ends the wait for its
lines; a FetchAdd brings back the old value. -/
def HostWrites : Prop :=
  ∀ s addr (bytes : List Byte) (w8 : Bool) (val : BitVec 64),
    let n := bytes.length
    let w := if w8 then 8 else 4
    (s.chip.running = true → addr + n ≤ 2 ^ 40 → rangeExists addr n = true → NoRings s.chip addr n →
      ∃ t, exec (.hostMemoryWrite addr bytes) s = .next t ∧ Stored s t addr bytes)
    ∧ (s.chip.running = false ∨ 2 ^ 40 < addr + n → exec (.hostMemoryWrite addr bytes) s = .next (refusedByPort s))
    ∧ (s.chip.running = true → s.chip.priv.hfill.getLsbD 0 = true → addr + n ≤ 2 ^ 40 → rangeExists (2 ^ 40 + addr) n = true →
      ∃ t, exec (.hostFillWrite addr bytes) s = .next t ∧ Stored s t (2 ^ 40 + addr) bytes
        ∧ ∀ h ∈ t.chip.held, ∀ p ∈ lineParts (2 ^ 40 + addr) n, h.line ≠ lineOf (2 ^ 64 + p.1))
    ∧ (s.chip.priv.hfill.getLsbD 0 = false → exec (.hostFillWrite addr bytes) s = .next (refusedByPort s))
    ∧ (s.chip.running = true → addr + w ≤ 2 ^ 40 → rangeExists addr w = true → addr % w = 0 → NoRings s.chip addr w →
      ∃ t, exec (.hostFetchadd addr w8 val) s = .next t
        ∧ Stored s t addr (bytesOf w ((s.chip.rdMem addr w + val.toNat) % 2 ^ (8 * w)))
        ∧ t.chip.hostOut = s.chip.hostOut ++ [.data (bytesOf w (s.chip.rdMem addr w))])

/-- R4, R154, R389: a register write by the host of a plain privileged register is read back in its writable fields; writes to the trace window
are discarded; a part that has not passed self-test answers none. -/
def HostRegisters : Prop :=
  ∀ s addr (val : BitVec 64),
    (s.chip.running = true → ∀ a v, (a, v) ∈ plainRegisters val.toNat →
      ∃ t, exec (.hostRegisterWrite (8 * a) val) s = .next t ∧ t.chip.privRead t.life a = some v ∧ t.chip.mem = s.chip.mem
        ∧ t.chip.cores = s.chip.cores)
    ∧ (s.chip.running = true → 0x400000 ≤ addr → addr < 0x800000 → exec (.hostRegisterWrite addr val) s = .next s)
    ∧ (s.chip.running = false → exec (.hostRegisterWrite addr val) s = .next (refusedByPort s))

/-- R144, R159, R403: a failed read of the host port ends its operation with REMOTE, reason 5; a write that the host rejects is recorded,
with the causal ID of the write where its operation has one. -/
def HostErrors : Prop :=
  ∀ s,
    (∀ (r : Remote) id, s.chip.remotes.find? (fun x => x.id == r.id && x.dst == 2 ^ 22) = some r → r.op = some id →
      (∀ o ∈ s.chip.ops, o.id = id → ∀ f, o.fail = some f → r.lane < f.2.2) →
      ∃ t, exec (.hostCompletionError r.id) s = .next t ∧ (∀ x ∈ t.chip.remotes, x.id ≠ r.id)
        ∧ Recorded s.chip t.chip 0xC30 (fun x => x.type = 0x50#16 ∧ x.cid = r.cid ∧ x.payload.toNat % 2 ^ 42 = 5)
        ∧ (∀ o ∈ t.chip.ops, o.id = id → o.fail = some (BitVec.ofNat 32 (0x0D * 2 ^ 24 + (r.opcode * 65536 + 5) % 2 ^ 24), 0, r.lane))
        ∧ t.chip.mem = s.chip.mem)
    ∧ ∀ addr, ∃ t, exec (.hostWriteRejected addr) s = .next t
        ∧ Recorded s.chip t.chip 0xC30 (fun x => x.type = 0x54#16 ∧ x.payload = BitVec.ofNat 64 addr
            ∧ ∀ ms n id, s.chip.hostOut = ms ++ [.outWrite addr n (some id)] → x.cid = id) ∧ t.chip.mem = s.chip.mem
        ∧ t.chip.cores = s.chip.cores

/-- R350-R353: a counted write of TAIL raises it and wakes the ring, one that does not raise it is counted as stale; the head slot is waited
for, stops the ring, is passed as bad, or has its record's counter decremented and is passed; where the decrement must wait, the slot stays in
progress, and is finished also once EN is cleared. An unpublished one is read again each us, and SKIP passes it. That a doorbell raises TAIL whatever
EN is is the model's reading (log 52). -/
def RingSteps : Prop :=
  ∀ s n, let k := s.chip.ring n
    let h := s.chip.ringHead k
    let slot := k.slotAt h
    let stamp := s.chip.rdMem slot 8
    let bad := (agetN 0 s.chip.mem (slot + 16) 48).any (fun b => b != 0) || s.chip.rdMem (slot + 8) 8 % 64 != 0
    (∀ val : BitVec 64, s.chip.running = true → n < 64 →
      (s.chip.ringTail k < val.toNat →
        ∃ t, exec (.ringDoorbell n val) s = .next t ∧ Stored s t (k.cb + 16) (bytesOf 8 val.toNat) ∧ (t.chip.ring n).awake = true)
      ∧ (val.toNat ≤ s.chip.ringTail k → exec (.ringDoorbell n val) s = .next { s with
          chip := s.chip.setRing n { k with stale := k.stale + 1, awake := true } }))
    ∧ (Serving s.chip n →
      (s.chip.ringTail k ≤ h → exec (.ringConsume n) s = .next { s with chip := s.chip.setRing n { k with state := 0, awake := false } })
      ∧ (h < s.chip.ringTail k → stamp < h + 1 → exec (.ringConsume n) s = .next { s with
          chip := s.chip.setRing n { k with state := 2, awake := false, polled := s.chip.time } })
      ∧ (h < s.chip.ringTail k → h + 1 < stamp → ∃ t, exec (.ringConsume n) s = .next t
          ∧ t.chip.ring n = { k with state := 3, awake := false } ∧ Recorded s.chip t.chip 0xC00 (fun x => x.type = 0x29#16)
          ∧ t.chip.mem = s.chip.mem)
      ∧ (h < s.chip.ringTail k → stamp = h + 1 → bad = true → k.cb % 64 = 0 → ∃ t, exec (.ringConsume n) s = .next t
          ∧ Stored s t (k.cb + 8) (bytesOf 8 (h + 1)) ∧ Recorded s.chip t.chip 0xC00 (fun x => x.type = 0x2A#16))
      ∧ (h < s.chip.ringTail k → stamp = h + 1 → bad = false →
          let sl : RingSlot := { cb := k.cb, head := h, rec_ := s.chip.rdMem (slot + 8) 8, tag := k.tag, cid := (s.chip.unitCid 0).2 }
          let o := ((s.chip.unitCid 0).1.setRing n { k with state := 1, slot := some sl }).counterDec (2 ^ 32 + n) sl.cid k.tag
            ((sl.rec_ + 0x30) % 2 ^ 64) true
          (∀ c, o = .ok c → exec (.ringConsume n) s = .next { s with chip := c.passSlot n k.cb h })
          ∧ ∀ st c, o = .error st → ((s.chip.unitCid 0).1.setRing n { k with state := 1, slot := some sl }).coachStop st = .ok c →
              exec (.ringConsume n) s = .next { s with chip := c }))
    ∧ (∀ sl c, s.chip.running = true → k.slot = some sl →
        s.chip.counterDec (2 ^ 32 + n) sl.cid sl.tag ((sl.rec_ + 0x30) % 2 ^ 64) true = .ok c →
        exec (.ringConsume n) s = .next { s with chip := c.passSlot n sl.cb sl.head })
    ∧ (s.chip.running = true → k.en = true → k.state = 2 → k.awake = false → k.polled + 1000 ≤ s.chip.time →
      exec (.stampPoll n) s = .next { s with chip := s.chip.setRing n { k with awake := true } })
    ∧ (s.chip.running = true → s.chip.priv.ringsel.toNat = n → k.cb % 64 = 0 → offsetExists k.cb = true →
      ∃ t, exec .ringctlSkip s = .next t ∧ Stored s t (k.cb + 8) (bytesOf 8 (h + 1)) ∧ (t.chip.ring n).state = 0
        ∧ (t.chip.ring n).awake = true ∧ Recorded s.chip t.chip 0xC00 (fun x => x.type = 0x2B#16))

/-- R151, R152, R354: a shadow queue's batch begins with 64 entries or 2 us after the oldest; clearing ERR discards the entries. That a batch holds no
more entries than the true ring has slots is the model's reading (log 53). -/
def MailBatches : Prop :=
  ∀ s n, s.chip.running = true → let p := s.chip.proxy n
    (p.idle = true → 64 ≤ p.entries.length → ∃ t, exec (.mailBatchSend n) s = .next t ∧ BatchBegun s t n)
    ∧ (p.entries.length < 64 → exec (.mailBatchSend n) s = .next s)
    ∧ (∀ e es, p.idle = true → p.entries = e :: es → e.1 + 2000 ≤ s.chip.time →
      ∃ t, exec (.mailBatchTimeout n) s = .next t ∧ BatchBegun s t n)
    ∧ (s.chip.priv.pqsel.toNat = n → p.err = true → exec .pqcfgErrClear s = .next { s with
        chip := s.chip.setProxy n { p with err := false, why := 0, entries := [] } })
    ∧ (s.chip.priv.pqsel.toNat = n → p.err = false → exec .pqcfgErrClear s = .next s)

/-- R102: an invalidation removes the cached translations that it names from every core, and is pending until no access of the context is on its
way to a peer; the bytes that L1s hold dirty for it are then written back. That accesses of peers alone hold it pending, and the write-back at its
end, are the model's choices (log 29). -/
def Invalidation : Prop :=
  ∀ s (page : BitVec 48) (tag : BitVec 16),
    (s.chip.running = true → ∃ t, exec (.xinvWrite page tag) s = .next t ∧ tag.toNat ∈ t.chip.priv.xpend
      ∧ (∀ x ∈ s.chip.priv.xpend, x ∈ t.chip.priv.xpend)
      ∧ t.chip.priv.xinv = BitVec.ofNat 64 (page.toNat * 2 ^ 16 + tag.toNat)
      ∧ (∀ n, ∀ e ∈ (t.chip.core n).tlb, e ∈ (s.chip.core n).tlb ∧ (e.tag = tag.toNat →
          page ≠ BitVec.allOnes 48 ∧ e.page ≠ page.toNat * 2 ^ 16 / 2 ^ levelBit e.level))
      ∧ (∀ n slot, t.chip.warp n slot = s.chip.warp n slot) ∧ t.chip.mem = s.chip.mem)
    ∧ (s.chip.priv.xpend ≠ [] → (∀ r ∈ s.chip.remotes, ∀ x ∈ s.chip.priv.xpend, r.through x = false) →
      ∃ t, exec .invalidationComplete s = .next t ∧ t.chip.priv = { s.chip.priv with xpend := [] }
        ∧ t.chip.mem = (afterFlush s.chip s.chip.priv.xpend).mem ∧ t.chip.cores = (afterFlush s.chip s.chip.priv.xpend).cores)
    ∧ (∀ r ∈ s.chip.remotes, ∀ x ∈ s.chip.priv.xpend, r.through x = true → exec .invalidationComplete s = .next s)
    ∧ (s.chip.priv.xpend = [] → exec .invalidationComplete s = .next s)

/-- R112, R113: SR.PFACK never falls, and makes room for a fault that waits for its record; SR.PFDONE settles the fault that it names: resolved,
or unresolvable, which is TRANSLATION reason 2 in the lanes that met it where their gang stayed on its cores.
That lanes that wait in place go on once every fault of their gang is settled is the model's reading (log 43). -/
def FaultRing : Prop :=
  ∀ s, s.chip.running = true →
    (∀ v : BitVec 64,
      (v.toNat < s.chip.priv.pfack.toNat → exec (.pfackWrite v) s = .next s)
      ∧ (s.chip.priv.pfack.toNat ≤ v.toNat → (∀ f ∈ s.chip.faults, f.ring = true) →
        exec (.pfackWrite v) s = .next { s with chip := { s.chip with priv := { s.chip.priv with pfack := v } } })
      ∧ ∀ f, s.chip.priv.pfack.toNat ≤ v.toNat → s.chip.faults.filter (fun x => !x.ring) = [f] → f.party.saves = false →
        s.chip.priv.pfhead.toNat - v.toNat < s.chip.pfRingSize →
        ∃ t, exec (.pfackWrite v) s = .next t ∧ t.chip.priv.pfhead = s.chip.priv.pfhead + 1 ∧ (∀ x ∈ t.chip.faults, x.ring = true)
          ∧ t.chip.hostOut = s.chip.hostOut ++ [.msix 0])
    ∧ ∀ (id : BitVec 32) f, s.chip.faults.find? (fun x => x.named id.toNat) = some f →
      let p1 := { s.chip.priv with pfdone := id.setWidth 64 }
      let p2 := { s.chip.priv with pfdone := BitVec.ofNat 64 (2 ^ 32 + id.toNat) }
      (f.party.saves = false → exec (.pfdoneResolve id) s = .next { s with
        chip := { s.chip with priv := p1, faults := s.chip.faults.filter (fun x => !x.named id.toNat) } })
      ∧ (∀ k, f.party.saves = true → s.chip.gang f.gang = some k → k.phase ≠ 0 →
        exec (.pfdoneResolve id) s = .next { s with
          chip := { s.chip with priv := p1, faults := s.chip.faults.map (fun x => if x.named id.toNat then { x with resolved := true } else x) } }
        ∧ exec (.pfdoneFail id) s = .next { s with
          chip := { s.chip with priv := p2, faults := s.chip.faults.map (fun x => if x.named id.toNat then { x with failed := true } else x) } })
      ∧ (∀ k, s.chip.faults = [f] → f.party.saves = true → s.chip.gang f.gang = some k → k.phase = 0 →
        exec (.pfdoneResolve id) s = .next { s with chip := { s.chip with priv := p1, faults := [] } })
      ∧ ∀ k n slot mask w, s.chip.faults = [f] → f.party = .lanes n slot mask → s.chip.gang f.gang = some k → k.phase = 0 →
        s.chip.warp n slot = some w →
        exec (.pfdoneFail id) s = .next { s with
          chip := ({ s.chip with priv := p2, faults := [] } : Chip).trapEnter n slot
            { syn := 0x05000000 + (f.op * 65536 + 2) % 2 ^ 24, pos := (w.lane (lowLane (mask &&& w.live))).pos, posted := false, kind := 0,
              queue := 0, lane := f.lane, addr := f.addr.toNat, mask := mask, inner := 0, stopped := 0, cid := some f.cid } }

/-- R146, R377, R379: a context's kill advances its tag generation, stops each of its gangs with their operations, and empties its queues; the status
code of a gang that is being killed already becomes 0;
R395: a privileged snapshot is taken by the write of its selection. -/
def ContextKill : Prop :=
  ∀ s, s.chip.running = true →
    (∀ tag : BitVec 16, acanon none 0 s.chip.gangs = true →
      ∃ t, exec (.killWrite tag) s = .next t ∧ aget 0 t.chip.gens tag.toNat = aget 0 s.chip.gens tag.toNat + 1
        ∧ (∀ g k, s.chip.gang g = some k → s.chip.tagOf g = tag.toNat → k.phase < 3 → ∃ k', t.chip.gang g = some k' ∧ k'.phase = 3
            ∧ k'.noRelaunch = true ∧ ∀ o ∈ t.chip.ops, o.gang ≠ g)
        ∧ (∀ g k, s.chip.gang g = some k → s.chip.tagOf g = tag.toNat → k.phase = 3 → ∃ k', t.chip.gang g = some k' ∧ k'.phase = 3
            ∧ k'.noRelaunch = true ∧ k'.cause = 0)
        ∧ (∀ g, s.chip.tagOf g ≠ tag.toNat → t.chip.gang g = s.chip.gang g)
        ∧ (∀ cl, ∀ q ∈ (t.chip.cluster cl).hwq, q.2.owner ≠ tag.toNat) ∧ t.chip.mem = s.chip.mem)
    ∧ ∀ val : BitVec 64, exec (.pwselWrite val) s = .next { s with
        chip := { s.chip with priv := { s.chip.priv with pwsel := val, pwr := s.chip.snapshot none val.toNat privSel } } }

/-- R404, R405: the part is held at a step of its power-up sequence: the state and step, the error record, the signal. -/
def Held (s t : State) (n : Nat) : Prop :=
  t.life.state = 3 ∧ t.life.step = n ∧ t.chip.hostOut.getLast? = some (.msix 3)
  ∧ (∃ e, t.life.errors.getLast? = some e ∧ e.code = n) ∧ t.chip.running = s.chip.running ∧ t.chip.mem = s.chip.mem

/-- R406: both signatures of each of the two images verify. -/
def ImagesVerify (r : PowerUp) : Prop := r.own.rsa = true ∧ r.own.slh = true ∧ r.main.rsa = true ∧ r.main.slh = true

/-- R412: the cores of a pair that a test found to fail; both where the outcome tells none apart. -/
def failedCores (pair : Nat) (low high : Bool) : List Nat :=
  if low == high then [2 * pair, 2 * pair + 1] else if low then [2 * pair] else [2 * pair + 1]

/-- R404-R410: what holds of the management side at every time. -/
structure PartLegal (l : Life) : Prop where
  state : l.state ≤ 3
  held : l.state = 3 → 1 ≤ l.step ∧ l.step ≤ 6
  free : l.state ≠ 3 → l.step = 0
  cause : 1 ≤ l.cause ∧ l.cause ≤ 5
  clock : 1000 ≤ l.clock ∧ l.clock ≤ 1400 ∧ l.clock % 25 = 0
  errors : l.errors.length ≤ 128
  volts : ∀ p ∈ l.domains, p.2.mv ≤ 860 ∧ p.2.log.length ≤ 4096

/-- The issue of a set of lanes of an engine at a position, in a clause with a header. -/
def issueOf (e : Eng) (lanes : BitVec 64) (p : Pos) (h : Header) : Issue := { eng := e, lanes := lanes, pos := p, hdr := h }

/-- The machine with an issue in progress on a chip. -/
def issuingOn (s : State) (c : Chip) (i : Issue) : State := { s with chip := { c with cur := some i } }

/-- R36, R39, R40: what some lanes of an engine at a position do is what the instruction does that the word there decodes to: a header where
they stand at a clause's address, fetched now, or the one they fetched once and wait at; in an entered clause the word of their index, under the header that was fetched for it, or that is fetched
now where none has been. -/
def RunsDecoded (s : State) (e : Eng) (p : Pos) (lanes : BitVec 64) (o : Out) : Prop :=
  let tag := s.chip.tagOf (s.chip.gangOf e)
  (∀ h c k, p.entered = false → s.chip.heldHdr e lanes = none → s.chip.fetchAt e.core tag p.addr.toNat = .ok (h, c) → decodeHeader e.cls h = .ok k →
    o = Out.map (State.issued e lanes p s.chip.nextOp) (exec k (issuingOn s c (issueOf e lanes p Header.none))))
  ∧ (∀ hd, p.entered = false → s.chip.heldHdr e lanes = some hd →
    o = Out.map (State.issued e lanes p s.chip.nextOp) (exec (.clauseStart e.cls hd) (issuingOn s s.chip (issueOf e lanes p Header.none))))
  ∧ (∀ hd w c k, p.entered = true → s.chip.hdrAt e lanes = some hd → p.idx ≤ hd.count.toNat →
    s.chip.fetchAt e.core tag p.word.toNat = .ok (w, c) → decodeIn e.cls hd p.idx w = .ok k →
    o = Out.map (State.issued e lanes p s.chip.nextOp) (exec k (issuingOn s c (issueOf e lanes p hd))))
  ∧ ∀ h c w c2 k, p.entered = true → s.chip.hdrAt e lanes = none → s.chip.fetchAt e.core tag p.addr.toNat = .ok (h, c) →
    let hd := Header.ofNat h
    let c1 := c.keepHeader e lanes hd
    p.idx ≤ hd.count.toNat → c1.fetchAt e.core (c1.tagOf (c1.gangOf e)) p.word.toNat = .ok (w, c2) → decodeIn e.cls hd p.idx w = .ok k →
    o = Out.map (State.issued e lanes p s.chip.nextOp) (exec k (issuingOn s c2 (issueOf e lanes p hd)))

/-- R404, R405, R406, R410, R413: the power-up sequence in its order: the first step that fails holds the part, and an image is accepted only when
both of its signatures verify; else the part stands in self-test, and then runs under the configuration that its marks lead to, with the ports up
that trained. That the sequence takes two events, between which BAR0 shows self-test, is the model's choice (log 73). -/
def PowerUpSequence : Prop :=
  ∀ s (r : PowerUp),
    (1 < s.life.state → exec (.powerUpSequence r) s = .next s)
    ∧ (s.life.state = 0 →
      (¬ ImagesVerify r → ∃ t, exec (.powerUpSequence r) s = .next t ∧ Held s t 1)
      ∧ (ImagesVerify r → r.lpddr = false → ∃ t, exec (.powerUpSequence r) s = .next t ∧ Held s t 2)
      ∧ (ImagesVerify r → r.lpddr = true → ∃ t, exec (.powerUpSequence r) s = .next t ∧ t.life = { s.life with state := 1 }
          ∧ t.chip.running = s.chip.running ∧ t.chip.mem = s.chip.mem ∧ (s.life.cause ≠ 1 → t.chip = s.chip)
          ∧ (s.life.cause = 1 → t.chip.trace.poweron = s.chip.now ∧ t.chip.trace.count = 1)))
    ∧ (s.life.state = 1 →
      (r.arrays = false → ∃ t, exec (.powerUpSequence r) s = .next t ∧ Held s t 3)
      ∧ (r.arrays = true → r.hbm = false → ∃ t, exec (.powerUpSequence r) s = .next t ∧ Held s t 4)
      ∧ (r.arrays = true → r.hbm = true → r.pcie = false → ∃ t, exec (.powerUpSequence r) s = .next t ∧ Held s t 5)
      ∧ (r.arrays = true → r.hbm = true → r.pcie = true → (s.life.selfTest r).nextFuse = none →
        ∃ t, exec (.powerUpSequence r) s = .next t ∧ Held s t 6)
      ∧ ∀ f, r.arrays = true → r.hbm = true → r.pcie = true → (s.life.selfTest r).nextFuse = some f →
        ∃ t, exec (.powerUpSequence r) s = .next t ∧ t.life = { s.life.selfTest r with state := 2 } ∧ t.chip.running = true
          ∧ t.chip.fuse = f ∧ (∀ n, n < 32 → (t.chip.link n).up = !r.badPorts.contains n) ∧ t.chip.mem = s.chip.mem)

/-- R119, R383, R388, R404, R405, R407: a reset ends everything that runs and brings the registers to their reset values, the lock of SR.TSYNC with
them; the weight tier with its marks, the time, the trace store and the records of the management side survive; its cause is recorded. That HBM reads
0 after a reset (logs 2 and 79), the clock of 1,400 MHz (log 79), and what else survives (log 72) are the model's choices. -/
def Resets : Prop :=
  ∀ s k cause, (k, cause) ∈ [(Instr.pcieFundamentalReset, 2), (.managementReset, 3), (.thermalTrip, 4), (.powerFault, 5)] →
    ∃ t, exec k s = .next t ∧ t.life = { s.life with state := 0, step := 0, cause := cause, clock := 1400, dueFits := [] }
      ∧ t.chip.running = false ∧ t.chip.priv = PrivRegs.reset ∧ t.chip.gangs = [] ∧ t.chip.grids = [] ∧ (∀ n slot, t.chip.warp n slot = none)
      ∧ (∀ a, a < 2 ^ 40 → aget 0 t.chip.mem a = 0) ∧ (∀ a, 2 ^ 40 ≤ a → aget 0 t.chip.mem a = aget 0 s.chip.mem a)
      ∧ (∀ a, 2 ^ 40 ≤ a → aget false t.chip.pois a = aget false s.chip.pois a) ∧ t.chip.locked = false ∧ t.chip.offset = 0
      ∧ t.chip.time = s.chip.time ∧ t.chip.trace.resets = s.chip.trace.resets + 1 ∧ t.chip.trace.cause = cause
      ∧ (acanon Core.zero 0 s.chip.cores = true → ∀ n, (t.chip.core n).seqW = (s.chip.core n).seqW ∧ (t.chip.core n).seqM = (s.chip.core n).seqM
          ∧ (t.chip.core n).seqD = (s.chip.core n).seqD)

/-- R389, R390, R402, R406, R408-R411: the clock follows the temperature in steps of 25 MHz between 1.0 and 1.4 GHz; a fit of a domain is logged with
its time, sets its voltage with the guard band, and marks it above 860 mV, and one that falls due in the pair's in-field test is kept for its end;
the management controller answers with measurements, sensors and the trace store, and disciplines the time forward and by a slew of at most 100
ppm. That the fitted voltage is the one with the guard band is the model's reading (log 84). -/
def ManagementSteps : Prop :=
  ∀ s,
    let told (m : MgmtMsg) : State := { s with life := { s.life with mgmtOut := s.life.mgmtOut ++ [m] } }
    (∀ hot : Bool, exec (.thermalThrottle hot) s = .next { s with
      life := { s.life with clock := if hot then max 1000 (s.life.clock - 25) else min 1400 (s.life.clock + 25) } })
    ∧ (∀ d (f : Fit), s.chip.running = true → d < 288 → (s.chip.priv.iftActive = true → d ≠ s.chip.priv.iftPair.toNat) →
      ∃ t, exec (.ageingRefit d f) s = .next t ∧ t.chip = s.chip
        ∧ (t.life.domain d).log
          = ({ time := s.chip.time, delay := f.delay, mv := f.mv + 12, temp := f.temp } :: (s.life.domain d).log).take 4096
        ∧ (f.mv + 12 ≤ 860 → (t.life.domain d).mv = (if (s.life.domain d).marked then 860 else f.mv + 12) ∧ t.life.marks = s.life.marks)
        ∧ (860 < f.mv + 12 → (t.life.domain d).mv = 860 ∧ (t.life.domain d).marked = true)
        ∧ (∀ e, e ≠ d → t.life.domain e = s.life.domain e))
    ∧ (∀ d (f : Fit), s.chip.running = true → d < 288 → s.chip.priv.iftActive = true → d = s.chip.priv.iftPair.toNat →
      exec (.ageingRefit d f) s = .next { s with life := { s.life with dueFits := s.life.dueFits ++ [(d, f)] } })
    ∧ exec .spdmAttestation s = .next (told (.attestation [Sys2Proof.Config.imageMeasure 0, Sys2Proof.Config.imageMeasure 1] s.chip.fuse.config
        (BitVec.ofNat 64 s.chip.srCores) s.life.wearDigest))
    ∧ (∀ d, exec (.pldmSensorRead (.residual d)) s = .next (told (.sensor (s.life.domain d).residual)))
    ∧ exec (.pldmSensorRead .nextStep) s = .next (told (.sensor s.life.daysToStep))
    ∧ exec (.pldmSensorRead .untilHold) s = .next (told (.sensor s.life.daysToHold))
    ∧ (∀ off n, act (.mgmtRead (.trace off n)) s = .next (told (.bytes ((List.range n).map (fun j => s.chip.trace.byte (off + j))))))
    ∧ ∀ ns ppm, act (.discipline ns ppm) s = .next { s with
        chip := { s.chip with time := s.chip.time + ns, slewPpm := max (-100) (min 100 ppm) } }

/-- R380, R410, R412: an in-field test begins on the next pair, asking its gangs to stop, or is put off for 100 ms without frames for them; a
pass ends it, a failure fences and marks the cores that failed and is recorded; the fits that fell due meanwhile follow (R409). That a failure whose
outcome names both cores or neither takes both out is the model's reading (log 74). -/
def InFieldTest : Prop :=
  ∀ s,
    (∀ pair, s.chip.running = true → s.chip.priv.iftEn = true → s.chip.priv.iftActive = false → s.chip.priv.iftAt ≤ s.chip.time →
      s.chip.nextPair = some pair →
      let need := sumOf ((s.chip.pairGangs pair).map (fun x => if x.2.phase = 0 then s.chip.framesFor x.2 else 0))
      (s.chip.framePool < s.chip.framesUsed + s.chip.resvFrames + need → exec .iftStart s = .next { s with
        chip := { s.chip with priv := { s.chip.priv with iftDefer := s.chip.priv.iftDefer + 1, iftAt := s.chip.time + 100000000 } } })
      ∧ (s.chip.framesUsed + s.chip.resvFrames + need ≤ s.chip.framePool → acanon none 0 s.chip.gangs = true →
        ∃ t, exec .iftStart s = .next t ∧ t.chip.priv.iftActive = true ∧ t.chip.priv.iftPair = BitVec.ofNat 8 pair
          ∧ (∀ g k, s.chip.gang g = some k → k.phase = 0 →
              ((∃ gr ∈ k.groups, gr.retired = false ∧ gr.core / 2 = pair) ∨ ∃ x ∈ s.chip.warpsOf g, x.1 / 2 = pair) →
              t.chip.gang g = some { k with phase := 1, whyIft := true, reserved := k.reserved + s.chip.framesFor k })
          ∧ (∀ g k, s.chip.gang g = some k → (∀ gr ∈ k.groups, gr.retired = true ∨ gr.core / 2 ≠ pair) →
              (∀ x ∈ s.chip.warpsOf g, x.1 / 2 ≠ pair) → t.chip.gang g = some k) ∧ t.chip.mem = s.chip.mem))
    ∧ (s.chip.priv.iftActive = true → (∀ g ∈ s.chip.iftGangs, ∀ k, s.chip.gang g = some k → 2 ≤ k.phase) →
      (∃ t, exec (.iftResult .pass) s = .next t
        ∧ t.life = { s.life.dueFits.foldl (fun x f => x.refit f.1 f.2 s.chip.time) s.life with dueFits := [] } ∧ t.chip.priv.iftActive = false ∧ t.chip.fenced = s.chip.fenced
        ∧ t.chip.mem = s.chip.mem)
      ∧ ∀ cause low high, ∃ t, exec (.iftResult (.fail cause low high)) s = .next t ∧ t.chip.priv.iftActive = false
          ∧ (∀ n ∈ failedCores s.chip.priv.iftPair.toNat low high, n ∈ t.chip.fenced ∧ n ∈ t.life.marks)
          ∧ (∃ e, t.life.errors.getLast? = some e ∧ e.code = 0x10 + cause) ∧ t.chip.mem = s.chip.mem)

/-- R101, R147, R353, R380, R398, R404, R405: what the machine holds at reset: no part of it runs, nothing is resident, memory lists no byte, and
the privileged registers read as their rules say. The values without a reset value of the spec rest on logs 2 and 79. -/
def ResetValues : Prop :=
  State.reset.life.state = 0 ∧ State.reset.chip.running = false ∧ State.reset.chip.gangs = [] ∧ State.reset.chip.cores = []
  ∧ State.reset.chip.mem = [] ∧ State.reset.chip.hostMem = [] ∧ Memory.wf State.reset.chip.mem = true
  ∧ ∀ x ∈ [(0x400, 0), (0x402, 0), (0x405, 0), (0x406, 0), (0x410, 0), (0x420, 0x3FFFFF), (0x425, 0x10806010), (0x426, 8), (0x427, 0),
      (0x432, 4), (0x438, 4), (0x442, 2 ^ 63 + 86400), (0x450, 0), (0x468, 0x03E84001)],
      State.reset.chip.privRead State.reset.life x.1 = some x.2

/-- R38, R47, R48, R57-R60: every word that a well-formed instruction encodes to decodes to that instruction in the class of its clauses: no
operand bit is lost. -/
def EncodeDecode : Prop :=
  ∀ (i : Instr) (cls : Sys2Proof.Class) (w : Nat), i.wf = true → encode i = some (cls, w) →
    w < 2 ^ 64 ∧ (if 0xF0 ≤ w / 2 ^ 56 then decodeHeader cls w else decodeWord cls w) = .ok i

/-- R38, R50: every word that decodes is a word of the well-formed instruction it decodes to: no two words of one instruction, no ignored bit. -/
def DecodeEncode : Prop :=
  ∀ (i : Instr) (cls : Sys2Proof.Class) (w : Nat), w < 2 ^ 64 →
    (decodeHeader cls w = .ok i → i.wf = true ∧ encode i = some (cls, w))
    ∧ (decodeWord cls w = .ok i → i.wf = true ∧ ∃ c, encode i = some (c, w))

/-- R404-R410: every step keeps the management side legal: a state of the part that is one of its states, a failed step only in Hold, the
clock in its range in steps of 25 MHz, no more than 128 error records, no domain above 860 mV. State 1 is seen between the two events of the power-up
sequence, which is the model's choice (log 73). -/
def PartLegality : Prop := ∀ s t, PartLegal s.life → step s = .next t → PartLegal t.life

/-- R404, R405: the part as it is at reset is legal. -/
def PartLegalAtReset : Prop := PartLegal State.reset.life

/-- R405: a part in Hold stays in Hold until a reset. -/
def HoldUntilReset : Prop :=
  ∀ s t, s.life.state = 3 → step s = .next t →
    t.life.state = 3 ∨ ∃ k ∈ [Instr.pcieFundamentalReset, .managementReset, .thermalTrip, .powerFault], ∃ rest, s.agenda = .event k :: rest

end Sys2Proof.Claims

open Sys2Proof Sys2Proof.Machine Sys2Proof.Claims

/-- R252, R253, R256, R257: Integer arithmetic, logic, shifts and predicates write their results. -/
def Obligations.IntegerInstructions : Prop := IntegerResults ∧ PairResults ∧ ShiftResults ∧ PredicateResults

/-- R254, R255: bit-field extraction and insertion, population count, leading zeros, bit reversal. -/
def Obligations.FieldResults : Prop := Computes fields

/-- R226: the moves. -/
def Obligations.MoveResults : Prop := Computes moves

/-- R88, R89, R90, R257, R258, R259, R260: Floating point and special functions in the lanes. -/
def Obligations.FloatInstructions : Prop := FloatResults ∧ FunctionResults

/-- R237, R238, R239, R240, R241, R242, R243, R244: Cross-lane instructions. -/
def Obligations.CrossLaneResults : Prop := CrossLanes ∧ WriteLaneResult

/-- R8, R78, R81, R85, R86, R87: Conversions, their bounds and their traps. -/
def Obligations.Conversions : Prop := IntegerConversions ∧ BoundedConversions ∧ ConversionRanges ∧ ConversionFormats

/-- R39, R250: NOP and clause headers. -/
def Obligations.ClauseWords : Prop := WordsWithoutEffect ∧ ClauseClassTrap ∧ SequencerClauses

/-- R320, R321, R322, R330: Branches, calls, returns and EXIT. -/
def Obligations.ControlFlow : Prop := ControlTransfers ∧ TransferTraps ∧ ExitResult

/-- R8, R13, R14, R51, R82, R83, R218, R274, R365, R371, R372, R390: Special registers read and written. -/
def Obligations.SpecialRegisters : Prop := SpecialRegisterRead ∧ SpecialRegisterValues ∧ SpecialRegisterWrite ∧ SpecialRegisterWritten ∧ SpecialRegisterGuard

/-- R374, R394: SR.WAITSEL snapshots and NOPREEMPT sections. -/
def Obligations.WaitSnapshotsAndSections : Prop := WaitSelection ∧ SectionResult

/-- R42, R43, R44, R46, R401: Long-latency operations: issue, EVT, completion. -/
def Obligations.LongLatency : Prop := EventRecord ∧ LongLatencyIssue ∧ OperationCompletes

/-- R82, R364, R365, R376: Taking a trap, and the traps that kill. -/
def Obligations.TrapEntries : Prop := TrapEntry ∧ FatalTrap

/-- R370: TRAP takes the precise trap of class USER, or BREAKPOINT, for its executing lanes, with its code as the reason. -/
def Obligations.SoftwareTrap : Prop :=
  ∀ (g : Guard) (bk : Bool) (code : BitVec 16) s i core slot w,
    let f := ctlForm 0xBB g none .rule []
    let c := (s.chip.nextCid i.eng).1
    Issuing s i core slot w → f.Ready s.chip i w →
    (f.active i w ≠ 0 →
      exec (.trap g bk code) s = .next { s with
        chip := c.trapEnter core slot { syn := (if bk then 0x13 else 0x12) * 2 ^ 24 + 0xBB * 2 ^ 16 + code.toNat, pos := i.pos, posted := false,
                                        kind := 0, queue := 0, lane := lowLane (f.active i w), addr := 0, mask := f.active i w, inner := 0,
                                        stopped := 0 } })
    ∧ (f.active i w = 0 → ∃ w', exec (.trap g bk code) s = .next { s with chip := s.chip.setWarp core slot (some w') } ∧ w.Passed w' i
      ∧ { w' with lanes := w.lanes } = w)

/-- R366: RFT. -/
def Obligations.TrapReturns : Prop := TrapReturn ∧ PreciseReturn

/-- R233, R235: QPOP and QPUSH. -/
def Obligations.HardwareQueues : Prop := QueuePop ∧ QueuePush ∧ QueueOwnerTrap

/-- R160, R268, R323, R324, R331, R334: FORK and SPAWN. -/
def Obligations.ForkAndSpawn : Prop := ForkResult ∧ SpawnResult

/-- R105, R107, R228, R229, R230: LD, LDSX and LDREC. -/
def Obligations.Loads : Prop := LoadResult ∧ RecordLoad

/-- R105, R107, R228, R231, R232: ST, STSX and PRF. -/
def Obligations.Stores : Prop := StoreResult ∧ BlockStore ∧ PrefetchResult

/-- R220, R300, R303: What a core reads: its own stores, else memory. -/
def Obligations.CacheReads : Prop := LineReadResult ∧ StoreForwarding

/-- R223, R224, R300, R302, R314: Release, acquire and FENCE. -/
def Obligations.ReleasesAndFences : Prop := ReleaseAcquire ∧ FenceResult

/-- R306, R307, R309, R310: Atomic operations at the home. -/
def Obligations.AtomicHome : Prop := AtomicOperations ∧ AtomicAtHome

/-- R303, R307-R310, R312: ATOM, ATOMC and REDM, once every line has been checked and nothing stops them: release where SEM asks for it, the lanes
in order, up to one that a peer performs, those after it once the peer has answered; acquire where SEM asks for it; the operation will write
each lane's old value to D; REDM writes none. -/
def Obligations.AtomicResult : Prop :=
  ∀ (g : Guard) (aop : BitVec 4) (scope : BitVec 3) (sem : BitVec 2) (d x v : Reg) (q : BitVec 5) s i core slot w k op code dst nv pas c1 c3 race,
    (k, op, code, dst, nv) ∈ [(Instr.atom g aop scope sem d q x v, 0x88, aop.toNat, some d, 1),
      (Instr.atomc g scope sem d q x v, 0x89, 16, some d, 2), (Instr.redm g aop scope sem q x v, 0x8A, aop.toNat, none, 1)] →
    let r := Rec.ofBits (aget 0 w.q q.toNat)
    let n := if code = 9 then 4 else if 8 ≤ r.esize then 8 else 4
    let form (a b : Nat) : Form := { op := op, g := g, hq := false, d := dst.map (fun y => (y, a)), ud := .rule,
                                     srcs := [srcX x, { code := v, field := 5, n := b, ia := false }] }
    let f := form (n / 4) (nv * (n / 4))
    let at_ (l : Nat) := r.addr op (w.reg x.toNat l) 0 n
    let ls := takers f i w
    let hs := hitsIn at_ n ls
    let tag := s.chip.tagOf w.gang
    let a : Atomic := { op := op, aop := code, scope := scope.toNat, rel := sem.getLsbD 1, w := n, pol := r.pol, priv := r.priv }
    let cid := (c1.issueCid i).2
    let given (j l : Nat) : Nat := w.regs (v.toNat + j * (n / 4)) l (n / 4)
    let who : Storer := { who := partyOf i.eng i.lanes, op := op, tag := tag, pos := i.pos, id := some c3.nextOp }
    let todo := atomLanes hs (given 0) (given 1) pas
    let o := a.run core tag cid who todo.length todo (c3.useChecked i)
    let sent := o.1.opAsks c3.nextOp
    let c5 := o.1.intendedBy slot cid
    let vs := ls.map (fun l => (l, ((o.2.1.find? (fun y => y.1 == l)).map (fun y => y.2)).getD 0))
    Issuing s i core slot w → s.chip.flagFull i.eng (flagSeta i.hdr) = false → (form 1 1).Ready s.chip i w → f.Ready s.chip i w →
    f.active i w ≠ 0 → RecordUsable s.chip i w q op true → 4 ≤ r.esize → s.chip.atomicBusy i = false → (∀ l ∈ ls, inBounds (at_ l)) →
    translateAll i op core tag (if code = 16 then .cas else .atomic) r.pol hs (linesOf hs) s.chip = .ok (pas, c1) →
    a.peerCheck i tag hs pas s.chip = none → a.check i core tag hs s.chip c1 pas = none →
    semRelease op sem scope.toNat (some cid) i (c1.issueCid i).1 = .ok (c3, race) →
    ∃ t b, exec k s = .next t ∧ t.chip.ops = (if sent then c5 else semAcquire sem scope.toNat i c5).ops ++ [b] ∧ t.chip.mem = o.1.mem
      ∧ b.flag = flagSeta i.hdr ∧ b.hold = sent ∧ b.race = race.or o.2.2.1
      ∧ b.late = (if o.2.2.2 = [] then none else some { touch := [], work := .atomics a tag o.2.2.2 })
      ∧ b.acq = (if sent && sem.getLsbD 0 then scope.toNat else 0)
      ∧ (dst = none → b.writes = [] ∧ b.uwrites = [])
      ∧ (dst ≠ none → isU d.toNat = false → b.writes = vs.flatMap (fun (y : Nat × Nat) => loadWrites d y.1 y.2 false (n / 4) 0))
      ∧ (dst ≠ none → isU d.toNat = true → b.uwrites = vs.flatMap (fun (y : Nat × Nat) => loadUWrites d y.2 false (n / 4) 0))

/-- The model keeps memory as data (log entry 2): every write of device memory keeps it a list of rising addresses without a zero byte; so do the frame that
changes owner and the write-back of a line (log entry 2). -/
def Obligations.MemoryCanonical : Prop :=
  ∀ (c : Chip), Memory.wf c.mem = true →
    (∀ off n v, Memory.wf (c.wrMem off n v).mem = true) ∧ (∀ off tag, Memory.wf (c.claimFrame off tag).mem = true)
    ∧ (∀ line mask d pois, Memory.wf (c.homeWrite line mask d pois).mem = true) ∧ (∀ core e, Memory.wf (c.writeBack core e).mem = true)
    ∧ (∀ at_ bit, Memory.wf (c.orEntry at_ bit).mem = true)
    ∧ ∀ off n v a, aget 0 (c.wrMem off n v).mem a = if off ≤ a ∧ a < off + n then BitVec.ofNat 8 (v / 2 ^ (8 * (a - off))) else aget 0 c.mem a

/-- R191, R202, R309, R311: LDB, STB and ATOMW. -/
def Obligations.BankAccesses : Prop := BankAccessResult ∧ BankAtomicResult

/-- R192, R195, R196, R197, R199, R200: GIVE, TAKE, RELB, BMAPR and the attachment of a given bank. -/
def Obligations.BankMaps : Prop := BankMapResults ∧ BankMapRead ∧ BankAttach

/-- R261, R262, R263, R264, R265, R266, R267: Bank sweeps. -/
def Obligations.Sweeps : Prop := SweepResult ∧ SweepRows

/-- R203, R206, R207, R210: BINIT. -/
def Obligations.BarrierSetups : Prop := BarrierSetup ∧ MemoryBarrierSetup

/-- R207, R211, R212: ARRIVE and EXPB. -/
def Obligations.BarrierArrivals : Prop := BarrierArrival ∧ BarrierBytes

/-- R213, R392: WAITPH. -/
def Obligations.BarrierWaits : Prop := BarrierWait ∧ BarrierWaitEnds

/-- R166, R183, R186, R187, R188, R277, R278, R279: Scalar words of the sequencers. -/
def Obligations.SequencerWords : Prop := SequencerScalars ∧ SequencerControl

/-- R270, R280, R281, R282, R283, R284: Tiles: configuration, moves, transposition, loads and stores. -/
def Obligations.Tiles : Prop := TileResults ∧ TileTransfers

/-- R50, R276, R285, R286, R287, R288, R289: Matrix products. -/
def Obligations.Products : Prop := ProductResults ∧ StreamedProduct ∧ ProductTraps

/-- R275, R290, R291, R292: Drains of accumulators and paired products. -/
def Obligations.DrainsAndPairs : Prop := DrainResults ∧ PairedProduct

/-- R161, R162, R174, R175, R183, R184: Copy commands enter their queues. -/
def Obligations.CommandQueues : Prop := CommandIssue ∧ QueueControl

/-- R115, R186, R300, R304, R305, R315, R316, R343: KLD, KST and TRIG. -/
def Obligations.ScalarMemoryAndTrigger : Prop := ScalarMemory ∧ DrayWriteResult ∧ TriggerResult ∧ SuccessorSteps

/-- R130, R161, R167, R168, R170, R175, R177, R181, R182, R194, R205: Copy commands start and walk. -/
def Obligations.CommandProgress : Prop := CommandStart ∧ TargetAllocation ∧ OtherStarts ∧ CommandWalks

/-- R131, R198, R194, R132: bytes are granted as far as their barrier is armed; granted bytes land in the bank attached at the target's slot
and count on the barrier; a scoreboard entry that is over retires; a multicast entry closes after 2,800 cycles. -/
def Obligations.CopyDelivery : Prop :=
  (∀ s core q k r (x : Target), DrayOn s.chip core → Running s.chip core q k r → r.targets = [x] → r.fetched ≠ [] → r.begun = true →
    k.op ≠ 0xD9 → HostQuiet s.chip core q →
    let b := s.chip.bar (.core x.core x.barrier)
    let n := min r.fetched.length (b.xbytes.toNat - b.lbytes.toNat - b.granted)
    ∃ t r', exec (.turntableGrant core q) s = .next t ∧ runIn t core q = some r'
      ∧ t.chip.bar (.core x.core x.barrier) = { b with granted := b.granted + n } ∧ r'.fetched = r.fetched.drop n
      ∧ r'.p = max r.p ((x.sent + n) / r.esize)
      ∧ (∃ y, r'.targets = [y] ∧ y.sent = x.sent + n ∧ y.landed = x.landed ∧ y.flight.length = x.flight.length + n
          ∧ ∀ j < n, (y.flight.getD (x.flight.length + j) (0, 0, false)).2 = r.fetched.getD j (0, false))
      ∧ (r.state = 1 ∨ r.state = 4 → (r'.state = 4 ↔ n < r.fetched.length)) ∧ t.chip.mem = s.chip.mem ∧ t.chip.clusters = s.chip.clusters)
  ∧ (∀ s core q k r (x : Target) b, Running s.chip core q k r → r.targets = [x] → x.flight ≠ [] →
    s.chip.bankAt x.core x.slot = some b → (s.chip.bank (x.core / 128) b).gang = some (s.chip.core core).dray.s.gang →
    let old := s.chip.bar (.core x.core x.barrier)
    ∃ t, exec (.byteLand core q) s = .next t
      ∧ (∃ r', runIn t core q = some r' ∧ r'.targets = [{ x with landed := x.landed + x.flight.length, flight := [] }] ∧ r'.p = r.p)
      ∧ t.chip.bar (.core x.core x.barrier)
          = checked { old with lbytes := old.lbytes + BitVec.ofNat 32 x.flight.length, granted := old.granted - x.flight.length }
      ∧ (∀ j < x.flight.length, (∀ m, j < m → m < x.flight.length → (x.flight.getD m (0, 0, false)).1 ≠ (x.flight.getD j (0, 0, false)).1) →
          aget 0 (t.chip.bank (x.core / 128) b).data (x.flight.getD j (0, 0, false)).1 = (x.flight.getD j (0, 0, false)).2.1)
      ∧ t.chip.mem = s.chip.mem)
  ∧ (∀ s core n e, (s.chip.core core).score[n]? = some e → e.done = true →
    ∃ t, exec (.scoreboardRetire core n) s = .next t ∧ { t with chip := { t.chip with cores := s.chip.cores } } = s
      ∧ ∀ m, t.chip.core m = if m = core then { s.chip.core core with score := (s.chip.core core).score.eraseIdx n } else s.chip.core m)
  ∧ ∀ s line, exec (.multicastEntryClose line) s = .next { s with
      chip := { s.chip with mc := s.chip.mc.map (fun (e : McEntry) =>
        if e.line = line ∧ e.opened + 2800 ≤ s.chip.cycle then { e with closed := true } else e) } }

/-- R148, R150, R163, R165, R166, R171, R181: Copy commands end; collectives combine. -/
def Obligations.CommandEnds : Prop := CommandEnd ∧ CollectiveResult

/-- R325, R327, R345, R346, R347, R348: Admission of grids, ageing, child warps. -/
def Obligations.GridsAndChildren : Prop := GridAdmission ∧ ChildWarps

/-- R24, R322, R335, R356, R357, R358, R359, R363, R375: Active and pending warps, retirement, posted traps, section limits. -/
def Obligations.WarpSteps : Prop := WarpSelection ∧ WarpEvents

/-- R110, R113, R201: once its engines have stopped, a gang's warps go into a frame and leave their slots; restored, each stands in its slot
again, and the gang runs. -/
def Obligations.SaveAndRestore : Prop :=
  ∀ s g k, s.chip.gang g = some k →
    (s.chip.saveReady g k →
      (∀ n ∈ k.cores, ∀ x ∈ s.chip.intents, x.owner = .core n → ∀ sl w, x.slot = some sl → s.chip.warp n sl = some w → w.gang = g) →
      ∃ t f, exec (.gangSaveComplete g) s = .next t ∧ t.chip.gang g = some { k with phase := 2, frame := some f, reserved := 0 }
        ∧ (∀ n ∈ k.cores, ∀ slot w, s.chip.warp n slot = some w → w.gang = g → (n, slot, w) ∈ f.warps)
        ∧ (∀ n ∈ k.cores, ∀ slot w, t.chip.warp n slot = some w → w.gang ≠ g))
    ∧ ∀ f kn, s.chip.kernelOf g = some kn → k.frame = some f → s.chip.restorable g k → s.chip.roomPending k.grid = false → s.chip.restoreRoom k f kn → f.races = [] →
      (∀ p ∈ s.chip.faults, p.gang ≠ g) → (f.warps.map (fun x => (x.1, x.2.1))).Nodup →
      ∃ t, exec (.gangRestore g) s = .next t
        ∧ t.chip.gang g = some { k with phase := 0, frame := none, whyPage := false, restored := s.chip.cycle }
        ∧ (∀ n slot w, (n, slot, w) ∈ f.warps → ∃ a, warpIn t n slot = some { w with active := a, joined := s.chip.cycle })
        ∧ t.chip.mem = s.chip.mem

/-- R146, R377, R378, R379, R395: Kills, relaunches, killed contexts, privileged snapshots. -/
def Obligations.KillsAndRelaunches : Prop := KillAndRelaunch ∧ ContextKill

/-- R18, R190, R341, R343, R349, R377: Groups, gangs and grids retire. -/
def Obligations.Retirement : Prop := GroupAndGangRetire ∧ GridRetire

/-- R391, R396, R397, R398, R399, R433: Deadlines, walks and queries. -/
def Obligations.Conductor : Prop := WalkSteps ∧ DeadlineWalk ∧ QueryAnswers ∧ ConductorCompletes

/-- R386-R390: the oldest record of a source goes to the next slot of the trace store, the first again after the last; a frozen store discards
and counts it. A gained lock steps the time, never backward, and both changes are recorded with the flag of the lock. -/
def Obligations.TraceAndTime : Prop :=
  ∀ s (source : Nat) (r : Caseg) (rs : List Caseg),
    let T := s.chip.trace
    ((aget TraceBuf.zero T.bufs source).recs = r :: rs →
      ∃ t, exec (.traceRecordWrite source) s = .next t ∧ (aget TraceBuf.zero t.chip.trace.bufs source).recs = rs
        ∧ (T.freeze = false → aget none t.chip.trace.slots T.index = some r ∧ t.chip.trace.count = T.count + 1
            ∧ t.chip.trace.index = (if T.index + 1 = 536870784 then 0 else T.index + 1)
            ∧ ∀ j, j ≠ T.index → aget none t.chip.trace.slots j = aget none T.slots j)
        ∧ (T.freeze = true → t.chip.trace.slots = T.slots ∧ t.chip.trace.count = T.count ∧ t.chip.trace.frozen = T.frozen + 1)
        ∧ t.chip.mem = s.chip.mem)
    ∧ ((aget TraceBuf.zero T.bufs source).recs = [] → exec (.traceRecordWrite source) s = .next s)
    ∧ ∀ (gained : Bool) sec nsec (offset : BitVec 32), nsec < 1000000000 →
      ∃ t, exec (.timeLockChange gained sec nsec offset) s = .next t ∧ t.chip.locked = gained
        ∧ t.chip.time = (if gained then max s.chip.time (sec * 1000000000 + nsec) else s.chip.time)
        ∧ t.chip.offset = (if gained then offset else s.chip.offset)
        ∧ Recorded s.chip t.chip 0xC31 (fun r => r.type = 2#16 ∧ r.payload = (if gained then 1#64 else 0#64) ∧ r.flags.getLsbD 1 = !gained)
        ∧ t.chip.cores = s.chip.cores ∧ t.chip.mem = s.chip.mem

/-- R136, R137, R147: a good flit acknowledges and a bad one is discarded; what stands unacknowledged for 2 us is replayed and counted, and
a flit's sixteenth replay takes the link down; training brings it up with four lanes or two. -/
def Obligations.LinkSteps : Prop :=
  ∀ s port, s.chip.running = true →
    let l := s.chip.link port
    (∀ f : Flit, l.up = true → f.good = true →
      exec (.flitReceive port f) s = .next { s with chip := s.chip.setLink port { l with
        buffer := l.buffer.filter (fun x => f.ack ≤ x.1),
        recvSeq := if f.seq = l.recvSeq then l.recvSeq + 1 else l.recvSeq } })
    ∧ (∀ f : Flit, f.good = false ∨ l.up = false → exec (.flitReceive port f) s = .next s)
    ∧ (∀ x xs, l.up = true → l.buffer = x :: xs → x.2.1 + 2000 ≤ s.chip.time →
      ((∀ y ∈ l.buffer, y.2.2 + 1 < 16) → exec (.flitReplayTimeout port) s = .next { s with chip := s.chip.setLink port { l with
        replays := l.replays + l.buffer.length, buffer := l.buffer.map (fun y => (y.1, s.chip.time, y.2.2 + 1)) } })
      ∧ ((∃ y ∈ l.buffer, 16 ≤ y.2.2 + 1) → ∃ t, exec (.flitReplayTimeout port) s = .next t ∧ (t.chip.link port).up = false
        ∧ (t.chip.link port).training = true ∧ (t.chip.link port).downs = l.downs + 1
        ∧ (t.chip.link port).replays = l.replays + l.buffer.length ∧ t.chip.mem = s.chip.mem))
    ∧ ∀ width : BitVec 2, port < 32 → l.up = false →
      ((width = 1#2 ∨ width = 2#2) → ∃ t, exec (.linkRetrain port width) s = .next t ∧ (t.chip.link port).up = true
        ∧ (t.chip.link port).width = width.toNat ∧ (t.chip.link port).downs = l.downs ∧ (t.chip.link port).replays = l.replays
        ∧ t.chip.mem = s.chip.mem)
      ∧ (width = 0#2 ∨ width = 3#2 → exec (.linkRetrain port width) s = .next { s with chip := s.chip.setLink port { l with training := false } })

/-- R137, R138, R139, R141, R142: Flows, admission and hints. -/
def Obligations.FlowsAndAdmission : Prop := FlowDelivery ∧ Admission

/-- R119, R143, R144, R145, R146: Remote requests, this device’s and others’. -/
def Obligations.RemoteRequests : Prop := RemoteEnds ∧ InboundRequests

/-- R4, R133, R144, R154, R155, R156, R158, R159, R389, R403, R405, R441: The host port. -/
def Obligations.HostPort : Prop := HostReads ∧ HostWrites ∧ HostRegisters ∧ HostErrors

/-- R151, R152, R350, R351, R352, R353, R354: Task rings and proxy queues. -/
def Obligations.RingsAndMail : Prop := RingSteps ∧ MailBatches

/-- R102, R112, R113: Invalidation of translations, the fault ring. -/
def Obligations.TranslationControl : Prop := Invalidation ∧ FaultRing

/-- R119, R383, R388, R404, R405, R406, R407, R410, R413: Power-up and resets. -/
def Obligations.PowerUpAndResets : Prop := PowerUpSequence ∧ Resets

/-- R380, R389, R390, R402, R406, R408, R409, R410, R411, R412: Clock, ageing, sensors, in-field tests. -/
def Obligations.Health : Prop := ManagementSteps ∧ InFieldTest

/-- R115, R118, R127: a corrected error is counted; one that cannot be corrected poisons its line or granule and nothing else, and a line of the
weight tier is held for its refill; 10 ms without one, its readers get poison; a detector's entry lapses after 1,024 cycles. -/
def Obligations.MemoryErrors : Prop :=
  ∀ s,
    (∀ loc, exec (.eccCorrectable loc) s = .next { s with chip := { s.chip with eccCount := s.chip.eccCount + 1 } })
    ∧ (∀ off, offsetExists off = true → ∃ t, exec (.eccUncorrectable (.memory off)) s = .next t
        ∧ aget false t.chip.pois (off / 64 * 64) = true ∧ (∀ a, a ≠ off / 64 * 64 → aget false t.chip.pois a = aget false s.chip.pois a)
        ∧ t.chip.mem = s.chip.mem
        ∧ (off < 2 ^ 40 → t.chip.held = s.chip.held)
        ∧ (2 ^ 40 ≤ off → (s.chip.held.filter (fun h => h.slice == s.chip.home (2 ^ 64 + off / 64 * 64))).length < 16 →
            (∃ h ∈ t.chip.held, h.line = 2 ^ 64 + off / 64 * 64)))
    ∧ (∀ cl b g, g < 16384 → ∃ t, exec (.eccUncorrectable (.bank cl b g)) s = .next t ∧ aget false (t.chip.bank cl b).pois g = true
        ∧ (t.chip.bank cl b).data = (s.chip.bank cl b).data ∧ t.chip.mem = s.chip.mem)
    ∧ (∀ core line, ∃ t, exec (.eccUncorrectable (.l1 core line)) s = .next t
        ∧ (t.chip.core core).l1 = (s.chip.core core).l1.map (fun e => if e.line = line then { e with pois := true } else e)
        ∧ t.chip.mem = s.chip.mem)
    ∧ (∀ line h, s.chip.held.find? (fun x => x.line == devPa line) = some h → h.expired = false → h.since + 10000000 ≤ s.chip.time →
      ∃ t, exec (.weightHoldExpire line) s = .next t ∧ (∀ x ∈ t.chip.held, x.line = h.line → x.expired = true)
        ∧ Recorded s.chip t.chip ((0xC40 + h.slice) % 4096) (fun x => x.type = 0x43#16 ∧ x.payload = BitVec.ofNat 64 (h.line % 2 ^ 64))
        ∧ t.chip.mem = s.chip.mem)
    ∧ ∀ req j e, (aget [] s.chip.detectors req)[j]? = some e → e.last + 1024 ≤ s.chip.cycle →
      exec (.streamEntryExpire req j) s = .next { s with
        chip := { s.chip with detectors := aput [] s.chip.detectors req ((aget [] s.chip.detectors req).eraseIdx j) } }

/-- R36, R39, R40: a step that issues at a position of an engine runs the instruction that the word there decodes to, whether the issue is an
input or the next of those that the part has chosen for its cycle; a step that takes an event runs it, and where its unit stalls behind a trace
record (R386) the event waits while the part goes on. -/
def Obligations.StepRunsDecoded : Prop :=
  ∀ s,
    (∀ k rest, s.agenda = .event k :: rest → s.chip.stalls k = false → step s = exec k { s with agenda := rest })
    ∧ (∀ k rest, s.agenda = .event k :: rest → s.chip.stalls k = true → step s = leftAlone s)
    ∧ (∀ e p rest, s.agenda = .issue e p :: rest → s.chip.lanesAt e p ≠ 0 →
      RunsDecoded { s with agenda := rest } e p (s.chip.lanesAt e p) (step s))
    ∧ ∀ e p m ts, s.agenda = [] → s.life.state = 2 → s.chip.plan = some (.issue e p m :: ts) →
      let s1 : State := { s with chip := { s.chip with plan := some ts } }
      s1.chip.lanesAt e p &&& m ≠ 0 → RunsDecoded s1 e p (s1.chip.lanesAt e p &&& m) (step s)

/-- R101, R147, R353, R380, R398, R404, R405: The machine at reset. -/
def Obligations.ResetState : Prop := ResetValues ∧ PartLegalAtReset

/-- R37, R44, R47, R57, R58: words written out from the encodings decode to the instructions that they stand for. -/
def Obligations.DecodedWords : Prop :=
  decodeWord .lane 0x080000040200C000 = .ok (.iadd (Ctl.ofGuard 0) 1 2 3)
  ∧ decodeWord .lane 0x46000030030108A0 = .ok (.fset (Ctl.ofGuard 0) 12 3 4 2 5)
  ∧ decodeWord .lane 0x8100001440300012 = .ok (.ld 0 0 2 5 2 6 1)
  ∧ decodeWord .lane 0xA000002009E040A0 = .ok (.shfl (Ctl.ofGuard 0) 8 9 3 true 1 10)
  ∧ decodeWord .lane 0xBA00000007001850 = .ok (.waitph 0 3 false 5 7 0)
  ∧ decodeWord .matrix 0xD000002400000000 = .ok (.mprg 9)
  ∧ decodeWord .copy 0xE300022180000000 = .ok (.kadd 1 2 3)
  ∧ decodeHeader .lane 0xF030008000000000 = .ok (.clauseStart .lane
      { count := 3, wait := 0, setaEn := true, seta := 0, setbEn := false, setb := 0, trace := false })
  ∧ decodeWord .matrix 0x080000040200C000 = .error (.clause 8)
  ∧ decodeWord .lane 0x940000000600002B = .ok (.evt 0 6 0x02B)

/-- R38, R47, R48, R50, R57, R58, R59, R60: Decode and encode agree on every instruction word. -/
def Obligations.EncodingRoundTrip : Prop := EncodeDecode ∧ DecodeEncode

/-- R404, R405, R406, R407, R408, R409, R410: Every step keeps the management side legal; Hold ends only by a reset. -/
def Obligations.PartStaysLegal : Prop := PartLegality ∧ HoldUntilReset
end

