-- ==== Sys2Proof/Laws/Assoc.lean ====
section
/-! SUPPORT. Laws of finite maps: reading after writing, and the canonical form. -/

namespace Sys2Proof.Machine

theorem aget_ains {α : Type} (d : α) (m : AMap α) (n k : Nat) (a : α) : aget d (ains m n a) k = if k = n then a else aget d m k := by
  induction m with
  | nil => simp [ains, aget]
  | cons p r ih =>
    simp only [ains]
    split
    · simp only [aget]
    · split
      · subst_vars; simp only [aget]; split <;> simp_all
      · simp only [aget, ih]; split <;> split <;> first | rfl | omega

theorem aget_filter_ne {α : Type} (d : α) (m : AMap α) (n k : Nat) :
    aget d (m.filter (fun p => p.1 != n)) k = if k = n then d else aget d m k := by
  induction m with
  | nil => simp [aget]
  | cons p r ih =>
    obtain ⟨j, v⟩ := p
    by_cases h : j = n
    · subst h; simp [ih, aget]; split <;> rfl
    · simp only [List.filter_cons, bne_iff_ne, ne_eq, h, not_false_eq_true, if_true, aget, ih]
      split
      · subst_vars; simp [h]
      · rfl

/-- Reading after a write: the value written at its key, the old value elsewhere. -/
theorem aget_aput {α : Type} [DecidableEq α] (d : α) (m : AMap α) (n k : Nat) (a : α) :
    aget d (aput d m n a) k = if k = n then a else aget d m k := by
  unfold aput
  split
  · rw [aget_filter_ne]; subst_vars; rfl
  · exact aget_ains d m n k a

@[simp] theorem aget_aput_same {α : Type} [DecidableEq α] (d : α) (m : AMap α) (n : Nat) (a : α) : aget d (aput d m n a) n = a := by
  simp [aget_aput]

theorem aget_aput_ne {α : Type} [DecidableEq α] (d : α) (m : AMap α) {n k : Nat} (a : α) (h : k ≠ n) :
    aget d (aput d m n a) k = aget d m k := by simp [aget_aput, h]

theorem ains_ains {α : Type} (m : AMap α) (n : Nat) (a b : α) : ains (ains m n a) n b = ains m n b := by
  induction m with
  | nil => simp [ains]
  | cons p r ih =>
    obtain ⟨j, v⟩ := p
    rcases Nat.lt_trichotomy n j with h | h | h
    · simp [ains, h]
    · simp [ains, h]
    · simp [ains, ih, Nat.not_lt.2 (Nat.le_of_lt h), Nat.ne_of_gt h]

/-- Of two writes at one key the later stays. -/
theorem aput_aput {α : Type} [DecidableEq α] (d : α) (m : AMap α) (n : Nat) (a b : α) (ha : a ≠ d) (hb : b ≠ d) :
    aput d (aput d m n a) n b = aput d m n b := by simp [aput, ha, hb, ains_ains]

theorem acanon_mono {α : Type} [DecidableEq α] (d : α) {lo lo' : Nat} (m : AMap α) (h : lo' ≤ lo) (hm : acanon d lo m = true) :
    acanon d lo' m = true := by
  cases m with
  | nil => rfl
  | cons p r => simp only [acanon, Bool.and_eq_true, decide_eq_true_eq] at hm ⊢; exact ⟨⟨by omega, hm.1.2⟩, hm.2⟩

theorem acanon_ains {α : Type} [DecidableEq α] (d : α) (m : AMap α) (lo n : Nat) (a : α) (hn : lo ≤ n) (ha : a ≠ d)
    (hm : acanon d lo m = true) : acanon d lo (ains m n a) = true := by
  induction m generalizing lo with
  | nil => simp [ains, acanon, hn, ha]
  | cons p r ih =>
    obtain ⟨j, v⟩ := p
    simp only [acanon, Bool.and_eq_true, decide_eq_true_eq] at hm
    simp only [ains]
    split
    · simp only [acanon, Bool.and_eq_true, decide_eq_true_eq]; exact ⟨⟨hn, ha⟩, ⟨by omega, hm.1.2⟩, hm.2⟩
    · split
      · simp only [acanon, Bool.and_eq_true, decide_eq_true_eq]; exact ⟨⟨hn, ha⟩, by simp_all⟩
      · simp only [acanon, Bool.and_eq_true, decide_eq_true_eq]; exact ⟨hm.1, ih (j + 1) (by omega) hm.2⟩

theorem acanon_filter {α : Type} [DecidableEq α] (d : α) (f : Nat × α → Bool) (m : AMap α) (lo : Nat) (hm : acanon d lo m = true) :
    acanon d lo (m.filter f) = true := by
  induction m generalizing lo with
  | nil => rfl
  | cons p r ih =>
    obtain ⟨j, v⟩ := p
    simp only [acanon, Bool.and_eq_true, decide_eq_true_eq] at hm
    simp only [List.filter_cons]
    split
    · simp only [acanon, Bool.and_eq_true, decide_eq_true_eq]; exact ⟨hm.1, ih (j + 1) hm.2⟩
    · exact ih lo (acanon_mono d r (by omega) hm.2)

/-- Every write keeps the canonical form. -/
theorem acanon_aput {α : Type} [DecidableEq α] (d : α) (m : AMap α) (n : Nat) (a : α) (hm : acanon d 0 m = true) :
    acanon d 0 (aput d m n a) = true := by
  unfold aput
  split
  · exact acanon_filter d _ m 0 hm
  · exact acanon_ains d m 0 n a (Nat.zero_le _) ‹_› hm

theorem acanon_aputN {α : Type} [DecidableEq α] (d : α) (vs : List α) (m : AMap α) (n : Nat) (hm : acanon d 0 m = true) :
    acanon d 0 (aputN d m n vs) = true := by
  induction vs generalizing m n with
  | nil => exact hm
  | cons v vs ih => exact ih _ _ (acanon_aput d m n v hm)

/-- Reading after a write of consecutive values. -/
theorem aget_aputN {α : Type} [DecidableEq α] (d : α) (vs : List α) (m : AMap α) (n k : Nat) :
    aget d (aputN d m n vs) k = if n ≤ k ∧ k < n + vs.length then vs.getD (k - n) d else aget d m k := by
  induction vs generalizing m n with
  | nil => simp [aputN]
  | cons v vs ih =>
    rw [aputN, ih, aget_aput]
    by_cases h : k = n
    · subst h; simp
    · rcases Nat.lt_or_gt_of_ne h with h1 | h1
      · simp [h, Nat.not_le.2 h1, show ¬ n + 1 ≤ k by omega]
      · obtain ⟨j, rfl⟩ : ∃ j, k = n + 1 + j := ⟨k - (n + 1), by omega⟩
        simp [show n + 1 + j - n = j + 1 by omega, show n + 1 + j < n + (vs.length + 1) ↔ j < vs.length by omega, h]
        simp [show n ≤ n + 1 + j by omega]

/-- Two canonical maps that read alike are equal. -/
theorem acanon_ext {α : Type} [DecidableEq α] (d : α) (m m' : AMap α) (lo : Nat) (h : acanon d lo m = true) (h' : acanon d lo m' = true)
    (he : ∀ k, aget d m k = aget d m' k) : m = m' := by
  have low : ∀ (r : AMap α) (b k : Nat), acanon d b r = true → k < b → aget d r k = d := by
    intro r
    induction r with
    | nil => intros; rfl
    | cons p r ih =>
      intro b k hr hk
      simp only [acanon, Bool.and_eq_true, decide_eq_true_eq] at hr
      rw [aget, if_neg (by omega)]
      exact ih _ _ hr.2 (by omega)
  induction m generalizing m' lo with
  | nil =>
    cases m' with
    | nil => rfl
    | cons q r' =>
      simp only [acanon, Bool.and_eq_true, decide_eq_true_eq] at h'
      have := he q.1
      simp [aget] at this
      exact absurd this.symm h'.1.2
  | cons p r ih =>
    cases m' with
    | nil =>
      simp only [acanon, Bool.and_eq_true, decide_eq_true_eq] at h
      have := he p.1
      simp [aget] at this
      exact absurd this h.1.2
    | cons q r' =>
      obtain ⟨a, x⟩ := p
      obtain ⟨b, y⟩ := q
      simp only [acanon, Bool.and_eq_true, decide_eq_true_eq] at h h'
      have hab : a = b := by
        rcases Nat.lt_trichotomy a b with hl | hl | hl
        · have := he a
          simp only [aget, if_true, if_neg (Nat.ne_of_lt hl)] at this
          exact absurd (this.trans (low r' _ a h'.2 (by omega))) h.1.2
        · exact hl
        · have := he b
          simp only [aget, if_true, if_neg (Nat.ne_of_lt hl)] at this
          exact absurd (this.symm.trans (low r _ b h.2 (by omega))) h'.1.2
      subst hab
      have hxy : x = y := by simpa [aget] using he a
      subst hxy
      rw [ih r' (a + 1) h.2 h'.2]
      intro k
      by_cases hk : k = a
      · subst hk; rw [low r _ _ h.2 (by omega), low r' _ _ h'.2 (by omega)]
      · simpa [aget, hk] using he k

end Sys2Proof.Machine
end

