-- ==== Sys2Proof/Laws/Bits.lean ====
section
/-! SUPPORT. Laws of lane masks, bit fields and byte lists. -/

namespace Sys2Proof.Machine

open Sys2Proof

theorem mem_lanesFrom (m n i l : Nat) : l ∈ lanesFrom m n i ↔ i ≤ l ∧ l < i + n ∧ m.testBit l = true := by
  induction n generalizing i with
  | zero => simp [lanesFrom]; omega
  | succ n ih =>
    have hb : m / 2 ^ i % 2 = 1 ↔ m.testBit i = true := by rw [Nat.testBit_eq_decide_div_mod_eq]; simp
    simp only [lanesFrom]
    split
    · rename_i h
      rw [List.mem_cons, ih]
      constructor
      · rintro (rfl | h1)
        · exact ⟨le_refl _, by omega, hb.1 h⟩
        · exact ⟨by omega, by omega, h1.2.2⟩
      · intro h1
        rcases Nat.eq_or_lt_of_le h1.1 with h2 | h2
        · exact Or.inl h2.symm
        · exact Or.inr ⟨by omega, by omega, h1.2.2⟩
    · rename_i h
      rw [ih]
      constructor
      · intro h1; exact ⟨by omega, by omega, h1.2.2⟩
      · intro h1
        refine ⟨?_, by omega, h1.2.2⟩
        rcases Nat.eq_or_lt_of_le h1.1 with h2 | h2
        · subst h2; exact absurd (hb.2 h1.2.2) h
        · omega

/-- A lane is listed exactly where its bit is set. -/
@[simp] theorem mem_lanesOf (m : BitVec 64) (l : Nat) : l ∈ lanesOf m ↔ m.getLsbD l = true := by
  rw [lanesOf, mem_lanesFrom]
  constructor
  · intro h; exact h.2.2
  · intro h
    exact ⟨Nat.zero_le _, by have := BitVec.lt_of_getLsbD h; simpa [warpWidth] using this, h⟩

theorem lt_of_mem_lanesOf {m : BitVec 64} {l : Nat} (h : l ∈ lanesOf m) : l < 64 :=
  BitVec.lt_of_getLsbD ((mem_lanesOf m l).1 h)

theorem laneBit_getLsbD (i l : Nat) : (laneBit i).getLsbD l = (decide (l = i) && decide (l < 64)) := by
  simp only [laneBit, BitVec.getLsbD_ofNat, Nat.testBit_two_pow]
  rw [Bool.eq_iff_iff]; simp; omega

/-- A bit of a mask made from a list. -/
theorem maskOf_getLsbD (ls : List Nat) (l : Nat) : (maskOf ls).getLsbD l = (decide (l ∈ ls) && decide (l < 64)) := by
  induction ls with
  | nil => simp [maskOf]
  | cons i is ih =>
    simp only [maskOf, BitVec.getLsbD_or, laneBit_getLsbD, ih]
    rw [Bool.eq_iff_iff]; simp; tauto

theorem maskOf_filter_lanesOf (m : BitVec 64) (p : Nat → Bool) (l : Nat) :
    (maskOf ((lanesOf m).filter p)).getLsbD l = (m.getLsbD l && p l) := by
  rw [maskOf_getLsbD, Bool.eq_iff_iff]
  simp only [List.mem_filter, mem_lanesOf, Bool.and_eq_true, decide_eq_true_eq]
  constructor
  · rintro ⟨h, -⟩; exact h
  · intro h; exact ⟨h, BitVec.lt_of_getLsbD h.1⟩

theorem lanesFrom_pairwise (m n i : Nat) : (lanesFrom m n i).Pairwise (· < ·) := by
  induction n generalizing i with
  | zero => simp [lanesFrom]
  | succ n ih =>
    simp only [lanesFrom]
    split
    · exact List.pairwise_cons.2 ⟨fun a ha => by have := (mem_lanesFrom m n (i + 1) a).1 ha; omega, ih (i + 1)⟩
    · exact ih (i + 1)

theorem lanesOf_nodup (m : BitVec 64) : (lanesOf m).Nodup :=
  (lanesFrom_pairwise m.toNat warpWidth 0).imp (fun h => Nat.ne_of_lt h)

theorem natOfBytes_lt (bs : List Byte) : natOfBytes bs < 256 ^ bs.length := by
  induction bs with
  | nil => simp [natOfBytes]
  | cons b bs ih =>
    simp only [natOfBytes, List.length_cons, pow_succ]
    have := b.isLt
    omega

theorem bytesOf_length (n v : Nat) : (bytesOf n v).length = n := by
  induction n generalizing v with
  | zero => rfl
  | succ n ih => simp [bytesOf, ih]

/-- The number that the low bytes of a number spell. -/
theorem natOfBytes_bytesOf (n v : Nat) : natOfBytes (bytesOf n v) = v % 256 ^ n := by
  induction n generalizing v with
  | zero => simp [bytesOf, natOfBytes, Nat.mod_one]
  | succ n ih =>
    rw [bytesOf, natOfBytes, ih, BitVec.toNat_ofNat, show (256 : Nat) ^ (n + 1) = 256 * 256 ^ n by ring, Nat.mod_mul]

end Sys2Proof.Machine
end

