-- ==== Sys2Proof/Laws/Memory.lean ====
section
/-! SUPPORT. Laws of memory: each operation on a byte map keeps the canonical form, and what is read after it. -/

namespace Sys2Proof.Machine

open Sys2Proof

theorem wf_reset : Memory.wf State.reset.chip.mem = true ∧ Memory.wf State.reset.chip.hostMem = true := by decide

theorem wf_aput (m : AMap Byte) (a : Nat) (b : Byte) (h : Memory.wf m = true) : Memory.wf (aput 0 m a b) = true := acanon_aput 0 m a b h

theorem wf_aputN (m : AMap Byte) (a : Nat) (bs : List Byte) (h : Memory.wf m = true) : Memory.wf (aputN 0 m a bs) = true :=
  acanon_aputN 0 bs m a h

theorem wf_filter (m : AMap Byte) (f : Nat × Byte → Bool) (h : Memory.wf m = true) : Memory.wf (m.filter f) = true := acanon_filter 0 f m 0 h

theorem wf_eraseRange (m : AMap Byte) (lo hi : Nat) (h : Memory.wf m = true) : Memory.wf (eraseRange lo hi m) = true := wf_filter m _ h

theorem wf_writeMasked (mask : Nat) (d : BitVec 512) (base n i : Nat) (m : AMap Byte) (h : Memory.wf m = true) :
    Memory.wf (writeMasked mask d base n i m) = true := by
  induction n generalizing i m with
  | zero => exact h
  | succ n ih =>
    rw [writeMasked]
    exact ih _ _ (by split; exacts [wf_aput m _ _ h, h])

/-- Reading a byte after a masked write. -/
theorem aget_writeMasked (mask : Nat) (d : BitVec 512) (base n i : Nat) (m : AMap Byte) (a : Nat) :
    aget 0 (writeMasked mask d base n i m) a
      = if base + i ≤ a ∧ a < base + i + n ∧ mask.testBit (a - base) = true then lineByte d (a - base) else aget 0 m a := by
  induction n generalizing i m with
  | zero => simp [writeMasked]; omega
  | succ n ih =>
    rw [writeMasked, ih]
    by_cases h : a = base + i
    · subst h
      by_cases hb : mask.testBit i = true
      · simp [hb]
      · simp [hb]
    · have e : aget 0 (if mask.testBit i = true then aput 0 m (base + i) (lineByte d i) else m) a = aget 0 m a := by
        split
        · exact aget_aput_ne 0 m _ h
        · rfl
      rw [e]
      have h1 : base + (i + 1) ≤ a ↔ base + i ≤ a := by omega
      have h2 : a < base + (i + 1) + n ↔ a < base + i + (n + 1) := by omega
      simp only [h1, h2]

/-- Reading a byte outside an erased range, and inside it. -/
theorem aget_eraseRange {α : Type} (d : α) (lo hi : Nat) (m : AMap α) (k : Nat) :
    aget d (eraseRange lo hi m) k = if lo ≤ k ∧ k < hi then d else aget d m k := by
  induction m with
  | nil => simp [eraseRange, aget]
  | cons p r ih =>
    obtain ⟨j, v⟩ := p
    simp only [eraseRange] at ih
    simp only [eraseRange, List.filter_cons]
    by_cases hj : j < lo ∨ hi ≤ j
    · have : (decide (j < lo) || decide (hi ≤ j)) = true := by simpa using hj
      simp only [this, if_true, aget, ih]
      by_cases hk : k = j
      · subst hk; rw [if_pos rfl, if_pos rfl, if_neg (by omega)]
      · simp [hk]
    · have : (decide (j < lo) || decide (hi ≤ j)) = false := by simp; omega
      simp only [this, Bool.false_eq_true, if_false, aget, ih]
      by_cases hk : k = j
      · subst hk; rw [if_pos (by omega), if_pos (by omega)]
      · simp [hk]

@[simp] theorem Chip.wrMem_mem (c : Chip) (off n v : Nat) : (c.wrMem off n v).mem = aputN 0 c.mem off (bytesOf n v) := rfl
@[simp] theorem Chip.wrMem_cores (c : Chip) (off n v : Nat) : (c.wrMem off n v).cores = c.cores := rfl
@[simp] theorem Chip.wrMem_hostMem (c : Chip) (off n v : Nat) : (c.wrMem off n v).hostMem = c.hostMem := rfl
@[simp] theorem Chip.wrMem_intents (c : Chip) (off n v : Nat) : (c.wrMem off n v).intents = c.intents := rfl

theorem agetN_length {α : Type} (d : α) (m : AMap α) (a n : Nat) : (agetN d m a n).length = n := by
  induction n generalizing a with
  | zero => rfl
  | succ n ih => simp [agetN, ih]

theorem agetN_congr {α : Type} (d : α) (m m' : AMap α) (a n : Nat) (h : ∀ k, a ≤ k → k < a + n → aget d m k = aget d m' k) :
    agetN d m a n = agetN d m' a n := by
  induction n generalizing a with
  | zero => rfl
  | succ n ih => rw [agetN, agetN, h a (by omega) (by omega), ih (a + 1) (fun k h1 h2 => h k (by omega) (by omega))]

theorem agetN_aputN_same {α : Type} [DecidableEq α] (d : α) (vs : List α) (m : AMap α) (a : Nat) : agetN d (aputN d m a vs) a vs.length = vs := by
  induction vs generalizing m a with
  | nil => rfl
  | cons v vs ih =>
    rw [List.length_cons, agetN, aputN, ih]
    congr 1
    rw [aget_aputN]
    simp

/-- Reading the bytes that were written gives the number written. -/
theorem rdMem_wrMem_same (c : Chip) (off n v : Nat) : (c.wrMem off n v).rdMem off n = v % 256 ^ n := by
  have := agetN_aputN_same (0 : Byte) (bytesOf n v) c.mem off
  rw [bytesOf_length] at this
  rw [Chip.rdMem, Chip.wrMem_mem, this, natOfBytes_bytesOf]

/-- A write leaves what lies outside its bytes. -/
theorem rdMem_wrMem_disjoint (c : Chip) (off n v a m : Nat) (h : a + m ≤ off ∨ off + n ≤ a) : (c.wrMem off n v).rdMem a m = c.rdMem a m := by
  rw [Chip.rdMem, Chip.rdMem, Chip.wrMem_mem]
  congr 1
  apply agetN_congr
  intro k h1 h2
  rw [aget_aputN, bytesOf_length, if_neg (by omega)]

theorem wf_wrMem (c : Chip) (off n v : Nat) (h : Memory.wf c.mem = true) : Memory.wf (c.wrMem off n v).mem = true := wf_aputN c.mem off _ h

theorem wf_claimFrame (c : Chip) (off tag : Nat) (h : Memory.wf c.mem = true) : Memory.wf (c.claimFrame off tag).mem = true := by
  unfold Chip.claimFrame
  simp only
  split
  · exact h
  · exact wf_eraseRange c.mem _ _ h

theorem wf_orEntry (c : Chip) (at_ bit : Nat) (h : Memory.wf c.mem = true) : Memory.wf (c.orEntry at_ bit).mem = true := by
  unfold Chip.orEntry
  split
  exacts [h, wf_wrMem c _ _ _ h]

/-- R386: recording an event changes no byte of memory. -/
@[simp] theorem Chip.emitAt_mem (c : Chip) (time : DWord) (s t : Nat) (id p : DWord) (x : Nat) : (c.emitAt time s t id p x).mem = c.mem := by
  simp only [Chip.emitAt]
  split <;> rfl

@[simp] theorem Chip.emit_mem (c : Chip) (s t : Nat) (id p : DWord) (x : Nat) : (c.emit s t id p x).mem = c.mem := Chip.emitAt_mem c _ s t id p x

@[simp] theorem Chip.emitUnit_mem (c : Chip) (u t : Nat) (p : DWord) (id : Option DWord) : (c.emitUnit u t p id).mem = c.mem := by
  cases id with
  | none => exact Chip.emit_mem ..
  | some _ => exact Chip.emit_mem ..

theorem wf_homeWrite (c : Chip) (line : Nat) (mask : BitVec 64) (d : BitVec 512) (pois : Bool) (id : Option DWord) (h : Memory.wf c.mem = true) :
    Memory.wf (c.homeWrite line mask d pois id).mem = true := by
  unfold Chip.homeWrite
  split
  · exact h
  · simp only
    split
    · exact h
    · split
      · split
        · exact wf_writeMasked _ d _ _ _ _ h
        · rw [Chip.emitUnit_mem]
          exact wf_writeMasked _ d _ _ _ _ h
      · exact wf_writeMasked _ d _ _ _ _ h

end Sys2Proof.Machine
end

