-- ==== Sys2Proof/Laws/State.lean ====
section
/-! SUPPORT. What each update of the state leaves of each part: cores, warps, clusters, gangs and grids read back after a write. -/

namespace Sys2Proof.Machine

open Sys2Proof

theorem Chip.core_setCore (c : Chip) (n m : Nat) (k : Core) : (c.setCore n k).core m = if m = n then k else c.core m := by
  simp [Chip.core, Chip.setCore, aget_aput]

@[simp] theorem Chip.core_setCore_same (c : Chip) (n : Nat) (k : Core) : (c.setCore n k).core n = k := by simp [Chip.core_setCore]

theorem Chip.warp_setWarp (c : Chip) (n s m r : Nat) (w : Option Warp) :
    (c.setWarp n s w).warp m r = if m = n ∧ r = s then w else c.warp m r := by
  simp only [Chip.warp, Chip.setWarp, Chip.core_setCore]
  by_cases h : m = n
  · subst h; simp [aget_aput]
  · simp [h]

@[simp] theorem Chip.warp_setWarp_same (c : Chip) (n s : Nat) (w : Option Warp) : (c.setWarp n s w).warp n s = w := by
  simp [Chip.warp_setWarp]

theorem Chip.cluster_setCluster (c : Chip) (n m : Nat) (k : Cluster) :
    (c.setCluster n k).cluster m = if m = n then k else c.cluster m := by
  simp [Chip.cluster, Chip.setCluster, aget_aput]

@[simp] theorem Chip.cluster_setCluster_same (c : Chip) (n : Nat) (k : Cluster) : (c.setCluster n k).cluster n = k := by
  simp [Chip.cluster_setCluster]

theorem Chip.gang_setGang (c : Chip) (g h : Nat) (k : Gang) : (c.setGang g k).gang h = if h = g then some k else c.gang h := by
  simp [Chip.gang, Chip.setGang, aget_aput]

@[simp] theorem Chip.gang_setGang_same (c : Chip) (g : Nat) (k : Gang) : (c.setGang g k).gang g = some k := by simp [Chip.gang_setGang]

theorem Chip.grid_setGrid (c : Chip) (g h : Nat) (k : Grid) : (c.setGrid g k).grid h = if h = g then some k else c.grid h := by
  simp [Chip.grid, Chip.setGrid, aget_aput]

@[simp] theorem Chip.grid_setGrid_same (c : Chip) (g : Nat) (k : Grid) : (c.setGrid g k).grid g = some k := by simp [Chip.grid_setGrid]

/-- A core with a warp on it is not the core with nothing on it. -/
theorem Core.ne_zero_of_warp (k : Core) (s : Nat) (w : Warp) : { k with warps := aput none k.warps s (some w) } ≠ Core.zero := by
  intro h
  have h1 : aput none k.warps s (some w) = [] := congrArg Core.warps h
  have h2 := aget_aput_same none k.warps s (some w)
  rw [h1] at h2
  simp [aget] at h2

/-- Of two writes of one warp slot the later stays. -/
@[simp] theorem Chip.setWarp_setWarp (c : Chip) (n s : Nat) (v w : Warp) :
    (c.setWarp n s (some v)).setWarp n s (some w) = c.setWarp n s (some w) := by
  have h1 := Core.ne_zero_of_warp (c.core n) s v
  have h2 := Core.ne_zero_of_warp (c.core n) s w
  unfold Chip.setWarp
  rw [Chip.core_setCore_same]
  unfold Chip.setCore
  simp only [aput_aput none (c.core n).warps s (some v) (some w) (by simp) (by simp)]
  rw [aput_aput _ _ _ _ _ h1 h2]

@[simp] theorem Chip.setCore_fuse (c : Chip) (n : Nat) (k : Core) : (c.setCore n k).fuse = c.fuse := rfl
@[simp] theorem Chip.setCore_running (c : Chip) (n : Nat) (k : Core) : (c.setCore n k).running = c.running := rfl
@[simp] theorem Chip.setCore_cycle (c : Chip) (n : Nat) (k : Core) : (c.setCore n k).cycle = c.cycle := rfl
@[simp] theorem Chip.setCore_time (c : Chip) (n : Nat) (k : Core) : (c.setCore n k).time = c.time := rfl
@[simp] theorem Chip.setCore_slewPpm (c : Chip) (n : Nat) (k : Core) : (c.setCore n k).slewPpm = c.slewPpm := rfl
@[simp] theorem Chip.setCore_slewFrac (c : Chip) (n : Nat) (k : Core) : (c.setCore n k).slewFrac = c.slewFrac := rfl
@[simp] theorem Chip.setCore_locked (c : Chip) (n : Nat) (k : Core) : (c.setCore n k).locked = c.locked := rfl
@[simp] theorem Chip.setCore_offset (c : Chip) (n : Nat) (k : Core) : (c.setCore n k).offset = c.offset := rfl
@[simp] theorem Chip.setCore_clusters (c : Chip) (n : Nat) (k : Core) : (c.setCore n k).clusters = c.clusters := rfl
@[simp] theorem Chip.setCore_mem (c : Chip) (n : Nat) (k : Core) : (c.setCore n k).mem = c.mem := rfl
@[simp] theorem Chip.setCore_hostMem (c : Chip) (n : Nat) (k : Core) : (c.setCore n k).hostMem = c.hostMem := rfl
@[simp] theorem Chip.setCore_pois (c : Chip) (n : Nat) (k : Core) : (c.setCore n k).pois = c.pois := rfl
@[simp] theorem Chip.setCore_owner (c : Chip) (n : Nat) (k : Core) : (c.setCore n k).owner = c.owner := rfl
@[simp] theorem Chip.setCore_memBars (c : Chip) (n : Nat) (k : Core) : (c.setCore n k).memBars = c.memBars := rfl
@[simp] theorem Chip.setCore_intents (c : Chip) (n : Nat) (k : Core) : (c.setCore n k).intents = c.intents := rfl
@[simp] theorem Chip.setCore_filter (c : Chip) (n : Nat) (k : Core) : (c.setCore n k).filter = c.filter := rfl
@[simp] theorem Chip.setCore_dir (c : Chip) (n : Nat) (k : Core) : (c.setCore n k).dir = c.dir := rfl
@[simp] theorem Chip.setCore_mc (c : Chip) (n : Nat) (k : Core) : (c.setCore n k).mc = c.mc := rfl
@[simp] theorem Chip.setCore_staged (c : Chip) (n : Nat) (k : Core) : (c.setCore n k).staged = c.staged := rfl
@[simp] theorem Chip.setCore_sliceWaits (c : Chip) (n : Nat) (k : Core) : (c.setCore n k).sliceWaits = c.sliceWaits := rfl
@[simp] theorem Chip.setCore_drawn (c : Chip) (n : Nat) (k : Core) : (c.setCore n k).drawn = c.drawn := rfl
@[simp] theorem Chip.setCore_cleared (c : Chip) (n : Nat) (k : Core) : (c.setCore n k).cleared = c.cleared := rfl
@[simp] theorem Chip.setCore_moving (c : Chip) (n : Nat) (k : Core) : (c.setCore n k).moving = c.moving := rfl
@[simp] theorem Chip.setCore_hansoms (c : Chip) (n : Nat) (k : Core) : (c.setCore n k).hansoms = c.hansoms := rfl
@[simp] theorem Chip.setCore_scoreWaits (c : Chip) (n : Nat) (k : Core) : (c.setCore n k).scoreWaits = c.scoreWaits := rfl
@[simp] theorem Chip.setCore_owed (c : Chip) (n : Nat) (k : Core) : (c.setCore n k).owed = c.owed := rfl
@[simp] theorem Chip.setCore_peerRaces (c : Chip) (n : Nat) (k : Core) : (c.setCore n k).peerRaces = c.peerRaces := rfl
@[simp] theorem Chip.setCore_coachGot (c : Chip) (n : Nat) (k : Core) : (c.setCore n k).coachGot = c.coachGot := rfl
@[simp] theorem Chip.setCore_held (c : Chip) (n : Nat) (k : Core) : (c.setCore n k).held = c.held := rfl
@[simp] theorem Chip.setCore_detectors (c : Chip) (n : Nat) (k : Core) : (c.setCore n k).detectors = c.detectors := rfl
@[simp] theorem Chip.setCore_eccCount (c : Chip) (n : Nat) (k : Core) : (c.setCore n k).eccCount = c.eccCount := rfl
@[simp] theorem Chip.setCore_stats (c : Chip) (n : Nat) (k : Core) : (c.setCore n k).stats = c.stats := rfl
@[simp] theorem Chip.setCore_priv (c : Chip) (n : Nat) (k : Core) : (c.setCore n k).priv = c.priv := rfl
@[simp] theorem Chip.setCore_faults (c : Chip) (n : Nat) (k : Core) : (c.setCore n k).faults = c.faults := rfl
@[simp] theorem Chip.setCore_ops (c : Chip) (n : Nat) (k : Core) : (c.setCore n k).ops = c.ops := rfl
@[simp] theorem Chip.setCore_nextOp (c : Chip) (n : Nat) (k : Core) : (c.setCore n k).nextOp = c.nextOp := rfl
@[simp] theorem Chip.setCore_grids (c : Chip) (n : Nat) (k : Core) : (c.setCore n k).grids = c.grids := rfl
@[simp] theorem Chip.setCore_nextGrid (c : Chip) (n : Nat) (k : Core) : (c.setCore n k).nextGrid = c.nextGrid := rfl
@[simp] theorem Chip.setCore_gangs (c : Chip) (n : Nat) (k : Core) : (c.setCore n k).gangs = c.gangs := rfl
@[simp] theorem Chip.setCore_nextGang (c : Chip) (n : Nat) (k : Core) : (c.setCore n k).nextGang = c.nextGang := rfl
@[simp] theorem Chip.setCore_kills (c : Chip) (n : Nat) (k : Core) : (c.setCore n k).kills = c.kills := rfl
@[simp] theorem Chip.setCore_rings (c : Chip) (n : Nat) (k : Core) : (c.setCore n k).rings = c.rings := rfl
@[simp] theorem Chip.setCore_proxies (c : Chip) (n : Nat) (k : Core) : (c.setCore n k).proxies = c.proxies := rfl
@[simp] theorem Chip.setCore_gens (c : Chip) (n : Nat) (k : Core) : (c.setCore n k).gens = c.gens := rfl
@[simp] theorem Chip.setCore_routes (c : Chip) (n : Nat) (k : Core) : (c.setCore n k).routes = c.routes := rfl
@[simp] theorem Chip.setCore_links (c : Chip) (n : Nat) (k : Core) : (c.setCore n k).links = c.links := rfl
@[simp] theorem Chip.setCore_outFlows (c : Chip) (n : Nat) (k : Core) : (c.setCore n k).outFlows = c.outFlows := rfl
@[simp] theorem Chip.setCore_inFlows (c : Chip) (n : Nat) (k : Core) : (c.setCore n k).inFlows = c.inFlows := rfl
@[simp] theorem Chip.setCore_pieces (c : Chip) (n : Nat) (k : Core) : (c.setCore n k).pieces = c.pieces := rfl
@[simp] theorem Chip.setCore_remotes (c : Chip) (n : Nat) (k : Core) : (c.setCore n k).remotes = c.remotes := rfl
@[simp] theorem Chip.setCore_nextReq (c : Chip) (n : Nat) (k : Core) : (c.setCore n k).nextReq = c.nextReq := rfl
@[simp] theorem Chip.setCore_colls (c : Chip) (n : Nat) (k : Core) : (c.setCore n k).colls = c.colls := rfl
@[simp] theorem Chip.setCore_unitSeq (c : Chip) (n : Nat) (k : Core) : (c.setCore n k).unitSeq = c.unitSeq := rfl
@[simp] theorem Chip.setCore_trace (c : Chip) (n : Nat) (k : Core) : (c.setCore n k).trace = c.trace := rfl
@[simp] theorem Chip.setCore_walks (c : Chip) (n : Nat) (k : Core) : (c.setCore n k).walks = c.walks := rfl
@[simp] theorem Chip.setCore_nextWalk (c : Chip) (n : Nat) (k : Core) : (c.setCore n k).nextWalk = c.nextWalk := rfl
@[simp] theorem Chip.setCore_hostOut (c : Chip) (n : Nat) (k : Core) : (c.setCore n k).hostOut = c.hostOut := rfl
@[simp] theorem Chip.setCore_fabricOut (c : Chip) (n : Nat) (k : Core) : (c.setCore n k).fabricOut = c.fabricOut := rfl
@[simp] theorem Chip.setCore_fenced (c : Chip) (n : Nat) (k : Core) : (c.setCore n k).fenced = c.fenced := rfl
@[simp] theorem Chip.setCore_iftGangs (c : Chip) (n : Nat) (k : Core) : (c.setCore n k).iftGangs = c.iftGangs := rfl
@[simp] theorem Chip.setCore_resvFrames (c : Chip) (n : Nat) (k : Core) : (c.setCore n k).resvFrames = c.resvFrames := rfl
@[simp] theorem Chip.setCore_freeSeq (c : Chip) (n : Nat) (k : Core) : (c.setCore n k).freeSeq = c.freeSeq := rfl
@[simp] theorem Chip.setCore_cur (c : Chip) (n : Nat) (k : Core) : (c.setCore n k).cur = c.cur := rfl
@[simp] theorem Chip.setCore_plan (c : Chip) (n : Nat) (k : Core) : (c.setCore n k).plan = c.plan := rfl
@[simp] theorem Chip.setWarp_fuse (c : Chip) (n s : Nat) (w : Option Warp) : (c.setWarp n s w).fuse = c.fuse := rfl
@[simp] theorem Chip.setWarp_running (c : Chip) (n s : Nat) (w : Option Warp) : (c.setWarp n s w).running = c.running := rfl
@[simp] theorem Chip.setWarp_cycle (c : Chip) (n s : Nat) (w : Option Warp) : (c.setWarp n s w).cycle = c.cycle := rfl
@[simp] theorem Chip.setWarp_time (c : Chip) (n s : Nat) (w : Option Warp) : (c.setWarp n s w).time = c.time := rfl
@[simp] theorem Chip.setWarp_slewPpm (c : Chip) (n s : Nat) (w : Option Warp) : (c.setWarp n s w).slewPpm = c.slewPpm := rfl
@[simp] theorem Chip.setWarp_slewFrac (c : Chip) (n s : Nat) (w : Option Warp) : (c.setWarp n s w).slewFrac = c.slewFrac := rfl
@[simp] theorem Chip.setWarp_locked (c : Chip) (n s : Nat) (w : Option Warp) : (c.setWarp n s w).locked = c.locked := rfl
@[simp] theorem Chip.setWarp_offset (c : Chip) (n s : Nat) (w : Option Warp) : (c.setWarp n s w).offset = c.offset := rfl
@[simp] theorem Chip.setWarp_clusters (c : Chip) (n s : Nat) (w : Option Warp) : (c.setWarp n s w).clusters = c.clusters := rfl
@[simp] theorem Chip.setWarp_mem (c : Chip) (n s : Nat) (w : Option Warp) : (c.setWarp n s w).mem = c.mem := rfl
@[simp] theorem Chip.setWarp_hostMem (c : Chip) (n s : Nat) (w : Option Warp) : (c.setWarp n s w).hostMem = c.hostMem := rfl
@[simp] theorem Chip.setWarp_pois (c : Chip) (n s : Nat) (w : Option Warp) : (c.setWarp n s w).pois = c.pois := rfl
@[simp] theorem Chip.setWarp_owner (c : Chip) (n s : Nat) (w : Option Warp) : (c.setWarp n s w).owner = c.owner := rfl
@[simp] theorem Chip.setWarp_memBars (c : Chip) (n s : Nat) (w : Option Warp) : (c.setWarp n s w).memBars = c.memBars := rfl
@[simp] theorem Chip.setWarp_intents (c : Chip) (n s : Nat) (w : Option Warp) : (c.setWarp n s w).intents = c.intents := rfl
@[simp] theorem Chip.setWarp_filter (c : Chip) (n s : Nat) (w : Option Warp) : (c.setWarp n s w).filter = c.filter := rfl
@[simp] theorem Chip.setWarp_dir (c : Chip) (n s : Nat) (w : Option Warp) : (c.setWarp n s w).dir = c.dir := rfl
@[simp] theorem Chip.setWarp_mc (c : Chip) (n s : Nat) (w : Option Warp) : (c.setWarp n s w).mc = c.mc := rfl
@[simp] theorem Chip.setWarp_staged (c : Chip) (n s : Nat) (w : Option Warp) : (c.setWarp n s w).staged = c.staged := rfl
@[simp] theorem Chip.setWarp_sliceWaits (c : Chip) (n s : Nat) (w : Option Warp) : (c.setWarp n s w).sliceWaits = c.sliceWaits := rfl
@[simp] theorem Chip.setWarp_drawn (c : Chip) (n s : Nat) (w : Option Warp) : (c.setWarp n s w).drawn = c.drawn := rfl
@[simp] theorem Chip.setWarp_cleared (c : Chip) (n s : Nat) (w : Option Warp) : (c.setWarp n s w).cleared = c.cleared := rfl
@[simp] theorem Chip.setWarp_moving (c : Chip) (n s : Nat) (w : Option Warp) : (c.setWarp n s w).moving = c.moving := rfl
@[simp] theorem Chip.setWarp_hansoms (c : Chip) (n s : Nat) (w : Option Warp) : (c.setWarp n s w).hansoms = c.hansoms := rfl
@[simp] theorem Chip.setWarp_scoreWaits (c : Chip) (n s : Nat) (w : Option Warp) : (c.setWarp n s w).scoreWaits = c.scoreWaits := rfl
@[simp] theorem Chip.setWarp_owed (c : Chip) (n s : Nat) (w : Option Warp) : (c.setWarp n s w).owed = c.owed := rfl
@[simp] theorem Chip.setWarp_peerRaces (c : Chip) (n s : Nat) (w : Option Warp) : (c.setWarp n s w).peerRaces = c.peerRaces := rfl
@[simp] theorem Chip.setWarp_coachGot (c : Chip) (n s : Nat) (w : Option Warp) : (c.setWarp n s w).coachGot = c.coachGot := rfl
@[simp] theorem Chip.setWarp_held (c : Chip) (n s : Nat) (w : Option Warp) : (c.setWarp n s w).held = c.held := rfl
@[simp] theorem Chip.setWarp_detectors (c : Chip) (n s : Nat) (w : Option Warp) : (c.setWarp n s w).detectors = c.detectors := rfl
@[simp] theorem Chip.setWarp_eccCount (c : Chip) (n s : Nat) (w : Option Warp) : (c.setWarp n s w).eccCount = c.eccCount := rfl
@[simp] theorem Chip.setWarp_stats (c : Chip) (n s : Nat) (w : Option Warp) : (c.setWarp n s w).stats = c.stats := rfl
@[simp] theorem Chip.setWarp_priv (c : Chip) (n s : Nat) (w : Option Warp) : (c.setWarp n s w).priv = c.priv := rfl
@[simp] theorem Chip.setWarp_faults (c : Chip) (n s : Nat) (w : Option Warp) : (c.setWarp n s w).faults = c.faults := rfl
@[simp] theorem Chip.setWarp_ops (c : Chip) (n s : Nat) (w : Option Warp) : (c.setWarp n s w).ops = c.ops := rfl
@[simp] theorem Chip.setWarp_nextOp (c : Chip) (n s : Nat) (w : Option Warp) : (c.setWarp n s w).nextOp = c.nextOp := rfl
@[simp] theorem Chip.setWarp_grids (c : Chip) (n s : Nat) (w : Option Warp) : (c.setWarp n s w).grids = c.grids := rfl
@[simp] theorem Chip.setWarp_nextGrid (c : Chip) (n s : Nat) (w : Option Warp) : (c.setWarp n s w).nextGrid = c.nextGrid := rfl
@[simp] theorem Chip.setWarp_gangs (c : Chip) (n s : Nat) (w : Option Warp) : (c.setWarp n s w).gangs = c.gangs := rfl
@[simp] theorem Chip.setWarp_nextGang (c : Chip) (n s : Nat) (w : Option Warp) : (c.setWarp n s w).nextGang = c.nextGang := rfl
@[simp] theorem Chip.setWarp_kills (c : Chip) (n s : Nat) (w : Option Warp) : (c.setWarp n s w).kills = c.kills := rfl
@[simp] theorem Chip.setWarp_rings (c : Chip) (n s : Nat) (w : Option Warp) : (c.setWarp n s w).rings = c.rings := rfl
@[simp] theorem Chip.setWarp_proxies (c : Chip) (n s : Nat) (w : Option Warp) : (c.setWarp n s w).proxies = c.proxies := rfl
@[simp] theorem Chip.setWarp_gens (c : Chip) (n s : Nat) (w : Option Warp) : (c.setWarp n s w).gens = c.gens := rfl
@[simp] theorem Chip.setWarp_routes (c : Chip) (n s : Nat) (w : Option Warp) : (c.setWarp n s w).routes = c.routes := rfl
@[simp] theorem Chip.setWarp_links (c : Chip) (n s : Nat) (w : Option Warp) : (c.setWarp n s w).links = c.links := rfl
@[simp] theorem Chip.setWarp_outFlows (c : Chip) (n s : Nat) (w : Option Warp) : (c.setWarp n s w).outFlows = c.outFlows := rfl
@[simp] theorem Chip.setWarp_inFlows (c : Chip) (n s : Nat) (w : Option Warp) : (c.setWarp n s w).inFlows = c.inFlows := rfl
@[simp] theorem Chip.setWarp_pieces (c : Chip) (n s : Nat) (w : Option Warp) : (c.setWarp n s w).pieces = c.pieces := rfl
@[simp] theorem Chip.setWarp_remotes (c : Chip) (n s : Nat) (w : Option Warp) : (c.setWarp n s w).remotes = c.remotes := rfl
@[simp] theorem Chip.setWarp_nextReq (c : Chip) (n s : Nat) (w : Option Warp) : (c.setWarp n s w).nextReq = c.nextReq := rfl
@[simp] theorem Chip.setWarp_colls (c : Chip) (n s : Nat) (w : Option Warp) : (c.setWarp n s w).colls = c.colls := rfl
@[simp] theorem Chip.setWarp_unitSeq (c : Chip) (n s : Nat) (w : Option Warp) : (c.setWarp n s w).unitSeq = c.unitSeq := rfl
@[simp] theorem Chip.setWarp_trace (c : Chip) (n s : Nat) (w : Option Warp) : (c.setWarp n s w).trace = c.trace := rfl
@[simp] theorem Chip.setWarp_walks (c : Chip) (n s : Nat) (w : Option Warp) : (c.setWarp n s w).walks = c.walks := rfl
@[simp] theorem Chip.setWarp_nextWalk (c : Chip) (n s : Nat) (w : Option Warp) : (c.setWarp n s w).nextWalk = c.nextWalk := rfl
@[simp] theorem Chip.setWarp_hostOut (c : Chip) (n s : Nat) (w : Option Warp) : (c.setWarp n s w).hostOut = c.hostOut := rfl
@[simp] theorem Chip.setWarp_fabricOut (c : Chip) (n s : Nat) (w : Option Warp) : (c.setWarp n s w).fabricOut = c.fabricOut := rfl
@[simp] theorem Chip.setWarp_fenced (c : Chip) (n s : Nat) (w : Option Warp) : (c.setWarp n s w).fenced = c.fenced := rfl
@[simp] theorem Chip.setWarp_iftGangs (c : Chip) (n s : Nat) (w : Option Warp) : (c.setWarp n s w).iftGangs = c.iftGangs := rfl
@[simp] theorem Chip.setWarp_resvFrames (c : Chip) (n s : Nat) (w : Option Warp) : (c.setWarp n s w).resvFrames = c.resvFrames := rfl
@[simp] theorem Chip.setWarp_freeSeq (c : Chip) (n s : Nat) (w : Option Warp) : (c.setWarp n s w).freeSeq = c.freeSeq := rfl
@[simp] theorem Chip.setWarp_cur (c : Chip) (n s : Nat) (w : Option Warp) : (c.setWarp n s w).cur = c.cur := rfl
@[simp] theorem Chip.setWarp_plan (c : Chip) (n s : Nat) (w : Option Warp) : (c.setWarp n s w).plan = c.plan := rfl
@[simp] theorem Chip.setMat_fuse (c : Chip) (n : Nat) (m : Mat) : (c.setMat n m).fuse = c.fuse := rfl
@[simp] theorem Chip.setMat_running (c : Chip) (n : Nat) (m : Mat) : (c.setMat n m).running = c.running := rfl
@[simp] theorem Chip.setMat_cycle (c : Chip) (n : Nat) (m : Mat) : (c.setMat n m).cycle = c.cycle := rfl
@[simp] theorem Chip.setMat_time (c : Chip) (n : Nat) (m : Mat) : (c.setMat n m).time = c.time := rfl
@[simp] theorem Chip.setMat_slewPpm (c : Chip) (n : Nat) (m : Mat) : (c.setMat n m).slewPpm = c.slewPpm := rfl
@[simp] theorem Chip.setMat_slewFrac (c : Chip) (n : Nat) (m : Mat) : (c.setMat n m).slewFrac = c.slewFrac := rfl
@[simp] theorem Chip.setMat_locked (c : Chip) (n : Nat) (m : Mat) : (c.setMat n m).locked = c.locked := rfl
@[simp] theorem Chip.setMat_offset (c : Chip) (n : Nat) (m : Mat) : (c.setMat n m).offset = c.offset := rfl
@[simp] theorem Chip.setMat_clusters (c : Chip) (n : Nat) (m : Mat) : (c.setMat n m).clusters = c.clusters := rfl
@[simp] theorem Chip.setMat_mem (c : Chip) (n : Nat) (m : Mat) : (c.setMat n m).mem = c.mem := rfl
@[simp] theorem Chip.setMat_hostMem (c : Chip) (n : Nat) (m : Mat) : (c.setMat n m).hostMem = c.hostMem := rfl
@[simp] theorem Chip.setMat_pois (c : Chip) (n : Nat) (m : Mat) : (c.setMat n m).pois = c.pois := rfl
@[simp] theorem Chip.setMat_owner (c : Chip) (n : Nat) (m : Mat) : (c.setMat n m).owner = c.owner := rfl
@[simp] theorem Chip.setMat_memBars (c : Chip) (n : Nat) (m : Mat) : (c.setMat n m).memBars = c.memBars := rfl
@[simp] theorem Chip.setMat_intents (c : Chip) (n : Nat) (m : Mat) : (c.setMat n m).intents = c.intents := rfl
@[simp] theorem Chip.setMat_filter (c : Chip) (n : Nat) (m : Mat) : (c.setMat n m).filter = c.filter := rfl
@[simp] theorem Chip.setMat_dir (c : Chip) (n : Nat) (m : Mat) : (c.setMat n m).dir = c.dir := rfl
@[simp] theorem Chip.setMat_mc (c : Chip) (n : Nat) (m : Mat) : (c.setMat n m).mc = c.mc := rfl
@[simp] theorem Chip.setMat_staged (c : Chip) (n : Nat) (m : Mat) : (c.setMat n m).staged = c.staged := rfl
@[simp] theorem Chip.setMat_sliceWaits (c : Chip) (n : Nat) (m : Mat) : (c.setMat n m).sliceWaits = c.sliceWaits := rfl
@[simp] theorem Chip.setMat_drawn (c : Chip) (n : Nat) (m : Mat) : (c.setMat n m).drawn = c.drawn := rfl
@[simp] theorem Chip.setMat_cleared (c : Chip) (n : Nat) (m : Mat) : (c.setMat n m).cleared = c.cleared := rfl
@[simp] theorem Chip.setMat_moving (c : Chip) (n : Nat) (m : Mat) : (c.setMat n m).moving = c.moving := rfl
@[simp] theorem Chip.setMat_hansoms (c : Chip) (n : Nat) (m : Mat) : (c.setMat n m).hansoms = c.hansoms := rfl
@[simp] theorem Chip.setMat_scoreWaits (c : Chip) (n : Nat) (m : Mat) : (c.setMat n m).scoreWaits = c.scoreWaits := rfl
@[simp] theorem Chip.setMat_owed (c : Chip) (n : Nat) (m : Mat) : (c.setMat n m).owed = c.owed := rfl
@[simp] theorem Chip.setMat_peerRaces (c : Chip) (n : Nat) (m : Mat) : (c.setMat n m).peerRaces = c.peerRaces := rfl
@[simp] theorem Chip.setMat_coachGot (c : Chip) (n : Nat) (m : Mat) : (c.setMat n m).coachGot = c.coachGot := rfl
@[simp] theorem Chip.setMat_held (c : Chip) (n : Nat) (m : Mat) : (c.setMat n m).held = c.held := rfl
@[simp] theorem Chip.setMat_detectors (c : Chip) (n : Nat) (m : Mat) : (c.setMat n m).detectors = c.detectors := rfl
@[simp] theorem Chip.setMat_eccCount (c : Chip) (n : Nat) (m : Mat) : (c.setMat n m).eccCount = c.eccCount := rfl
@[simp] theorem Chip.setMat_stats (c : Chip) (n : Nat) (m : Mat) : (c.setMat n m).stats = c.stats := rfl
@[simp] theorem Chip.setMat_priv (c : Chip) (n : Nat) (m : Mat) : (c.setMat n m).priv = c.priv := rfl
@[simp] theorem Chip.setMat_faults (c : Chip) (n : Nat) (m : Mat) : (c.setMat n m).faults = c.faults := rfl
@[simp] theorem Chip.setMat_ops (c : Chip) (n : Nat) (m : Mat) : (c.setMat n m).ops = c.ops := rfl
@[simp] theorem Chip.setMat_nextOp (c : Chip) (n : Nat) (m : Mat) : (c.setMat n m).nextOp = c.nextOp := rfl
@[simp] theorem Chip.setMat_grids (c : Chip) (n : Nat) (m : Mat) : (c.setMat n m).grids = c.grids := rfl
@[simp] theorem Chip.setMat_nextGrid (c : Chip) (n : Nat) (m : Mat) : (c.setMat n m).nextGrid = c.nextGrid := rfl
@[simp] theorem Chip.setMat_gangs (c : Chip) (n : Nat) (m : Mat) : (c.setMat n m).gangs = c.gangs := rfl
@[simp] theorem Chip.setMat_nextGang (c : Chip) (n : Nat) (m : Mat) : (c.setMat n m).nextGang = c.nextGang := rfl
@[simp] theorem Chip.setMat_kills (c : Chip) (n : Nat) (m : Mat) : (c.setMat n m).kills = c.kills := rfl
@[simp] theorem Chip.setMat_rings (c : Chip) (n : Nat) (m : Mat) : (c.setMat n m).rings = c.rings := rfl
@[simp] theorem Chip.setMat_proxies (c : Chip) (n : Nat) (m : Mat) : (c.setMat n m).proxies = c.proxies := rfl
@[simp] theorem Chip.setMat_gens (c : Chip) (n : Nat) (m : Mat) : (c.setMat n m).gens = c.gens := rfl
@[simp] theorem Chip.setMat_routes (c : Chip) (n : Nat) (m : Mat) : (c.setMat n m).routes = c.routes := rfl
@[simp] theorem Chip.setMat_links (c : Chip) (n : Nat) (m : Mat) : (c.setMat n m).links = c.links := rfl
@[simp] theorem Chip.setMat_outFlows (c : Chip) (n : Nat) (m : Mat) : (c.setMat n m).outFlows = c.outFlows := rfl
@[simp] theorem Chip.setMat_inFlows (c : Chip) (n : Nat) (m : Mat) : (c.setMat n m).inFlows = c.inFlows := rfl
@[simp] theorem Chip.setMat_pieces (c : Chip) (n : Nat) (m : Mat) : (c.setMat n m).pieces = c.pieces := rfl
@[simp] theorem Chip.setMat_remotes (c : Chip) (n : Nat) (m : Mat) : (c.setMat n m).remotes = c.remotes := rfl
@[simp] theorem Chip.setMat_nextReq (c : Chip) (n : Nat) (m : Mat) : (c.setMat n m).nextReq = c.nextReq := rfl
@[simp] theorem Chip.setMat_colls (c : Chip) (n : Nat) (m : Mat) : (c.setMat n m).colls = c.colls := rfl
@[simp] theorem Chip.setMat_unitSeq (c : Chip) (n : Nat) (m : Mat) : (c.setMat n m).unitSeq = c.unitSeq := rfl
@[simp] theorem Chip.setMat_trace (c : Chip) (n : Nat) (m : Mat) : (c.setMat n m).trace = c.trace := rfl
@[simp] theorem Chip.setMat_walks (c : Chip) (n : Nat) (m : Mat) : (c.setMat n m).walks = c.walks := rfl
@[simp] theorem Chip.setMat_nextWalk (c : Chip) (n : Nat) (m : Mat) : (c.setMat n m).nextWalk = c.nextWalk := rfl
@[simp] theorem Chip.setMat_hostOut (c : Chip) (n : Nat) (m : Mat) : (c.setMat n m).hostOut = c.hostOut := rfl
@[simp] theorem Chip.setMat_fabricOut (c : Chip) (n : Nat) (m : Mat) : (c.setMat n m).fabricOut = c.fabricOut := rfl
@[simp] theorem Chip.setMat_fenced (c : Chip) (n : Nat) (m : Mat) : (c.setMat n m).fenced = c.fenced := rfl
@[simp] theorem Chip.setMat_iftGangs (c : Chip) (n : Nat) (m : Mat) : (c.setMat n m).iftGangs = c.iftGangs := rfl
@[simp] theorem Chip.setMat_resvFrames (c : Chip) (n : Nat) (m : Mat) : (c.setMat n m).resvFrames = c.resvFrames := rfl
@[simp] theorem Chip.setMat_freeSeq (c : Chip) (n : Nat) (m : Mat) : (c.setMat n m).freeSeq = c.freeSeq := rfl
@[simp] theorem Chip.setMat_cur (c : Chip) (n : Nat) (m : Mat) : (c.setMat n m).cur = c.cur := rfl
@[simp] theorem Chip.setMat_plan (c : Chip) (n : Nat) (m : Mat) : (c.setMat n m).plan = c.plan := rfl
@[simp] theorem Chip.setDray_fuse (c : Chip) (n : Nat) (d : Dray) : (c.setDray n d).fuse = c.fuse := rfl
@[simp] theorem Chip.setDray_running (c : Chip) (n : Nat) (d : Dray) : (c.setDray n d).running = c.running := rfl
@[simp] theorem Chip.setDray_cycle (c : Chip) (n : Nat) (d : Dray) : (c.setDray n d).cycle = c.cycle := rfl
@[simp] theorem Chip.setDray_time (c : Chip) (n : Nat) (d : Dray) : (c.setDray n d).time = c.time := rfl
@[simp] theorem Chip.setDray_slewPpm (c : Chip) (n : Nat) (d : Dray) : (c.setDray n d).slewPpm = c.slewPpm := rfl
@[simp] theorem Chip.setDray_slewFrac (c : Chip) (n : Nat) (d : Dray) : (c.setDray n d).slewFrac = c.slewFrac := rfl
@[simp] theorem Chip.setDray_locked (c : Chip) (n : Nat) (d : Dray) : (c.setDray n d).locked = c.locked := rfl
@[simp] theorem Chip.setDray_offset (c : Chip) (n : Nat) (d : Dray) : (c.setDray n d).offset = c.offset := rfl
@[simp] theorem Chip.setDray_clusters (c : Chip) (n : Nat) (d : Dray) : (c.setDray n d).clusters = c.clusters := rfl
@[simp] theorem Chip.setDray_mem (c : Chip) (n : Nat) (d : Dray) : (c.setDray n d).mem = c.mem := rfl
@[simp] theorem Chip.setDray_hostMem (c : Chip) (n : Nat) (d : Dray) : (c.setDray n d).hostMem = c.hostMem := rfl
@[simp] theorem Chip.setDray_pois (c : Chip) (n : Nat) (d : Dray) : (c.setDray n d).pois = c.pois := rfl
@[simp] theorem Chip.setDray_owner (c : Chip) (n : Nat) (d : Dray) : (c.setDray n d).owner = c.owner := rfl
@[simp] theorem Chip.setDray_memBars (c : Chip) (n : Nat) (d : Dray) : (c.setDray n d).memBars = c.memBars := rfl
@[simp] theorem Chip.setDray_intents (c : Chip) (n : Nat) (d : Dray) : (c.setDray n d).intents = c.intents := rfl
@[simp] theorem Chip.setDray_filter (c : Chip) (n : Nat) (d : Dray) : (c.setDray n d).filter = c.filter := rfl
@[simp] theorem Chip.setDray_dir (c : Chip) (n : Nat) (d : Dray) : (c.setDray n d).dir = c.dir := rfl
@[simp] theorem Chip.setDray_mc (c : Chip) (n : Nat) (d : Dray) : (c.setDray n d).mc = c.mc := rfl
@[simp] theorem Chip.setDray_staged (c : Chip) (n : Nat) (d : Dray) : (c.setDray n d).staged = c.staged := rfl
@[simp] theorem Chip.setDray_sliceWaits (c : Chip) (n : Nat) (d : Dray) : (c.setDray n d).sliceWaits = c.sliceWaits := rfl
@[simp] theorem Chip.setDray_drawn (c : Chip) (n : Nat) (d : Dray) : (c.setDray n d).drawn = c.drawn := rfl
@[simp] theorem Chip.setDray_cleared (c : Chip) (n : Nat) (d : Dray) : (c.setDray n d).cleared = c.cleared := rfl
@[simp] theorem Chip.setDray_moving (c : Chip) (n : Nat) (d : Dray) : (c.setDray n d).moving = c.moving := rfl
@[simp] theorem Chip.setDray_hansoms (c : Chip) (n : Nat) (d : Dray) : (c.setDray n d).hansoms = c.hansoms := rfl
@[simp] theorem Chip.setDray_scoreWaits (c : Chip) (n : Nat) (d : Dray) : (c.setDray n d).scoreWaits = c.scoreWaits := rfl
@[simp] theorem Chip.setDray_owed (c : Chip) (n : Nat) (d : Dray) : (c.setDray n d).owed = c.owed := rfl
@[simp] theorem Chip.setDray_peerRaces (c : Chip) (n : Nat) (d : Dray) : (c.setDray n d).peerRaces = c.peerRaces := rfl
@[simp] theorem Chip.setDray_coachGot (c : Chip) (n : Nat) (d : Dray) : (c.setDray n d).coachGot = c.coachGot := rfl
@[simp] theorem Chip.setDray_held (c : Chip) (n : Nat) (d : Dray) : (c.setDray n d).held = c.held := rfl
@[simp] theorem Chip.setDray_detectors (c : Chip) (n : Nat) (d : Dray) : (c.setDray n d).detectors = c.detectors := rfl
@[simp] theorem Chip.setDray_eccCount (c : Chip) (n : Nat) (d : Dray) : (c.setDray n d).eccCount = c.eccCount := rfl
@[simp] theorem Chip.setDray_stats (c : Chip) (n : Nat) (d : Dray) : (c.setDray n d).stats = c.stats := rfl
@[simp] theorem Chip.setDray_priv (c : Chip) (n : Nat) (d : Dray) : (c.setDray n d).priv = c.priv := rfl
@[simp] theorem Chip.setDray_faults (c : Chip) (n : Nat) (d : Dray) : (c.setDray n d).faults = c.faults := rfl
@[simp] theorem Chip.setDray_ops (c : Chip) (n : Nat) (d : Dray) : (c.setDray n d).ops = c.ops := rfl
@[simp] theorem Chip.setDray_nextOp (c : Chip) (n : Nat) (d : Dray) : (c.setDray n d).nextOp = c.nextOp := rfl
@[simp] theorem Chip.setDray_grids (c : Chip) (n : Nat) (d : Dray) : (c.setDray n d).grids = c.grids := rfl
@[simp] theorem Chip.setDray_nextGrid (c : Chip) (n : Nat) (d : Dray) : (c.setDray n d).nextGrid = c.nextGrid := rfl
@[simp] theorem Chip.setDray_gangs (c : Chip) (n : Nat) (d : Dray) : (c.setDray n d).gangs = c.gangs := rfl
@[simp] theorem Chip.setDray_nextGang (c : Chip) (n : Nat) (d : Dray) : (c.setDray n d).nextGang = c.nextGang := rfl
@[simp] theorem Chip.setDray_kills (c : Chip) (n : Nat) (d : Dray) : (c.setDray n d).kills = c.kills := rfl
@[simp] theorem Chip.setDray_rings (c : Chip) (n : Nat) (d : Dray) : (c.setDray n d).rings = c.rings := rfl
@[simp] theorem Chip.setDray_proxies (c : Chip) (n : Nat) (d : Dray) : (c.setDray n d).proxies = c.proxies := rfl
@[simp] theorem Chip.setDray_gens (c : Chip) (n : Nat) (d : Dray) : (c.setDray n d).gens = c.gens := rfl
@[simp] theorem Chip.setDray_routes (c : Chip) (n : Nat) (d : Dray) : (c.setDray n d).routes = c.routes := rfl
@[simp] theorem Chip.setDray_links (c : Chip) (n : Nat) (d : Dray) : (c.setDray n d).links = c.links := rfl
@[simp] theorem Chip.setDray_outFlows (c : Chip) (n : Nat) (d : Dray) : (c.setDray n d).outFlows = c.outFlows := rfl
@[simp] theorem Chip.setDray_inFlows (c : Chip) (n : Nat) (d : Dray) : (c.setDray n d).inFlows = c.inFlows := rfl
@[simp] theorem Chip.setDray_pieces (c : Chip) (n : Nat) (d : Dray) : (c.setDray n d).pieces = c.pieces := rfl
@[simp] theorem Chip.setDray_remotes (c : Chip) (n : Nat) (d : Dray) : (c.setDray n d).remotes = c.remotes := rfl
@[simp] theorem Chip.setDray_nextReq (c : Chip) (n : Nat) (d : Dray) : (c.setDray n d).nextReq = c.nextReq := rfl
@[simp] theorem Chip.setDray_colls (c : Chip) (n : Nat) (d : Dray) : (c.setDray n d).colls = c.colls := rfl
@[simp] theorem Chip.setDray_unitSeq (c : Chip) (n : Nat) (d : Dray) : (c.setDray n d).unitSeq = c.unitSeq := rfl
@[simp] theorem Chip.setDray_trace (c : Chip) (n : Nat) (d : Dray) : (c.setDray n d).trace = c.trace := rfl
@[simp] theorem Chip.setDray_walks (c : Chip) (n : Nat) (d : Dray) : (c.setDray n d).walks = c.walks := rfl
@[simp] theorem Chip.setDray_nextWalk (c : Chip) (n : Nat) (d : Dray) : (c.setDray n d).nextWalk = c.nextWalk := rfl
@[simp] theorem Chip.setDray_hostOut (c : Chip) (n : Nat) (d : Dray) : (c.setDray n d).hostOut = c.hostOut := rfl
@[simp] theorem Chip.setDray_fabricOut (c : Chip) (n : Nat) (d : Dray) : (c.setDray n d).fabricOut = c.fabricOut := rfl
@[simp] theorem Chip.setDray_fenced (c : Chip) (n : Nat) (d : Dray) : (c.setDray n d).fenced = c.fenced := rfl
@[simp] theorem Chip.setDray_iftGangs (c : Chip) (n : Nat) (d : Dray) : (c.setDray n d).iftGangs = c.iftGangs := rfl
@[simp] theorem Chip.setDray_resvFrames (c : Chip) (n : Nat) (d : Dray) : (c.setDray n d).resvFrames = c.resvFrames := rfl
@[simp] theorem Chip.setDray_freeSeq (c : Chip) (n : Nat) (d : Dray) : (c.setDray n d).freeSeq = c.freeSeq := rfl
@[simp] theorem Chip.setDray_cur (c : Chip) (n : Nat) (d : Dray) : (c.setDray n d).cur = c.cur := rfl
@[simp] theorem Chip.setDray_plan (c : Chip) (n : Nat) (d : Dray) : (c.setDray n d).plan = c.plan := rfl
@[simp] theorem Chip.setCluster_fuse (c : Chip) (n : Nat) (k : Cluster) : (c.setCluster n k).fuse = c.fuse := rfl
@[simp] theorem Chip.setCluster_running (c : Chip) (n : Nat) (k : Cluster) : (c.setCluster n k).running = c.running := rfl
@[simp] theorem Chip.setCluster_cycle (c : Chip) (n : Nat) (k : Cluster) : (c.setCluster n k).cycle = c.cycle := rfl
@[simp] theorem Chip.setCluster_time (c : Chip) (n : Nat) (k : Cluster) : (c.setCluster n k).time = c.time := rfl
@[simp] theorem Chip.setCluster_slewPpm (c : Chip) (n : Nat) (k : Cluster) : (c.setCluster n k).slewPpm = c.slewPpm := rfl
@[simp] theorem Chip.setCluster_slewFrac (c : Chip) (n : Nat) (k : Cluster) : (c.setCluster n k).slewFrac = c.slewFrac := rfl
@[simp] theorem Chip.setCluster_locked (c : Chip) (n : Nat) (k : Cluster) : (c.setCluster n k).locked = c.locked := rfl
@[simp] theorem Chip.setCluster_offset (c : Chip) (n : Nat) (k : Cluster) : (c.setCluster n k).offset = c.offset := rfl
@[simp] theorem Chip.setCluster_cores (c : Chip) (n : Nat) (k : Cluster) : (c.setCluster n k).cores = c.cores := rfl
@[simp] theorem Chip.setCluster_mem (c : Chip) (n : Nat) (k : Cluster) : (c.setCluster n k).mem = c.mem := rfl
@[simp] theorem Chip.setCluster_hostMem (c : Chip) (n : Nat) (k : Cluster) : (c.setCluster n k).hostMem = c.hostMem := rfl
@[simp] theorem Chip.setCluster_pois (c : Chip) (n : Nat) (k : Cluster) : (c.setCluster n k).pois = c.pois := rfl
@[simp] theorem Chip.setCluster_owner (c : Chip) (n : Nat) (k : Cluster) : (c.setCluster n k).owner = c.owner := rfl
@[simp] theorem Chip.setCluster_memBars (c : Chip) (n : Nat) (k : Cluster) : (c.setCluster n k).memBars = c.memBars := rfl
@[simp] theorem Chip.setCluster_intents (c : Chip) (n : Nat) (k : Cluster) : (c.setCluster n k).intents = c.intents := rfl
@[simp] theorem Chip.setCluster_filter (c : Chip) (n : Nat) (k : Cluster) : (c.setCluster n k).filter = c.filter := rfl
@[simp] theorem Chip.setCluster_dir (c : Chip) (n : Nat) (k : Cluster) : (c.setCluster n k).dir = c.dir := rfl
@[simp] theorem Chip.setCluster_mc (c : Chip) (n : Nat) (k : Cluster) : (c.setCluster n k).mc = c.mc := rfl
@[simp] theorem Chip.setCluster_staged (c : Chip) (n : Nat) (k : Cluster) : (c.setCluster n k).staged = c.staged := rfl
@[simp] theorem Chip.setCluster_sliceWaits (c : Chip) (n : Nat) (k : Cluster) : (c.setCluster n k).sliceWaits = c.sliceWaits := rfl
@[simp] theorem Chip.setCluster_drawn (c : Chip) (n : Nat) (k : Cluster) : (c.setCluster n k).drawn = c.drawn := rfl
@[simp] theorem Chip.setCluster_cleared (c : Chip) (n : Nat) (k : Cluster) : (c.setCluster n k).cleared = c.cleared := rfl
@[simp] theorem Chip.setCluster_moving (c : Chip) (n : Nat) (k : Cluster) : (c.setCluster n k).moving = c.moving := rfl
@[simp] theorem Chip.setCluster_hansoms (c : Chip) (n : Nat) (k : Cluster) : (c.setCluster n k).hansoms = c.hansoms := rfl
@[simp] theorem Chip.setCluster_scoreWaits (c : Chip) (n : Nat) (k : Cluster) : (c.setCluster n k).scoreWaits = c.scoreWaits := rfl
@[simp] theorem Chip.setCluster_owed (c : Chip) (n : Nat) (k : Cluster) : (c.setCluster n k).owed = c.owed := rfl
@[simp] theorem Chip.setCluster_peerRaces (c : Chip) (n : Nat) (k : Cluster) : (c.setCluster n k).peerRaces = c.peerRaces := rfl
@[simp] theorem Chip.setCluster_coachGot (c : Chip) (n : Nat) (k : Cluster) : (c.setCluster n k).coachGot = c.coachGot := rfl
@[simp] theorem Chip.setCluster_held (c : Chip) (n : Nat) (k : Cluster) : (c.setCluster n k).held = c.held := rfl
@[simp] theorem Chip.setCluster_detectors (c : Chip) (n : Nat) (k : Cluster) : (c.setCluster n k).detectors = c.detectors := rfl
@[simp] theorem Chip.setCluster_eccCount (c : Chip) (n : Nat) (k : Cluster) : (c.setCluster n k).eccCount = c.eccCount := rfl
@[simp] theorem Chip.setCluster_stats (c : Chip) (n : Nat) (k : Cluster) : (c.setCluster n k).stats = c.stats := rfl
@[simp] theorem Chip.setCluster_priv (c : Chip) (n : Nat) (k : Cluster) : (c.setCluster n k).priv = c.priv := rfl
@[simp] theorem Chip.setCluster_faults (c : Chip) (n : Nat) (k : Cluster) : (c.setCluster n k).faults = c.faults := rfl
@[simp] theorem Chip.setCluster_ops (c : Chip) (n : Nat) (k : Cluster) : (c.setCluster n k).ops = c.ops := rfl
@[simp] theorem Chip.setCluster_nextOp (c : Chip) (n : Nat) (k : Cluster) : (c.setCluster n k).nextOp = c.nextOp := rfl
@[simp] theorem Chip.setCluster_grids (c : Chip) (n : Nat) (k : Cluster) : (c.setCluster n k).grids = c.grids := rfl
@[simp] theorem Chip.setCluster_nextGrid (c : Chip) (n : Nat) (k : Cluster) : (c.setCluster n k).nextGrid = c.nextGrid := rfl
@[simp] theorem Chip.setCluster_gangs (c : Chip) (n : Nat) (k : Cluster) : (c.setCluster n k).gangs = c.gangs := rfl
@[simp] theorem Chip.setCluster_nextGang (c : Chip) (n : Nat) (k : Cluster) : (c.setCluster n k).nextGang = c.nextGang := rfl
@[simp] theorem Chip.setCluster_kills (c : Chip) (n : Nat) (k : Cluster) : (c.setCluster n k).kills = c.kills := rfl
@[simp] theorem Chip.setCluster_rings (c : Chip) (n : Nat) (k : Cluster) : (c.setCluster n k).rings = c.rings := rfl
@[simp] theorem Chip.setCluster_proxies (c : Chip) (n : Nat) (k : Cluster) : (c.setCluster n k).proxies = c.proxies := rfl
@[simp] theorem Chip.setCluster_gens (c : Chip) (n : Nat) (k : Cluster) : (c.setCluster n k).gens = c.gens := rfl
@[simp] theorem Chip.setCluster_routes (c : Chip) (n : Nat) (k : Cluster) : (c.setCluster n k).routes = c.routes := rfl
@[simp] theorem Chip.setCluster_links (c : Chip) (n : Nat) (k : Cluster) : (c.setCluster n k).links = c.links := rfl
@[simp] theorem Chip.setCluster_outFlows (c : Chip) (n : Nat) (k : Cluster) : (c.setCluster n k).outFlows = c.outFlows := rfl
@[simp] theorem Chip.setCluster_inFlows (c : Chip) (n : Nat) (k : Cluster) : (c.setCluster n k).inFlows = c.inFlows := rfl
@[simp] theorem Chip.setCluster_pieces (c : Chip) (n : Nat) (k : Cluster) : (c.setCluster n k).pieces = c.pieces := rfl
@[simp] theorem Chip.setCluster_remotes (c : Chip) (n : Nat) (k : Cluster) : (c.setCluster n k).remotes = c.remotes := rfl
@[simp] theorem Chip.setCluster_nextReq (c : Chip) (n : Nat) (k : Cluster) : (c.setCluster n k).nextReq = c.nextReq := rfl
@[simp] theorem Chip.setCluster_colls (c : Chip) (n : Nat) (k : Cluster) : (c.setCluster n k).colls = c.colls := rfl
@[simp] theorem Chip.setCluster_unitSeq (c : Chip) (n : Nat) (k : Cluster) : (c.setCluster n k).unitSeq = c.unitSeq := rfl
@[simp] theorem Chip.setCluster_trace (c : Chip) (n : Nat) (k : Cluster) : (c.setCluster n k).trace = c.trace := rfl
@[simp] theorem Chip.setCluster_walks (c : Chip) (n : Nat) (k : Cluster) : (c.setCluster n k).walks = c.walks := rfl
@[simp] theorem Chip.setCluster_nextWalk (c : Chip) (n : Nat) (k : Cluster) : (c.setCluster n k).nextWalk = c.nextWalk := rfl
@[simp] theorem Chip.setCluster_hostOut (c : Chip) (n : Nat) (k : Cluster) : (c.setCluster n k).hostOut = c.hostOut := rfl
@[simp] theorem Chip.setCluster_fabricOut (c : Chip) (n : Nat) (k : Cluster) : (c.setCluster n k).fabricOut = c.fabricOut := rfl
@[simp] theorem Chip.setCluster_fenced (c : Chip) (n : Nat) (k : Cluster) : (c.setCluster n k).fenced = c.fenced := rfl
@[simp] theorem Chip.setCluster_iftGangs (c : Chip) (n : Nat) (k : Cluster) : (c.setCluster n k).iftGangs = c.iftGangs := rfl
@[simp] theorem Chip.setCluster_resvFrames (c : Chip) (n : Nat) (k : Cluster) : (c.setCluster n k).resvFrames = c.resvFrames := rfl
@[simp] theorem Chip.setCluster_freeSeq (c : Chip) (n : Nat) (k : Cluster) : (c.setCluster n k).freeSeq = c.freeSeq := rfl
@[simp] theorem Chip.setCluster_cur (c : Chip) (n : Nat) (k : Cluster) : (c.setCluster n k).cur = c.cur := rfl
@[simp] theorem Chip.setCluster_plan (c : Chip) (n : Nat) (k : Cluster) : (c.setCluster n k).plan = c.plan := rfl
@[simp] theorem Chip.setGang_fuse (c : Chip) (g : Nat) (k : Gang) : (c.setGang g k).fuse = c.fuse := rfl
@[simp] theorem Chip.setGang_running (c : Chip) (g : Nat) (k : Gang) : (c.setGang g k).running = c.running := rfl
@[simp] theorem Chip.setGang_cycle (c : Chip) (g : Nat) (k : Gang) : (c.setGang g k).cycle = c.cycle := rfl
@[simp] theorem Chip.setGang_time (c : Chip) (g : Nat) (k : Gang) : (c.setGang g k).time = c.time := rfl
@[simp] theorem Chip.setGang_slewPpm (c : Chip) (g : Nat) (k : Gang) : (c.setGang g k).slewPpm = c.slewPpm := rfl
@[simp] theorem Chip.setGang_slewFrac (c : Chip) (g : Nat) (k : Gang) : (c.setGang g k).slewFrac = c.slewFrac := rfl
@[simp] theorem Chip.setGang_locked (c : Chip) (g : Nat) (k : Gang) : (c.setGang g k).locked = c.locked := rfl
@[simp] theorem Chip.setGang_offset (c : Chip) (g : Nat) (k : Gang) : (c.setGang g k).offset = c.offset := rfl
@[simp] theorem Chip.setGang_cores (c : Chip) (g : Nat) (k : Gang) : (c.setGang g k).cores = c.cores := rfl
@[simp] theorem Chip.setGang_clusters (c : Chip) (g : Nat) (k : Gang) : (c.setGang g k).clusters = c.clusters := rfl
@[simp] theorem Chip.setGang_mem (c : Chip) (g : Nat) (k : Gang) : (c.setGang g k).mem = c.mem := rfl
@[simp] theorem Chip.setGang_hostMem (c : Chip) (g : Nat) (k : Gang) : (c.setGang g k).hostMem = c.hostMem := rfl
@[simp] theorem Chip.setGang_pois (c : Chip) (g : Nat) (k : Gang) : (c.setGang g k).pois = c.pois := rfl
@[simp] theorem Chip.setGang_owner (c : Chip) (g : Nat) (k : Gang) : (c.setGang g k).owner = c.owner := rfl
@[simp] theorem Chip.setGang_memBars (c : Chip) (g : Nat) (k : Gang) : (c.setGang g k).memBars = c.memBars := rfl
@[simp] theorem Chip.setGang_intents (c : Chip) (g : Nat) (k : Gang) : (c.setGang g k).intents = c.intents := rfl
@[simp] theorem Chip.setGang_filter (c : Chip) (g : Nat) (k : Gang) : (c.setGang g k).filter = c.filter := rfl
@[simp] theorem Chip.setGang_dir (c : Chip) (g : Nat) (k : Gang) : (c.setGang g k).dir = c.dir := rfl
@[simp] theorem Chip.setGang_mc (c : Chip) (g : Nat) (k : Gang) : (c.setGang g k).mc = c.mc := rfl
@[simp] theorem Chip.setGang_staged (c : Chip) (g : Nat) (k : Gang) : (c.setGang g k).staged = c.staged := rfl
@[simp] theorem Chip.setGang_sliceWaits (c : Chip) (g : Nat) (k : Gang) : (c.setGang g k).sliceWaits = c.sliceWaits := rfl
@[simp] theorem Chip.setGang_drawn (c : Chip) (g : Nat) (k : Gang) : (c.setGang g k).drawn = c.drawn := rfl
@[simp] theorem Chip.setGang_cleared (c : Chip) (g : Nat) (k : Gang) : (c.setGang g k).cleared = c.cleared := rfl
@[simp] theorem Chip.setGang_moving (c : Chip) (g : Nat) (k : Gang) : (c.setGang g k).moving = c.moving := rfl
@[simp] theorem Chip.setGang_hansoms (c : Chip) (g : Nat) (k : Gang) : (c.setGang g k).hansoms = c.hansoms := rfl
@[simp] theorem Chip.setGang_scoreWaits (c : Chip) (g : Nat) (k : Gang) : (c.setGang g k).scoreWaits = c.scoreWaits := rfl
@[simp] theorem Chip.setGang_owed (c : Chip) (g : Nat) (k : Gang) : (c.setGang g k).owed = c.owed := rfl
@[simp] theorem Chip.setGang_peerRaces (c : Chip) (g : Nat) (k : Gang) : (c.setGang g k).peerRaces = c.peerRaces := rfl
@[simp] theorem Chip.setGang_coachGot (c : Chip) (g : Nat) (k : Gang) : (c.setGang g k).coachGot = c.coachGot := rfl
@[simp] theorem Chip.setGang_held (c : Chip) (g : Nat) (k : Gang) : (c.setGang g k).held = c.held := rfl
@[simp] theorem Chip.setGang_detectors (c : Chip) (g : Nat) (k : Gang) : (c.setGang g k).detectors = c.detectors := rfl
@[simp] theorem Chip.setGang_eccCount (c : Chip) (g : Nat) (k : Gang) : (c.setGang g k).eccCount = c.eccCount := rfl
@[simp] theorem Chip.setGang_stats (c : Chip) (g : Nat) (k : Gang) : (c.setGang g k).stats = c.stats := rfl
@[simp] theorem Chip.setGang_priv (c : Chip) (g : Nat) (k : Gang) : (c.setGang g k).priv = c.priv := rfl
@[simp] theorem Chip.setGang_faults (c : Chip) (g : Nat) (k : Gang) : (c.setGang g k).faults = c.faults := rfl
@[simp] theorem Chip.setGang_ops (c : Chip) (g : Nat) (k : Gang) : (c.setGang g k).ops = c.ops := rfl
@[simp] theorem Chip.setGang_nextOp (c : Chip) (g : Nat) (k : Gang) : (c.setGang g k).nextOp = c.nextOp := rfl
@[simp] theorem Chip.setGang_grids (c : Chip) (g : Nat) (k : Gang) : (c.setGang g k).grids = c.grids := rfl
@[simp] theorem Chip.setGang_nextGrid (c : Chip) (g : Nat) (k : Gang) : (c.setGang g k).nextGrid = c.nextGrid := rfl
@[simp] theorem Chip.setGang_nextGang (c : Chip) (g : Nat) (k : Gang) : (c.setGang g k).nextGang = c.nextGang := rfl
@[simp] theorem Chip.setGang_kills (c : Chip) (g : Nat) (k : Gang) : (c.setGang g k).kills = c.kills := rfl
@[simp] theorem Chip.setGang_rings (c : Chip) (g : Nat) (k : Gang) : (c.setGang g k).rings = c.rings := rfl
@[simp] theorem Chip.setGang_proxies (c : Chip) (g : Nat) (k : Gang) : (c.setGang g k).proxies = c.proxies := rfl
@[simp] theorem Chip.setGang_gens (c : Chip) (g : Nat) (k : Gang) : (c.setGang g k).gens = c.gens := rfl
@[simp] theorem Chip.setGang_routes (c : Chip) (g : Nat) (k : Gang) : (c.setGang g k).routes = c.routes := rfl
@[simp] theorem Chip.setGang_links (c : Chip) (g : Nat) (k : Gang) : (c.setGang g k).links = c.links := rfl
@[simp] theorem Chip.setGang_outFlows (c : Chip) (g : Nat) (k : Gang) : (c.setGang g k).outFlows = c.outFlows := rfl
@[simp] theorem Chip.setGang_inFlows (c : Chip) (g : Nat) (k : Gang) : (c.setGang g k).inFlows = c.inFlows := rfl
@[simp] theorem Chip.setGang_pieces (c : Chip) (g : Nat) (k : Gang) : (c.setGang g k).pieces = c.pieces := rfl
@[simp] theorem Chip.setGang_remotes (c : Chip) (g : Nat) (k : Gang) : (c.setGang g k).remotes = c.remotes := rfl
@[simp] theorem Chip.setGang_nextReq (c : Chip) (g : Nat) (k : Gang) : (c.setGang g k).nextReq = c.nextReq := rfl
@[simp] theorem Chip.setGang_colls (c : Chip) (g : Nat) (k : Gang) : (c.setGang g k).colls = c.colls := rfl
@[simp] theorem Chip.setGang_unitSeq (c : Chip) (g : Nat) (k : Gang) : (c.setGang g k).unitSeq = c.unitSeq := rfl
@[simp] theorem Chip.setGang_trace (c : Chip) (g : Nat) (k : Gang) : (c.setGang g k).trace = c.trace := rfl
@[simp] theorem Chip.setGang_walks (c : Chip) (g : Nat) (k : Gang) : (c.setGang g k).walks = c.walks := rfl
@[simp] theorem Chip.setGang_nextWalk (c : Chip) (g : Nat) (k : Gang) : (c.setGang g k).nextWalk = c.nextWalk := rfl
@[simp] theorem Chip.setGang_hostOut (c : Chip) (g : Nat) (k : Gang) : (c.setGang g k).hostOut = c.hostOut := rfl
@[simp] theorem Chip.setGang_fabricOut (c : Chip) (g : Nat) (k : Gang) : (c.setGang g k).fabricOut = c.fabricOut := rfl
@[simp] theorem Chip.setGang_fenced (c : Chip) (g : Nat) (k : Gang) : (c.setGang g k).fenced = c.fenced := rfl
@[simp] theorem Chip.setGang_iftGangs (c : Chip) (g : Nat) (k : Gang) : (c.setGang g k).iftGangs = c.iftGangs := rfl
@[simp] theorem Chip.setGang_resvFrames (c : Chip) (g : Nat) (k : Gang) : (c.setGang g k).resvFrames = c.resvFrames := rfl
@[simp] theorem Chip.setGang_freeSeq (c : Chip) (g : Nat) (k : Gang) : (c.setGang g k).freeSeq = c.freeSeq := rfl
@[simp] theorem Chip.setGang_cur (c : Chip) (g : Nat) (k : Gang) : (c.setGang g k).cur = c.cur := rfl
@[simp] theorem Chip.setGang_plan (c : Chip) (g : Nat) (k : Gang) : (c.setGang g k).plan = c.plan := rfl
@[simp] theorem Chip.setGrid_fuse (c : Chip) (g : Nat) (k : Grid) : (c.setGrid g k).fuse = c.fuse := rfl
@[simp] theorem Chip.setGrid_running (c : Chip) (g : Nat) (k : Grid) : (c.setGrid g k).running = c.running := rfl
@[simp] theorem Chip.setGrid_cycle (c : Chip) (g : Nat) (k : Grid) : (c.setGrid g k).cycle = c.cycle := rfl
@[simp] theorem Chip.setGrid_time (c : Chip) (g : Nat) (k : Grid) : (c.setGrid g k).time = c.time := rfl
@[simp] theorem Chip.setGrid_slewPpm (c : Chip) (g : Nat) (k : Grid) : (c.setGrid g k).slewPpm = c.slewPpm := rfl
@[simp] theorem Chip.setGrid_slewFrac (c : Chip) (g : Nat) (k : Grid) : (c.setGrid g k).slewFrac = c.slewFrac := rfl
@[simp] theorem Chip.setGrid_locked (c : Chip) (g : Nat) (k : Grid) : (c.setGrid g k).locked = c.locked := rfl
@[simp] theorem Chip.setGrid_offset (c : Chip) (g : Nat) (k : Grid) : (c.setGrid g k).offset = c.offset := rfl
@[simp] theorem Chip.setGrid_cores (c : Chip) (g : Nat) (k : Grid) : (c.setGrid g k).cores = c.cores := rfl
@[simp] theorem Chip.setGrid_clusters (c : Chip) (g : Nat) (k : Grid) : (c.setGrid g k).clusters = c.clusters := rfl
@[simp] theorem Chip.setGrid_mem (c : Chip) (g : Nat) (k : Grid) : (c.setGrid g k).mem = c.mem := rfl
@[simp] theorem Chip.setGrid_hostMem (c : Chip) (g : Nat) (k : Grid) : (c.setGrid g k).hostMem = c.hostMem := rfl
@[simp] theorem Chip.setGrid_pois (c : Chip) (g : Nat) (k : Grid) : (c.setGrid g k).pois = c.pois := rfl
@[simp] theorem Chip.setGrid_owner (c : Chip) (g : Nat) (k : Grid) : (c.setGrid g k).owner = c.owner := rfl
@[simp] theorem Chip.setGrid_memBars (c : Chip) (g : Nat) (k : Grid) : (c.setGrid g k).memBars = c.memBars := rfl
@[simp] theorem Chip.setGrid_intents (c : Chip) (g : Nat) (k : Grid) : (c.setGrid g k).intents = c.intents := rfl
@[simp] theorem Chip.setGrid_filter (c : Chip) (g : Nat) (k : Grid) : (c.setGrid g k).filter = c.filter := rfl
@[simp] theorem Chip.setGrid_dir (c : Chip) (g : Nat) (k : Grid) : (c.setGrid g k).dir = c.dir := rfl
@[simp] theorem Chip.setGrid_mc (c : Chip) (g : Nat) (k : Grid) : (c.setGrid g k).mc = c.mc := rfl
@[simp] theorem Chip.setGrid_staged (c : Chip) (g : Nat) (k : Grid) : (c.setGrid g k).staged = c.staged := rfl
@[simp] theorem Chip.setGrid_sliceWaits (c : Chip) (g : Nat) (k : Grid) : (c.setGrid g k).sliceWaits = c.sliceWaits := rfl
@[simp] theorem Chip.setGrid_drawn (c : Chip) (g : Nat) (k : Grid) : (c.setGrid g k).drawn = c.drawn := rfl
@[simp] theorem Chip.setGrid_cleared (c : Chip) (g : Nat) (k : Grid) : (c.setGrid g k).cleared = c.cleared := rfl
@[simp] theorem Chip.setGrid_moving (c : Chip) (g : Nat) (k : Grid) : (c.setGrid g k).moving = c.moving := rfl
@[simp] theorem Chip.setGrid_hansoms (c : Chip) (g : Nat) (k : Grid) : (c.setGrid g k).hansoms = c.hansoms := rfl
@[simp] theorem Chip.setGrid_scoreWaits (c : Chip) (g : Nat) (k : Grid) : (c.setGrid g k).scoreWaits = c.scoreWaits := rfl
@[simp] theorem Chip.setGrid_owed (c : Chip) (g : Nat) (k : Grid) : (c.setGrid g k).owed = c.owed := rfl
@[simp] theorem Chip.setGrid_peerRaces (c : Chip) (g : Nat) (k : Grid) : (c.setGrid g k).peerRaces = c.peerRaces := rfl
@[simp] theorem Chip.setGrid_coachGot (c : Chip) (g : Nat) (k : Grid) : (c.setGrid g k).coachGot = c.coachGot := rfl
@[simp] theorem Chip.setGrid_held (c : Chip) (g : Nat) (k : Grid) : (c.setGrid g k).held = c.held := rfl
@[simp] theorem Chip.setGrid_detectors (c : Chip) (g : Nat) (k : Grid) : (c.setGrid g k).detectors = c.detectors := rfl
@[simp] theorem Chip.setGrid_eccCount (c : Chip) (g : Nat) (k : Grid) : (c.setGrid g k).eccCount = c.eccCount := rfl
@[simp] theorem Chip.setGrid_stats (c : Chip) (g : Nat) (k : Grid) : (c.setGrid g k).stats = c.stats := rfl
@[simp] theorem Chip.setGrid_priv (c : Chip) (g : Nat) (k : Grid) : (c.setGrid g k).priv = c.priv := rfl
@[simp] theorem Chip.setGrid_faults (c : Chip) (g : Nat) (k : Grid) : (c.setGrid g k).faults = c.faults := rfl
@[simp] theorem Chip.setGrid_ops (c : Chip) (g : Nat) (k : Grid) : (c.setGrid g k).ops = c.ops := rfl
@[simp] theorem Chip.setGrid_nextOp (c : Chip) (g : Nat) (k : Grid) : (c.setGrid g k).nextOp = c.nextOp := rfl
@[simp] theorem Chip.setGrid_nextGrid (c : Chip) (g : Nat) (k : Grid) : (c.setGrid g k).nextGrid = c.nextGrid := rfl
@[simp] theorem Chip.setGrid_gangs (c : Chip) (g : Nat) (k : Grid) : (c.setGrid g k).gangs = c.gangs := rfl
@[simp] theorem Chip.setGrid_nextGang (c : Chip) (g : Nat) (k : Grid) : (c.setGrid g k).nextGang = c.nextGang := rfl
@[simp] theorem Chip.setGrid_kills (c : Chip) (g : Nat) (k : Grid) : (c.setGrid g k).kills = c.kills := rfl
@[simp] theorem Chip.setGrid_rings (c : Chip) (g : Nat) (k : Grid) : (c.setGrid g k).rings = c.rings := rfl
@[simp] theorem Chip.setGrid_proxies (c : Chip) (g : Nat) (k : Grid) : (c.setGrid g k).proxies = c.proxies := rfl
@[simp] theorem Chip.setGrid_gens (c : Chip) (g : Nat) (k : Grid) : (c.setGrid g k).gens = c.gens := rfl
@[simp] theorem Chip.setGrid_routes (c : Chip) (g : Nat) (k : Grid) : (c.setGrid g k).routes = c.routes := rfl
@[simp] theorem Chip.setGrid_links (c : Chip) (g : Nat) (k : Grid) : (c.setGrid g k).links = c.links := rfl
@[simp] theorem Chip.setGrid_outFlows (c : Chip) (g : Nat) (k : Grid) : (c.setGrid g k).outFlows = c.outFlows := rfl
@[simp] theorem Chip.setGrid_inFlows (c : Chip) (g : Nat) (k : Grid) : (c.setGrid g k).inFlows = c.inFlows := rfl
@[simp] theorem Chip.setGrid_pieces (c : Chip) (g : Nat) (k : Grid) : (c.setGrid g k).pieces = c.pieces := rfl
@[simp] theorem Chip.setGrid_remotes (c : Chip) (g : Nat) (k : Grid) : (c.setGrid g k).remotes = c.remotes := rfl
@[simp] theorem Chip.setGrid_nextReq (c : Chip) (g : Nat) (k : Grid) : (c.setGrid g k).nextReq = c.nextReq := rfl
@[simp] theorem Chip.setGrid_colls (c : Chip) (g : Nat) (k : Grid) : (c.setGrid g k).colls = c.colls := rfl
@[simp] theorem Chip.setGrid_unitSeq (c : Chip) (g : Nat) (k : Grid) : (c.setGrid g k).unitSeq = c.unitSeq := rfl
@[simp] theorem Chip.setGrid_trace (c : Chip) (g : Nat) (k : Grid) : (c.setGrid g k).trace = c.trace := rfl
@[simp] theorem Chip.setGrid_walks (c : Chip) (g : Nat) (k : Grid) : (c.setGrid g k).walks = c.walks := rfl
@[simp] theorem Chip.setGrid_nextWalk (c : Chip) (g : Nat) (k : Grid) : (c.setGrid g k).nextWalk = c.nextWalk := rfl
@[simp] theorem Chip.setGrid_hostOut (c : Chip) (g : Nat) (k : Grid) : (c.setGrid g k).hostOut = c.hostOut := rfl
@[simp] theorem Chip.setGrid_fabricOut (c : Chip) (g : Nat) (k : Grid) : (c.setGrid g k).fabricOut = c.fabricOut := rfl
@[simp] theorem Chip.setGrid_fenced (c : Chip) (g : Nat) (k : Grid) : (c.setGrid g k).fenced = c.fenced := rfl
@[simp] theorem Chip.setGrid_iftGangs (c : Chip) (g : Nat) (k : Grid) : (c.setGrid g k).iftGangs = c.iftGangs := rfl
@[simp] theorem Chip.setGrid_resvFrames (c : Chip) (g : Nat) (k : Grid) : (c.setGrid g k).resvFrames = c.resvFrames := rfl
@[simp] theorem Chip.setGrid_freeSeq (c : Chip) (g : Nat) (k : Grid) : (c.setGrid g k).freeSeq = c.freeSeq := rfl
@[simp] theorem Chip.setGrid_cur (c : Chip) (g : Nat) (k : Grid) : (c.setGrid g k).cur = c.cur := rfl
@[simp] theorem Chip.setGrid_plan (c : Chip) (g : Nat) (k : Grid) : (c.setGrid g k).plan = c.plan := rfl

@[simp] theorem Chip.core_setCluster (c : Chip) (n m : Nat) (k : Cluster) : (c.setCluster n k).core m = c.core m := rfl
@[simp] theorem Chip.core_setGang (c : Chip) (g m : Nat) (k : Gang) : (c.setGang g k).core m = c.core m := rfl
@[simp] theorem Chip.core_setGrid (c : Chip) (g m : Nat) (k : Grid) : (c.setGrid g k).core m = c.core m := rfl
@[simp] theorem Chip.cluster_setCore (c : Chip) (n m : Nat) (k : Core) : (c.setCore n k).cluster m = c.cluster m := rfl
@[simp] theorem Chip.cluster_setWarp (c : Chip) (n s m : Nat) (w : Option Warp) : (c.setWarp n s w).cluster m = c.cluster m := rfl
@[simp] theorem Chip.gang_setCore (c : Chip) (n g : Nat) (k : Core) : (c.setCore n k).gang g = c.gang g := rfl
@[simp] theorem Chip.gang_setWarp (c : Chip) (n s g : Nat) (w : Option Warp) : (c.setWarp n s w).gang g = c.gang g := rfl
@[simp] theorem Chip.gang_setCluster (c : Chip) (n g : Nat) (k : Cluster) : (c.setCluster n k).gang g = c.gang g := rfl
@[simp] theorem Chip.grid_setCore (c : Chip) (n g : Nat) (k : Core) : (c.setCore n k).grid g = c.grid g := rfl
@[simp] theorem Chip.grid_setWarp (c : Chip) (n s g : Nat) (w : Option Warp) : (c.setWarp n s w).grid g = c.grid g := rfl
@[simp] theorem Chip.grid_setGang (c : Chip) (g h : Nat) (k : Gang) : (c.setGang g k).grid h = c.grid h := rfl

end Sys2Proof.Machine
end

