-- ==== Sys2Proof/Laws/Operands.lean ====
section
/-! SUPPORT. The operands of a lane instruction: reading registers after a write, what `prep` answers where the instruction may execute,
what `aluOp` and `crossOp` leave. -/

namespace Sys2Proof.Machine

open Sys2Proof

theorem lowestField_none (l : List (Nat × Bool × Nat)) (h : ∀ k ∈ l, k.2.1 = false) : lowestField l = none := by
  induction l with
  | nil => rfl
  | cons p r ih =>
    obtain ⟨f, bad, code⟩ := p
    have h1 : bad = false := h (f, bad, code) (by simp)
    simp [lowestField, ih (fun k hk => h k (by simp [hk])), h1]

theorem firstLane_none {α : Type} (f : Nat → Option α) (ls : List Nat) (h : ∀ l ∈ ls, f l = none) : firstLane f ls = none := by
  induction ls with
  | nil => rfl
  | cons a r ih => simp [firstLane, h a (by simp), ih (fun l hl => h l (by simp [hl]))]

/-- The place, the warp and the lanes of an instruction whose operands let it execute. -/
def Form.prepared (f : Form) (i : Issue) (core slot : Nat) (w : Warp) : Prep :=
  { core := core, slot := slot, w := w, exec := f.computing i w, wr := f.reached i w, act := f.active i w, once := f.once, bad := none }

/-- No active lane's operands fault where they lie in the allocation and carry no mark. -/
theorem laneFault_none {f : Form} {i : Issue} {w : Warp} (hin : ∀ l ∈ lanesOf (f.active i w), ∀ r ∈ f.srcs, r.okIn w l = true)
    (hc : f.clean i w) (l : Nat) (h : l ∈ lanesOf (f.active i w)) : f.laneFault i w l = none := by
  obtain ⟨h1, h2⟩ := hc l h
  have e1 : f.srcs.any (fun r => !r.okIn w l) = false := by
    rw [List.any_eq_false]; intro r hr; simp [hin l h r hr]
  have e2 : (f.g != 0 && w.pois (f.g.toNat / 32 % 64) l) = false := by
    by_cases hz : f.g = 0
    · simp [hz]
    · simp [h2 hz]
  have e3 : ((!f.low || l == lowLane (f.active i w)) && f.srcs.any (fun r => r.poisIn w l)) = false := by
    by_cases hz : f.low = false ∨ l = lowLane (f.active i w)
    · have : f.srcs.any (fun r => r.poisIn w l) = false := by
        rw [List.any_eq_false]; intro r hr; simp [h1 hz r hr]
      simp [this]
    · push Not at hz
      simp [hz.1, hz.2]
  simp only [Form.laneFault, e1, e2, e3, Bool.and_false, Bool.or_false, Bool.false_eq_true, if_false]

theorem prepLanes_ready (f : Form) (s : State) (i : Issue) (core slot : Nat) (w : Warp) (hi : Issuing s i core slot w)
    (hr : f.Ready s.chip i w) : prepLanes f i s.chip = .ok (f.prepared i core slot w) := by
  obtain ⟨⟨hl, hin⟩, ⟨hg, hs, ha, hd, hia⟩, hc⟩ := hr
  unfold prepLanes
  simp only [hi.eng, hi.warp, lowestField_none _ hl]
  rw [hi.eng] at hg hs ha hd hia
  have e1 : (f.g != 0 && s.chip.pending (.warp core slot) (f.g.toNat / 32 % 64) 1) = false := by
    by_cases h : f.g = 0
    · simp [h]
    · simp [hg h]
  have e2 : (f.srcs ++ f.extra).any (fun r => s.chip.pending (.warp core slot) r.code.toNat r.n) = false := by
    rw [List.any_eq_false]; intro r h; simp [hs r h]
  have e3 : f.also.any (fun r => s.chip.pending (.warp core slot) r.1.toNat 1) = false := by
    rw [List.any_eq_false]; intro r h; simp [ha r h]
  have e4 : f.dstBusy s.chip (.warp core slot) = false := by
    unfold Form.dstBusy
    split
    · rfl
    · exact hd _ _ ‹_›
  have e5 : f.srcs.any (fun r => r.ia && (lanesOf (f.computing i w)).any
      (fun l => s.chip.pending (.warp core slot) (r.codeIn w l) r.n)) = false := by
    rw [List.any_eq_false]
    intro r h
    by_cases hq : r.ia = true
    · have : (lanesOf (f.computing i w)).any (fun l => s.chip.pending (.warp core slot) (r.codeIn w l) r.n) = false := by
        rw [List.any_eq_false]; intro l h2; simp [hia r h hq l h2]
      simp [this]
    · simp [hq]
  rw [e1, e2, e3, e4, e5]
  simp only [Bool.or_false, Bool.false_eq_true, if_false, firstLane_none _ _ (laneFault_none hin hc), Form.prepared]

theorem prep_ready (f : Form) (s : State) (i : Issue) (core slot : Nat) (w : Warp) (hi : Issuing s i core slot w)
    (hr : f.Ready s.chip i w) : prep f i s.chip = .ok (f.prepared i core slot w) := by
  simp [prep, prepLanes_ready f s i core slot w hi hr, Form.prepared]

theorem Warp.reg_setV (w : Warp) (c l v : Nat) (p : Bool) (code k : Nat) (hl : l < 64) (hk : k < 64) (hc : isU c = false) :
    (w.setV c l v p).reg code k = if code = c ∧ k = l then v % 2 ^ 32 else w.reg code k := by
  unfold Warp.reg Warp.setV
  by_cases hu : isU code = true
  · have : code ≠ c := by rintro rfl; simp [hc] at hu
    simp [hu, this]
  · simp only [hu, Bool.false_eq_true, if_false, aget_aput]
    by_cases h : code = c ∧ k = l
    · simp [h]
    · have : ¬ code * 64 + k = c * 64 + l := by omega
      simp [h, this]

theorem Warp.pois_setV (w : Warp) (c l v : Nat) (p : Bool) (code k : Nat) (hl : l < 64) (hk : k < 64) (hc : isU c = false) :
    (w.setV c l v p).pois code k = if code = c ∧ k = l then p else w.pois code k := by
  unfold Warp.pois Warp.setV
  by_cases hu : isU code = true
  · have : code ≠ c := by rintro rfl; simp [hc] at hu
    simp [hu, this]
  · simp only [hu, Bool.false_eq_true, if_false, aget_aput]
    by_cases h : code = c ∧ k = l
    · simp [h]
    · have : ¬ code * 64 + k = c * 64 + l := by omega
      simp [h, this]

theorem Warp.reg_setU (w : Warp) (j v : Nat) (p : Bool) (code k : Nat) :
    (w.setU j v p).reg code k = if code = j + 960 then v % 2 ^ 32 else w.reg code k := by
  unfold Warp.reg Warp.setU
  by_cases hu : isU code = true
  · simp only [hu, if_true, aget_aput]
    have : 960 ≤ code := by simpa [isU] using hu
    by_cases h : code = j + 960
    · subst h; simp
    · have : ¬ code - 960 = j := by omega
      simp [h, this]
  · have : ¬ 960 ≤ code := by simpa [isU] using hu
    have h : ¬ code = j + 960 := by omega
    simp [hu, h]

theorem Warp.pois_setU (w : Warp) (j v : Nat) (p : Bool) (code k : Nat) :
    (w.setU j v p).pois code k = if code = j + 960 then p else w.pois code k := by
  unfold Warp.pois Warp.setU
  by_cases hu : isU code = true
  · simp only [hu, if_true, aget_aput]
    have : 960 ≤ code := by simpa [isU] using hu
    by_cases h : code = j + 960
    · subst h; simp
    · have : ¬ code - 960 = j := by omega
      simp [h, this]
  · have : ¬ 960 ≤ code := by simpa [isU] using hu
    have h : ¬ code = j + 960 := by omega
    simp [hu, h]

/-- A register write changes only the four register maps. -/
theorem Warp.setD_form (w : Warp) (c l n v : Nat) :
    ∃ rv rp ru rq, w.setD c l n v = { w with v := rv, vp := rp, u := ru, up := rq } := by
  induction n generalizing w c v with
  | zero => exact ⟨_, _, _, _, rfl⟩
  | succ n ih =>
    simp only [Warp.setD]
    split
    · obtain ⟨a, b, x, y, h⟩ := ih (w.setU (c - 960) v false) (c + 1) (v / 2 ^ 32)
      exact ⟨a, b, x, y, h⟩
    · obtain ⟨a, b, x, y, h⟩ := ih (w.setV c l v false) (c + 1) (v / 2 ^ 32)
      exact ⟨a, b, x, y, h⟩

/-- Registers outside the destination, and other lanes of lane registers, keep their values and marks. -/
theorem Warp.setD_kept (w : Warp) (c l n v code k : Nat) (hl : l < 64) (hk : k < 64)
    (h : code < c ∨ c + n ≤ code ∨ (isU code = false ∧ k ≠ l)) :
    (w.setD c l n v).reg code k = w.reg code k ∧ (w.setD c l n v).pois code k = w.pois code k := by
  induction n generalizing w c v with
  | zero => exact ⟨rfl, rfl⟩
  | succ n ih =>
    simp only [Warp.setD]
    have h2 : code < c + 1 ∨ c + 1 + n ≤ code ∨ (isU code = false ∧ k ≠ l) := by
      rcases h with h | h | h
      · exact .inl (by omega)
      · exact .inr (.inl (by omega))
      · exact .inr (.inr h)
    split
    · rename_i hu
      have hc : 960 ≤ c := by simpa [isU] using hu
      obtain ⟨e1, e2⟩ := ih (w.setU (c - 960) v false) (c + 1) (v / 2 ^ 32) h2
      have : ¬ code = c - 960 + 960 := by
        rcases h with h | h | ⟨h, -⟩
        · omega
        · omega
        · rw [isU, decide_eq_false_iff_not] at h; omega
      rw [e1, e2, Warp.reg_setU, Warp.pois_setU]
      simp [this]
    · rename_i hu
      have hu : isU c = false := by simpa using hu
      obtain ⟨e1, e2⟩ := ih (w.setV c l v false) (c + 1) (v / 2 ^ 32) h2
      have : ¬ (code = c ∧ k = l) := by
        rcases h with h | h | h
        · omega
        · omega
        · exact fun hh => h.2 hh.2
      rw [e1, e2, Warp.reg_setV _ _ _ _ _ _ _ hl hk hu, Warp.pois_setV _ _ _ _ _ _ _ hl hk hu]
      simp [this]

/-- The registers of a destination hold the value written, with no mark. -/
theorem Warp.regs_setD (w : Warp) (c l n v : Nat) (hl : l < 64) (h : c + n ≤ 960 ∨ 960 ≤ c) :
    (w.setD c l n v).regs c l n = v % 2 ^ (32 * n) ∧ (w.setD c l n v).poisN c l n = false := by
  induction n generalizing w c v with
  | zero => simp [Warp.regs, Warp.poisN, Nat.mod_one]
  | succ n ih =>
    simp only [Warp.setD, Warp.regs, Warp.poisN]
    have hmod : v % 2 ^ 32 + 2 ^ 32 * (v / 2 ^ 32 % 2 ^ (32 * n)) = v % 2 ^ (32 * (n + 1)) := by
      rw [show 32 * (n + 1) = 32 + 32 * n by ring, pow_add, Nat.mod_mul]
    split
    · rename_i hu
      have hc : 960 ≤ c := by simpa [isU] using hu
      obtain ⟨e1, e2⟩ := ih (w.setU (c - 960) v false) (c + 1) (v / 2 ^ 32) (by omega)
      obtain ⟨f1, f2⟩ := Warp.setD_kept (w.setU (c - 960) v false) (c + 1) l n (v / 2 ^ 32) c l hl hl (by omega)
      rw [e1, e2, f1, f2, Warp.reg_setU, Warp.pois_setU]
      have : c = c - 960 + 960 := by omega
      rw [if_pos this, if_pos this]
      exact ⟨hmod, rfl⟩
    · rename_i hu
      have hu : isU c = false := by simpa using hu
      have hc : c < 960 := by simpa [isU] using hu
      obtain ⟨e1, e2⟩ := ih (w.setV c l v false) (c + 1) (v / 2 ^ 32) (by omega)
      obtain ⟨f1, f2⟩ := Warp.setD_kept (w.setV c l v false) (c + 1) l n (v / 2 ^ 32) c l hl hl (by omega)
      rw [e1, e2, f1, f2, Warp.reg_setV _ _ _ _ _ _ _ hl hl hu, Warp.pois_setV _ _ _ _ _ _ _ hl hl hu]
      simp only [and_self, if_true, Bool.false_or]
      exact ⟨hmod, trivial⟩

theorem Warp.regs_congr (w w' : Warp) (c l n : Nat) (h : ∀ k, c ≤ k → k < c + n → w'.reg k l = w.reg k l ∧ w'.pois k l = w.pois k l) :
    w'.regs c l n = w.regs c l n ∧ w'.poisN c l n = w.poisN c l n := by
  induction n generalizing c with
  | zero => exact ⟨rfl, rfl⟩
  | succ n ih =>
    obtain ⟨e1, e2⟩ := ih (c + 1) (fun k h1 h2 => h k (by omega) (by omega))
    obtain ⟨f1, f2⟩ := h c (le_refl _) (by omega)
    simp [Warp.regs, Warp.poisN, e1, e2, f1, f2]

theorem writeEach_form (w : Warp) (d n : Nat) (f : Nat → Nat) (ls : List Nat) :
    ∃ rv rp ru rq, writeEach w d n f ls = { w with v := rv, vp := rp, u := ru, up := rq } := by
  induction ls generalizing w with
  | nil => exact ⟨_, _, _, _, rfl⟩
  | cons l ls ih =>
    obtain ⟨a, b, x, y, h⟩ := Warp.setD_form w d l n (f l)
    obtain ⟨a', b', x', y', h'⟩ := ih (w.setD d l n (f l))
    rw [writeEach, h', h]
    exact ⟨_, _, _, _, rfl⟩

theorem writeEach_kept (w : Warp) (d n : Nat) (f : Nat → Nat) (ls : List Nat) (hls : ∀ l ∈ ls, l < 64) (code k : Nat) (hk : k < 64)
    (h : code < d ∨ d + n ≤ code ∨ (isU code = false ∧ k ∉ ls)) :
    (writeEach w d n f ls).reg code k = w.reg code k ∧ (writeEach w d n f ls).pois code k = w.pois code k := by
  induction ls generalizing w with
  | nil => exact ⟨rfl, rfl⟩
  | cons l ls ih =>
    obtain ⟨e1, e2⟩ := ih (w.setD d l n (f l)) (fun a ha => hls a (by simp [ha])) (by
      rcases h with h | h | ⟨h, h'⟩
      · exact .inl h
      · exact .inr (.inl h)
      · exact .inr (.inr ⟨h, fun hh => h' (by simp [hh])⟩))
    obtain ⟨f1, f2⟩ := Warp.setD_kept w d l n (f l) code k (hls l (by simp)) hk (by
      rcases h with h | h | ⟨h, h'⟩
      · exact .inl h
      · exact .inr (.inl h)
      · exact .inr (.inr ⟨h, fun hh => h' (by simp [hh])⟩))
    rw [writeEach, e1, e2, f1, f2]
    exact ⟨rfl, rfl⟩

theorem writeEach_regs (w : Warp) (d n : Nat) (f : Nat → Nat) (ls : List Nat) (hls : ∀ l ∈ ls, l < 64) (hn : ls.Nodup)
    (hd : d + n ≤ 960) (l : Nat) (hl : l ∈ ls) :
    (writeEach w d n f ls).regs d l n = f l % 2 ^ (32 * n) ∧ (writeEach w d n f ls).poisN d l n = false := by
  induction ls generalizing w with
  | nil => simp at hl
  | cons a ls ih =>
    rw [writeEach]
    obtain ⟨h1, h2⟩ := List.nodup_cons.1 hn
    by_cases hla : l = a
    · subst hla
      obtain ⟨e1, e2⟩ := Warp.regs_congr (w.setD d l n (f l)) (writeEach (w.setD d l n (f l)) d n f ls) d l n (fun k hk1 hk2 =>
        writeEach_kept _ d n f ls (fun b hb => hls b (by simp [hb])) k l (hls l (by simp)) (.inr (.inr ⟨by simp [isU]; omega, h1⟩)))
      obtain ⟨f1, f2⟩ := Warp.regs_setD w d l n (f l) (hls l (by simp)) (.inl hd)
      rw [e1, e2, f1, f2]
      exact ⟨rfl, rfl⟩
    · exact ih (w.setD d a n (f a)) (fun b hb => hls b (by simp [hb])) h2 (by simpa [hla] using hl)

theorem mapLanes_getElem? (m : BitVec 64) (f : Nat → Lane → Lane) (ls : List Lane) (b j : Nat) :
    (mapLanes m f b ls)[j]? = (ls[j]?).map (fun l => if m.getLsbD (b + j) then f (b + j) l else l) := by
  induction ls generalizing b j with
  | nil => simp [mapLanes]
  | cons l ls ih =>
    cases j with
    | zero => simp [mapLanes]
    | succ j => simp [mapLanes, ih, show b + 1 + j = b + (j + 1) by omega]

/-- The lanes of a mask changed, read back. -/
theorem Warp.lane_onLanes (w : Warp) (m : BitVec 64) (f : Nat → Lane → Lane) (l : Nat) :
    (w.onLanes m f).lane l = if m.getLsbD l && decide (l < w.lanes.length) then f l (w.lane l) else w.lane l := by
  simp only [Warp.lane, Warp.onLanes, List.getD_eq_getElem?_getD, mapLanes_getElem?, Nat.zero_add]
  by_cases h : l < w.lanes.length
  · simp [h]
  · simp [h]

/-- Moving lanes leaves the registers. -/
theorem Warp.regs_onLanes (w : Warp) (m : BitVec 64) (f : Nat → Lane → Lane) (c l n : Nat) :
    (w.onLanes m f).regs c l n = w.regs c l n ∧ (w.onLanes m f).poisN c l n = w.poisN c l n :=
  Warp.regs_congr w (w.onLanes m f) c l n (fun _ _ _ => ⟨rfl, rfl⟩)

/-- What a lane instruction's end does to the chip: its warp is replaced, its lane set past the word. -/
theorem finish_eq (i : Issue) (p : Prep) (w : Warp) (c : Chip) (he : i.eng = .warp p.core p.slot) :
    finish i p w c = .ok (c.setWarp p.core p.slot
      (some (w.onLanes i.lanes (fun _ l => { l with pos := i.pos.after i.hdr, wait := none })))) := by
  simp [finish, Chip.advance, he]

/-- Uniform registers read alike in every lane. -/
theorem Warp.regs_uniform (w : Warp) (c l n : Nat) (hc : 960 ≤ c) : w.regs c l n = w.regs c 0 n ∧ w.poisN c l n = w.poisN c 0 n := by
  induction n generalizing c with
  | zero => exact ⟨rfl, rfl⟩
  | succ n ih =>
    have hu : isU c = true := by simpa [isU] using hc
    obtain ⟨e1, e2⟩ := ih (c + 1) (by omega)
    simp [Warp.regs, Warp.poisN, Warp.reg, Warp.pois, hu, e1, e2]

/-- What registers written and lanes moved leave of the rest of a warp. -/
theorem Wrote.of_form {lanes : BitVec 64} {d n : Nat} {v : Nat → Nat} {i : Issue} {w x : Warp} (fl : Flags)
    (hx : ∃ rv rp ru rq, x = { w with v := rv, vp := rp, u := ru, up := rq, fpstat := w.fpstat ||| fl })
    (hr : (d + n ≤ 960 ∨ 960 ≤ d) → ∀ l ∈ lanesOf lanes, x.regs d l n = v l % 2 ^ (32 * n) ∧ x.poisN d l n = false)
    (hk : ∀ code l, l < 64 → (code < d ∨ d + n ≤ code ∨ lanes = 0 ∨ (isU code = false ∧ lanes.getLsbD l = false)) →
      x.reg code l = w.reg code l ∧ x.pois code l = w.pois code l) :
    Wrote lanes d n v fl i w (x.onLanes i.lanes (fun _ l => { l with pos := i.pos.after i.hdr, wait := none })) := by
  refine ⟨fun h l hl => ?_, hk, ?_, ?_, ?_⟩
  · rw [(Warp.regs_onLanes _ _ _ _ _ _).1, (Warp.regs_onLanes _ _ _ _ _ _).2]; exact hr h l hl
  · obtain ⟨a, b, c, e, rfl⟩ := hx
    intro l; rw [Warp.lane_onLanes]; rfl
  · obtain ⟨a, b, c, e, rfl⟩ := hx
    rfl
  · obtain ⟨a, b, c, e, rfl⟩ := hx
    rfl

/-- What a write of D leaves, as `Wrote` says it. -/
theorem wrote_write (f : Form) (i : Issue) (core slot : Nat) (w : Warp) (d : Reg) (n : Nat) (v : Nat → Nat) (hd : f.d = some (d, n)) :
    Wrote (f.writing i w) d.toNat n v 0 i w
      (((f.prepared i core slot w).write d.toNat n v).onLanes i.lanes (fun _ l => { l with pos := i.pos.after i.hdr, wait := none })) := by
  have ho : f.once = isU d.toNat := by simp [Form.once, hd]
  have hlt : ∀ l ∈ lanesOf (f.reached i w), l < 64 := fun l h => lt_of_mem_lanesOf h
  have hf : w.fpstat ||| 0 = w.fpstat := by simp
  unfold Prep.write Form.writing Form.prepared
  simp only [ho]
  by_cases hu : isU d.toNat = true
  · have h960 : 960 ≤ d.toNat := by simpa [isU] using hu
    simp only [hu, if_true]
    by_cases ha : f.active i w = 0
    · simp only [ha, if_true]
      exact Wrote.of_form 0 ⟨w.v, w.vp, w.u, w.up, by rw [hf]⟩ (fun _ l hl => by simp at hl) (fun _ _ _ _ => ⟨rfl, rfl⟩)
    · simp only [ha, if_false]
      obtain ⟨x1, x2, x3, x4, hx⟩ := Warp.setD_form w d.toNat 0 n (v (lowLane (f.active i w)))
      refine Wrote.of_form 0 ⟨x1, x2, x3, x4, by rw [hf]; exact hx⟩ (fun h l hl => ?_) (fun code l hl h => ?_)
      · rw [mem_lanesOf, laneBit_getLsbD] at hl
        simp only [Bool.and_eq_true, decide_eq_true_eq] at hl
        rw [(Warp.regs_uniform _ d.toNat l n h960).1, (Warp.regs_uniform _ d.toNat l n h960).2, hl.1]
        exact Warp.regs_setD w d.toNat 0 n _ (by decide) (.inr h960)
      · refine Warp.setD_kept w d.toNat 0 n _ code l (by decide) hl ?_
        rcases h with h | h | h | ⟨h, -⟩
        · exact .inl h
        · exact .inr (.inl h)
        · exfalso
          have hm : ∃ l, (f.active i w).getLsbD l = true := by
            by_contra hcon
            push Not at hcon
            exact ha (BitVec.eq_of_getLsbD_eq (fun j _ => by simpa using hcon j))
          obtain ⟨j, hj⟩ := hm
          have hlow : lowLane (f.active i w) < 64 := by
            unfold lowLane
            cases hL : lanesOf (f.active i w) with
            | nil => simp
            | cons q r => simpa using lt_of_mem_lanesOf (m := f.active i w) (by rw [hL]; simp)
          have := laneBit_getLsbD (lowLane (f.active i w)) (lowLane (f.active i w))
          rw [h] at this
          simp [hlow] at this
        · have : code < 960 := by simpa [isU] using h
          exact .inl (by omega)
  · have hu : isU d.toNat = false := by simpa using hu
    simp only [hu, Bool.false_eq_true, if_false]
    have h960 : d.toNat < 960 := by simpa [isU] using hu
    obtain ⟨x1, x2, x3, x4, hx⟩ := writeEach_form w d.toNat n v (lanesOf (f.reached i w))
    refine Wrote.of_form 0 ⟨x1, x2, x3, x4, by rw [hf]; exact hx⟩ (fun h l hl => ?_) (fun code l hl h => ?_)
    · exact writeEach_regs w d.toNat n v _ hlt (lanesOf_nodup _) (by omega) l hl
    · rcases h with h | h | h | ⟨h, h'⟩
      · exact writeEach_kept w d.toNat n v _ hlt code l hl (.inl h)
      · exact writeEach_kept w d.toNat n v _ hlt code l hl (.inr (.inl h))
      · rw [h, show lanesOf 0 = [] from by decide]; exact ⟨rfl, rfl⟩
      · exact writeEach_kept w d.toNat n v _ hlt code l hl (.inr (.inr ⟨h, by rw [mem_lanesOf]; simp [h']⟩))

/-- A meaning that checks its operands, writes D and passes on completes where the operands let it. -/
theorem completes_write (k : Instr) (f : Form) (d : Reg) (n : Nat) (v : Prep → Nat → Nat) (s : State) (i : Issue) (core slot : Nat) (w : Warp)
    (hk : exec k s = runIssue s (fun i c => match prep f i c with
      | .error e => .error e
      | .ok p => finish i p (p.write d.toNat n (v p)) c))
    (hd : f.d = some (d, n)) (hi : Issuing s i core slot w) (hr : f.Ready s.chip i w) :
    CompletesWriting k (f.writing i w) d.toNat n
      (v (f.prepared i core slot w)) 0 s i core slot w := by
  refine ⟨_, ?_, wrote_write f i core slot w d n _ hd⟩
  rw [hk, runIssue, hi.cur]
  simp only [prep_ready f s i core slot w hi hr]
  rw [finish_eq i _ _ s.chip hi.eng]
  rfl

/-- Values that agree below the destination's width are written alike. -/
theorem CompletesWriting.congr {k : Instr} {m : BitVec 64} {d n : Nat} {v v' : Nat → Nat} {fl : Flags} {s : State} {i : Issue}
    {core slot : Nat} {w : Warp} (h : CompletesWriting k m d n v fl s i core slot w)
    (hv : ∀ l ∈ lanesOf m, v l % 2 ^ (32 * n) = v' l % 2 ^ (32 * n)) : CompletesWriting k m d n v' fl s i core slot w := by
  obtain ⟨w', h1, h2⟩ := h
  exact ⟨w', h1, { result := fun a l hl => by rw [← hv l hl]; exact h2.result a l hl,
                   kept := h2.kept, passed := h2.passed, flags := h2.flags, rest := h2.rest }⟩

theorem Warp.regs_lt (w : Warp) (c l n : Nat) : w.regs c l n < 2 ^ (32 * n) := by
  induction n generalizing c with
  | zero => simp [Warp.regs]
  | succ n ih =>
    have h1 : w.reg c l < 2 ^ 32 := by unfold Warp.reg; split <;> exact BitVec.isLt _
    have h2 := ih (c + 1)
    rw [Warp.regs, show 32 * (n + 1) = 32 + 32 * n by ring, pow_add]
    nlinarith [Nat.one_le_two_pow (n := 32)]

/-- A source of `n` registers reads a number of their width. -/
theorem Src.val_lt (r : Src) (w : Warp) (l : Nat) : r.val w l < 2 ^ (32 * r.n) := Warp.regs_lt w _ l r.n

end Sys2Proof.Machine
end

