-- ==== Sys2Proof/Laws/Steps.lean ====
section
/-! SUPPORT. What each shared way of running a step can do, said once: the runs of a meaning, passing a word, taking a trap, issuing an
operation. -/

namespace Sys2Proof.Machine

open Sys2Proof

/-- A meaning that completes. -/
theorem runIssue_ok {s : State} {i : Issue} (h : s.chip.cur = some i) {f : Issue → Chip → Except Stop Chip} {c : Chip}
    (hf : f i s.chip = .ok c) : runIssue s f = .next { s with chip := c } := by simp [runIssue, h, hf]

/-- A meaning that ends in a precise trap. -/
theorem runIssue_trap {s : State} {i : Issue} (h : s.chip.cur = some i) {f : Issue → Chip → Except Stop Chip} {syn lane addr : Nat}
    {m : BitVec 64} (hf : f i s.chip = .error (.trap syn lane addr m)) :
    runIssue s f = .next { s with chip := s.chip.trapFor i syn lane addr m } := by simp [runIssue, h, hf, Chip.stopAt]

/-- A meaning that waits changes nothing. -/
theorem runIssue_wait {s : State} {i : Issue} (h : s.chip.cur = some i) {f : Issue → Chip → Except Stop Chip}
    (hf : f i s.chip = .error .wait) : runIssue s f = .next s := by simp [runIssue, h, hf, Chip.stopAt]

/-- Everything that the run of a meaning can answer. -/
theorem runIssue_cases {s t : State} {f : Issue → Chip → Except Stop Chip} (h : runIssue s f = .next t) :
    (s.chip.cur = none ∧ t = s)
    ∨ ∃ i, s.chip.cur = some i ∧ ∃ c, t = { s with chip := c }
        ∧ (f i s.chip = .ok c ∨ ∃ st, f i s.chip = .error st ∧ s.chip.stopAt i st = .ok c) := by
  unfold runIssue at h
  split at h
  · rename_i hc
    exact .inl ⟨hc, by simpa using h.symm⟩
  · rename_i i hc
    refine .inr ⟨i, hc, ?_⟩
    split at h
    · rename_i c hf
      exact ⟨c, by simpa using h.symm, .inl hf⟩
    · rename_i st hf
      split at h
      · rename_i c hs
        exact ⟨c, by simpa using h.symm, .inr ⟨st, hf, hs⟩⟩
      · cases h

/-- The run of a meaning touches neither the management side nor the inputs. -/
theorem runIssue_frame {s t : State} {f : Issue → Chip → Except Stop Chip} (h : runIssue s f = .next t) :
    t.life = s.life ∧ t.agenda = s.agenda := by
  obtain ⟨-, rfl⟩ | ⟨i, -, c, rfl, -⟩ := runIssue_cases h
  · exact ⟨rfl, rfl⟩
  · exact ⟨rfl, rfl⟩

/-- A step of a unit completes and touches neither the management side nor the inputs. -/
theorem runChip_next (s : State) (f : Chip → Chip) : runChip s f = .next { s with chip := f s.chip } := rfl

theorem runChipE_cases {s t : State} {f : Chip → Except Nat Chip} (h : runChipE s f = .next t) :
    ∃ c, f s.chip = .ok c ∧ t = { s with chip := c } := by
  unfold runChipE at h
  split at h
  · exact ⟨_, ‹_›, by simpa using h.symm⟩
  · cases h

theorem runChipE_frame {s t : State} {f : Chip → Except Nat Chip} (h : runChipE s f = .next t) : t.life = s.life ∧ t.agenda = s.agenda := by
  obtain ⟨c, -, rfl⟩ := runChipE_cases h
  exact ⟨rfl, rfl⟩

theorem runLife_next (s : State) (f : Chip → Life → Chip × Life) :
    runLife s f = .next { s with chip := (f s.chip s.life).1, life := (f s.chip s.life).2 } := rfl

/-- R39, R40: a warp's lane set passes a word. -/
theorem advance_warp (c : Chip) (i : Issue) (core slot : Nat) (w : Warp) (he : i.eng = .warp core slot) (hw : c.warp core slot = some w) :
    ∃ w', c.advance i = c.setWarp core slot (some w') ∧ w.Passed w' i ∧ { w' with lanes := w.lanes } = w := by
  refine ⟨w.onLanes i.lanes (fun _ l => { l with pos := i.pos.after i.hdr, wait := none }), ?_, ?_, rfl⟩
  · simp [Chip.advance, he, hw]
  · intro l
    rw [Warp.lane_onLanes]

/-- R384: emitting a record changes the trace buffers alone. -/
theorem emit_trace (c : Chip) (source type : Nat) (cid payload : DWord) (extra : Nat) :
    ∃ t, c.emit source type cid payload extra = { c with trace := t } := by
  unfold Chip.emit Chip.emitAt
  simp only
  split <;> exact ⟨_, rfl⟩

/-- R364: the position at which a warp of a kernel starts its handler. -/
def handlerPos (kn : Kernel) : Pos := { addr := kn.addr + dw kn.handler, idx := 0, entered := false }

/-- R364: a trap that a warp takes: only the warp, its core's sequence value and the trace change; the warp is in handler mode. -/
theorem trapEnter_taken (c : Chip) (core slot : Nat) (t : TrapInfo) (w : Warp) (kn : Kernel) (gr : Grid) (hw : c.warp core slot = some w)
    (hk : c.kernelOf w.gang = some kn) (hg : c.gridOf w.gang = some gr) (hc : t.syn / 2 ^ 24 ≠ 0x0C) (hm : w.handler = false)
    (hh : kn.handler ≠ 0) :
    ∃ w', (c.trapEnter core slot t).mem = c.mem ∧ (c.trapEnter core slot t).ops = c.ops
      ∧ (c.trapEnter core slot t).warp core slot = some w' ∧ w'.handler = true ∧ w'.tr.pc = t.pos.addr ∧ w'.tr.mask0 = t.mask
      ∧ w'.lanes = mapLanes w.live
          (fun _ l => { l with saved := l.pos, savedHdr := l.hdr, pos := handlerPos kn, wait := none, held := l.sync, sync := none }) 0
            w.lanes
      ∧ w'.v = w.v ∧ w'.u = w.u ∧ w'.cf = w.cf ∧ w'.fpstat = w.fpstat := by
  unfold Chip.trapEnter
  simp only [hw, hk, hg, if_neg hc, hm, hh, Bool.false_or, decide_false, Bool.false_eq_true, if_false]
  rw [(emit_trace _ _ _ _ _ _).choose_spec]
  refine ⟨?w, rfl, rfl, ?c, ?_, ?_, ?_, ?_, ?_, ?_, ?_, ?_⟩
  case c =>
    simp only [Chip.nextCid, Chip.warp, Chip.setWarp, Chip.core, Eng.core, Chip.setCore, aget_aput_same]
    rfl
  all_goals rfl

/-- R42-R44: an issued operation is the last in flight, under the next number. -/
theorem issueOp_ops (c : Chip) (i : Issue) (o : Op) :
    (c.issueOp i o).ops = c.ops ++ [{ o with id := c.nextOp, eng := i.eng, mask := i.lanes, pos := i.pos, gang := c.gangOf i.eng }] := by
  unfold Chip.issueOp Chip.advance Chip.modFlags Chip.modStream Chip.setWarp Chip.setMat Chip.setDray Chip.setCore
  simp only
  repeat' split
  all_goals simp_all

end Sys2Proof.Machine
end

