-- ==== Sys2Proof/Tests/Slice0.lean ====
section
/-! SUPPORT. Tests of the syntax: well-formedness refuses what the entries exclude; words written out from the layouts of R38, R47, R48 and
R51 and the entries' own field tables, one for each constructor that has a word, decode to the instruction that they stand for; words that name none
are refused with their reason. The words of the spec's own examples (R44, R58, R85, R209, R213, R235, R248, R276, R308, R401 and the listings)
are among them. -/

namespace Sys2Proof.Tests

open Sys2Proof

/-- A guard `?!v2.3` and no other control field. -/
def ct : Ctl := { g := 0x843, ia := false, hq := false }

/-- The control fields of a command at device scope. -/
def cc : CmdCtl := { fsel := 0, acq := true, rel := false, scope := 5, queue := 0 }

/-- R38, R39: flag indexes above 11 and the index of a flag that is not enabled. -/
theorem test_wf_headers :
    Header.wf { count := 3, wait := 0, setaEn := true, seta := 11, setbEn := false, setb := 0, trace := false } = true
    ∧ Header.wf { count := 3, wait := 0, setaEn := true, seta := 12, setbEn := false, setb := 0, trace := false } = false
    ∧ Header.wf { count := 3, wait := 0, setaEn := false, seta := 1, setbEn := false, setb := 0, trace := false } = false
    ∧ Header.wf { count := 3, wait := 0, setaEn := false, seta := 0, setbEn := true, setb := 15, trace := false } = false
    ∧ Header.wf { count := 3, wait := 0, setaEn := false, seta := 0, setbEn := false, setb := 1, trace := false } = false := by decide

/-- Ill-formed terms, one for each limit that an entry of a lane instruction states. -/
theorem test_wf_lane : ∀ i ∈ ([
    .shli 0 1 2 32, .shri 0 1 2 32, .sari 0 1 2 0xFFFFFF, .iset ct 1 2 3 12 0, .iseti 0 1 2 12 0 0, .fset ct 1 2 3 8 0,
    .cvtf ct false 1 2 3 0, .wfadd 0 1 2 3 0 0 0, .wfmul 0 1 2 3 0 0 0, .wffma 0 1 2 3 0 0 0, .wfmax 0 1 2 3 0 0 0, .wiadd 0 1 2 3 0 0 0,
    .wmov 0 1 2 0 0, .wcvt 0 1 2 3 0 0, .atom 0 10 5 0 1 2 3 4, .atom 0 0 7 0 1 2 3 4, .atomc 0 7 0 1 2 3 4, .redm 0 0 7 0 1 2 3,
    .redm 0 10 5 0 1 2 3, .redm 0 0 5 1 1 2 3, .fence 7 1, .fence 5 0, .atomw 0 false 0 4 0 1 2 3, .atomw 0 false 10 3 0 1 2 3,
    .atomw 0 true 9 3 0 1 2 3, .shfl ct 1 2 3 true 0x08 4, .shfl ct 1 2 3 true 0 4, .redw ct 1 2 11, .scanw ct 1 2 11 false,
    .qswp ct 1 2 0 3, .fork 1 false false, .binit 0 true 1 1 2 3, .arrive 0 5 true 1 1 2, .arrive 0 3 false 1 1 2, .arrive 0 4 false 1 1 0,
    .arrive 0 2 true 0 1 2, .arrive 0 7 true 0 1 2, .waitph 0 5 true 1 1 2, .waitph 0 3 false 1 1 2, .waitph 0 4 false 1 1 0,
    .wrsr 0 0x0A1 1, .nopre 0 false 1] : List Instr), i.wf = false := by decide

/-- The same of the sequencers. -/
theorem test_wf_sequencers : ∀ i ∈ ([
    .binitMatrix true 1 1 2, .arriveMatrix 5 true 1 1 2, .arriveMatrix 3 false 1 1 2, .arriveMatrix 4 false 1 1 0, .waitphMatrix 5 true 1 1 2,
    .waitphMatrix 3 false 1 1 2, .waitphMatrix 2 true 0 1 2, .binitCopy true 1 1 2, .arriveCopy 5 true 1 1 2, .arriveCopy 3 false 1 1 2,
    .arriveCopy 7 true 0 1 2, .waitphCopy 5 true 1 1 2, .waitphCopy 3 false 1 1 2, .waitphCopy 4 false 1 1 0, .mmas 0 false 0 1 2 0 0 0,
    .mbr 7 1 2 0, .dcopy { cc with scope := 7 } 1 2, .dcopy { cc with acq := false } 1 2, .dmcast { cc with scope := 7 } 1 2 3 4 0 0 0,
    .dmcast { cc with acq := false } 1 2 3 4 0 0 0, .dfill { cc with scope := 7 } 1 2, .dfill { cc with acq := false } 1 2,
    .dchain { cc with scope := 7 } 1 2 3 4, .dchain { cc with acq := false } 1 2 3 4, .dred cc 3 1 2, .dred { cc with scope := 7 } 0 1 2,
    .dred { cc with acq := false } 0 1 2, .dcoll { cc with scope := 7 } 1, .dcoll { cc with acq := false } 1, .dproxy { cc with scope := 7 } 1 0,
    .dproxy { cc with acq := false } 1 0, .kbr 7 1 2 0, .kld true 7 1 2 0, .kld false 1 1 2 0, .kst true 7 1 2 0, .kst false 1 1 2 0]
    : List Instr), i.wf = false := by decide

/-- R38: headers. -/
theorem test_decode_headers :
    decodeHeader .lane 0xF030008000000000 = .ok (.clauseStart .lane
      { count := 3, wait := 0, setaEn := true, seta := 0, setbEn := false, setb := 0, trace := false })
    ∧ decodeHeader .matrix 0xF1F80186E0000000 = .ok (.clauseStart .matrix
      { count := 15, wait := 0x801, setaEn := true, seta := 0, setbEn := true, setb := 11, trace := true }) := by decide

/-- R39: headers that are refused, with the reason of ILLEGAL_CLAUSE: no class byte, class 0xF3, another engine's class, a reserved bit or the
index of a disabled flag, a flag above 11. -/
theorem test_decode_bad_headers : ∀ p ∈ ([(0x0800000000000000, 1), (0xF300000000000000, 2), (0xF100000000000000, 3), (0xF000000000000001, 4),
      (0xF000000800000000, 4), (0xF000000700000000, 5), (0xF00000F800000000, 5)] : List (Nat × Nat)),
    decodeHeader .lane p.1 = .error (.clause p.2) := by decide

/-- R40, R50: words that name no instruction of a lane clause: an unassigned opcode, a reserved scope, an unused field, a limit, the lowest of
several reasons; a header inside a clause, another class's opcode. -/
theorem test_decode_bad_words :
    (∀ p ∈ ([(0x0700000000000000, 1), (0x8B0000000000001D, 5), (0x0800000400000010, 7), (0x6000004200000000, 8),
      (0x2000000400000020, 9), (0x9400000400001000, 7)] : List (Nat × Nat)),
      decodeWord .lane p.1 = .error (.instruction p.2))
    ∧ decodeWord .lane 0xF000000000000000 = .error (.clause 7) ∧ decodeWord .lane 0xC900000000000000 = .error (.clause 8)
    ∧ decodeWord .matrix 0x0800000000000000 = .error (.clause 8) := by decide

/-- R40: a branch that is not the last word of its clause. -/
theorem test_decode_branch_in_clause :
    decodeIn .lane (Header.ofNat 0xF010000000000000) 0 0xB000000000000001 = .error (.clause 6)
    ∧ decodeIn .lane (Header.ofNat 0xF010000000000000) 1 0xB000000000000001 = .ok (.bra 0 1) := by decide

/-- R45: an FSEL that the header does not enable. -/
theorem test_decode_fsel :
    decodeIn .lane (Header.ofNat 0xF000000000000000) 0 0x8100000000000004 = .error (.instruction 3)
    ∧ decodeIn .lane (Header.ofNat 0xF000009800000000) 0 0x8100000000000004 = .ok (.ld 0 1 0 0 0 0 0) := by decide

theorem test_decode_integers1 : ∀ p ∈ ([
    (0x0D84305015F08170, .imad ct 20 21 962 23),
    (0x1584305015F08170, .imad64 ct 20 21 962 23),
    (0x2784305015F08170, .bfi ct 20 21 962 23),
    (0x0884305015F08000, .iadd ct 20 21 962),
    (0x0984305015F08000, .isub ct 20 21 962),
    (0x0A84305015F08000, .imul ct 20 21 962),
    (0x0B84305015F08000, .imulhi ct 20 21 962),
    (0x0C84305015F08000, .imulhn ct 20 21 962),
    (0x0E84305015F08000, .imin ct 20 21 962),
    (0x0F84305015F08000, .iminn ct 20 21 962),
    (0x1084305015F08000, .imax ct 20 21 962),
    (0x1184305015F08000, .imaxn ct 20 21 962),
    (0x1484305015F08000, .iadd64 ct 20 21 962),
    (0x1684305015F08000, .iadds ct 20 21 962),
    (0x1784305015F08000, .isubs ct 20 21 962),
    (0x1884305015F08000, .andR ct 20 21 962)] : List (Nat × Instr)),
    decodeWord .lane p.1 = .ok p.2 := by decide

theorem test_decode_integers2 : ∀ p ∈ ([
    (0x1984305015F08000, .orR ct 20 21 962),
    (0x1A84305015F08000, .xorR ct 20 21 962),
    (0x1B84305015F08000, .andn ct 20 21 962),
    (0x1C84305015F08000, .shl ct 20 21 962),
    (0x1D84305015F08000, .shr ct 20 21 962),
    (0x1E84305015F08000, .sar ct 20 21 962),
    (0x1F84305015F08000, .rotr ct 20 21 962),
    (0x2684305015F08000, .bfe ct 20 21 962),
    (0x1284305015000000, .iabs ct 20 21),
    (0x2884305015000000, .popc ct 20 21),
    (0x2984305015000000, .clz ct 20 21),
    (0x2A84305015000000, .brev ct 20 21),
    (0x1384305015FFFFFC, .iaddi 0x843 20 21 0xFFFFFC),
    (0x2384305015FFFFFC, .andi 0x843 20 21 0xFFFFFC),
    (0x2484305015FFFFFC, .ori 0x843 20 21 0xFFFFFC),
    (0x2584305015FFFFFC, .xori 0x843 20 21 0xFFFFFC)] : List (Nat × Instr)),
    decodeWord .lane p.1 = .ok p.2 := by decide

theorem test_decode_integers3 : ∀ p ∈ ([
    (0x208430501500001F, .shli 0x843 20 21 31),
    (0x218430501500001F, .shri 0x843 20 21 31),
    (0x228430501500001F, .sari 0x843 20 21 31),
    (0x2B84305015059CA0, .iset ct 20 21 22 7 5),
    (0x2C84305015BFFFFF, .iseti 0x843 20 21 11 31 0x7FFF)] : List (Nat × Instr)),
    decodeWord .lane p.1 = .ok p.2 := by decide

theorem test_decode_floats1 : ∀ p ∈ ([
    (0x4384305015F08170, .ffma ct 20 21 962 23),
    (0x5284305015F08170, .hfma2 ct 20 21 962 23),
    (0x4084305015F08000, .fadd ct 20 21 962),
    (0x4184305015F08000, .fsub ct 20 21 962),
    (0x4284305015F08000, .fmul ct 20 21 962),
    (0x4484305015F08000, .fmin ct 20 21 962),
    (0x4584305015F08000, .fmax ct 20 21 962),
    (0x4A84305015F08000, .fdiv ct 20 21 962),
    (0x5084305015F08000, .hadd2 ct 20 21 962),
    (0x5184305015F08000, .hmul2 ct 20 21 962),
    (0x5384305015F08000, .fscl ct 20 21 962),
    (0x4784305015000000, .frcp ct 20 21),
    (0x4884305015000000, .frsq ct 20 21),
    (0x4984305015000000, .fsqrt ct 20 21),
    (0x4B84305015000000, .fex2 ct 20 21),
    (0x4C84305015000000, .flg2 ct 20 21)] : List (Nat × Instr)),
    decodeWord .lane p.1 = .ok p.2 := by decide

theorem test_decode_floats2 : ∀ p ∈ ([
    (0x4D84305015000000, .fsinp ct 20 21),
    (0x4E84305015000000, .fcosp ct 20 21),
    (0x4F84305015000000, .ftanh ct 20 21),
    (0x5584305015000000, .fclass ct 20 21),
    (0x46843050150588A0, .fset ct 20 21 22 2 5),
    (0x5484305015000030, .frnd ct 20 21 3)] : List (Nat × Instr)),
    decodeWord .lane p.1 = .ok p.2 := by decide

theorem test_decode_moves : ∀ p ∈ ([
    (0x0484305015F08170, .rdlane ct 20 21 962 23),
    (0x0684305015F08170, .sel ct 20 21 962 23),
    (0xA184305015F08170, .perm ct 20 21 962 23),
    (0x0584305015F08000, .wrlane ct 20 21 962),
    (0x0184305015000000, .mov ct 20 21),
    (0x0000000000000000, .nop),
    (0x0284305000800001, .movi 0x843 20 0x800001),
    (0x0384305015123456, .movhi 0x843 20 21 0x123456)] : List (Nat × Instr)),
    decodeWord .lane p.1 = .ok p.2 := by decide

theorem test_decode_conversions : ∀ p ∈ ([
    (0x58843050150580A0, .cvtf ct true 20 21 22 2),
    (0x59843050150000D0, .i2f ct true 20 21 5),
    (0x5A84305015000050, .f2i ct false 20 21 5),
    (0x5B84305015000070, .bchk ct 20 21 7)] : List (Nat × Instr)),
    decodeWord .lane p.1 = .ok p.2 := by decide

theorem test_decode_sweeps : ∀ p ∈ ([
    (0x60FFF042FFFC1014, .wfadd 4095 1 2 63 255 4 5),
    (0x61FFF042FFFC1014, .wfmul 4095 1 2 63 255 4 5),
    (0x62FFF042FFFC1014, .wffma 4095 1 2 63 255 4 5),
    (0x63FFF042FFFC1014, .wfmax 4095 1 2 63 255 4 5),
    (0x64FFF042FFFC1014, .wiadd 4095 1 2 63 255 4 5),
    (0x65001042000C1000, .wmov 1 1 2 3 4),
    (0x66002042180C1000, .wcvt 2 1 2 6 3 4)] : List (Nat × Instr)),
    decodeWord .lane p.1 = .ok p.2 := by decide

theorem test_decode_memory : ∀ p ∈ ([
    (0x80843027E0B7FFF7, .ldrec 0x843 1 9 31 22 0x7FFF),
    (0x81843050A0B7FFEA, .ld 0x843 2 2 20 5 22 0x7FFE),
    (0x82843050A0B00037, .st 0x843 1 3 20 5 22 3),
    (0x83843050A0B7FFE4, .ldsx 0x843 1 6 20 5 22 0xFFF),
    (0x84843050A0B003B8, .stsx 0x843 2 3 20 5 22 7),
    (0x8584305000B00095, .ldb 0x843 1 1 20 22 9),
    (0x8684305000B00094, .stb 0x843 1 0 20 22 9),
    (0x87843000A0B00096, .prf 0x843 1 2 5 22 9)] : List (Nat × Instr)),
    decodeWord .lane p.1 = .ok p.2 := by decide

theorem test_decode_atomics : ∀ p ∈ ([
    (0x8800005060401417, .atom 0 0 5 3 20 3 8 10),
    (0x8984305060401419, .atomc 0x843 6 1 20 3 8 10),
    (0x8A84300060401532, .redm 0x843 9 4 2 3 8 10),
    (0x8B00000000000016, .fence 5 2),
    (0x958430502040150D, .atomw 0x843 true 8 3 1 20 8 10)] : List (Nat × Instr)),
    decodeWord .lane p.1 = .ok p.2 := by decide

theorem test_decode_queues : ∀ p ∈ ([
    (0x8C3C005000058054, .qpop 0x3C0 false 1 20 22 5),
    (0x8D843000150580F9, .qpush 0x843 true 2 21 22 15)] : List (Nat × Instr)),
    decodeWord .lane p.1 = .ok p.2 := by decide

theorem test_decode_banks : ∀ p ∈ ([
    (0x8E000F13C1F08004, .give 0 1 964 961 962),
    (0x8F84305015000008, .take 0x843 2 20 21),
    (0x9084305015000004, .relb 0x843 1 20 21),
    (0x9184305000000070, .bmapr 0x843 20 7)] : List (Nat × Instr)),
    decodeWord .lane p.1 = .ok p.2 := by decide

theorem test_decode_system : ∀ p ∈ ([
    (0x9284300000000004, .trig 0x843 1),
    (0x940000000600002A, .evt 0 6 0x2A),
    (0xBB84300000011234, .trap 0x843 true 0x1234),
    (0xBC00000000000000, .rft 0),
    (0xBD843050000007FF, .rdsr 0x843 20 0x7FF),
    (0xBE84300015000020, .wrsr 0x843 0x020 21),
    (0xBE843000150000A1, .waitselWrite 0x843 21),
    (0xBF84305000000001, .nopre 0x843 true 20)] : List (Nat × Instr)),
    decodeWord .lane p.1 = .ok p.2 := by decide

theorem test_decode_crossLane : ∀ p ∈ ([
    (0xA084302009E040A0, .shfl ct 8 9 3 true 1 10),
    (0xA284302009028000, .redw ct 8 9 10),
    (0xA384302009054000, .scanw ct 8 9 5 true),
    (0xA48430200907C000, .ballot ct 8 9 31),
    (0xA58430200900C0A0, .qswp ct 8 9 3 10),
    (0xA6843020090080A0, .qbrd ct 8 9 2 10),
    (0xA784302000000000, .actmask ct 8)] : List (Nat × Instr)),
    decodeWord .lane p.1 = .ok p.2 := by decide

theorem test_decode_control : ∀ p ∈ ([
    (0xB084300000FFFFFC, .bra 0x843 0xFFFFFC),
    (0xB184300015000002, .bri 0x843 true 21),
    (0xB284305000000005, .call 0x843 20 5),
    (0xB384300015000000, .ret 0x843 false 21),
    (0xB400000000000000, .exit 0),
    (0xB50000A014000190, .spawn 0 40 20 1 3),
    (0xB600005000000010, .fork 20 true false)] : List (Nat × Instr)),
    decodeWord .lane p.1 = .ok p.2 := by decide

theorem test_decode_barriers : ∀ p ∈ ([
    (0xB784305015058050, .binit 0x843 false 5 20 21 22),
    (0xB88430500005AC00, .arrive 0x843 5 true 0 20 22),
    (0xB984300015000090, .expb 0x843 9 21),
    (0xBA00000007001850, .waitph 0 3 false 5 7 0)] : List (Nat × Instr)),
    decodeWord .lane p.1 = .ok p.2 := by decide

theorem test_decode_matrix1 : ∀ p ∈ ([
    (0xB7000018E0000040, .binitMatrix true 0 6 7),
    (0xB800001800000105, .arriveMatrix 2 false 5 6 0),
    (0xB900001800000005, .expbMatrix 5 6),
    (0xBA000018E00002C0, .waitphMatrix 5 true 0 6 7),
    (0xC01F800001000000, .tcfg true 15 3),
    (0xC15F807C01000010, .tld 1 true 15 31 3 16),
    (0xC240787C00000010, .tst 1 15 31 16),
    (0xC381890000000004, .mma 2 3 1 2 4),
    (0xC440090000000001, .mmaz 1 0 1 2 1),
    (0xC559000441010004, .mmas 1 true 2 1 2 3 4 16),
    (0xC641890000000004, .mpair 1 3 1 2 4),
    (0xC758101001000000, .mdrn 1 true 4 2 3),
    (0xC85C900000000000, .mdrnb 1 false 9 2 3),
    (0xC941800000000000, .mzero 1 3),
    (0xCA44D00000000000, .tmov 1 9 10),
    (0xCB44D00000000000, .ttrn 1 9 10)] : List (Nat × Instr)),
    decodeWord .matrix p.1 = .ok p.2 := by decide

theorem test_decode_matrix2 : ∀ p ∈ ([
    (0xCC00002401123456, .mli true 9 0x123456),
    (0xCD00002540000000, .madd 9 10),
    (0xCE00002546FFFFFF, .mbr 6 9 10 0xFFFFFF),
    (0xCF00000000000000, .mexit),
    (0xD000002400000000, .mprg 9),
    (0xD100002540FFFFFE, .maddi 9 10 0xFFFFFE)] : List (Nat × Instr)),
    decodeWord .matrix p.1 = .ok p.2 := by decide

theorem test_decode_copy1 : ∀ p ∈ ([
    (0xB7000C7000000040, .binitCopy true 0 6 7),
    (0xB8040C0000000005, .arriveCopy 2 false 5 6 0),
    (0xB9000C0000000005, .expbCopy 5 6),
    (0xBA0A0C7000000040, .waitphCopy 5 true 0 6 7),
    (0xD86BC22000000000, .dcopy (.mk 1 true false 5 7) 1 2),
    (0xD96BC221900003FF, .dmcast (.mk 1 true false 5 7) 1 2 3 4 7 63 1),
    (0xDA6BC22000000000, .dfill (.mk 1 true false 5 7) 1 2),
    (0xDB6BC22190000000, .dchain (.mk 1 true false 5 7) 1 2 3 4),
    (0xDC6BC22000000002, .dred (.mk 1 true false 5 7) 2 1 2),
    (0xDD6BC20000000000, .dcoll (.mk 1 true false 5 7) 1),
    (0xDE6BC2000000003F, .dproxy (.mk 1 true false 5 7) 1 63),
    (0xDF01C20000000000, .dstat 1 7),
    (0xE001C20000000000, .dresume 1 7),
    (0xE101C20000000000, .dcancel 1 7),
    (0xE200021003FFFFFF, .kli true 1 0x3FFFFFF),
    (0xE300022180000000, .kadd 1 2 3)] : List (Nat × Instr)),
    decodeWord .copy p.1 = .ok p.2 := by decide

theorem test_decode_copy2 : ∀ p ∈ ([
    (0xE400022003FFFFFE, .kaddi 1 2 0x3FFFFFE),
    (0xE500022303FFFFFE, .kbr 6 1 2 0x3FFFFFE),
    (0xE600000000000000, .kexit),
    (0xE72A022000000008, .kld true 5 1 2 8),
    (0xE81C022000000008, .kst true 6 1 2 8),
    (0xE901C20000000000, .kprg 1 7)] : List (Nat × Instr)),
    decodeWord .copy p.1 = .ok p.2 := by decide

end Sys2Proof.Tests
end

