-- ==== Sys2Proof/Tests/Small.lean ====
section
/-! SUPPORT. Small states for the tests: core 0 with one warp of two lanes, a group of the kernel of Boot.lean, an instruction in issue; and the
checks of Safety.lean as computable conditions. -/

namespace Sys2Proof.Tests

open Sys2Proof Sys2Proof.Machine

/-- `Form.Ready` as a computation. -/
def ready (f : Form) (c : Chip) (i : Issue) (w : Warp) : Bool :=
  (f.regChecks w).all (fun k => !k.2.1) && (lanesOf (f.active i w)).all (fun l => f.srcs.all (fun r => r.okIn w l))
  && (f.g == 0 || !c.pending i.eng (f.g.toNat / 32 % 64) 1) && (f.srcs ++ f.extra).all (fun r => !c.pending i.eng r.code.toNat r.n)
  && f.also.all (fun r => !c.pending i.eng r.1.toNat 1)
  && (match f.d with
    | none => true
    | some (d, n) => !c.pending i.eng d.toNat n)
  && f.srcs.all (fun r => !r.ia || (lanesOf (f.computing i w)).all (fun l => !c.pending i.eng (r.codeIn w l) r.n))
  && (lanesOf (f.active i w)).all (fun l => f.srcs.all (fun r => !r.poisIn w l) && (f.g == 0 || !w.pois (f.g.toNat / 32 % 64) l))

theorem ready_of {f : Form} {c : Chip} {i : Issue} {w : Warp} (h : ready f c i w = true) : f.Ready c i w := by
  simp only [ready, Bool.and_eq_true, List.all_eq_true, Bool.or_eq_true, Bool.not_eq_true', beq_iff_eq] at h
  obtain ⟨⟨⟨⟨⟨⟨⟨h1, h2⟩, h3⟩, h4⟩, h5⟩, h6⟩, h7⟩, h8⟩ := h
  refine ⟨⟨h1, h2⟩, ⟨fun hg => h3.resolve_left hg, h4, h5, ?_, ?_⟩, ?_⟩
  · intro d n hd
    rw [hd] at h6
    simpa using h6
  · intro r hr hia l hl
    have := h7 r hr
    rcases this with h | h
    · rw [hia] at h; cases h
    · exact h l hl
  · intro l hl
    exact ⟨fun _ r hr => (h8 l hl).1 r hr, fun hg => (h8 l hl).2.resolve_left hg⟩

/-- A computation that succeeds with a value of which a check holds. -/
theorem okWith {α ε : Type} {e : Except ε α} (P : α → Bool) (h : (match e with
    | .ok a => P a
    | .error _ => false) = true) : ∃ a, e = .ok a ∧ P a = true := by
  cases e with
  | ok a => exact ⟨a, rfl, h⟩
  | error e => cases h

/-- `inBounds` as a computation. -/
def inB : LaneAddr → Bool
  | .bad _ _ => false
  | _ => true

theorem inBounds_of {ls : List Nat} {at_ : Nat → LaneAddr} (h : ls.all (fun l => inB (at_ l)) = true) : ∀ l ∈ ls, Claims.inBounds (at_ l) := by
  intro l hl
  have h1 := List.all_eq_true.mp h l hl
  revert h1
  cases at_ l <;> simp [inB, Claims.inBounds]

theorem inBounds1 {a : LaneAddr} (h : inB a = true) : Claims.inBounds a := by
  cases a <;> simp_all [inB, Claims.inBounds]

/-- The word in issue: the first of a clause of two, SETA naming cf0 and SETB cf1. -/
def p0 : Pos := { addr := dw bootAddr, idx := 0, entered := true }

/-- The header of that clause. -/
def h0 : Header := { count := 1, wait := 0, setaEn := true, seta := 0, setbEn := true, setb := 1, trace := false }

/-- Both lanes of the warp in slot 0 of core 0 issue. -/
def i0 : Issue := { eng := .warp 0 0, lanes := 3, pos := p0, hdr := h0 }

/-- The same without completion flags. -/
def i1 : Issue := { i0 with hdr := { h0 with setaEn := false, setbEn := false, setb := 0 } }

/-- The matrix sequencer of core 0 issues. -/
def im : Issue := { i0 with eng := .matrix 0, lanes := 1 }

/-- The copy sequencer of core 0 issues. -/
def ic : Issue := { i0 with eng := .copy 0, lanes := 1 }

/-- A warp of two lanes; v1 is 5 and 6 in them, s1 is 7. -/
def w0 : Warp :=
  { Warp.fresh bootKernel 0 0 0 0 false [Lane.fresh p0 false none, Lane.fresh p0 false none] 0 with
    v := [(64, 5), (65, 6)], u := [(1, 7)], active := true }

/-- A running stream. -/
def st0 : Stream := { Stream.zero with st := 1, pos := p0 }

/-- Core 0 with a warp, and its sequencers running. -/
def core0 (w : Warp) : Core :=
  { Core.zero with warps := [(0, some w)], win := bootWins, tlb := [bootTlb], mat := { Mat.zero with s := st0 },
                   dray := { Dray.zero with s := st0 } }

/-- A part that runs, with that core and its gang, an issue in progress. -/
def c0 (i : Issue) (w : Warp) : Chip :=
  { Chip.reset with
    running := true, cur := some i, cores := [(0, core0 w)], clusters := [(0, { Cluster.zero with banks := bootBanks })],
    grids := [(0, some bootGrid)], nextGrid := 1, gangs := [(0, some (Gang.fresh 0 0 0 [bootGroup]))], nextGang := 1,
    owner := [(1, 1)] }

/-- The machine around a chip. -/
def sOf (c : Chip) : State := { chip := c, life := { Life.reset with state := 2 }, agenda := [] }

/-- The state in which the warp issues. -/
def s0 : State := sOf (c0 i0 w0)

/-- The warp in issue. -/
theorem issuing (i : Issue) (w : Warp) (h : i.eng = .warp 0 0) : Issuing (sOf (c0 i w)) i 0 0 w := ⟨rfl, h, rfl⟩

/-- No control fields but a guard that is always true. -/
def ct0 : Ctl := Ctl.ofGuard 0

/-- Two lanes: v1 5 and 6, v2 1.0 and 2.0, v3 0.5 in both, v4 0x10000 in both. -/
def wf : Warp := { w0 with v := [(64, 5), (65, 6), (128, 0x3F800000), (129, 0x40000000), (192, 0x3F000000), (193, 0x3F000000),
                                 (256, 0x10000), (257, 0x10000)] }

/-- The machine with another kernel of the gang. -/
def withKernel (k : Kernel) (c : Chip) : Chip := { c with grids := [(0, some { bootGrid with kernel := k })] }

/-- Slots: INT8 to FP32, FP32 to INT8, FP32 to BF16, FP32 to SX4, FP32 bounded by -1.0 and 1.0 with a trap, SX4 to FP32, FP32 to FP32, and BF16
to FP32. -/
def kernelF : Kernel :=
  { bootKernel with fs := [0x06, 0x60, 0x10, 0x40, 0x1000000000, 0x04, 0, 0x01],
                    bounds := [{ lo := 0xBF800000, hi := 0x3F800000, act := 3, nact := 2 }] }

/-- A state whose gang runs that kernel. -/
def sF : State := sOf (withKernel kernelF (c0 i0 wf))

theorem issuingF : Issuing sF i0 0 0 wf := ⟨rfl, rfl, rfl⟩

/-- A record of 256 elements at 0x20000, 8 bytes each, 8 bytes apart, that may be written. -/
def rec0 : BitVec 256 := BitVec.ofNat 256 (0x20000 + 8 * 2 ^ 64 + 0x100 * 2 ^ 96 + 8 * 2 ^ 128 + 0x10 * 2 ^ 136)

/-- The translation of the page at 0x20000, whose entry stands at 0x30000. -/
def dataTlb : TlbEntry := { tag := 1, level := 0, page := 2, leaf := dw (0x20000 + 0x3F), entryAt := 0x30000 }

/-- A warp with record q5; v1 is 0 and 0xFF in its lanes, v2 is 7 and 8. -/
def wm : Warp := { w0 with v := [(65, 0xFF), (128, 7), (129, 8)], q := aput 0 w0.q 5 rec0 }

/-- A chip whose warp may reach that page; byte 0x20000 of memory is 0x11. -/
def cm (i : Issue) (w : Warp) : Chip :=
  { c0 i w with
    cores := [(0, { core0 w with tlb := [bootTlb, dataTlb] })], owner := [(1, 1), (2, 1)], mem := [(0x20000, 0x11), (0x30000, 0x3F)] }

/-- The state in which that warp issues. -/
def sm : State := sOf (cm i0 wm)

theorem issuingM : Issuing sm i0 0 0 wm := ⟨rfl, rfl, rfl⟩

end Sys2Proof.Tests
end

