-- ==== Sys2Proof/Tests/Witness1.lean ====
section
/-! SUPPORT. Witnesses of the claims about lane instructions: each theorem applies a claim to a concrete state; the proofs of the claim's
hypotheses stand in its proof, so all of them hold together there. -/

namespace Sys2Proof.Tests

open Sys2Proof Sys2Proof.Machine Sys2Proof.Claims

theorem meets_IntegerResults (h : IntegerResults) : ∃ t, exec (.iadd ct0 3 1 1) s0 = .next t :=
  let ⟨_, h, _⟩ := h (.iadd ct0 3 1 1) _ rfl (by decide) s0 i0 0 0 w0 (issuing i0 w0 rfl) (ready_of (by decide)); ⟨_, h⟩

/-- At the last registers of the allocation, with a guard and an indirect source. -/
theorem meets_IntegerResults_bounds (h : IntegerResults) :
    ∃ t, exec (.imad { g := 0x020, ia := true, hq := true } 959 1 958 1023) s0 = .next t :=
  let ⟨_, h, _⟩ := h (.imad { g := 0x020, ia := true, hq := true } 959 1 958 1023) _ rfl (by decide) s0 i0 0 0 w0 (issuing i0 w0 rfl)
    (ready_of (by decide)); ⟨_, h⟩

theorem meets_PairResults (h : PairResults) : ∃ t, exec (.imad64 ct0 958 1 1 1022) s0 = .next t :=
  let ⟨_, h, _⟩ := h (.imad64 ct0 958 1 1 1022) _ rfl (by decide) s0 i0 0 0 w0 (issuing i0 w0 rfl) (ready_of (by decide)); ⟨_, h⟩

theorem meets_ShiftResults (h : ShiftResults) : ∃ t, exec (.shli 0 3 1 31) s0 = .next t :=
  let ⟨_, h, _⟩ := h (.shli 0 3 1 31) _ rfl (by decide) s0 i0 0 0 w0 (issuing i0 w0 rfl) (ready_of (by decide)); ⟨_, h⟩

theorem meets_FieldResults (h : Obligations.FieldResults) : ∃ t, exec (.bfi ct0 3 1 4 2) sF = .next t :=
  let ⟨_, h, _⟩ := h (.bfi ct0 3 1 4 2) _ rfl (by decide) sF i0 0 0 wf issuingF (ready_of (by decide)); ⟨_, h⟩

theorem meets_PredicateResults (h : PredicateResults) : ∃ t, exec (.iset ct0 3 1 2 11 31) sF = .next t :=
  let ⟨_, h, _⟩ := h (.iset ct0 3 1 2 11 31) _ rfl (by decide) sF i0 0 0 wf issuingF (ready_of (by decide)); ⟨_, h⟩

theorem meets_MoveResults (h : Obligations.MoveResults) : ∃ t, exec (.sel ct0 3 1 2 4) sF = .next t :=
  let ⟨_, h, _⟩ := h (.sel ct0 3 1 2 4) _ rfl (by decide) sF i0 0 0 wf issuingF (ready_of (by decide)); ⟨_, h⟩

theorem meets_FloatResults (h : FloatResults) : ∃ t, exec (.ffma ct0 5 2 3 2) sF = .next t :=
  let ⟨_, h, _⟩ := h (.ffma ct0 5 2 3 2) _ rfl (by decide) sF i0 0 0 wf issuingF (ready_of (by decide)); ⟨_, h⟩

theorem meets_FunctionResults (h : FunctionResults) : ∃ t, exec (.frsq ct0 5 2) sF = .next t :=
  let ⟨_, h, _⟩ := h (.frsq ct0 5 2) _ rfl (by decide) sF i0 0 0 wf issuingF (ready_of (by decide)); ⟨_, h⟩

theorem meets_CrossLanes (h : CrossLanes) : ∃ t, exec (.shfl ct0 5 2 3 true 1 2) sF = .next t :=
  let ⟨_, h, _⟩ := h (.shfl ct0 5 2 3 true 1 2) _ rfl (by decide) sF i0 0 0 wf issuingF (ready_of (by decide)); ⟨_, h⟩

theorem meets_WriteLaneResult (h : WriteLaneResult) : ∃ t, exec (.wrlane ct0 5 2 1) sF = .next t :=
  let ⟨_, h, _⟩ := h ct0 5 2 1 sF i0 0 0 wf issuingF (ready_of (by decide)); ⟨_, h⟩

theorem meets_IntegerConversions (h : IntegerConversions) :
    (∃ t, exec (.i2f ct0 true 5 1 0) sF = .next t) ∧ ∃ t, exec (.f2i ct0 false 5 2 1) sF = .next t :=
  let ⟨_, h1, _⟩ := (h ct0 true 5 1 0 sF i0 0 0 wf issuingF).1 (ready_of (by decide)) (by decide) (by decide)
  let ⟨_, h2, _⟩ := (h ct0 false 5 2 1 sF i0 0 0 wf issuingF).2 (ready_of (by decide)) (by decide) (by decide)
  ⟨⟨_, h1⟩, _, h2⟩

/-- FP32 to FP32 with a bound that 0.5 keeps, FP32 to packed BF16, FP32 to SX4, and the bound check alone. -/
theorem meets_BoundedConversions (h : BoundedConversions) :
    (∃ t, exec (.cvtf ct0 false 5 3 0 4) sF = .next t) ∧ (∃ t, exec (.cvtf ct0 true 5 2 3 2) sF = .next t)
    ∧ (∃ t, exec (.cvtf ct0 false 5 2 0 3) sF = .next t) ∧ ∃ t, exec (.bchk ct0 5 3 4) sF = .next t :=
  let ⟨_, h1, _⟩ := (h ct0 5 3 0 4 sF i0 0 0 wf issuingF).1 (ready_of (by decide)) (by decide) (by decide) (by decide +kernel)
  let ⟨_, h2, _⟩ := (h ct0 5 2 3 2 sF i0 0 0 wf issuingF).2.1 (ready_of (by decide)) (by decide) (by decide) (by decide +kernel)
  let ⟨_, h3, _⟩ := (h ct0 5 2 0 3 sF i0 0 0 wf issuingF).2.2.1 (ready_of (by decide)) (by decide) (by decide) (by decide +kernel)
  let ⟨_, h4, _⟩ := (h ct0 5 3 0 4 sF i0 0 0 wf issuingF).2.2.2 (ready_of (by decide)) (by decide) (by decide +kernel)
  ⟨⟨_, h1⟩, ⟨_, h2⟩, ⟨_, h3⟩, _, h4⟩

/-- The same bound for FP32 to FP32, to SX4 and to packed BF16. -/
def kernelBd : Kernel := { kernelF with fs := [0, 0, 0x1000000010, 0x1000000040, 0x1000000000, 0x04, 0, 0x01] }

/-- A state whose gang runs that kernel. -/
def sBd : State := sOf (withKernel kernelBd (c0 i0 wf))

theorem issuingBd : Issuing sBd i0 0 0 wf := ⟨rfl, rfl, rfl⟩

/-- 2.0 in lane 1 lies above its bound: in a plain conversion, a block, the check alone, and the second value of a pair. -/
theorem meets_ConversionRanges (h : ConversionRanges) :
    (∃ t, exec (.cvtf ct0 false 5 2 0 4) sBd = .next t) ∧ (∃ t, exec (.cvtf ct0 false 5 2 0 3) sBd = .next t)
    ∧ (∃ t, exec (.bchk ct0 5 2 4) sBd = .next t) ∧ ∃ t, exec (.cvtf ct0 true 5 3 2 2) sBd = .next t :=
  ⟨⟨_, (h ct0 5 2 0 4 sBd i0 0 0 wf 1 256 issuingBd).1 _ 0x58 (.inl ⟨rfl, rfl, by decide⟩) (ready_of (by decide)) (by decide) (by decide)
      (by decide +kernel) (by decide +kernel)⟩,
   ⟨_, (h ct0 5 2 0 3 sBd i0 0 0 wf 1 256 issuingBd).1 _ 0x58 (.inl ⟨rfl, rfl, by decide⟩) (ready_of (by decide)) (by decide) (by decide)
      (by decide +kernel) (by decide +kernel)⟩,
   ⟨_, (h ct0 5 2 0 4 sBd i0 0 0 wf 1 256 issuingBd).1 _ 0x5B (.inr ⟨rfl, rfl, by decide⟩) (ready_of (by decide)) (by decide) (by decide)
      (by decide +kernel) (by decide +kernel)⟩,
   _, (h ct0 5 3 2 2 sBd i0 0 0 wf 1 256 issuingBd).2 (ready_of (by decide)) (by decide) (by decide) (by decide) (by decide)
      (.inr (by decide +kernel)) (by decide +kernel)⟩

/-- An SX4 source of CVTF and BCHK, floats as the source of I2F, integers as the source of F2I; FP32 to FP32 as a pair. -/
theorem meets_ConversionFormats (h : ConversionFormats) :
    (∃ t, exec (.cvtf ct0 false 5 2 0 5) sF = .next t) ∧ (∃ t, exec (.i2f ct0 true 5 2 1) sF = .next t)
    ∧ (∃ t, exec (.f2i ct0 true 5 2 0) sF = .next t) ∧ (∃ t, exec (.bchk ct0 5 2 5) sF = .next t)
    ∧ ∃ t, exec (.cvtf ct0 true 5 2 3 6) sF = .next t :=
  let g (fs : BitVec 3) (pk : Bool) := h ct0 true pk 5 2 3 fs sF i0 0 0 wf issuingF
  ⟨⟨_, (g 5 false).1 _ 0x58 _ _ (.head _) (ready_of (by decide)) (by decide) (by decide)⟩,
   ⟨_, (g 1 false).1 _ 0x59 _ _ (.tail _ (.head _)) (ready_of (by decide)) (by decide) (by decide)⟩,
   ⟨_, (g 0 false).1 _ 0x5A _ _ (.tail _ (.tail _ (.head _))) (ready_of (by decide)) (by decide) (by decide)⟩,
   ⟨_, (g 5 false).1 _ 0x5B _ _ (.tail _ (.tail _ (.tail _ (.head _)))) (ready_of (by decide)) (by decide) (by decide)⟩,
   _, (g 6 true).2 (by decide) (by decide)⟩

theorem meets_WordsWithoutEffect (h : WordsWithoutEffect) :
    (∃ t, exec .nop s0 = .next t) ∧ ∃ t, exec (.clauseStart .lane { h0 with wait := 0xFFF }) s0 = .next t :=
  let ⟨_, h1, _⟩ := h.1 s0 i0 0 0 w0 (issuing i0 w0 rfl)
  let ⟨_, _, h2, _⟩ := h.2 { h0 with wait := 0xFFF } s0 i0 0 0 w0 (issuing i0 w0 rfl) (by decide)
  ⟨⟨_, h1⟩, _, h2⟩

theorem meets_ClauseClassTrap (h : ClauseClassTrap) : ∃ t, exec (.clauseStart .copy h0) s0 = .next t :=
  ⟨_, h .copy h0 s0 i0 0 0 w0 (issuing i0 w0 rfl) (by decide)⟩

/-- v4 and v5 hold the target 0x10000. -/
theorem meets_ControlTransfers (h : ControlTransfers) :
    (∃ t, exec (.bra 0 4) sF = .next t) ∧ (∃ t, exec (.call 0 958 4) sF = .next t) ∧ ∃ t, exec (.ret 0 false 4) sF = .next t :=
  let ⟨_, h1, _⟩ := (h 0 958 4 false 4 sF i0 0 0 wf issuingF).1 (ready_of (by decide))
  let ⟨_, h2, _⟩ := (h 0 958 4 false 4 sF i0 0 0 wf issuingF).2.1 (ready_of (by decide))
  let ⟨_, h3, _⟩ := (h 0 958 4 false 4 sF i0 0 0 wf issuingF).2.2 (.ret 0 false 4) 0xB3 (by simp) (ready_of (by decide)) (by decide)
  ⟨⟨_, h1⟩, ⟨_, h2⟩, _, h3⟩

/-- The pair v2, v3 names no canonical address, v1 and s0 address 5. -/
theorem meets_TransferTraps (h : TransferTraps) :
    (∃ t, exec (.bri 0 false 2) sF = .next t) ∧ ∃ t, exec (.bri 0 false 1) { sF with chip := withKernel kernelF (c0 i0 w0) } = .next t :=
  ⟨⟨_, (h 0 2 false sF i0 0 0 wf 0 (.bri 0 false 2) 0xB1 (by simp) issuingF (ready_of (by decide)) (by decide) (by decide)).1 (by decide)⟩,
   _, (h 0 1 false _ i0 0 0 w0 0 (.bri 0 false 1) 0xB1 (by simp) ⟨rfl, rfl, rfl⟩ (ready_of (by decide)) (by decide) (by decide)).2 (by decide)
     (by decide)⟩

/-- A warp of the group, and a child's warp whose lanes have joined barrier 1 of core 0. -/
theorem meets_ExitResult (h : ExitResult) :
    (∃ t, exec (.exit 0) s0 = .next t)
    ∧ ∃ t, exec (.exit 0) (sOf (c0 i0 { w0 with child := true, lanes := [Lane.fresh p0 false (some (0, 1)), Lane.fresh p0 false (some (0, 1))] }))
        = .next t :=
  ⟨⟨_, (h 0 s0 i0 0 0 w0 (issuing i0 w0 rfl) (ready_of (by decide))).1 rfl⟩,
   _, (h 0 _ i0 0 0 _ (issuing i0 _ rfl) (ready_of (by decide))).2 rfl (by decide) (by decide +kernel)⟩

theorem meets_SpecialRegisterRead (h : SpecialRegisterRead) : ∃ t, exec (.rdsr 0 958 0x0C0) s0 = .next t :=
  let ⟨_, _, _, h, _⟩ := h 0 958 0x0C0 s0 i0 0 0 w0 (issuing i0 w0 rfl) (ready_of (by decide)) (by decide) (.inl (by decide)); ⟨_, h⟩

/-- At the last address of a run of registers. -/
theorem meets_SpecialRegisterRead_last (h : SpecialRegisterRead) : ∃ t, exec (.rdsr 0 958 0x0C9) s0 = .next t :=
  let ⟨_, _, _, h, _⟩ := h 0 958 0x0C9 s0 i0 0 0 w0 (issuing i0 w0 rfl) (ready_of (by decide)) (by decide) (.inr (by decide)); ⟨_, h⟩

/-- A register of the group, a trap register in handler mode, a register without a field to write. -/
theorem meets_SpecialRegisterWritten (h : SpecialRegisterWritten) :
    (∃ t, exec (.wrsr 0 0x021 1) s0 = .next t) ∧ (∃ t, exec (.wrsr 0 0x0C1 1) (sOf (c0 i0 { w0 with handler := true })) = .next t)
    ∧ ∃ t, exec (.wrsr 0 0x0C9 1) s0 = .next t :=
  let ⟨_, _, h1, _⟩ := (h 0 1 0x021 s0 i0 0 0 w0 (issuing i0 w0 rfl) (ready_of (by decide)) (by decide)).1 (.inl (by decide))
  let ⟨_, _, h2, _⟩ := (h 0 1 0x0C1 _ i0 0 0 { w0 with handler := true } (issuing i0 _ rfl) (ready_of (by decide)) (by decide)).1
    (.inr ⟨by decide, rfl⟩)
  ⟨⟨_, h1⟩, ⟨_, h2⟩, _, (h 0 1 0x0C9 s0 i0 0 0 w0 (issuing i0 w0 rfl) (ready_of (by decide)) (by decide)).2 (by decide) (by decide)⟩

/-- The sticky bits, the trap registers in handler mode and outside it, the first privileged address. -/
theorem meets_SpecialRegisterWrite (h : SpecialRegisterWrite) :
    (∃ t, exec (.wrsr 0 0x020 1) s0 = .next t) ∧ (∃ t, exec (.wrsr 0 0x0C2 1) (sOf (c0 i0 { w0 with handler := true })) = .next t)
    ∧ (∃ t, exec (.wrsr 0 0x0C1 1) s0 = .next t) ∧ ∃ t, exec (.wrsr 0 0x400 1) s0 = .next t :=
  let ⟨_, h1, _⟩ := (h 0 1 0x020 s0 i0 0 0 w0 (issuing i0 w0 rfl) (ready_of (by decide)) (by decide)).1 rfl
  let ⟨_, h2, _⟩ := (h 0 1 0x0C2 _ i0 0 0 { w0 with handler := true } (issuing i0 _ rfl) (ready_of (by decide)) (by decide)).2.1 rfl _
    (List.mem_cons_of_mem _ (List.mem_cons_of_mem _ (List.mem_cons_self ..)))
  let h3 := (h 0 1 0x0C1 s0 i0 0 0 w0 (issuing i0 w0 rfl) (ready_of (by decide)) (by decide)).2.2.1 rfl (by decide)
  let h4 := (h 0 1 0x400 s0 i0 0 0 w0 (issuing i0 w0 rfl) (ready_of (by decide)) (by decide)).2.2.2 (by decide)
  ⟨⟨_, h1⟩, ⟨_, h2⟩, ⟨_, h3⟩, _, h4⟩

/-- The last privileged address; a privileged and an assigned one under a guard that fails in both lanes. -/
theorem meets_SpecialRegisterGuard (h : SpecialRegisterGuard) :
    (∃ t, exec (.rdsr 0 3 0x7FF) s0 = .next t) ∧ (∃ t, exec (.wrsr 0x03F 0x400 1) s0 = .next t)
    ∧ ∃ t, exec (.rdsr 0x03F 3 0x020) s0 = .next t :=
  let ⟨_, h2, _⟩ := (h 0x03F 1 3 0x400 s0 i0 0 0 w0 (issuing i0 w0 rfl)).2 _ _ (.head _) (ready_of (by decide)) (by decide) (by decide)
    (.inl (by decide))
  let ⟨_, h3, _⟩ := (h 0x03F 1 3 0x020 s0 i0 0 0 w0 (issuing i0 w0 rfl)).2 _ _ (.tail _ (.head _)) (ready_of (by decide)) (by decide) (by decide)
    (.inr (by decide))
  ⟨⟨_, (h 0 1 3 0x7FF s0 i0 0 0 w0 (issuing i0 w0 rfl)).1 (ready_of (by decide)) (by decide) (by decide)⟩, ⟨_, h2⟩, _, h3⟩

theorem meets_WaitSelection (h : WaitSelection) : ∃ t, exec (.waitselWrite 0 1) s0 = .next t :=
  let ⟨_, h, _⟩ := h 0 1 s0 i0 0 0 w0 (issuing i0 w0 rfl) (ready_of (by decide)) (by decide); ⟨_, h⟩

theorem meets_SectionResult (h : SectionResult) : (∃ t, exec (.nopre 0 true 3) s0 = .next t) ∧ ∃ t, exec (.nopre 0 false 0) s0 = .next t :=
  let ⟨_, h1, _⟩ := (h 0 3 s0 i0 0 0 w0 _ (issuing i0 w0 rfl) rfl).1 (ready_of (by decide)) (by decide)
  let ⟨_, h2, _⟩ := (h 0 0 s0 i0 0 0 w0 _ (issuing i0 w0 rfl) rfl).2 (ready_of (by decide)) (by decide)
  ⟨⟨_, h1⟩, _, h2⟩

/-- The flag stands at 62, the last count from which it may rise. -/
theorem meets_EventRecord (h : EventRecord) : ∃ t, exec (.evt 0 1 0xFFF) (sOf (c0 i0 { w0 with cf := [(0, 62)] })) = .next t :=
  ⟨_, h 0 1 0xFFF _ i0 0 0 _ (issuing i0 _ rfl) (ready_of (by decide)) (by decide) (by decide)⟩

theorem meets_LongLatencyIssue (h : LongLatencyIssue) : ((c0 i0 w0).issueOp i0 (Op.blank 0x94 (some 0) 0)).nextOp = 1 :=
  let ⟨_, _, h, _⟩ := h (c0 i0 w0) i0 (Op.blank 0x94 (some 0) 0) 0 0 w0 rfl rfl; h

/-- An operation that waits for nothing, of a lane set that waits for it. -/
def oDone : Op := { Op.blank 0x81 (some 0) 0 with eng := .warp 0 0, mask := 3, writes := [(64, 9, false)] }

theorem meets_OperationCompletes (h : OperationCompletes) :
    ∃ t, exec (.opComplete 0) (sOf { c0 i0 { w0 with cf := [(0, 1)] } with ops := [oDone] }) = .next t :=
  let ⟨_, _, h, _⟩ := h (sOf { c0 i0 { w0 with cf := [(0, 1)] } with ops := [oDone] }) oDone 0 0 _ rfl rfl rfl rfl rfl rfl rfl (by decide)
    ⟨_, rfl, by decide⟩
  ⟨_, h⟩

/-- A trap at the largest place and queue that the trap registers name. -/
def trap0 : TrapInfo :=
  { syn := 0x04000000, pos := p0, posted := false, kind := 3, queue := 7, lane := 63, addr := 5, mask := 3, inner := 0, stopped := 0 }

theorem meets_TrapEntry (h : TrapEntry) : ∃ w, ((c0 i0 w0).trapEnter 0 0 trap0).warp 0 0 = some w :=
  let ⟨_, h, _⟩ := h (c0 i0 w0) 0 0 w0 trap0 _ _ rfl rfl rfl (by decide) rfl (by decide) (by decide) (by decide) (by decide) (by decide)
    (by decide)
  ⟨_, h⟩

/-- Poison, a trap in handler mode, a kernel without a handler. -/
theorem meets_FatalTrap (h : FatalTrap) :
    (∃ k, ((c0 i0 w0).trapEnter 0 0 { trap0 with syn := 0x0C000000 }).gang 0 = some k)
    ∧ (∃ k, ((c0 i0 { w0 with handler := true }).trapEnter 0 0 trap0).gang 0 = some k)
    ∧ ∃ k, ((withKernel { bootKernel with handler := 0 } (c0 i0 w0)).trapEnter 0 0 trap0).gang 0 = some k :=
  let ⟨_, h1, _⟩ := h (c0 i0 w0) 0 0 w0 { trap0 with syn := 0x0C000000 } _ _ _ rfl rfl rfl rfl (by decide) (by decide)
  let ⟨_, h2, _⟩ := h (c0 i0 { w0 with handler := true }) 0 0 _ trap0 _ _ _ rfl rfl rfl rfl (by decide) (.inr (.inl rfl))
  let ⟨_, h3, _⟩ := h (withKernel { bootKernel with handler := 0 } (c0 i0 w0)) 0 0 w0 trap0 _ _ _ rfl rfl rfl rfl (by decide) (by decide)
  ⟨⟨_, h1⟩, ⟨_, h2⟩, _, h3⟩

theorem meets_SoftwareTrap (h : Obligations.SoftwareTrap) :
    (∃ t, exec (.trap 0 true 0xFFFF) s0 = .next t) ∧ ∃ t, exec (.trap 0x03F false 1) s0 = .next t :=
  let ⟨_, h2, _⟩ := (h 0x03F false 1 s0 i0 0 0 w0 (issuing i0 w0 rfl) (ready_of (by decide))).2 (by decide)
  ⟨⟨_, (h 0 true 0xFFFF s0 i0 0 0 w0 (issuing i0 w0 rfl) (ready_of (by decide))).1 (by decide)⟩, _, h2⟩

/-- A warp in its handler after a posted trap. -/
def wh : Warp := { w0 with handler := true, tr := { TrapRegs.zero with posted := true } }

theorem lanes_of_wh (l : Nat) (h : (wh.lane l).exited = false) : i0.lanes.getLsbD l = true := by
  match l with
  | 0 => rfl
  | 1 => rfl
  | l + 2 => simp [wh, w0, Warp.fresh, Warp.lane] at h

theorem meets_TrapReturn (h : TrapReturn) : ∃ t, exec (.rft 0) (sOf (c0 i0 wh)) = .next t :=
  let ⟨_, h, _⟩ := h (sOf (c0 i0 wh)) i0 0 0 wh (issuing i0 wh rfl) (ready_of (by decide)) (by decide) rfl lanes_of_wh rfl rfl; ⟨_, h⟩

/-- A warp in its handler after a precise trap at the second word of the clause at 0x10000, whose header is in memory. -/
def wp : Warp := { wh with tr := { TrapRegs.zero with pc := dw bootAddr, idx := 1, ent := true, mask0 := 1 } }

/-- The chip with that header. -/
def cp : Chip := { c0 i0 wp with mem := aputN 0 [] bootAddr (bytesOf 8 (h0.toNat .lane)) }

theorem meets_PreciseReturn (h : PreciseReturn) : ∃ t, exec (.rft 0) (sOf cp) = .next t := by
  obtain ⟨⟨x, c⟩, hf, hv⟩ := okWith (e := cp.fetchAt 0 (cp.tagOf wp.gang) wp.tr.pc.toNat)
    (fun v => decide (wp.tr.idx.toNat ≤ v.1 / 2 ^ 52 % 16 + 1) && decide (v.2.warp 0 0 = some wp)) (by decide +kernel)
  simp only [Bool.and_eq_true, decide_eq_true_eq] at hv
  obtain ⟨_, h, _⟩ := h (sOf cp) i0 0 0 wp x c ⟨rfl, rfl, rfl⟩ (ready_of (by decide)) (by decide) rfl lanes_of_wh rfl rfl (by decide) (by decide)
    hf hv.1 hv.2
  exact ⟨_, h⟩

end Sys2Proof.Tests
end

