-- ==== Sys2Proof/Tests/Witness10.lean ====
section
/-! SUPPORT. Witnesses of the claims about the fault ring, context kills, power-up, resets, health, trace, memory errors and steps. -/

namespace Sys2Proof.Tests

open Sys2Proof Sys2Proof.Machine Sys2Proof.Claims

-- one theorem at a time: proofs that wait for the kernel in parallel would hold a thread each
set_option Elab.async false

/-- A page fault of a warp of core 0, or of its Dray, in the ring or waiting for room in it. -/
def pageF (p : Party) (ring : Bool) : PageFault :=
  { id := 5, addr := 0x400000, kind := 1, level := 0, tag := 1, engine := 0, cid := 9, op := 0x81, gang := 0, party := p, ring := ring, failed := false,
    resolved := false, pos := p0 }

/-- The machine with that fault, its gang stopped or running. -/
def sPf (f : PageFault) (phase : Nat) : State :=
  sOf { c0 i0 w0 with faults := [f], gangs := [(0, some { Gang.fresh 0 0 0 [bootGroup] with phase := phase })],
                      priv := { PrivRegs.reset with pfack := 3, pfhead := 5 } }

theorem meets_FaultRing (h : FaultRing) :
    (∃ t, exec (.pfackWrite 2) (sPf (pageF (.drayStream 0) true) 0) = .next t) ∧ (∃ t, exec (.pfackWrite 3) (sPf (pageF (.drayStream 0) true) 0) = .next t)
    ∧ (∃ t, exec (.pfackWrite 4) (sPf (pageF (.drayStream 0) false) 0) = .next t)
    ∧ (∃ t, exec (.pfdoneResolve 5) (sPf (pageF (.drayStream 0) true) 0) = .next t)
    ∧ (∃ t, exec (.pfdoneFail 5) (sPf (pageF (.lanes 0 0 3) true) 2) = .next t) ∧ (∃ t, exec (.pfdoneResolve 5) (sPf (pageF (.lanes 0 0 3) true) 0) = .next t)
    ∧ ∃ t, exec (.pfdoneFail 5) (sPf (pageF (.lanes 0 0 3) true) 0) = .next t :=
  let d := pageF (.drayStream 0) true
  let l := pageF (.lanes 0 0 3) true
  let ⟨_, h3, _⟩ := ((h (sPf (pageF (.drayStream 0) false) 0) rfl).1 4).2.2 (pageF (.drayStream 0) false) (by decide) rfl rfl (by decide)
  ⟨⟨_, ((h (sPf d 0) rfl).1 2).1 (by decide)⟩, ⟨_, ((h (sPf d 0) rfl).1 3).2.1 (by decide) (fun f hf => by rcases List.mem_singleton.mp hf with rfl; rfl)⟩,
   ⟨_, h3⟩, ⟨_, ((h (sPf d 0) rfl).2 5 d rfl).1 rfl⟩, ⟨_, (((h (sPf l 2) rfl).2 5 l rfl).2.1 _ rfl rfl (by decide)).2⟩,
   ⟨_, ((h (sPf l 0) rfl).2 5 l rfl).2.2.1 _ rfl rfl rfl rfl⟩, _, ((h (sPf l 0) rfl).2 5 l rfl).2.2.2 _ 0 0 3 w0 rfl rfl rfl rfl rfl⟩

theorem meets_ContextKill (h : ContextKill) : (∃ t, exec (.killWrite 1) s0 = .next t) ∧ ∃ t, exec (.pwselWrite 7) s0 = .next t :=
  let ⟨_, h1, _⟩ := (h s0 rfl).1 1 (by decide +kernel)
  ⟨⟨_, h1⟩, _, (h s0 rfl).2 7⟩

/-- What a power-up finds: all good, or bad from a step on. -/
def pup (n : Nat) : PowerUp :=
  { own := { rsa := true, slh := true }, main := { rsa := true, slh := n != 1 }, lpddr := n != 2, arrays := n != 3, hbm := n != 4, pcie := n != 5,
    badCores := [3], badSlicePairs := if n = 6 then [0, 1] else [], badPorts := [7] }

/-- A part in self-test. -/
def sSelf : State := { State.reset with life := { Life.reset with state := 1 } }

theorem meets_PowerUpSequence (h : PowerUpSequence) :
    (∃ t, exec (.powerUpSequence (pup 0)) s0 = .next t) ∧ (∀ n ∈ [0, 1, 2], ∃ t, exec (.powerUpSequence (pup n)) State.reset = .next t)
    ∧ (∀ n ∈ [3, 4, 5, 6], ∃ t, exec (.powerUpSequence (pup n)) sSelf = .next t) ∧ ∃ t, exec (.powerUpSequence (pup 0)) sSelf = .next t := by
  obtain ⟨f, g⟩ := Option.isSome_iff_exists.mp (show (sSelf.life.selfTest (pup 0)).nextFuse.isSome = true by decide +kernel)
  have k := fun n => (h State.reset (pup n)).2.1 rfl
  have m := fun n => (h sSelf (pup n)).2.2 rfl
  obtain ⟨_, h0, _⟩ := (m 0).2.2.2.2 f rfl rfl rfl g
  refine ⟨⟨_, (h s0 (pup 0)).1 (by decide)⟩, fun n hn => ?_, fun n hn => ?_, _, h0⟩
  · simp only [List.mem_cons, List.not_mem_nil, or_false] at hn
    rcases hn with rfl | rfl | rfl
    · obtain ⟨_, x, _⟩ := (k 0).2.2 ⟨rfl, rfl, rfl, rfl⟩ rfl
      exact ⟨_, x⟩
    · obtain ⟨_, x, _⟩ := (k 1).1 (fun v => by cases v.2.2.2)
      exact ⟨_, x⟩
    · obtain ⟨_, x, _⟩ := (k 2).2.1 ⟨rfl, rfl, rfl, rfl⟩ rfl
      exact ⟨_, x⟩
  · simp only [List.mem_cons, List.not_mem_nil, or_false] at hn
    rcases hn with rfl | rfl | rfl | rfl
    · obtain ⟨_, x, _⟩ := (m 3).1 rfl
      exact ⟨_, x⟩
    · obtain ⟨_, x, _⟩ := (m 4).2.1 rfl rfl
      exact ⟨_, x⟩
    · obtain ⟨_, x, _⟩ := (m 5).2.2.1 rfl rfl rfl
      exact ⟨_, x⟩
    · obtain ⟨_, x, _⟩ := (m 6).2.2.2.1 rfl rfl rfl (by decide +kernel)
      exact ⟨_, x⟩

theorem meets_Resets (h : Resets) : (∃ t, exec .pcieFundamentalReset s0 = .next t) ∧ ∃ t, exec .powerFault s0 = .next t :=
  let ⟨_, h1, _⟩ := h s0 .pcieFundamentalReset 2 (by simp)
  let ⟨_, h2, _⟩ := h s0 .powerFault 5 (by simp)
  ⟨⟨_, h1⟩, _, h2⟩

/-- The machine with in-field tests on, the next due; frames for the test, or none; a test running. -/
def sIft (frames active : Bool) : State :=
  sOf { c0 i0 w0 with gangs := if active then [(0, some { Gang.fresh 0 0 0 [bootGroup] with phase := 2 })] else (c0 i0 w0).gangs,
                      iftGangs := if active then [0] else [], resvFrames := if frames then 0 else 1000000000000,
                      priv := { PrivRegs.reset with iftEn := true, iftActive := active, frpool := 64 } }

/-- A refit: to 860 mV with the guard band, or to 861. -/
def fitOf (mv : Nat) : Fit := { delay := 400, mv := mv, temp := 60 }

theorem meets_ManagementSteps (h : ManagementSteps) :
    (∃ t, exec (.thermalThrottle true) s0 = .next t) ∧ (∃ t, exec (.ageingRefit 287 (fitOf 848)) s0 = .next t)
    ∧ (∃ t, exec (.ageingRefit 0 (fitOf 849)) s0 = .next t) ∧ (∃ t, exec (.ageingRefit 0 (fitOf 849)) (sIft true true) = .next t)
    ∧ (∃ t, exec .spdmAttestation s0 = .next t) ∧ (∃ t, exec (.pldmSensorRead (.residual 287)) s0 = .next t)
    ∧ (∃ t, exec (.pldmSensorRead .nextStep) s0 = .next t) ∧ (∃ t, exec (.pldmSensorRead .untilHold) s0 = .next t)
    ∧ (∃ t, act (.mgmtRead (.trace 0 16)) s0 = .next t) ∧ ∃ t, act (.discipline 5 200) s0 = .next t := by
  obtain ⟨k1, k2, k3, k4, k5, k6, k7, k8, k9⟩ := h s0
  obtain ⟨_, h2, _⟩ := k2 287 (fitOf 848) rfl (by decide) (fun x => by cases x)
  obtain ⟨_, h3, _⟩ := k2 0 (fitOf 849) rfl (by decide) (fun x => by cases x)
  exact ⟨⟨_, k1 true⟩, ⟨_, h2⟩, ⟨_, h3⟩, ⟨_, (h (sIft true true)).2.2.1 0 (fitOf 849) rfl (by decide) rfl (by decide)⟩,
    ⟨_, k4⟩, ⟨_, k5 287⟩, ⟨_, k6⟩, ⟨_, k7⟩, ⟨_, k8 0 16⟩, _, k9 5 200⟩

theorem meets_InFieldTest (h : InFieldTest) :
    (∃ t, exec .iftStart (sIft false false) = .next t) ∧ (∃ t, exec .iftStart (sIft true false) = .next t)
    ∧ (∃ t, exec (.iftResult .pass) (sIft true true) = .next t) ∧ ∃ t, exec (.iftResult (.fail 2 true false)) (sIft true true) = .next t := by
  obtain ⟨p, g⟩ := Option.isSome_iff_exists.mp (show (sIft true false).chip.nextPair.isSome = true by decide +kernel)
  have e : p = 0 := Option.some.inj (g.symm.trans (by decide +kernel))
  subst e
  have hph : ∀ x ∈ (sIft true true).chip.iftGangs, ∀ k, (sIft true true).chip.gang x = some k → 2 ≤ k.phase := fun x hx k hk => by
    rcases List.mem_singleton.mp hx with rfl
    rcases Option.some.inj ((show (sIft true true).chip.gang 0 = some { Gang.fresh 0 0 0 [bootGroup] with phase := 2 } from rfl).symm.trans hk) with rfl
    decide
  obtain ⟨_, h2, _⟩ := ((h (sIft true false)).1 0 rfl rfl rfl (by decide) g).2 (by decide +kernel) (by decide +kernel)
  obtain ⟨_, h3, _⟩ := ((h (sIft true true)).2 rfl hph).1
  obtain ⟨_, h4, _⟩ := ((h (sIft true true)).2 rfl hph).2 2 true false
  exact ⟨⟨_, ((h (sIft false false)).1 0 rfl rfl rfl (by decide) (by decide +kernel)).1 (by decide +kernel)⟩, ⟨_, h2⟩, ⟨_, h3⟩, _, h4⟩

/-- A part in Hold, with nothing to take. -/
def sHold : State := { State.reset with life := { Life.reset with state := 3, step := 2 } }

theorem meets_HoldUntilReset (h : HoldUntilReset) : ∀ t, step sHold = .next t → t.life.state = 3 := fun t ht =>
  (h sHold t rfl ht).resolve_right (fun ⟨_, _, _, x⟩ => by cases x)

/-- A part that is legal, and takes a step. -/
theorem meets_PartLegality (h : PartLegality) : ∀ t, step State.reset = .next t → PartLegal t.life := fun t ht =>
  h State.reset t ⟨by decide, (fun x => by cases x), fun _ => rfl, by decide, by decide, by decide, fun p hp => by cases hp⟩ ht

/-- A record of the clock's source. -/
def rec31 : Caseg := { time := 0, cid := 9, source := 0xC31, type := 2, flags := 0, payload := 1 }

/-- A store that is to take it in its last slot, frozen or not. -/
def sTr (freeze : Bool) : State :=
  sOf { c0 i0 w0 with trace := { Chip.reset.trace with freeze := freeze, index := 536870783, bufs := [(0xC31, { recs := [rec31], drop := false })] } }

theorem meets_TraceAndTime (h : Obligations.TraceAndTime) :
    (∃ t, exec (.traceRecordWrite 0xC31) (sTr false) = .next t) ∧ (∃ t, exec (.traceRecordWrite 0xC31) (sTr true) = .next t)
    ∧ (∃ t, exec (.traceRecordWrite 0) (sTr false) = .next t) ∧ ∃ t, exec (.timeLockChange true 5 999999999 7) (sTr false) = .next t :=
  let ⟨_, h1, _⟩ := (h (sTr false) 0xC31 rec31 []).1 (by decide +kernel)
  let ⟨_, h2, _⟩ := (h (sTr true) 0xC31 rec31 []).1 (by decide +kernel)
  let ⟨_, h4, _⟩ := (h (sTr false) 0 rec31 []).2.2 true 5 999999999 7 (by decide)
  ⟨⟨_, h1⟩, ⟨_, h2⟩, ⟨_, (h (sTr false) 0 rec31 []).2.1 (by decide +kernel)⟩, _, h4⟩

/-- A line of the weight tier held since time 0, at 10 ms; a detector's entry of cycle 0, in cycle 1024. -/
def heldL : HeldLine := { slice := 3, line := 0x10000010000000040, since := 0, expired := false }

def sEcc : State :=
  sOf { c0 i0 w0 with held := [heldL], time := 10000000, cycle := 1024, detectors := [(4, [{ next := 0x40, run := 2, last := 0 }])] }

theorem meets_MemoryErrors (h : Obligations.MemoryErrors) :
    (∃ t, exec (.eccCorrectable (.memory 0x40)) sEcc = .next t) ∧ (∃ t, exec (.eccUncorrectable (.memory 0x10000000080)) sEcc = .next t)
    ∧ (∃ t, exec (.eccUncorrectable (.bank 0 1 16383)) sEcc = .next t) ∧ (∃ t, exec (.eccUncorrectable (.l1 0 0x10000)) sEcc = .next t)
    ∧ (∃ t, exec (.weightHoldExpire 0x10000000040) sEcc = .next t) ∧ ∃ t, exec (.streamEntryExpire 4 0) sEcc = .next t :=
  let ⟨_, h2, _⟩ := (h sEcc).2.1 0x10000000080 (by decide)
  let ⟨_, h3, _⟩ := (h sEcc).2.2.1 0 1 16383 (by decide)
  let ⟨_, h4, _⟩ := (h sEcc).2.2.2.1 0 0x10000
  let ⟨_, h5, _⟩ := (h sEcc).2.2.2.2.1 0x10000000040 heldL (by decide +kernel) rfl (by decide)
  ⟨⟨_, (h sEcc).1 _⟩, ⟨_, h2⟩, ⟨_, h3⟩, ⟨_, h4⟩, ⟨_, h5⟩, _,
    (h sEcc).2.2.2.2.2 4 0 { next := 0x40, run := 2, last := 0 } (by decide +kernel) (by decide)⟩

/-- The machine that is to issue IADD v1, v2, v3 as the first word of a clause; a header. -/
def wordI : Nat := 0x080000040200C000

def sWord : State := bootState State.reset wordI

def sHdr : State := bootState State.reset 0xF030008000000000

/-- The machine once that step has left the agenda. -/
def eW : Eng := .warp 0 0

def cW0 : Chip := sWord.chip

def cW1 : Chip := cW0.keepHeader eW (cW0.lanesAt eW (bootPos wordI)) (Header.ofNat (bootHeader .lane))

/-- A computation that succeeds with a given value. -/
theorem ok_of {α ε : Type} [DecidableEq α] {e : Except ε α} {x : α} (h : (match e with
    | .ok a => decide (a = x)
    | .error _ => false) = true) : e = .ok x := by
  cases e with
  | ok a => rw [of_decide_eq_true h]
  | error _ => cases h

theorem fetchW0 : cW0.fetchAt 0 1 bootAddr = .ok (bootHeader .lane, cW0) := ok_of (by decide +kernel)

theorem fetchW1 : cW1.fetchAt 0 (cW1.tagOf (cW1.gangOf eW)) (bootPos wordI).word.toNat = .ok (wordI, cW1) := ok_of (by decide +kernel)

/-- The same issue chosen by the part for its cycle, one lane of it. -/
def sPlan : State := { sWord with agenda := [], chip := { sWord.chip with plan := some [.issue eW (bootPos wordI) 1] } }

/-- What stands at the position once the plan has been taken. -/
def sPlan1 : State := { sPlan with chip := { sPlan.chip with plan := some [] } }

/-- Both lanes of core 0's warp wait at a header that they fetched once. -/
def sHeld : State :=
  let l : Lane := { Lane.fresh (Pos.at bootAddr) false none with
    hdr := some h0, wait := some { on := 0, phase := 0, state := 2, scope := 0, since := 0, cid := 0, met := false } }
  { sOf (c0 i0 { w0 with lanes := [l, l] }) with agenda := [.issue eW (Pos.at bootAddr)] }

/-- An event of the Muster Office behind whose record it stalls. -/
def sStall : State :=
  let b : TraceBuf := { recs := List.replicate 17 rec31, drop := false }
  { sOf { c0 i0 w0 with trace := { Chip.reset.trace with bufs := [(0xC00, b)] } } with agenda := [.event .gridAdmit] }

/-- The lanes that stand at the header that the machine of a header word has in place. -/
def hdrLanes : BitVec 64 := sHdr.chip.lanesAt eW (bootPos 0xF030008000000000)

theorem fetchHdr : sHdr.chip.fetchAt 0 1 bootAddr = .ok (0xF030008000000000, sHdr.chip) := ok_of (by decide +kernel)

theorem meets_StepRunsDecoded (h : Obligations.StepRunsDecoded) :
    step sWord = Out.map (State.issued eW (cW0.lanesAt eW (bootPos wordI)) (bootPos wordI) cW0.nextOp) (exec (.iadd ct0 1 2 3)
      (issuingOn { sWord with agenda := [] } cW1 (issueOf eW (cW0.lanesAt eW (bootPos wordI)) (bootPos wordI) (Header.ofNat (bootHeader .lane)))))
    ∧ (∃ k, step sHdr = Out.map (State.issued eW hdrLanes (bootPos 0xF030008000000000) sHdr.chip.nextOp) (exec k
      (issuingOn { sHdr with agenda := [] } sHdr.chip (issueOf eW hdrLanes (bootPos 0xF030008000000000) Header.none))))
    ∧ step sHeld = Out.map (State.issued eW 3 (Pos.at bootAddr) sHeld.chip.nextOp) (exec (.clauseStart .lane h0)
      (issuingOn { sHeld with agenda := [] } sHeld.chip (issueOf eW 3 (Pos.at bootAddr) Header.none)))
    ∧ step { State.reset with agenda := [.event (.flitReplayTimeout 0)] } = exec (.flitReplayTimeout 0) State.reset
    ∧ step sStall = leftAlone sStall
    ∧ RunsDecoded sPlan1 eW (bootPos wordI) (sPlan1.chip.lanesAt eW (bootPos wordI) &&& 1) (step sPlan) := by
  have k := (h sWord).2.2.1 eW (bootPos wordI) [] rfl (by decide +kernel)
  have m := (h sHeld).2.2.1 eW (Pos.at bootAddr) [] rfl (by decide +kernel)
  obtain ⟨j, hj, _⟩ := okWith (e := decodeHeader .lane 0xF030008000000000) (fun _ => true) (by decide +kernel)
  have e3 : sHeld.chip.lanesAt eW (Pos.at bootAddr) = 3 := by decide +kernel
  exact ⟨k.2.2.2 (bootHeader .lane) cW0 wordI cW1 _ rfl (by decide +kernel) fetchW0 (by decide +kernel) fetchW1 (ok_of (by decide +kernel)),
    ⟨j, ((h sHdr).2.2.1 eW (bootPos 0xF030008000000000) [] rfl (by decide +kernel)).1 _ sHdr.chip j rfl (by decide +kernel) fetchHdr hj⟩,
    by have v := m.2.1 h0 rfl (by decide +kernel); rw [e3] at v; exact v,
    (h { State.reset with agenda := [.event (.flitReplayTimeout 0)] }).1 _ [] rfl rfl,
    (h sStall).2.1 _ [] rfl (by decide +kernel),
    (h sPlan).2.2.2 eW (bootPos wordI) 1 [] rfl rfl rfl (by decide +kernel)⟩

theorem meets_EncodeDecode (h : EncodeDecode) : decodeWord .lane wordI = .ok (.iadd ct0 1 2 3) :=
  (h (.iadd ct0 1 2 3) .lane wordI (by decide) (by decide)).2

theorem meets_DecodeEncode (h : DecodeEncode) : ∃ c, encode (.iadd ct0 1 2 3) = some (c, wordI) :=
  ((h (.iadd ct0 1 2 3) .lane wordI (by decide)).2 (by decide)).2

end Sys2Proof.Tests
end

