-- ==== Sys2Proof/Tests/Witness2.lean ====
section
/-! SUPPORT. Witnesses of the claims about queues, FORK and SPAWN, loads and stores, releases and atomics. -/

namespace Sys2Proof.Tests

open Sys2Proof Sys2Proof.Machine Sys2Proof.Claims

-- one theorem at a time: proofs that wait for the kernel in parallel would hold a thread each
set_option Elab.async false

/-- A chip whose hardware queue 15 holds entries of an owner. -/
def cq (owner : Nat) (es : List DWord) : Chip :=
  { c0 i0 w0 with clusters := [(0, { Cluster.zero with banks := bootBanks, hwq := [(15, { owner := owner, entries := es })] })] }

/-- One entry for two lanes, no lane at all, and an empty queue that another context has used. -/
theorem meets_QueuePop (h : QueuePop) :
    (∃ t, exec (.qpop 0 false 1 4 6 15) (sOf (cq 1 [9])) = .next t) ∧ (∃ t, exec (.qpop 0x03F false 1 4 6 15) (sOf (cq 2 [9])) = .next t)
    ∧ ∃ t, exec (.qpop 0 true 3 957 959 15) (sOf (cq 2 [])) = .next t :=
  let ⟨_, h1, _⟩ := h 0 false 1 4 6 15 (sOf (cq 1 [9])) i0 0 0 w0 ⟨rfl, rfl, rfl⟩ (ready_of (by decide)) (by decide) (by decide)
  let ⟨_, h2, _⟩ := h 0x03F false 1 4 6 15 (sOf (cq 2 [9])) i0 0 0 w0 ⟨rfl, rfl, rfl⟩ (ready_of (by decide)) (by decide) (by decide)
  let ⟨_, h3, _⟩ := h 0 true 3 957 959 15 (sOf (cq 2 [])) i0 0 0 w0 ⟨rfl, rfl, rfl⟩ (ready_of (by decide)) (by decide) (by decide)
  ⟨⟨_, h1⟩, ⟨_, h2⟩, _, h3⟩

/-- Room for one of two entries, and another context's empty queue. -/
theorem meets_QueuePush (h : QueuePush) :
    (∃ t, exec (.qpush 0 false 1 1 6 15) (sOf (cq 1 (List.replicate 511 9))) = .next t)
    ∧ ∃ t, exec (.qpush 0 false 1 958 959 15) (sOf (cq 2 [])) = .next t :=
  let ⟨_, h1, _⟩ := h 0 false 1 1 6 15 (sOf (cq 1 (List.replicate 511 9))) i0 0 0 w0 ⟨rfl, rfl, rfl⟩ (ready_of (by decide)) (by decide)
    (by decide +kernel) (.inr (.inr rfl))
  let ⟨_, h2, _⟩ := h 0 false 1 958 959 15 (sOf (cq 2 [])) i0 0 0 w0 ⟨rfl, rfl, rfl⟩ (ready_of (by decide)) (by decide) (by decide) (by decide)
  ⟨⟨_, h1⟩, _, h2⟩

theorem meets_QueueOwnerTrap (h : QueueOwnerTrap) :
    (∃ t, exec (.qpop 0 false 1 4 6 15) (sOf (cq 2 [9])) = .next t) ∧ ∃ t, exec (.qpush 0 false 1 1 6 15) (sOf (cq 2 [9])) = .next t :=
  let g := h 0 false 1 4 1 6 15 (sOf (cq 2 [9])) i0 0 0 w0
  ⟨⟨_, g _ _ _ (.head _) ⟨rfl, rfl, rfl⟩ (ready_of (by decide)) (by decide) (by decide) (by decide) (by decide)⟩,
   _, g _ _ _ (.tail _ (.head _)) ⟨rfl, rfl, rfl⟩ (ready_of (by decide)) (by decide) (by decide) (by decide) (by decide)⟩

/-- A core whose sequencers have not been started. -/
def cf : Chip := { c0 i0 w0 with cores := [(0, { core0 w0 with mat := Mat.zero, dray := Dray.zero })] }

/-- Both sequencers started, one of them only, and both running already. -/
theorem meets_ForkResult (h : ForkResult) :
    (∃ t, exec (.fork 958 true true) (sOf cf) = .next t) ∧ (∃ t, exec (.fork 3 false true) (sOf cf) = .next t)
    ∧ ∃ t, exec (.fork 3 true true) s0 = .next t :=
  let ⟨_, _, h1, _⟩ := h 958 true true (sOf cf) i0 0 0 w0 bootKernel ⟨rfl, rfl, rfl⟩ (ready_of (by decide)) rfl rfl rfl (by decide) (by decide)
    (by decide +kernel)
  let ⟨_, _, h2, _⟩ := h 3 false true (sOf cf) i0 0 0 w0 bootKernel ⟨rfl, rfl, rfl⟩ (ready_of (by decide)) rfl rfl rfl (by decide) (by decide)
    (by decide +kernel)
  let ⟨_, _, h3, _⟩ := h 3 true true s0 i0 0 0 w0 bootKernel (issuing i0 w0 rfl) (ready_of (by decide)) rfl rfl rfl (by decide) (by decide)
    (by decide +kernel)
  ⟨⟨_, h1⟩, ⟨_, h2⟩, _, h3⟩

/-- Lane 0 alone, at the last entry and barrier. -/
theorem meets_SpawnResult (h : SpawnResult) :
    ∃ t, exec (.spawn 0 959 1 7 63) (sOf (c0 { i0 with lanes := 1 } w0)) = .next t :=
  let ⟨_, _, h1, _⟩ := h 0 959 1 7 63 (sOf (c0 { i0 with lanes := 1 } w0)) { i0 with lanes := 1 } 0 0 w0 bootKernel 0 63 ⟨rfl, rfl, rfl⟩
    (ready_of (by decide)) rfl rfl (by decide) (by decide) (by decide) (by decide) (by decide +kernel)
  ⟨_, h1⟩

/-- What a gathered read comes to. -/
theorem gathered {i : Issue} {op core tag : Nat} {r : Rec} {hs : List Hit} {c : Chip}
    (h : (match translateAll i op core tag .read r.pol hs (linesOf hs) c with
      | .error _ => false
      | .ok v => match readLines i op core tag r.priv r.pol hs c v.1 v.2 with
        | .error _ => false
        | .ok _ => true) = true) : ∃ ld c', Gathered i op core tag r hs c ld c' := by
  split at h
  · cases h
  · next v hv =>
    split at h
    · cases h
    · next u hu => exact ⟨u.1, u.2, v.1, v.2, hv, hu⟩

/-- Two lanes through record q5, the second of them in the extent's last element; one of a pair of registers outside the extent. -/
theorem meets_LoadResult (h : LoadResult) :
    (∃ t, exec (.ld 0 1 0 3 5 1 0) sm = .next t) ∧ ∃ t, exec (.ld 0 1 3 3 5 1 1) sm = .next t := by
  obtain ⟨_, _, g1⟩ := gathered (i := i0) (op := 0x81) (core := 0) (tag := 1) (r := Rec.ofBits rec0)
    (hs := hitsIn (fun l => (Rec.ofBits rec0).addr 0x81 (wm.reg 1 l) 0 1) 1 [0, 1]) (c := sm.chip) (by decide +kernel)
  obtain ⟨_, _, g2⟩ := gathered (i := i0) (op := 0x81) (core := 0) (tag := 1) (r := Rec.ofBits rec0)
    (hs := hitsIn (fun l => (Rec.ofBits rec0).addr 0x81 (wm.reg 1 l) 1 8) 8 [0, 1]) (c := sm.chip) (by decide +kernel)
  obtain ⟨t1, h1, _⟩ := (h 0 1 0 0 3 1 5 0 0 sm i0 0 0 wm _ _ issuingM (by decide)).1 (ready_of (by decide)) (by decide)
    ⟨by decide, by decide, by decide⟩ (inBounds_of (by decide)) g1
  obtain ⟨t2, h2, _⟩ := (h 0 1 3 0 3 1 5 1 0 sm i0 0 0 wm _ _ issuingM (by decide)).1 (ready_of (by decide)) (by decide)
    ⟨by decide, by decide, by decide⟩ (inBounds_of (by decide)) g2
  exact ⟨⟨_, h1⟩, _, h2⟩

/-- A record of four elements of 64 bytes at 0x20000. -/
def rec1 : BitVec 256 := BitVec.ofNat 256 (0x20000 + 64 * 2 ^ 64 + 4 * 2 ^ 96 + 64 * 2 ^ 128 + 0x10 * 2 ^ 136)

/-- A warp with that record as q6; lane 0 lies inside its extent, lane 1 outside. -/
def wx : Warp := { wm with q := aput 0 wm.q 6 rec1 }

/-- The state in which it issues, with format slots. -/
def sx : State := sOf (withKernel kernelF (cm i0 wx))

theorem issuingX : Issuing sx i0 0 0 wx := ⟨rfl, rfl, rfl⟩

/-- An SX4 block decoded for lane 0; zeros for lane 1. -/
theorem meets_LoadResult_block (h : LoadResult) : ∃ t, exec (.ldsx 0 1 5 3 6 1 0) sx = .next t := by
  obtain ⟨_, _, g⟩ := gathered (i := i0) (op := 0x83) (core := 0) (tag := 1) (r := Rec.ofBits rec1)
    (hs := hitsIn (fun l => (Rec.ofBits rec1).addr 0x83 (wx.reg 1 l) 0 (sxSize 4)) (sxSize 4) [0, 1]) (c := sx.chip) (by decide +kernel)
  obtain ⟨t, h, _⟩ := (h 0 1 0 5 3 1 6 0 0 sx i0 0 0 wx _ _ issuingX (by decide)).2 (ready_of (by decide)) (by decide) (by decide) (by decide)
    ⟨by decide, by decide, by decide⟩ (inBounds_of (by decide)) g
  exact ⟨_, h⟩

/-- The last record, loaded from lane 0's address. -/
theorem meets_RecordLoad (h : RecordLoad) : ∃ t, exec (.ldrec 0 1 31 6 1 0) sx = .next t := by
  obtain ⟨_, _, g⟩ := gathered (i := i0) (op := 0x80) (core := 0) (tag := 1) (r := Rec.ofBits rec1)
    (hs := hitsIn (fun _ => (Rec.ofBits rec1).addr 0x80 (wx.reg 1 0) 0 32) 32 [0]) (c := sx.chip) (by decide +kernel)
  obtain ⟨t, _, h, _⟩ := h 0 1 1 31 6 0 sx i0 0 0 wx _ _ issuingX (by decide) (ready_of (by decide)) (by decide) (by decide)
    ⟨by decide, by decide, by decide⟩ (inBounds1 (by decide)) g
  exact ⟨_, h⟩

/-- Bytes of two lanes, and a pair of registers of the lane inside the extent. -/
theorem meets_StoreResult (h : StoreResult) : (∃ t, exec (.st 0 1 0 2 5 1 0) sm = .next t) ∧ ∃ t, exec (.st 0 1 3 958 6 1 0) sx = .next t := by
  obtain ⟨⟨_, _⟩, g1, _⟩ := okWith (e := translateAll i0 0x82 0 1 .write 0
    (hitsIn (fun l => (Rec.ofBits rec0).addr 0x82 (wm.reg 1 l) 0 1) 1 [0, 1])
    (linesOf (hitsIn (fun l => (Rec.ofBits rec0).addr 0x82 (wm.reg 1 l) 0 1) 1 [0, 1])) sm.chip) (fun _ => true) (by decide +kernel)
  obtain ⟨⟨_, _⟩, g2, _⟩ := okWith (e := translateAll i0 0x82 0 1 .write 0
    (hitsIn (fun l => (Rec.ofBits rec1).addr 0x82 (wx.reg 1 l) 0 8) 8 [0, 1])
    (linesOf (hitsIn (fun l => (Rec.ofBits rec1).addr 0x82 (wx.reg 1 l) 0 8) 8 [0, 1])) sx.chip) (fun _ => true) (by decide +kernel)
  obtain ⟨_, h1⟩ := h 0 1 0 2 1 5 0 sm i0 0 0 wm _ _ issuingM (by decide) (ready_of (by decide)) (by decide)
    ⟨by decide, by decide, by decide⟩ (inBounds_of (by decide)) g1
  obtain ⟨_, h2⟩ := h 0 1 3 958 1 6 0 sx i0 0 0 wx _ _ issuingX (by decide) (ready_of (by decide)) (by decide)
    ⟨by decide, by decide, by decide⟩ (inBounds_of (by decide)) g2
  exact ⟨⟨_, h1⟩, _, h2⟩

/-- FP32 to SX4, slot 3; the group's lead is lane 0. -/
theorem meets_BlockStore (h : BlockStore) : ∃ t, exec (.stsx 0 1 3 2 6 1 0) sx = .next t := by
  obtain ⟨⟨_, _⟩, g, _⟩ := okWith (e := translateAll i0 0x84 0 1 .write 0
    (hitsIn (fun l => (Rec.ofBits rec1).addr 0x84 (wx.reg 1 l) 0 (sxSize 4)) (sxSize 4) [0])
    (linesOf (hitsIn (fun l => (Rec.ofBits rec1).addr 0x84 (wx.reg 1 l) 0 (sxSize 4)) (sxSize 4) [0])) sx.chip) (fun _ => true)
    (by decide +kernel)
  obtain ⟨_, _, _, h, _⟩ := h 0 1 3 2 1 6 0 sx i0 0 0 wx _ _ issuingX (by decide) (by decide) (ready_of (by decide)) (by decide) (by decide)
    (by decide) (by decide) ⟨by decide, by decide, by decide⟩ (by decide +kernel) (inBounds_of (by decide)) g
  exact ⟨_, h⟩

/-- Lines that are brought; a record that may not be used, whose lines are dropped. -/
theorem meets_PrefetchResult (h : PrefetchResult) :
    (∃ t, exec (.prf 0 1 0 5 1 0) sm = .next t) ∧ ∃ t, exec (.prf 0 1 3 31 1 0) sm = .next t := by
  obtain ⟨⟨_, _⟩, g1, _⟩ := okWith (e := prefetchLines i0 0 1 (sm.chip.nextCid i0.eng).1.nextOp (sm.chip.nextCid i0.eng).2 (Rec.ofBits rec0)
    (hitsIn (fun l => (Rec.ofBits rec0).addr 0x87 (wm.reg 1 l) 0 1) 1 [0, 1]) sm.chip
    (linesOf (hitsIn (fun l => (Rec.ofBits rec0).addr 0x87 (wm.reg 1 l) 0 1) 1 [0, 1])) (sm.chip.nextCid i0.eng).1) (fun _ => true)
    (by decide +kernel)
  obtain ⟨⟨_, _⟩, g2, _⟩ := okWith (e := prefetchLines i0 0 1 (sm.chip.nextCid i0.eng).1.nextOp (sm.chip.nextCid i0.eng).2 (Rec.ofBits 0)
    [] sm.chip (linesOf []) (sm.chip.nextCid i0.eng).1) (fun _ => true) (by decide +kernel)
  obtain ⟨_, _, _, h1, _⟩ := h 0 1 0 5 1 0 sm i0 0 0 wm _ _ issuingM (by decide) (ready_of (by decide)) (by decide) (.inr (by decide)) g1
  obtain ⟨_, _, _, h2, _⟩ := h 0 1 3 31 1 0 sm i0 0 0 wm _ _ issuingM (by decide) (ready_of (by decide)) (by decide) (.inr (by decide)) g2
  exact ⟨⟨_, h1⟩, _, h2⟩

/-- A byte under another core's intent, and one that may be read. -/
theorem meets_LineReadResult (h : LineReadResult) :
    (∃ t, { c0 i0 w0 with intents := [⟨.core 1, 1, 0x20000, 1, none, 0, none⟩] }.lineRead 0 1 0x20000 1 false 0 = .race t)
    ∧ ∃ v p c', (cm i0 wm).lineRead 0 1 0x20000 1 false 0 = .ok v p c' :=
  let ⟨_, _, _, h2, _⟩ := (h (cm i0 wm) 0 1 0x20000 1 false 0 (by decide)).2 (by decide) (by decide) (by decide +kernel)
  ⟨⟨_, (h { c0 i0 w0 with intents := [⟨.core 1, 1, 0x20000, 1, none, 0, none⟩] } 0 1 0x20000 1 false 0 (by decide)).1 _ rfl (by decide)⟩,
    _, _, _, h2⟩

/-- A store of both lanes of the warp in slot 0 of core 0. -/
def storer0 : Storer := { who := partyOf i0.eng i0.lanes, op := 0x82, tag := 1, pos := p0, id := some 0 }

theorem meets_StoreForwarding (h : StoreForwarding) :
    ∃ v p c2, ((cm i0 wm).lineWrite 0 1 0x20000 3 5 false 0 0 storer0).1.lineRead 0 1 0x20000 1 false 0 = .ok v p c2 :=
  let ⟨_, _, _, h, _⟩ := (h (cm i0 wm) 0 1 0x20000 3 1 5 false false 0 0 storer0).1 (by decide); ⟨_, _, _, h⟩

/-- A chip whose core holds a dirty byte. -/
def cd : Chip := ((cm i0 wm).lineWrite 0 1 0x20000 3 5 false 0 0 storer0).1

theorem meets_ReleaseAcquire (h : ReleaseAcquire) :
    cd.releaseBy (.warp 0 0) 2 none = (cd, none) ∧ ∀ e ∈ ((cd.releaseBy (.warp 0 0) 3 none).1.core 0).l1, e.dirty = 0 :=
  ⟨((h cd 0 0 2 none).1 (by decide)).1, ((h cd 0 0 3 none).2 (by decide)).1⟩

/-- A release that wants each dirty line in local memory, aligned. -/
theorem release_lines : (∀ e ∈ (cd.core 0).l1, e.dirty ≠ 0 → tierOf e.line < 2 ∧ e.line % 2 ^ 64 % 64 = 0)
    ∧ ((cd.core 0).l1.map (fun e => e.line % 2 ^ 64)).Nodup ∧ cd.rings = [] := by decide +kernel

theorem meets_AtomicOperations (h : AtomicOperations) : applyAop 1 4 (5 : BitVec 32).toNat (BitVec.allOnes 32).toNat = (BitVec.allOnes 32).toNat := by
  have := (h 4 5 (BitVec.allOnes 32) (.inl rfl)).2.1
  simpa using this

/-- An addition of lane 0 at the last word of the line. -/
theorem meets_AtomicAtHome (h : AtomicAtHome) :
    ∃ o : Atomic, (o.line 0 1 0 storer0 (fun _ => 1) (fun _ => 0) [⟨0, 0x2003C, 4⟩] 0x20000 0x20000 (cm i0 wm)).2.2 = none :=
  let a : Atomic := { op := 0x88, aop := 0, scope := 3, rel := false, w := 4, pol := 0, priv := false }
  ⟨a, by
    have := (h a 0 1 0 storer0 (fun _ => 1) (fun _ => 0) ⟨0, 0x2003C, 4⟩ 0x20000 (cm i0 wm) (by decide) (by decide) (by decide)
      (by decide) (by decide) ⟨dataTlb, by decide, by decide⟩).1
    exact congrArg (fun x => x.2) this⟩

theorem meets_FenceResult (h : FenceResult) : ∃ t, exec (.fence 3 3) sm = .next t := by
  obtain ⟨⟨_, _⟩, g, _⟩ := okWith (e := semRelease 0x8B 3 3 none i0 sm.chip) (fun _ => true) (by decide +kernel)
  exact ⟨_, h 3 3 sm i0 0 0 wm _ _ issuingM (by decide) (by decide) g⟩

/-- What the hypotheses about an atomic's lines, its checks and its release come to. -/
theorem atomic_ok {op : Nat} {acc : Acc} {a : Atomic} {hs : List Hit} {sem : BitVec 2} {scope : Nat}
    (h : (match translateAll i0 op 0 1 acc 0 hs (linesOf hs) sm.chip with
      | .error _ => false
      | .ok v => decide (a.check i0 0 1 hs sm.chip v.2 v.1 = none) && decide (a.peerCheck i0 1 hs v.1 sm.chip = none)
        && (match semRelease op sem scope (some (v.2.issueCid i0).2) i0 (v.2.issueCid i0).1 with
          | .ok _ => true
          | .error _ => false)) = true) : ∃ pas c1 c3 race, translateAll i0 op 0 1 acc 0 hs (linesOf hs) sm.chip = .ok (pas, c1)
    ∧ a.peerCheck i0 1 hs pas sm.chip = none ∧ a.check i0 0 1 hs sm.chip c1 pas = none
    ∧ semRelease op sem scope (some (c1.issueCid i0).2) i0 (c1.issueCid i0).1 = .ok (c3, race) := by
  split at h
  · cases h
  · next v hv =>
    simp only [Bool.and_eq_true, decide_eq_true_eq] at h
    obtain ⟨⟨h1, hp⟩, h2⟩ := h
    split at h2
    · next u hu => exact ⟨v.1, v.2, u.1, u.2, hv, hp, h1, hu⟩
    · cases h2

/-- The accesses of eight bytes of both lanes through q5. -/
def hs8 (op : Nat) : List Hit := hitsIn (fun l => (Rec.ofBits rec0).addr op (wm.reg 1 l) 0 8) 8 [0, 1]

/-- A fetch-and-add of two lanes at device scope, acquiring and releasing; a compare-and-swap; a reduction. -/
theorem meets_AtomicResult (h : Obligations.AtomicResult) :
    (∃ t, exec (.atom 0 0 5 3 4 5 1 2) sm = .next t) ∧ (∃ t, exec (.atomc 0 4 2 4 5 1 2) sm = .next t)
    ∧ ∃ t, exec (.redm 0 8 5 0 5 1 2) sm = .next t := by
  obtain ⟨_, _, _, _, g1, gp, g2, g3⟩ := atomic_ok (op := 0x88) (acc := .atomic) (sem := 3) (scope := 5) (hs := hs8 0x88)
    (a := { op := 0x88, aop := 0, scope := 5, rel := true, w := 8, pol := 0, priv := false }) (by decide +kernel)
  obtain ⟨_, _, _, _, k1, kp, k2, k3⟩ := atomic_ok (op := 0x89) (acc := .cas) (sem := 2) (scope := 4) (hs := hs8 0x89)
    (a := { op := 0x89, aop := 16, scope := 4, rel := true, w := 8, pol := 0, priv := false }) (by decide +kernel)
  obtain ⟨_, _, _, _, l1, lp, l2, l3⟩ := atomic_ok (op := 0x8A) (acc := .atomic) (sem := 0) (scope := 5) (hs := hs8 0x8A)
    (a := { op := 0x8A, aop := 8, scope := 5, rel := false, w := 8, pol := 0, priv := false }) (by decide +kernel)
  obtain ⟨_, _, h1, _⟩ := h 0 0 5 3 4 1 2 5 sm i0 0 0 wm (.atom 0 0 5 3 4 5 1 2) 0x88 0 (some 4) 1 _ _ _ _ (by simp) issuingM (by decide)
    (ready_of (by decide)) (ready_of (by decide)) (by decide) ⟨by decide, by decide, by decide⟩ (by decide) (by decide) (inBounds_of (by decide))
    g1 gp g2 g3
  obtain ⟨_, _, h2, _⟩ := h 0 0 4 2 4 1 2 5 sm i0 0 0 wm (.atomc 0 4 2 4 5 1 2) 0x89 16 (some 4) 2 _ _ _ _ (by simp) issuingM (by decide)
    (ready_of (by decide)) (ready_of (by decide)) (by decide) ⟨by decide, by decide, by decide⟩ (by decide) (by decide) (inBounds_of (by decide))
    k1 kp k2 k3
  obtain ⟨_, _, h3, _⟩ := h 0 8 5 0 4 1 2 5 sm i0 0 0 wm (.redm 0 8 5 0 5 1 2) 0x8A 8 none 1 _ _ _ _ (by simp) issuingM (by decide)
    (ready_of (by decide)) (ready_of (by decide)) (by decide) ⟨by decide, by decide, by decide⟩ (by decide) (by decide) (inBounds_of (by decide))
    l1 lp l2 l3
  exact ⟨⟨_, h1⟩, ⟨_, h2⟩, _, h3⟩

theorem meets_MemoryCanonical (h : Obligations.MemoryCanonical) : Memory.wf ((cm i0 wm).wrMem 0x20000 8 0).mem = true :=
  (h (cm i0 wm) (by decide)).1 _ _ _

end Sys2Proof.Tests
end

