-- ==== Sys2Proof/Tests/Witness3.lean ====
section
/-! SUPPORT. Witnesses of the claims about banks, sweeps and barriers. -/

namespace Sys2Proof.Tests

open Sys2Proof Sys2Proof.Machine Sys2Proof.Claims

-- one theorem at a time: proofs that wait for the kernel in parallel would hold a thread each
set_option Elab.async false

/-- `BankUsable` as a computation. -/
theorem usable {ls : List Nat} {a : Nat → Int} {c : Chip} {e : Eng} {op n : Nat} {wr : Bool}
    (h : ls.all (fun l => decide (0 ≤ a l) && (match c.bankCheck e op (a l).toNat n wr with
      | .ok _ => true
      | .error _ => false)) = true) : ∀ l ∈ ls, BankUsable c e op n wr (a l) := by
  intro l hl
  have h1 := List.all_eq_true.mp h l hl
  simp only [Bool.and_eq_true, decide_eq_true_eq] at h1
  refine ⟨h1.1, ?_⟩
  have h2 := h1.2
  split at h2
  · next v hv => exact ⟨v.1, v.2, hv⟩
  · cases h2

/-- A warp whose v1 addresses the last doubleword of slot 7's bank in both lanes; v2 is 7 and 8, s2 is 1, s3 the address of slot 1's bank. -/
def wb : Warp :=
  { w0 with v := [(64, 7 * 2 ^ 29 + 0xFFFF8), (65, 7 * 2 ^ 29 + 0xFFFF0), (128, 7), (129, 8)],
            u := [(1, 0), (2, 2 ^ 29), (3, 2 * 2 ^ 29), (4, 7), (5, 6)] }

/-- The state in which it issues. -/
def sb : State := sOf (withKernel kernelF (c0 i0 wb))

theorem issuingB : Issuing sb i0 0 0 wb := ⟨rfl, rfl, rfl⟩

theorem meets_BankAccessResult (h : BankAccessResult) : (∃ t, exec (.ldb 0 1 3 4 1 0) sb = .next t) ∧ ∃ t, exec (.stb 0 1 2 2 1 0) sb = .next t :=
  let ⟨_, h1, _⟩ := (h 0 1 3 4 1 0 sb i0 0 0 wb issuingB (by decide)).1 (ready_of (by decide)) (usable (by decide)) (by decide +kernel)
  let ⟨_, _, h2, _⟩ := (h 0 1 2 2 1 0 sb i0 0 0 wb issuingB (by decide)).2 (ready_of (by decide)) (usable (by decide)) (by decide +kernel)
  ⟨⟨_, h1⟩, _, h2⟩

/-- Lane 0 alone issues. -/
def il : Issue := { i0 with lanes := 1 }

/-- The state in which it does. -/
def sb1 : State := sOf (withKernel kernelF (c0 il wb))

/-- An exchange of lane 0. -/
theorem meets_BankAtomicResult (h : BankAtomicResult) : ∃ t, exec (.atomw 0 false 8 3 3 4 1 2) sb1 = .next t := by
  obtain ⟨⟨c1, _⟩, g, hv⟩ := okWith (e := semRelease 0x95 3 3 (some (sb1.chip.nextCid il.eng).2) il (sb1.chip.nextCid il.eng).1)
    (fun v => v.1.bankReady 0 v.1.nextOp ([0].map (bankTouch sb1.chip il.eng 4 true (fun l => bankAddr wb 1 0 4 l)))
      && !(v.1.bank 0 7).marked 0xFFFF8 4) (by decide +kernel)
  simp only [Bool.and_eq_true] at hv
  have hl : ∀ l ∈ [0], l = 0 := by simp
  obtain ⟨_, _, h, _⟩ := h 0 false 8 3 3 4 1 2 sb1 il 0 0 wb _ _ ⟨rfl, rfl, rfl⟩ (by decide) (ready_of (by decide)) (usable (by decide)) (by decide) g hv.1
    (fun l k => by rw [hl l k]; exact Bool.not_eq_true' _ ▸ hv.2)
  exact ⟨_, h⟩

/-- A warp whose s1 to s4 name slots and a receiver. -/
def wg : Warp := { w0 with u := [(1, 8), (2, 6), (3, 6 * 2 ^ 16), (4, 7), (5, 5 * 2 ^ 16)] }

/-- A slot that is not declared, one that is empty and one that is taken, each with its status; GIVE to the same group's empty slot 6, TAKE of
the gang's reserve, RELB. -/
def sg : State :=
  sOf { c0 i0 wg with
        cores := [(0, { core0 wg with win := aput Win.zero bootWins 6 Win.zero })],
        clusters := [(0, { Cluster.zero with banks := aput Bank.zero bootBanks 6 Bank.zero })],
        gangs := [(0, some { Gang.fresh 0 0 0 [bootGroup] with reserve := [40] })] }

theorem issuingG : Issuing sg i0 0 0 wg := ⟨rfl, rfl, rfl⟩

theorem meets_BankMapResults (h : BankMapResults) :
    (∃ t, exec (.give 0 1 970 961 963) sg = .next t) ∧ (∃ t, exec (.relb 0 1 970 962) sg = .next t) ∧ (∃ t, exec (.take 0 1 970 964) sg = .next t)
    ∧ (∃ t, exec (.give 0 1 970 964 963) sg = .next t) ∧ (∃ t, exec (.give 0 1 970 964 965) sg = .next t)
    ∧ (∃ t, exec (.take 0 1 970 962) sg = .next t) ∧ ∃ t, exec (.relb 0 1 970 964) sg = .next t :=
  let r {b : Bool} (h : b = true) : b = true := h
  let ⟨h1, _, _, _⟩ := h 0 1 970 961 963 sg i0 0 0 wg issuingG (by decide) (by decide)
  let ⟨h2, _, _, _⟩ := h 0 1 970 962 963 sg i0 0 0 wg issuingG (by decide) (by decide)
  let ⟨h3, _, _, k3⟩ := h 0 1 970 964 963 sg i0 0 0 wg issuingG (by decide) (by decide)
  let ⟨_, g3, _, _⟩ := h 0 1 970 964 963 sg i0 0 0 wg issuingG (by decide) (by decide)
  let ⟨_, g4, _, _⟩ := h 0 1 970 964 965 sg i0 0 0 wg issuingG (by decide) (by decide)
  let ⟨_, _, t5, _⟩ := h 0 1 970 962 963 sg i0 0 0 wg issuingG (by decide) (by decide)
  let ⟨_, _, q3, _⟩ := (g3 (ready_of (r (by decide))) (by decide) (by decide) (by decide)).2 (by decide +kernel) (by decide)
  let ⟨_, _, q5, _⟩ := (t5 (ready_of (r (by decide))) (by decide) (by decide) (by decide) _ rfl).2 40 [] rfl
  let ⟨_, _, q6, _⟩ := k3 (ready_of (r (by decide))) (by decide) (by decide) (by decide)
  ⟨⟨_, (h1 _ 0x8E _ (List.mem_cons_self ..) (ready_of (r (by decide))) (by decide)).1 (by decide)⟩,
   ⟨_, (h2 _ 0x90 _ (List.mem_cons_of_mem _ (List.mem_cons_of_mem _ (List.mem_cons_self ..))) (ready_of (r (by decide))) (by decide)).2.1 (by decide)
      (by decide) (by decide)⟩,
   ⟨_, (h3 _ 0x8F _ (List.mem_cons_of_mem _ (List.mem_cons_self ..)) (ready_of (r (by decide))) (by decide)).2.2 (by decide) rfl (by decide)⟩,
   ⟨_, q3⟩, ⟨_, (g4 (ready_of (r (by decide))) (by decide) (by decide) (by decide)).1 1 (by decide +kernel)⟩, ⟨_, q5⟩, _, q6⟩

theorem meets_BankMapRead (h : BankMapRead) : ∃ t, exec (.bmapr 0 958 7) sb = .next t :=
  let ⟨_, h, _⟩ := h 0 958 7 sb i0 0 0 wb issuingB (ready_of (by decide)) (by decide); ⟨_, h⟩

/-- A GIVE of slot 7's bank to slot 6, drained, and a RELB of it. -/
theorem meets_BankAttach (h : BankAttach) :
    (∃ t, exec (.giveAttach 0 7) (sOf { c0 i0 w0 with cores := [(0, { core0 w0 with gives := [⟨7, 0, 6, 7, true, 0⟩] })] }) = .next t)
    ∧ ∃ t, exec (.giveAttach 0 7) (sOf { c0 i0 w0 with cores := [(0, { core0 w0 with gives := [⟨7, 512, 0, 7, true, 0⟩] })] }) = .next t :=
  let ⟨_, h1, _⟩ := h (sOf { c0 i0 w0 with cores := [(0, { core0 w0 with gives := [⟨7, 0, 6, 7, true, 0⟩] })] }) 0 7 _ 0 _ rfl (by decide) rfl rfl
    (by decide)
  let ⟨_, h2, _⟩ := h (sOf { c0 i0 w0 with cores := [(0, { core0 w0 with gives := [⟨7, 512, 0, 7, true, 0⟩] })] }) 0 7 _ 0 _ rfl (by decide) rfl rfl
    (by decide)
  ⟨⟨_, h1⟩, _, h2⟩

/-- Banks of slots 1 and 2; in lane 0's element of the second a value that leaves the bound of slot 4. -/
def sw : State :=
  sOf { withKernel kernelF (c0 i1 wb) with
        clusters := [(0, { Cluster.zero with banks := aput Bank.zero bootBanks 2 { Bank.zero with
          at_ := some (0, 2), gang := some 0, tag := some 1, data := putBytes [] [(2, 0x80), (3, 0x40)] } })] }

theorem issuingW : Issuing sw i1 0 0 wb := ⟨rfl, rfl, rfl⟩

/-- What a sweep's rows come to once its checks have named the banks. -/
def swept0 (op count fs : Nat) (ud ua ub : Nat) (ts : List Touch) : Chip × Option (Nat × Nat × Nat) :=
  (sw.chip.nextCid i1.eng).1.sweepRun i1.eng op i1.lanes count fs ((ts.map (fun (t : Touch) => t.bank)).getD 0 0, ud)
    ((ts.map (fun (t : Touch) => t.bank)).getD 1 0, ua) ((ts.map (fun (t : Touch) => t.bank)).getD 2 0, ub) 8 8 (if op < 0x65 then 8 else 0)

/-- What a sweep's checks come to. -/
theorem sweep_ok {op count fs ud ua ub : Nat} {ops : List SweepOperand} {stops : Bool} (h : (match sweepChecks sw.chip i1.eng op count ops with
      | .ok ts => (sw.chip.nextCid i1.eng).1.bankReady 0 (sw.chip.nextCid i1.eng).1.nextOp ts && (swept0 op count fs ud ua ub ts).2.isSome == stops
      | .error _ => false) = true) : ∃ ts c2 st, sweepChecks sw.chip i1.eng op count ops = .ok ts
    ∧ (sw.chip.nextCid i1.eng).1.bankReady 0 (sw.chip.nextCid i1.eng).1.nextOp ts = true ∧ swept0 op count fs ud ua ub ts = (c2, st)
    ∧ st.isSome = stops := by
  split at h
  · next ts hts =>
    simp only [Bool.and_eq_true, beq_iff_eq] at h
    exact ⟨ts, _, _, hts, h.1, rfl, h.2⟩
  · cases h

theorem meets_SweepResult (h : SweepResult) :
    (∃ t, exec (.wffma 1 2 3 3 8 8 8) sw = .next t) ∧ (∃ t, exec (.wcvt 1 2 3 3 8 8) sw = .next t) ∧ ∃ t, exec (.wcvt 1 2 3 4 8 8) sw = .next t := by
  obtain ⟨_, _, _, g1, g2, g3, g4⟩ := sweep_ok (op := 0x62) (count := 1) (fs := 0) (ud := 2 ^ 29) (ua := 2 ^ 30) (ub := 2 ^ 30) (stops := false)
    (ops := sweepOperands 0x62 (sw.chip.slot i1.eng 0) (2 ^ 29) (2 ^ 30) (2 ^ 30) 8 8 8 true [0, 1]) (by decide +kernel)
  obtain ⟨_, _, _, k1, k2, k3, k4⟩ := sweep_ok (op := 0x66) (count := 1) (fs := 3) (ud := 2 ^ 29) (ua := 2 ^ 30) (ub := 0) (stops := false)
    (ops := sweepOperands 0x66 (sw.chip.slot i1.eng 3) (2 ^ 29) (2 ^ 30) 0 8 8 0 false [0, 1]) (by decide +kernel)
  obtain ⟨_, _, st, l1, l2, l3, l4⟩ := sweep_ok (op := 0x66) (count := 1) (fs := 4) (ud := 2 ^ 29) (ua := 2 ^ 30) (ub := 0) (stops := true)
    (ops := sweepOperands 0x66 (sw.chip.slot i1.eng 4) (2 ^ 29) (2 ^ 30) 0 8 8 0 false [0, 1]) (by decide +kernel)
  obtain ⟨⟨syn, l, ad⟩, hst⟩ := Option.isSome_iff_exists.mp l4
  have h1 := (h 1 2 3 3 0 8 8 8 sw i1 0 0 wb (.wffma 1 2 3 3 8 8 8) 0x62 true _ _ _ (by simp) issuingW (by decide) (ready_of (by decide)) (by decide)
    g1 g2 g3).1 (by simpa using g4)
  have h2 := (h 1 2 3 0 3 8 8 0 sw i1 0 0 wb (.wcvt 1 2 3 3 8 8) 0x66 false _ _ _ (by simp) issuingW (by decide) (ready_of (by decide)) (by decide)
    k1 k2 k3).1 (by simpa using k4)
  have h3 := (h 1 2 3 0 4 8 8 0 sw i1 0 0 wb (.wcvt 1 2 3 4 8 8) 0x66 false _ _ _ (by simp) issuingW (by decide) (ready_of (by decide)) (by decide)
    l1 l2 l3).2 syn l ad hst
  exact ⟨⟨_, h1⟩, ⟨_, h2⟩, _, h3⟩

theorem meets_SweepRows (h : SweepRows) : ∃ c', sw.chip.sweepRun (.warp 0 0) 0x64 3 2 0 (1, 0) (2, 0) (2, 256) 8 8 8 = (c', none) :=
  let ⟨_, h, _⟩ := h sw.chip 0 0 wb 0x64 3 2 0 (1, 0) (2, 0) (2, 256) 8 8 8 rfl (by decide) (by decide) (by decide) (.inr (by decide))
    (by decide +kernel); ⟨_, h⟩

/-- A matrix stream and a copy stream in issue; m1 and k1 hold 5. -/
def sM : State := sOf { c0 im w0 with cores := [(0, { core0 w0 with mat := { Mat.zero with s := st0, m := [(1, 5)] } })] }

/-- The same with the Dray's stream. -/
def sC : State := sOf { c0 ic w0 with cores := [(0, { core0 w0 with dray := { Dray.zero with s := st0, k := [(1, 5)] } })] }

/-- The cases of three classes. -/
theorem cases3 {α : Type} {P : α → Prop} {a b c : α} (h : ∀ o ∈ [a, b, c], P o) : P a ∧ P b ∧ P c := by simpa using h

/-- The last barrier slot; a lane's parties include one that a core has not, status 2. -/
theorem meets_BarrierSetup (h : BarrierSetup) :
    (∃ t, exec (.binit 0 false 63 3 1 962) { s0 with chip := c0 i0 { w0 with u := [(3, 4)] } } = .next t)
    ∧ (∃ t, exec (.binitMatrix false 63 1 2) sM = .next t) ∧ ∃ t, exec (.binitCopy false 63 1 2) sC = .next t :=
  let ⟨_, h1, _⟩ := (cases3 (h 0 63 3 1 962 0 0 0 0 { s0 with chip := c0 i0 { w0 with u := [(3, 4)] } } i0 0 0 { w0 with u := [(3, 4)] } 63)).1
    ⟨⟨rfl, rfl, rfl⟩, ready_of (by decide), by decide⟩ (by decide)
  let ⟨_, h2, _⟩ := (cases3 (h 0 63 3 1 962 1 2 0 0 sM im 0 0 w0 63)).2.1 ⟨rfl, rfl⟩ (by decide)
  let ⟨_, h3, _⟩ := (cases3 (h 0 63 3 1 962 0 0 1 2 sC ic 0 0 w0 63)).2.2 ⟨rfl, rfl, by decide, by decide, by decide, by decide⟩ (by decide)
  ⟨⟨_, h1⟩, ⟨_, h2⟩, _, h3⟩

/-- A warp whose s4, s5 hold 0x20000; s2 holds 3 and s6 17. -/
def wt : Warp := { w0 with u := [(2, 3), (4, 0x20000), (6, 17)] }

/-- The state in which it issues; the page at 0x20000 may be written. -/
def st : State := sOf (cm i0 wt)

/-- A memory barrier's place, with nothing of a ring and no entry of its page's table there. -/
theorem memBar_ok {op : Nat} (h : (match barrierAt i0 op true 0 0x20000 st.chip with
      | .ok (.mem off, c1) => (c1.ringAt off).isNone && (match tlbFind (c1.core 0).tlb 1 0x20000 with
        | some e => decide (e.entryAt < off ∨ off + 64 ≤ e.entryAt)
        | none => false)
      | _ => false) = true) : ∃ off c1, barrierAt i0 op true 0 0x20000 st.chip = .ok (.mem off, c1) ∧ c1.ringAt off = none
    ∧ ∃ e, tlbFind (c1.core 0).tlb 1 0x20000 = some e ∧ (e.entryAt < off ∨ off + 64 ≤ e.entryAt) := by
  split at h
  · next off c1 hx =>
    rw [Bool.and_eq_true] at h
    obtain ⟨h1, h2⟩ := h
    split at h2
    · next e he => exact ⟨off, c1, hx, Option.isNone_iff_eq_none.mp h1, e, he, of_decide_eq_true h2⟩
    · cases h2
  · cases h

theorem meets_MemoryBarrierSetup (h : MemoryBarrierSetup) : ∃ t, exec (.binit 0 true 0 3 962 964) st = .next t := by
  obtain ⟨off, c1, g1, g2, g3⟩ := memBar_ok (op := 0xB7) (by decide +kernel)
  obtain ⟨_, h, _⟩ := (cases3 (h 0 0 3 962 964 0 0 0 0 st i0 0 0 wt off c1)).1 ⟨⟨rfl, rfl, rfl⟩, ready_of (by decide), by decide⟩ g1 g2 g3
  exact ⟨_, h⟩

/-- What a release before an arrival comes to. -/
theorem arrival_ok {s : State} {i : Issue} {mem : Bool} {n b scope : Nat} (h : (match barrierAt i 0xB8 mem n b s.chip with
      | .error _ => false
      | .ok v => (match v.1 with
          | .core _ _ => true
          | .mem off => (v.2.ringAt off).isNone
          | .peer _ => false)
        && (match (v.2.issueCid i).1.releaseFor i 0xB8 scope (some (v.2.issueCid i).2) with
          | .ok u => u.2.isNone
          | .error _ => false)) = true) : ∃ p c1 c2, barrierAt i 0xB8 mem n b s.chip = .ok (p, c1) ∧ Local c1 p
    ∧ (c1.issueCid i).1.releaseFor i 0xB8 scope (some (c1.issueCid i).2) = .ok (c2, none) := by
  split at h
  · cases h
  · next v hv =>
    obtain ⟨p, c1⟩ := v
    simp only [Bool.and_eq_true] at h
    obtain ⟨h1, h2⟩ := h
    split at h2
    · next u hu =>
      refine ⟨p, c1, u.1, hv, ?_, by rw [hu, ← Option.isNone_iff_eq_none.mp h2]⟩
      cases p <;> simp_all [Local]
    · cases h2

/-- At a barrier of the core, by a lane, a matrix and a copy clause, and at one in memory. -/
theorem meets_BarrierArrival (h : BarrierArrival) :
    (∃ t, exec (.arrive 0 3 false 63 3 964) st = .next t) ∧ (∃ t, exec (.arriveMatrix 5 false 63 1 2) sM = .next t)
    ∧ (∃ t, exec (.arriveCopy 3 false 63 1 2) sC = .next t) ∧ ∃ t, exec (.arrive 0 5 true 0 959 964) st = .next t := by
  obtain ⟨_, _, _, g1, g2, g3⟩ := arrival_ok (s := st) (i := i0) (mem := false) (n := 63) (b := 0) (scope := 3) (by decide +kernel)
  obtain ⟨_, _, _, k1, k2, k3⟩ := arrival_ok (s := sM) (i := im) (mem := false) (n := 63) (b := 0) (scope := 5) (by decide +kernel)
  obtain ⟨_, _, _, l1, l2, l3⟩ := arrival_ok (s := sC) (i := ic) (mem := false) (n := 63) (b := 0) (scope := 3) (by decide +kernel)
  obtain ⟨_, _, _, m1, m2, m3⟩ := arrival_ok (s := st) (i := i0) (mem := true) (n := 0) (b := 0x20000) (scope := 5) (by decide +kernel)
  obtain ⟨_, h1, _⟩ := (cases3 (h 0 3 false 63 3 964 0 0 0 0 st i0 0 0 wt _ _ _)).1 ⟨⟨rfl, rfl, rfl⟩, ready_of (by decide), by decide⟩ g1 g2 g3
  obtain ⟨_, h2, _⟩ := (cases3 (h 0 5 false 63 3 964 1 2 0 0 sM im 0 0 w0 _ _ _)).2.1 ⟨rfl, rfl⟩ k1 k2 k3
  obtain ⟨_, h3, _⟩ := (cases3 (h 0 3 false 63 3 964 0 0 1 2 sC ic 0 0 w0 _ _ _)).2.2
    ⟨rfl, rfl, by decide, by decide, by decide, by decide⟩ l1 l2 l3
  obtain ⟨_, h4, _⟩ := (cases3 (h 0 5 true 0 959 964 0 0 0 0 st i0 0 0 wt _ _ _)).1 ⟨⟨rfl, rfl, rfl⟩, ready_of (by decide), by decide⟩ m1 m2 m3
  exact ⟨⟨_, h1⟩, ⟨_, h2⟩, ⟨_, h3⟩, _, h4⟩

theorem meets_BarrierBytes (h : BarrierBytes) :
    (∃ t, exec (.expb 0 63 962) st = .next t) ∧ (∃ t, exec (.expbMatrix 63 1) sM = .next t) ∧ ∃ t, exec (.expbCopy 63 1) sC = .next t :=
  let ⟨_, h1, _⟩ := (cases3 (h 0 63 962 0 0 st i0 0 0 wt 63)).1 ⟨⟨rfl, rfl, rfl⟩, ready_of (by decide), by decide⟩ (by decide)
  let ⟨_, h2, _⟩ := (cases3 (h 0 63 962 1 0 sM im 0 0 w0 63)).2.1 ⟨rfl, rfl⟩ (by decide)
  let ⟨_, h3, _⟩ := (cases3 (h 0 63 962 0 1 sC ic 0 0 w0 63)).2.2 ⟨rfl, rfl, by decide, by decide, by decide, by decide⟩ (by decide)
  ⟨⟨_, h1⟩, ⟨_, h2⟩, _, h3⟩

/-- What a wait's barrier comes to. -/
theorem wait_ok {s : State} {i : Issue} {mem : Bool} {n b ph : Nat} (h : (match barrierAt i 0xBA mem n b s.chip with
      | .error _ => false
      | .ok v => (match v.1 with
          | .core _ _ => true
          | .mem off => (v.2.ringAt off).isNone
          | .peer _ => false) && (v.2.bar v.1).phase.toNat == ph) = true) :
    ∃ p c1, barrierAt i 0xBA mem n b s.chip = .ok (p, c1) ∧ Local c1 p ∧ (c1.bar p).phase.toNat = ph := by
  split at h
  · cases h
  · next v hv =>
    obtain ⟨p, c1⟩ := v
    simp only [Bool.and_eq_true, beq_iff_eq] at h
    refine ⟨p, c1, hv, ?_, h.2⟩
    cases p <;> simp_all [Local]

/-- Passing a phase that is over, by a lane, a matrix and a copy clause; waiting for the phase 17 of a barrier in memory. -/
theorem meets_BarrierWait (h : BarrierWait) :
    (∃ t, exec (.waitph 0 3 false 63 962 964) st = .next t) ∧ (∃ t, exec (.waitphMatrix 5 false 63 1 2) sM = .next t)
    ∧ (∃ t, exec (.waitphCopy 3 false 63 1 2) sC = .next t) ∧ ∃ t, exec (.waitph 0 5 true 0 966 964) st = .next t := by
  obtain ⟨_, _, g1, g2, g3⟩ := wait_ok (s := st) (i := i0) (mem := false) (n := 63) (b := 0) (ph := 0) (by decide +kernel)
  obtain ⟨_, _, k1, k2, k3⟩ := wait_ok (s := sM) (i := im) (mem := false) (n := 63) (b := 0) (ph := 0) (by decide +kernel)
  obtain ⟨_, _, l1, l2, l3⟩ := wait_ok (s := sC) (i := ic) (mem := false) (n := 63) (b := 0) (ph := 0) (by decide +kernel)
  obtain ⟨_, _, m1, m2, m3⟩ := wait_ok (s := st) (i := i0) (mem := true) (n := 0) (b := 0x20000) (ph := 17) (by decide +kernel)
  obtain ⟨_, h1, _⟩ := ((cases3 (h 0 3 false 63 962 964 0 0 0 0 st i0 0 0 wt _ _)).1 ⟨⟨rfl, rfl, rfl⟩, ready_of (by decide), by decide⟩ (by decide)
    g1 g2 (by decide)).1 (by rw [g3]; decide)
  obtain ⟨_, h2, _⟩ := ((cases3 (h 0 5 false 63 962 964 1 2 0 0 sM im 0 0 w0 _ _)).2.1 ⟨rfl, rfl⟩ (by decide) k1 k2 (by decide)).1
    (by rw [k3]; decide)
  obtain ⟨_, h3, _⟩ := ((cases3 (h 0 3 false 63 962 964 0 0 1 2 sC ic 0 0 w0 _ _)).2.2
    ⟨rfl, rfl, by decide, by decide, by decide, by decide⟩ (by decide) l1 l2 (by decide)).1 (by rw [l3]; decide)
  obtain ⟨_, h4, _⟩ := ((cases3 (h 0 5 true 0 966 964 0 0 0 0 st i0 0 0 wt _ _)).1 ⟨⟨rfl, rfl, rfl⟩, ready_of (by decide), by decide⟩ (by decide)
    m1 m2 (by decide)).2 (by rw [m3]; decide)
  exact ⟨⟨_, h1⟩, ⟨_, h2⟩, ⟨_, h3⟩, _, h4⟩

/-- A wait that has begun, for the end of a phase of the last barrier of core 0. -/
def begun (ph : BitVec 16) : WaitRec := { on := dw (nidCore 0 0 63), phase := ph, state := 1, scope := 3, since := 0, cid := 0, met := false }

/-- Both lanes wait so. -/
def sWait (ph : BitVec 16) : State :=
  let l : Lane := { Lane.fresh p0 false none with wait := some (begun ph) }
  sOf (c0 i0 { wt with lanes := [l, l] })

/-- The matrix stream waits so. -/
def mWait (ph : BitVec 16) : State :=
  sOf { c0 im w0 with cores := [(0, { core0 w0 with mat := { Mat.zero with s := { st0 with wait := some (begun ph) } } })] }

theorem notPeer {c : Chip} {n : DWord} (h : c.barNamed n = .core 0 63) : ∀ pa, c.barNamed n ≠ .peer pa := by
  intro pa
  rw [h]
  simp

/-- The barrier stands in phase 0: a wait for its end goes on, one for the end of another phase passes, whatever s2 and m1 hold now. -/
theorem meets_BarrierWaitEnds (h : BarrierWaitEnds) :
    exec (.waitph 0 3 false 63 962 964) (sWait 0) = .next (sWait 0) ∧ (∃ t, exec (.waitph 0 3 false 63 962 964) (sWait 5) = .next t)
    ∧ ∃ t, exec (.waitphMatrix 3 false 63 1 2) (mWait 0xFFFF) = .next t :=
  let g := h 0 3 false 63 962 964 1 2 0 0
  ⟨(g (sWait 0) i0 (begun 0) _ (.head _) rfl (by decide) rfl (notPeer (by decide))).1 rfl (by decide),
   ⟨_, (g (sWait 5) i0 (begun 5) _ (.head _) rfl (by decide) rfl (notPeer (by decide))).2 (.inr (by decide))⟩,
   _, (g (mWait 0xFFFF) im (begun 0xFFFF) _ (.tail _ (.head _)) rfl (by decide) rfl (notPeer (by decide))).2 (.inr (by decide))⟩

end Sys2Proof.Tests
end

