-- ==== Sys2Proof/Tests/Witness4.lean ====
section
/-! SUPPORT. Witnesses of the claims about the matrix sequencer. -/

namespace Sys2Proof.Tests

open Sys2Proof Sys2Proof.Machine Sys2Proof.Claims

-- one theorem at a time: proofs that wait for the kernel in parallel would hold a thread each
set_option Elab.async false

/-- A matrix engine whose stream issues: m1 addresses slot 1's bank, m2 slot 2's; tile 15 is of BF16. -/
def mat0 : Mat :=
  { Mat.zero with s := st0, m := [(1, 2 ^ 29), (2, 2 * 2 ^ 29)], tiles := [(15, { Tile.zero with fmt := 1, data := [(0, 0x80), (1, 0x3F)] })] }

/-- The kernel of format slots with BF16 twice as slot 0. -/
def kernelM : Kernel := { kernelF with fs := 0x11 :: kernelF.fs.drop 1 }

/-- The state in which it does, with format slots. -/
def sMx (m : Mat) : State := sOf (withKernel kernelM { c0 im w0 with cores := [(0, { core0 w0 with mat := m })] })

/-- A Dray's stream in issue; k1 is 5 and k2 an address. -/
def sCx : State := sOf { c0 ic w0 with cores := [(0, { core0 w0 with dray := { Dray.zero with s := st0, k := [(1, 5), (2, 0x20000)] } })] }

theorem meets_SequencerScalars (h : SequencerScalars) :
    (∃ t, exec (.mli true 1 7) (sMx mat0) = .next t) ∧ (∃ t, exec (.madd 1 2) (sMx mat0) = .next t) ∧ (∃ t, exec (.mprg 31) (sMx mat0) = .next t)
    ∧ (∃ t, exec (.kli true 1 7) sCx = .next t) ∧ (∃ t, exec (.kadd 31 1 2) sCx = .next t) ∧ ∃ t, exec (.dstat 31 7) sCx = .next t :=
  let ⟨_, h1, _⟩ := (h (sMx mat0) im 0 (.mli true 1 7) _ _ _).1 rfl ⟨rfl, rfl, by decide⟩
  let ⟨_, h2, _⟩ := (h (sMx mat0) im 0 (.madd 1 2) _ _ _).1 rfl ⟨rfl, rfl, by decide⟩
  let ⟨_, h3, _⟩ := (h (sMx mat0) im 0 (.mprg 31) _ _ _).1 rfl ⟨rfl, rfl, by decide⟩
  let ⟨_, h4, _⟩ := (h sCx ic 0 (.kli true 1 7) _ _ _).2 rfl ⟨rfl, rfl, by decide, by decide⟩
  let ⟨_, h5, _⟩ := (h sCx ic 0 (.kadd 31 1 2) _ _ _).2 rfl ⟨rfl, rfl, by decide, by decide⟩
  let ⟨_, h6, _⟩ := (h sCx ic 0 (.dstat 31 7) _ _ _).2 rfl ⟨rfl, rfl, by decide, by decide⟩
  ⟨⟨_, h1⟩, ⟨_, h2⟩, ⟨_, h3⟩, ⟨_, h4⟩, ⟨_, h5⟩, _, h6⟩

/-- Headers of a stream's own class, whose flags are clear, and of another's. -/
theorem meets_SequencerClauses (h : SequencerClauses) :
    (∃ t, exec (.clauseStart .matrix { h0 with wait := 0xFFF }) (sMx mat0) = .next t) ∧ (∃ t, exec (.clauseStart .lane h0) (sMx mat0) = .next t)
    ∧ (∃ t, exec (.clauseStart .copy { h0 with wait := 0xFFF }) sCx = .next t) ∧ ∃ t, exec (.clauseStart .matrix h0) sCx = .next t :=
  let ⟨_, h1, _⟩ := ((h .copy { h0 with wait := 0xFFF } (sMx mat0) im 0 rfl).1 rfl).1 (by decide)
  let ⟨_, h3, _⟩ := ((h .lane { h0 with wait := 0xFFF } sCx ic 0 rfl).2 rfl).1 (by decide)
  ⟨⟨_, h1⟩, ⟨_, ((h .lane h0 (sMx mat0) im 0 rfl).1 rfl).2 (by decide)⟩, ⟨_, h3⟩, _, ((h .matrix h0 sCx ic 0 rfl).2 rfl).2 (by decide)⟩

/-- Conditions that hold and that do not, the reserved ones, and the ends of the streams. -/
theorem meets_SequencerControl (h : SequencerControl) :
    (∃ t, exec (.mbr 3 1 2 4) (sMx mat0) = .next t) ∧ (∃ t, exec (.kbr 6 1 2 4) sCx = .next t) ∧ (∃ t, exec (.mbr 7 1 2 4) (sMx mat0) = .next t)
    ∧ (∃ t, exec (.kbr 31 1 2 4) sCx = .next t) ∧ (∃ t, exec .mexit (sMx mat0) = .next t) ∧ ∃ t, exec .kexit sCx = .next t :=
  let m := h 3 0 1 2 4 4 (sMx mat0) im 0
  let k := h 0 6 1 2 4 4 sCx ic 0
  let ⟨_, h1, _⟩ := m.1 ⟨rfl, rfl, by decide⟩ (by decide)
  let ⟨_, h2, _⟩ := k.2.1 ⟨rfl, rfl, by decide, by decide⟩ (by decide)
  let ⟨_, h5, _⟩ := m.2.2.2.2.1 ⟨rfl, rfl, by decide⟩
  let ⟨_, h6, _⟩ := k.2.2.2.2.2 ⟨rfl, rfl, by decide, by decide⟩
  ⟨⟨_, h1⟩, ⟨_, h2⟩, ⟨_, m.2.2.1 ⟨rfl, rfl, by decide⟩⟩,
   ⟨_, (h 0 31 1 2 4 4 sCx ic 0).2.2.2.1 ⟨rfl, rfl, by decide, by decide⟩ (by decide)⟩, ⟨_, h5⟩, _, h6⟩

/-- TCFG of a BF16 tile and of a format that no tile holds, TMOV, TTRN of the BF16 tile, MZERO. -/
theorem meets_TileResults (h : TileResults) :
    (∃ t, exec (.tcfg false 15 7) (sMx mat0) = .next t) ∧ (∃ t, exec (.tcfg true 15 1) (sMx mat0) = .next t)
    ∧ (∃ t, exec (.tmov 1 0 15) (sMx mat0) = .next t) ∧ (∃ t, exec (.ttrn 1 0 15) (sMx mat0) = .next t)
    ∧ ∃ t, exec (.mzero 1 3) (sMx mat0) = .next t :=
  let ⟨_, h1, _⟩ := (h false 0 0 15 15 7 (sMx mat0) im 0).1 ⟨rfl, rfl, by decide, by decide, by decide, by decide⟩ (by decide)
  let h2 := (h true 0 0 15 15 1 (sMx mat0) im 0).2.1 ⟨rfl, rfl, by decide, by decide, by decide, by decide⟩ (by decide)
  let ⟨_, h3, _⟩ := (h false 1 0 0 15 0 (sMx mat0) im 0).2.2.1 ⟨rfl, rfl, by decide, by decide, by decide, by decide⟩
  let ⟨_, _, h4, _⟩ := (h false 1 0 0 15 0 (sMx mat0) im 0).2.2.2.1 ⟨rfl, rfl, by decide, by decide, by decide, by decide⟩ (by decide)
  let ⟨_, _, h5, _⟩ := (h false 1 3 0 15 0 (sMx mat0) im 0).2.2.2.2 ⟨rfl, rfl, by decide, by decide, by decide, by decide⟩
  ⟨⟨_, h1⟩, ⟨_, h2⟩, ⟨_, h3⟩, ⟨_, h4⟩, _, h5⟩

/-- What an operand's checks come to. -/
theorem operand_ok {m : Mat} {o : MatOperand} {op : Nat} (h : (match o.check (sMx m).chip (.matrix 0) op with
      | .ok v => (sMx m).chip.bankReady 0 (sMx m).chip.nextOp v.2
      | .error _ => false) = true) : ∃ b ts, o.check (sMx m).chip (.matrix 0) op = .ok (b, ts)
    ∧ (sMx m).chip.bankReady 0 (sMx m).chip.nextOp ts = true := by
  split at h
  · next v hv => exact ⟨v.1, v.2, hv, h⟩
  · cases h

/-- BF16 in whole tiles; a tile of one block column stored. -/
theorem meets_TileTransfers (h : TileTransfers) :
    (∃ t, exec (.tld 1 false 0 1 7 0) (sMx mat0) = .next t) ∧ ∃ t, exec (.tst 1 15 2 1) (sMx mat0) = .next t := by
  obtain ⟨_, _, g1, g2⟩ := operand_ok (m := mat0) (op := 0xC1) (o := matOperand (2 ^ 29) (kblkOf 0 (tileCap 1) * blockBytes 1) 1 false)
    (by decide +kernel)
  obtain ⟨_, _, k1, k2⟩ := operand_ok (m := mat0) (op := 0xC2) (o := matOperand (2 * 2 ^ 29) (kblkOf 1 (tileCap 1) * blockBytes 1) 1 true)
    (by decide +kernel)
  obtain ⟨_, _, h1, _⟩ := (h 1 false 0 1 7 0 (sMx mat0) im 0 _ _).1 ⟨rfl, rfl, by decide, by decide, by decide, by decide⟩ (by decide) (by decide)
    (by decide) g1 g2
  obtain ⟨_, h2, _⟩ := (h 1 false 15 2 7 1 (sMx mat0) im 0 _ _).2 ⟨rfl, rfl, by decide, by decide, by decide, by decide⟩ (by decide)
    (by decide) k1 k2
  exact ⟨⟨_, h1⟩, _, h2⟩

/-- The BF16 tile with itself. -/
theorem meets_ProductResults (h : ProductResults) :
    (∃ t, exec (.mma 1 3 15 15 1) (sMx mat0) = .next t) ∧ ∃ t, exec (.mmaz 1 0 15 15 0) (sMx mat0) = .next t :=
  let ⟨_, _, _, h1, _⟩ := h 1 3 15 15 1 (sMx mat0) im 0 (.mma 1 3 15 15 1) 0xC3 false (by simp)
    ⟨rfl, rfl, by decide, by decide, by decide, by decide⟩ (by decide) (by decide) (by decide) rfl
  let ⟨_, _, _, h2, _⟩ := h 1 0 15 15 0 (sMx mat0) im 0 (.mmaz 1 0 15 15 0) 0xC4 true (by simp)
    ⟨rfl, rfl, by decide, by decide, by decide, by decide⟩ (by decide) (by decide) (by decide) rfl
  ⟨⟨_, h1⟩, _, h2⟩

/-- Nine block columns of BF16 tiles of eight; a tile of BF16 beside one of FP32. -/
theorem meets_ProductTraps (h : ProductTraps) :
    (∃ t, exec (.mma 1 3 15 15 9) (sMx mat0) = .next t) ∧ ∃ t, exec (.mmaz 1 3 15 0 0) (sMx mat0) = .next t :=
  ⟨⟨_, (h 1 3 15 15 9 (sMx mat0) im 0 _ _ (.head _) ⟨rfl, rfl, by decide, by decide, by decide, by decide⟩).1 (by decide) (by decide)⟩,
   _, (h 1 3 15 0 0 (sMx mat0) im 0 _ _ (.tail _ (.head _)) ⟨rfl, rfl, by decide, by decide, by decide, by decide⟩).2 (by decide) (by decide)⟩

/-- A running MMAS of two chunks in the matrix engine, its operation in flight. -/
def mmas0 : Mmas :=
  { acc := 3, fs := 0, opA := 2 ^ 29, opB := 2 * 2 ^ 29, bankA := 1, bankB := 2, count := 2, kblk := 1, zero := true, op := 0, pos := p0, hdr := h0 }

/-- The chip with it. -/
def cMm : Chip :=
  { (sMx { mat0 with mmas := some mmas0, prgState := 1, prgOp := 0xC5 }).chip with
    ops := [{ Op.blank 0xC5 (some 0) 0 with eng := .matrix 0, mask := 1, hold := true }], nextOp := 1 }

/-- Two chunks of one block column, at issue and at the first chunk. -/
theorem meets_StreamedProduct (h : StreamedProduct) :
    (∃ t, exec (.mmas 1 true 3 1 2 0 2 1) (sMx mat0) = .next t) ∧ ((cMm.mmasChunk 0).core 0).mat.chunk = 1 := by
  obtain ⟨_, _, g1, _⟩ := operand_ok (m := mat0) (op := 0xC5) (o := matOperand (2 ^ 29) (2 * mmasBlocks (cMm.slot (.matrix 0) 0) 1 * blockBytes 1) 1 false)
    (by decide +kernel)
  obtain ⟨_, _, k1, _⟩ := operand_ok (m := mat0) (op := 0xC5) (o := matOperand (2 * 2 ^ 29) (2 * mmasBlocks (cMm.slot (.matrix 0) 0) 1 * blockBytes 1) 1 false)
    (by decide +kernel)
  obtain ⟨_, h1, _⟩ := h.1 1 true 3 1 2 0 2 1 (sMx mat0) im 0 _ _ _ _ ⟨rfl, rfl, by decide, by decide, by decide, by decide⟩ (by decide) (by decide)
    (by decide) (by decide) g1 k1
  exact ⟨⟨_, h1⟩, (h.2 cMm 0 mmas0 rfl (by decide) (by decide +kernel) (by decide +kernel) rfl (by decide)).1⟩

/-- Values without a bound pass. -/
theorem drain_pass {bds : List Bound} {sl : Slot} (hb : sl.ben = false) : ∀ ws, ∃ v, drainCheck bds sl ws = .ok v
  | [] => ⟨_, rfl⟩
  | w :: ws => by
    obtain ⟨v, hv⟩ := drain_pass (bds := bds) hb ws
    exact ⟨_, by simp only [drainCheck, boundCheck, hb, hv, Bool.not_false, if_true]; rfl⟩

theorem drain_ok {bds : List Bound} {sl : Slot} {ws : List Nat} (hb : sl.ben = false) : ∃ rows f, drainRows bds sl ws = .ok (rows, f) := by
  obtain ⟨v, hv⟩ := drain_pass (bds := bds) hb ws
  exact ⟨_, _, by simp only [drainRows, hv]; rfl⟩

/-- FP32 to a bank and to a BF16 tile, and 2.0 under a bound of 1.0 that traps. -/
theorem meets_DrainResults (h : DrainResults) :
    (∃ t, exec (.mdrn 1 true 1 3 6) (sMx mat0) = .next t) ∧ (∃ t, exec (.mdrnb 1 true 0 3 2) (sMx mat0) = .next t)
    ∧ ∃ t, exec (.mdrn 1 true 1 3 4) (sMx { mat0 with acc := [(3 * 16384, 0x40000000)] }) = .next t := by
  obtain ⟨b, ts, g1, g2⟩ := operand_ok (m := mat0) (op := 0xC7) (o := matOperand (2 ^ 29) 512 0 true) (by decide +kernel)
  obtain ⟨b', ts', k1, _⟩ := operand_ok (m := { mat0 with acc := [(3 * 16384, 0x40000000)] }) (op := 0xC7) (o := matOperand (2 ^ 29) 512 0 true)
    (by decide +kernel)
  obtain ⟨rows, f, r1⟩ := drain_ok (bds := (sMx mat0).chip.bounds im.eng) (sl := (sMx mat0).chip.slot im.eng 6) (ws := mat0.accWords 3) (by decide)
  obtain ⟨rows', f', r2⟩ := drain_ok (bds := (sMx mat0).chip.bounds im.eng) (sl := (sMx mat0).chip.slot im.eng 2) (ws := mat0.accWords 3) (by decide)
  obtain ⟨_, _, h1, _⟩ := ((h 1 3 true 1 0 6 (sMx mat0) im 0 b ts rows f (by decide) (by decide)).1 ⟨rfl, rfl, by decide, by decide, by decide, by decide⟩
    (by decide) g1).2 g2 r1
  obtain ⟨_, _, _, h2, _⟩ := ((h 1 3 true 1 0 2 (sMx mat0) im 0 b ts rows' f' (by decide) (by decide)).2
    ⟨rfl, rfl, by decide, by decide, by decide, by decide⟩ (by decide)).2 r2
  have h3 := ((h 1 3 true 1 0 4 (sMx { mat0 with acc := [(3 * 16384, 0x40000000)] }) im 0 b' ts' [] 0 (by decide) (by decide)).1
    ⟨rfl, rfl, by decide, by decide, by decide, by decide⟩ (by decide) k1).1 256 (by decide +kernel)
  exact ⟨⟨_, h1⟩, ⟨_, h2⟩, _, h3⟩

/-- Cores 0 and 1 with posts. -/
def pairOf (ka kb : Nat) : Chip :=
  { c0 im w0 with
    cores := [(0, { core0 w0 with mat := { mat0 with post := some ⟨0, 15, 15, ka, 0, 0, 0, 0, p0⟩ } }),
              (1, { Core.zero with mat := { mat0 with post := some ⟨0, 0, 15, kb, 0, 0, 0, 1, p0⟩ } })],
    cycle := 65536 }

/-- The product of a post. -/
theorem pair_ok {c : Chip} {core : Nat} {p : PairPost} {a : Tile} (hu : (c.core core).upset = none)
    (h : (List.range 128).any (fun r => a.marked r || ((c.core core).mat.tile p.tb).marked r) = false) :
    ∃ m, c.pairProduct core p a = .ok m := by
  simp [Chip.pairProduct, h, Mat.product, hu]

/-- A post; two that agree, two that do not, and one that has waited its time. -/
theorem meets_PairedProduct (h : PairedProduct) :
    (∃ t, exec (.mpair 1 3 15 15 1) (sMx mat0) = .next t) ∧ (∃ t, exec (.mpairStart 0) (sOf (pairOf 1 1)) = .next t)
    ∧ (∃ t, exec (.mpairStart 0) (sOf (pairOf 1 2)) = .next t)
    ∧ ∃ t, exec (.mpairTimeout 0) (sOf { pairOf 1 1 with cores := (pairOf 1 1).cores.take 1 }) = .next t := by
  obtain ⟨_, h1, _⟩ := h.1 1 3 15 15 1 (sMx mat0) im 0 1 ⟨rfl, rfl, by decide, by decide, by decide, by decide⟩ (by decide) (by decide)
  obtain ⟨_, g1⟩ := pair_ok (c := pairOf 1 1) (core := 0) (p := ⟨0, 15, 15, 1, 0, 0, 0, 0, p0⟩) (a := mat0.tile 15) rfl (by decide)
  obtain ⟨_, g2⟩ := pair_ok (c := pairOf 1 1) (core := 1) (p := ⟨0, 0, 15, 1, 0, 0, 0, 1, p0⟩) (a := mat0.tile 15) rfl (by decide)
  obtain ⟨_, h2, _⟩ := (h.2.1 (sOf (pairOf 1 1)) 0 _ _ _ _ rfl rfl).1 rfl rfl (by decide) (by decide) g1 g2
  have h3 := (h.2.1 (sOf (pairOf 1 2)) 0 _ _ mat0 mat0 rfl rfl).2 (.inl (by decide))
  have h4 := h.2.2 (sOf { pairOf 1 1 with cores := (pairOf 1 1).cores.take 1 }) 0 _ rfl (by decide) (by
    intro q hq
    obtain rfl : q = 1 := by
      have : (sOf { pairOf 1 1 with cores := (pairOf 1 1).cores.take 1 }).chip.partner 0 = some 1 := by decide
      rw [this] at hq; exact (Option.some.inj hq).symm
    rfl)
  exact ⟨⟨_, h1⟩, ⟨_, h2⟩, ⟨_, h3⟩, _, h4⟩

end Sys2Proof.Tests
end

