-- ==== Sys2Proof/Tests/Witness5.lean ====
section
/-! SUPPORT. Witnesses of the claims about the copy sequencer: commands, scalar memory, TRIG, walks, grants, landing and ends. -/

namespace Sys2Proof.Tests

open Sys2Proof Sys2Proof.Machine Sys2Proof.Claims

-- one theorem at a time: proofs that wait for the kernel in parallel would hold a thread each
set_option Elab.async false

/-- A Dray with its stream and one queue. -/
def dray0 (q : Queue) : Dray := { Dray.zero with s := st0, k := [(1, 0x20000), (2, 0x20040), (3, 7)], queues := [(7, q)] }

/-- The state in which it issues; the page at 0x20000 may be written. -/
def sD (q : Queue) : State :=
  sOf { cm ic w0 with cores := [(0, { core0 w0 with tlb := [bootTlb, dataTlb], dray := dray0 q })] }

/-- Queue 7, FSEL 1, scope 5 with ACQ and REL. -/
def ct7 : CmdCtl := { fsel := 1, acq := true, rel := true, scope := 5, queue := 7 }

theorem meets_CommandIssue (h : CommandIssue) :
    (∃ t, exec (.dcopy ct7 1 2) (sD Queue.zero) = .next t) ∧ (∃ t, exec (.dmcast ct7 1 2 3 3 7 63 3) (sD Queue.zero) = .next t)
    ∧ (∃ t, exec (.dproxy ct7 1 63) (sD Queue.zero) = .next t) ∧ ∃ t, exec (.dred ct7 3 1 2) (sD Queue.zero) = .next t :=
  let ⟨_, _, h1, _⟩ := h.1 (.dcopy ct7 1 2) _ _ _ _ (sD Queue.zero) ic 0 rfl ⟨rfl, rfl, by decide, by decide⟩ (by decide) (by decide)
  let ⟨_, _, h2, _⟩ := h.1 (.dmcast ct7 1 2 3 3 7 63 3) _ _ _ _ (sD Queue.zero) ic 0 rfl ⟨rfl, rfl, by decide, by decide⟩ (by decide) (by decide)
  let ⟨_, _, h3, _⟩ := h.1 (.dproxy ct7 1 63) _ _ _ _ (sD Queue.zero) ic 0 rfl ⟨rfl, rfl, by decide, by decide⟩ (by decide) (by decide)
  ⟨⟨_, h1⟩, ⟨_, h2⟩, ⟨_, h3⟩, _, h.2 ct7 1 2 (sD Queue.zero) ic 0 ⟨rfl, rfl, by decide, by decide⟩⟩

/-- A DFILL of the map at 0x20000. -/
def fill0 : Cmd :=
  { op := 0xDA, ka := 0x20000, kb := 7, kc := 0, kd := 0, imm := 0, acq := true, rel := false, scope := 5, opId := none, pos := p0, issued := 0,
    cid := 0, prog := 0, sentTo := [], cancelled := false }

/-- A map to memory: four elements of eight bytes at 0x20100. -/
def map0 : TMap := { base := 0x20100, esize := 8, kind := 0, pol := 0, core := 0, barrier := 0, fmt := 0, dims := [(4, 8)] }

/-- A run of that command. -/
def run0 : Run := { Run.fresh fill0 with begun := true, dst := some map0, count := 4 }

/-- A queue that runs it, and one behind it. -/
def q0 (r : Run) : Queue := { Queue.zero with cmds := [fill0, { fill0 with prog := 1 }], run := some r }

theorem meets_QueueControl (h : QueueControl) :
    (∃ t, exec (.dresume 31 7) (sD { Queue.zero with last := some fill0, status := 4 }) = .next t) ∧ (∃ t, exec (.dresume 31 7) (sD (q0 run0)) = .next t)
    ∧ (∃ t, exec (.dcancel 31 7) (sD { q0 run0 with run := none }) = .next t) ∧ (∃ t, exec (.dcancel 31 7) (sD (q0 run0)) = .next t)
    ∧ ∃ t, exec (.dcancel 31 7) (sD (q0 { run0 with p := 4 })) = .next t :=
  let ⟨_, h1, _⟩ := (h 31 7 (sD { Queue.zero with last := some fill0, status := 4 }) ic 0 ⟨rfl, rfl, by decide, by decide⟩).1 fill0 rfl rfl (by decide)
  let ⟨_, h2, _⟩ := (h 31 7 (sD (q0 run0)) ic 0 ⟨rfl, rfl, by decide, by decide⟩).2.1 (.inl (by decide))
  let ⟨_, h3, _⟩ := (h 31 7 (sD { q0 run0 with run := none }) ic 0 ⟨rfl, rfl, by decide, by decide⟩).2.2.1 rfl
  let ⟨_, h4, _⟩ := ((h 31 7 (sD (q0 run0)) ic 0 ⟨rfl, rfl, by decide, by decide⟩).2.2.2 run0 rfl).1 (by simp [cancellable, run0, Run.fresh, fill0])
  let ⟨_, h5, _⟩ := ((h 31 7 (sD (q0 { run0 with p := 4 })) ic 0 ⟨rfl, rfl, by decide, by decide⟩).2.2.2 { run0 with p := 4 } rfl).2
    (by simp [cancellable, run0, Run.fresh, fill0])
  ⟨⟨_, h1⟩, ⟨_, h2⟩, ⟨_, h3⟩, ⟨_, h4⟩, _, h5⟩

/-- A translation of the address of a scalar access. -/
theorem scalar_ok {a : Nat} {acc : Acc} {t : Nat} (h : (match (sD Queue.zero).chip.xlate 0 1 a acc 0 with
      | .ok v => tierOf v.1 == t && decide (((sD Queue.zero).chip.meetsDray 0 (lineOf v.1) (BitVec.ofNat 64 (255 * 2 ^ (v.1 % 64)))) = none)
        && (v.2.sliceRead 0 (lineOf v.1) 0).isSome
      | .error _ => false) = true) : ∃ pa c1, (sD Queue.zero).chip.xlate 0 1 a acc 0 = .ok (pa, c1) ∧ tierOf pa = t
    ∧ ((sD Queue.zero).chip.meetsDray 0 (lineOf pa) (BitVec.ofNat 64 (255 * 2 ^ (pa % 64)))) = none ∧ (c1.sliceRead 0 (lineOf pa) 0).isSome := by
  split at h
  · next v hv =>
    simp only [Bool.and_eq_true, beq_iff_eq, decide_eq_true_eq] at h
    exact ⟨v.1, v.2, hv, h.1.1, h.1.2, h.2⟩
  · cases h

/-- The write of a scalar store of k3, issued in chip `c1`. -/
def stored (pa : Nat) (c1 : Chip) : Chip × Option Nat :=
  let c3 := (c1.issueCid ic).1
  c3.drayWrite 0 ((sD Queue.zero).chip.tagOf ((sD Queue.zero).chip.gangOf ic.eng)) (lineOf pa) (BitVec.ofNat 64 (255 * 2 ^ (pa % 64)))
    (BitVec.ofNat 512 ((kval (sD Queue.zero) 0 3).toNat * 2 ^ (8 * (pa % 64)))) false 0 (c1.issueCid ic).2
    { who := .drayStream 0, op := 0xE8, tag := (sD Queue.zero).chip.tagOf ((sD Queue.zero).chip.gangOf ic.eng), pos := ic.pos, id := some c3.nextOp }

/-- A load and a store in local memory, and at an address that is not a multiple of eight. -/
theorem meets_ScalarMemory (h : ScalarMemory) :
    (∃ t, exec (.kld true 5 31 1 0) (sD Queue.zero) = .next t) ∧ (∃ t, exec (.kst false 5 3 1 0) (sD Queue.zero) = .next t)
    ∧ ∃ t, exec (.kst true 5 3 1 1) (sD Queue.zero) = .next t := by
  obtain ⟨_, _, g1, g2, g3, g4⟩ := scalar_ok (a := 0x20000) (acc := .read) (t := 0) (by decide +kernel)
  obtain ⟨⟨pa, c1⟩, k1, kv⟩ := okWith (e := (sD Queue.zero).chip.xlate 0 1 0x20000 .write 0)
    (fun v => tierOf v.1 == 0 && !(stored v.1 v.2).1.opAsks (stored v.1 v.2).1.nextOp) (by decide +kernel)
  simp only [Bool.and_eq_true, beq_iff_eq, Bool.not_eq_true'] at kv
  obtain ⟨_, h1, _⟩ := (((h true 5 31 1 0 (sD Queue.zero) ic 0 _ _).2.1 (by decide) ⟨rfl, rfl, by decide, by decide⟩ g1).1 (by omega) rfl g3).1
    (by omega) g4
  have h2 := (((h false 5 3 1 0 (sD Queue.zero) ic 0 _ _).2.2 (by decide) ⟨rfl, rfl, by decide, by decide⟩ k1) _ _ rfl).1 (by omega) kv.2
  have h3 := ((h true 5 3 1 1 (sD Queue.zero) ic 0 0 (sD Queue.zero).chip).1 (by decide)).2 ⟨rfl, rfl, by decide, by decide⟩
  exact ⟨⟨_, h1⟩, ⟨_, h2⟩, _, h3⟩

/-- A command of queue 7 that writes. -/
def storer7 : Storer := { who := .drayQueue 0 7, op := 0xDA, tag := 1, pos := p0, id := none }

theorem meets_DrayWriteResult (h : DrayWriteResult) : (((sD Queue.zero).chip).drayWrite 0 1 0x20000 3 5 false 0 0 storer7).2 = none :=
  (h (sD Queue.zero).chip 0 1 0x20000 3 5 false 0 0 storer7 (by decide) (by decide) (by decide)).1

/-- The state of a warp whose task may trigger, or not. -/
def sT (flags : BitVec 16) (done : Bool) : State :=
  sOf { c0 i0 w0 with grids := [(0, some { bootGrid with task := { bootTask with flags := flags }, triggered := done })] }

/-- No lane, a task without the flag, a task that has triggered, and the first trigger. -/
theorem meets_TriggerResult (h : TriggerResult) :
    (∃ t, exec (.trig 0x03F 1) (sT 0x20 false) = .next t) ∧ (∃ t, exec (.trig 0 1) (sT 0 false) = .next t)
    ∧ (∃ t, exec (.trig 0 1) (sT 0x20 true) = .next t) ∧ ∃ t, exec (.trig 0 1) (sT 0x20 false) = .next t := by
  exact ⟨⟨_, (h 0x03F 1 (sT 0x20 false) i0 0 0 w0 _ _ ⟨rfl, rfl, rfl⟩ (ready_of (by decide)) (by decide) rfl rfl).1 (by decide)⟩,
    ⟨_, (h 0 1 (sT 0 false) i0 0 0 w0 _ _ ⟨rfl, rfl, rfl⟩ (ready_of (by decide)) (by decide) rfl rfl).2.1 (by decide) (by decide)⟩,
    ⟨_, (h 0 1 (sT 0x20 true) i0 0 0 w0 _ _ ⟨rfl, rfl, rfl⟩ (ready_of (by decide)) (by decide) rfl rfl).2.2.1 (by decide) (by decide) rfl rfl
      (by decide +kernel)⟩,
    _, (h 0 1 (sT 0x20 false) i0 0 0 w0 _ _ ⟨rfl, rfl, rfl⟩ (ready_of (by decide)) (by decide) rfl rfl).2.2.2 _ (by decide) (by decide) rfl
      (Prod.ext rfl (Option.isNone_iff_eq_none.mp (by decide +kernel)))⟩

/-- A grid whose second successor's decrement is under way. -/
def cSucc (n : Nat) (succ : DWord) : Chip :=
  { (sD Queue.zero).chip with grids := [(0, some { bootGrid with task := { bootTask with succ1 := succ }, dec := some (n, 5) })],
                              mem := [(0x20030, 3), (0x30000, 0x3F)] }

/-- No decrement under way, no successors, and a counter of 3 at 0x20030 as the second. -/
theorem meets_SuccessorSteps (h : SuccessorSteps) :
    (sD Queue.zero).chip.successors 0 = ((sD Queue.zero).chip, none) ∧ ((cSucc 0 0).successors 0).2 = none
    ∧ ((cSucc 1 0x20030).successors 0).2 = none := by
  obtain ⟨_, h2, _⟩ := h.2.1 (cSucc 0 0) 0 _ 5 rfl rfl rfl rfl
  obtain ⟨c1, g, hg⟩ := okWith (e := (cSucc 1 0x20030).counterDec 0 5 1 0x20030 false)
    (fun c => decide (c.grid 0 = some { bootGrid with task := { bootTask with succ1 := 0x20030 }, dec := some (1, 5) })) (by decide +kernel)
  obtain ⟨_, h3, _⟩ := h.2.2 (cSucc 1 0x20030) 0 _ 5 1 c1 rfl rfl (.inr rfl) (by decide) g (of_decide_eq_true hg)
  exact ⟨h.1 _ 0 (fun gr hgr => by cases (hgr : some bootGrid = some gr); rfl), by rw [h2], by rw [h3]⟩

/-- A map of four elements in the bytes that a DFILL reads at 0x20000. -/
def mapBytes : List Byte :=
  bytesOf 8 0x20100 ++ bytesOf 8 0x00000108 ++ bytesOf 4 4 ++ bytesOf 8 8 ++ List.replicate 228 0

/-- Lines present in their slices. -/
def present (lines : List Nat) : List SliceLine := lines.map (fun x => { slice := (sD Queue.zero).chip.home x, line := x, resident := false })

/-- The state with that map in memory and in the slices. -/
def sDm (q : Queue) : State :=
  { sD q with
    chip := { (sD q).chip with
      mem := aputN 0 [(0x30000, 0x3F)] 0x20000 mapBytes, dir := present [0x20000, 0x20040, 0x20080, 0x200C0] } }

/-- Queue 7 of core 0. -/
def l7 : Lane8 := { core := 0, q := 7 }

/-- A pair from its second part. -/
theorem pairWith {α β : Type} {x : α × β} {b : β} (h : x.2 = b) : x = (x.1, b) := by rw [← h]

/-- The read of a command's source map at its start. -/
def srcRead (s : State) (k : Cmd) : Haul × Option (List Byte) :=
  mapRead l7 k ((triedIn s.chip 0 7 k).drayTag 0) (mapsOf k).1 { c := triedIn s.chip 0 7 k, elem := k.prog, seen := [], stop := none }

/-- The read of its destination map after that. -/
def dstRead (s : State) (k : Cmd) : Haul × Option (List Byte) := mapRead l7 k ((triedIn s.chip 0 7 k).drayTag 0) (mapsOf k).2 (srcRead s k).1

theorem maps_ok {s : State} {k : Cmd} (h : (decide ((srcRead s k).1.stop = none) && decide ((dstRead s k).1.stop = none)
    && decide (((dstRead s k).1.c.queue 0 7).run = some (Run.fresh k))) = true) :
    MapsRead (triedIn s.chip 0 7 k) l7 k (dstRead s k).1.c (srcRead s k).2 (dstRead s k).2 := by
  simp only [Bool.and_eq_true, decide_eq_true_eq] at h
  exact ⟨(srcRead s k).1, (dstRead s k).1, rfl, h.1.1, rfl, h.1.2, rfl, h.2⟩

/-- A queue that waits with the command at its head, in a state without remote requests, as a computation. -/
def waitsOk (s : State) (k : Cmd) : Bool :=
  decide ((s.chip.core 0).dray.s.st ≠ 0) && (match s.chip.gang (s.chip.core 0).dray.s.gang with
    | some g => g.phase == 0
    | none => false)
  && decide ((s.chip.queue 0 7).cmds = [k]) && decide ((s.chip.queue 0 7).run = none) && decide (s.chip.remotes = [])

theorem waits {s : State} {k : Cmd} (h : waitsOk s k = true) : Waiting s.chip 0 7 k := by
  simp only [waitsOk, Bool.and_eq_true, decide_eq_true_eq] at h
  obtain ⟨⟨⟨⟨h1, h2⟩, h3⟩, h4⟩, h5⟩ := h
  split at h2
  · next g hg => exact ⟨⟨h1, g, hg, eq_of_beq h2⟩, ⟨[], h3⟩, h4, fun x hx => by rw [h5] at hx; cases hx⟩
  · cases h2

/-- A map of four elements into slot 1 of core 0, under barrier 3. -/
def bankMap : List Byte :=
  bytesOf 8 (2 ^ 29 + 0x100) ++ bytesOf 8 (0x00010108 + 3 * 2 ^ 48) ++ bytesOf 4 4 ++ bytesOf 8 8 ++ List.replicate 228 0

/-- The state with that map; `n` entries of core 0's scoreboard are taken. -/
def sDb (n : Nat) : State :=
  let s := sDm { Queue.zero with cmds := [fill0] }
  { s with chip := { (s.chip.setCore 0 { s.chip.core 0 with score := List.replicate n ⟨0, 1, 0, 2, 0, 7, false⟩ }) with
                      mem := aputN 0 [(0x30000, 0x3F)] 0x20000 bankMap } }

/-- A DMCAST of that map's bytes to no core. -/
def mcast0 : Cmd := { fill0 with op := 0xD9, kb := 0, imm := 1 + 3 * 8 }

/-- A cancelled command, an address that is not canonical, one that is not aligned, and a DFILL and a DMCAST whose maps are good. -/
theorem meets_CommandStart (h : CommandStart) :
    (∃ t, exec (.drayCommandStart 0 7) (sD { Queue.zero with cmds := [{ fill0 with cancelled := true }] }) = .next t)
    ∧ (∃ t, exec (.drayCommandStart 0 7) (sD { Queue.zero with cmds := [{ fill0 with ka := 0x8000000000000000 }] }) = .next t)
    ∧ (∃ t, exec (.drayCommandStart 0 7) (sD { Queue.zero with cmds := [{ fill0 with ka := 0x20020 }] }) = .next t)
    ∧ (∃ t, exec (.drayCommandStart 0 7) (sDm { Queue.zero with cmds := [fill0] }) = .next t)
    ∧ ∃ t, exec (.drayCommandStart 0 7) (sDm { Queue.zero with cmds := [mcast0] }) = .next t :=
  let ⟨_, _, h1, _⟩ := (h (sD { Queue.zero with cmds := [{ fill0 with cancelled := true }] }) 0 7 { fill0 with cancelled := true } (waits (by decide +kernel))).1 rfl
  let ⟨_, _, h2, _⟩ := (h (sD { Queue.zero with cmds := [{ fill0 with ka := 0x8000000000000000 }] }) 0 7 { fill0 with ka := 0x8000000000000000 }
    (waits (by decide +kernel))).2.1 0x8000000000000000 rfl (by decide)
  let ⟨_, _, h3, _⟩ := (h (sD { Queue.zero with cmds := [{ fill0 with ka := 0x20020 }] }) 0 7 { fill0 with ka := 0x20020 } (waits (by decide +kernel))).2.2.1 rfl
    (by decide) (by decide) (by decide)
  let g := (h (sDm { Queue.zero with cmds := [fill0] }) 0 7 fill0 (waits (by decide +kernel))).2.2.2 _ _ _ rfl (by decide)
    (by decide) (by decide) (by decide) (maps_ok (by decide +kernel))
  let ⟨_, _, h4, _⟩ := g.2.1 (by decide +kernel) (by decide +kernel)
  let m := (h (sDm { Queue.zero with cmds := [mcast0] }) 0 7 mcast0 (waits (by decide +kernel))).2.2.2 _ _ _ rfl (by decide)
    (by decide) (by decide) (by decide) (maps_ok (by decide +kernel))
  let ⟨_, _, h5, _⟩ := m.2.1 (by decide +kernel) (by decide +kernel)
  ⟨⟨_, h1⟩, ⟨_, h2⟩, ⟨_, h3⟩, ⟨_, h4⟩, _, h5⟩

/-- A queue with a command at its head and bytes at 0x20000, and a shadow queue. -/
def sO (k : Cmd) (bs : List Byte) (y : Proxy) : State :=
  let s := sDm { Queue.zero with cmds := [k] }
  { s with chip := { s.chip with mem := aputN 0 [(0x30000, 0x3F)] 0x20000 bs, proxies := [(63, y)] } }

/-- A map without elements, reason 0x0102; bank-bound fills: one that begins, and one for whose target no entry is free. -/
theorem meets_CommandStart_bank (h : CommandStart) :
    (∃ t, exec (.drayCommandStart 0 7) (sO fill0 [] Proxy.zero) = .next t) ∧ (∃ t, exec (.drayCommandStart 0 7) (sDb 15) = .next t)
    ∧ ∃ t, exec (.drayCommandStart 0 7) (sDb 16) = .next t :=
  let f := (h (sO fill0 [] Proxy.zero) 0 7 fill0 (waits (by decide +kernel))).2.2.2 _ _ _ rfl (by decide)
    (by decide) (by decide) (by decide) (maps_ok (by decide +kernel))
  let ⟨_, _, h1, _⟩ := f.1 0x102 (by decide +kernel) (by decide +kernel)
  let a := (h (sDb 15) 0 7 fill0 (waits (by decide +kernel))).2.2.2 _ _ _ rfl (by decide)
    (by decide) (by decide) (by decide) (maps_ok (by decide +kernel))
  let ⟨_, _, h2, _⟩ := a.2.2.1 _ (by decide +kernel) (by decide +kernel) (pairWith (by decide +kernel))
  let b := (h (sDb 16) 0 7 fill0 (waits (by decide +kernel))).2.2.2 _ _ _ rfl (by decide)
    (by decide) (by decide) (by decide) (maps_ok (by decide +kernel))
  let ⟨_, _, h3, _⟩ := b.2.2.2 _ (by decide +kernel) (by decide +kernel) (pairWith (by decide +kernel))
  ⟨⟨_, h1⟩, ⟨_, h2⟩, _, h3⟩

/-- The last free entry of a scoreboard, and none. -/
theorem meets_TargetAllocation (h : TargetAllocation) :
    ((sDb 15).chip.allocTargets l7 fill0 none none [(0, 1, 3)]).2 = true ∧ ((sDb 16).chip.allocTargets l7 fill0 none none [(0, 1, 3)]).2 = false :=
  ⟨(h.1 (sDb 15).chip l7 fill0 none none (0, 1, 3) (by decide +kernel) (by decide +kernel)).1,
   (h.2 (sDb 16).chip l7 fill0 none none (0, 1, 3) [] (.inr ⟨_, .head _, by decide +kernel⟩)).1⟩

/-- A descriptor of two ranks, one FP32 element, at 0x20000: the ranks at 0x20040, this device the first, the source at 0x20080. -/
def descBytes (count : Nat) : List Byte :=
  bytesOf 8 0x20080 ++ bytesOf 8 0x20100 ++ bytesOf 8 0x20040 ++ bytesOf 8 (count + 2 * 2 ^ 32) ++ bytesOf 8 0 ++ bytesOf 8 9 ++ List.replicate 16 0
    ++ bytesOf 4 0x3FFFFF ++ bytesOf 4 5

/-- The DCOLL and the DPROXY of queue 63. -/
def dcoll0 : Cmd := { fill0 with op := 0xDD, imm := 0 }

/-- A DPROXY into shadow queue 63. -/
def proxy0 : Cmd := { fill0 with op := 0xDE, imm := 63 }

/-- The haul at a command's start. -/
def haul0 (s : State) (k : Cmd) : Haul := { c := triedIn s.chip 0 7 k, elem := k.prog, seen := [], stop := none }

/-- The read of a descriptor. -/
def descRead (s : State) : Haul × List Byte := readMap l7 dcoll0 [] (s.chip.drayTag 0) 0x20000 64 (haul0 s dcoll0)

/-- The run of the rank that it describes, before its ranks are read. -/
def collRun0 (s : State) : CollRun := (Desc.ofBytes (descRead s).2).run dcoll0 []

/-- The read of its ranks. -/
def ranksRead (s : State) : Haul × List Byte :=
  readMap l7 dcoll0 [] (s.chip.drayTag 0) (Desc.ofBytes (descRead s).2).ranks (4 * (Desc.ofBytes (descRead s).2).p)
    { (descRead s).1 with c := (descRead s).1.c.modRun l7 (fun x => { x with coll := some (collRun0 s) }) }

/-- The read of its source. -/
def srcBytes (s : State) : Haul × List MByte :=
  drayRead l7 dcoll0 [] (s.chip.drayTag 0) 0 (Desc.ofBytes (descRead s).2).src
    (contribBytes (Desc.ofBytes (descRead s).2).pack (Desc.ofBytes (descRead s).2).rank) (ranksRead s).1

/-- The read of a DPROXY's entry. -/
def entryRead (s : State) : Haul × List MByte := drayRead l7 proxy0 [] (s.chip.drayTag 0) 0 0x20000 64 (haul0 s proxy0)

/-- A descriptor that is not aligned, one of no element, a good one. -/
theorem meets_OtherStarts (h : OtherStarts) :
    (∃ t, exec (.drayCommandStart 0 7) (sO { dcoll0 with ka := 0x20020 } [] Proxy.zero) = .next t)
    ∧ (∃ t, exec (.drayCommandStart 0 7) (sO dcoll0 (descBytes 0) Proxy.zero) = .next t)
    ∧ ∃ t, exec (.drayCommandStart 0 7) (sO dcoll0 (descBytes 1) Proxy.zero) = .next t :=
  let ⟨_, _, h1, _⟩ := (h (sO { dcoll0 with ka := 0x20020 } [] Proxy.zero) 0 7 { dcoll0 with ka := 0x20020 } (waits (by decide +kernel)) rfl (by decide)).1
    (by decide) (by decide)
  let s2 := sO dcoll0 (descBytes 0) Proxy.zero
  let ⟨_, _, h2, _⟩ := ((h s2 0 7 dcoll0 (waits (by decide +kernel)) rfl (by decide)).2.1 (descRead s2).1 (descRead s2).2 rfl
    (by decide) (pairWith rfl) (by decide +kernel) (by decide +kernel)).1 0x109 (by decide +kernel)
  let s3 := sO dcoll0 (descBytes 1) Proxy.zero
  let ⟨_, _, h3, _⟩ := ((h s3 0 7 dcoll0 (waits (by decide +kernel)) rfl (by decide)).2.1 (descRead s3).1 (descRead s3).2 rfl
    (by decide) (pairWith rfl) (by decide +kernel) (by decide +kernel)).2 (ranksRead s3).1 (ranksRead s3).2 (srcBytes s3).1 (srcBytes s3).2 (by decide +kernel)
    (pairWith rfl) (by decide +kernel) (by decide +kernel) (fun x hx => by
      have hn : (ranksRead s3).1.c.coll (dw 9) = none := by decide +kernel
      have hd : dw (Desc.ofBytes (descRead s3).2).id = dw 9 := by decide +kernel
      rw [hd, hn] at hx; cases hx) (by decide +kernel) rfl (by decide +kernel) (by decide +kernel) (by decide +kernel)
  ⟨⟨_, h1⟩, ⟨_, h2⟩, _, h3⟩

/-- Entries for a shadow queue that is off, that has failed, that is full and that has room. -/
theorem meets_OtherStarts_proxy (h : OtherStarts) :
    (∃ t, exec (.drayCommandStart 0 7) (sO proxy0 [] Proxy.zero) = .next t)
    ∧ (∃ t, exec (.drayCommandStart 0 7) (sO proxy0 [] { Proxy.zero with en := true, err := true, why := 3 }) = .next t)
    ∧ (∃ t, exec (.drayCommandStart 0 7) (sO proxy0 [] { Proxy.zero with en := true, entries := List.replicate 256 (0, 0) }) = .next t)
    ∧ ∃ t, exec (.drayCommandStart 0 7) (sO proxy0 [] { Proxy.zero with en := true, entries := List.replicate 255 (0, 0) }) = .next t :=
  let g (y : Proxy) (w : waitsOk (sO proxy0 [] y) proxy0 = true) := (h (sO proxy0 [] y) 0 7 proxy0 (waits w) rfl (by decide)).2.2 rfl (by decide)
  let e (y : Proxy) (w : waitsOk (sO proxy0 [] y) proxy0 = true) := (g y w).2 (entryRead (sO proxy0 [] y)).1 (entryRead (sO proxy0 [] y)).2
  let ⟨_, _, h1, _⟩ := (g Proxy.zero (by decide +kernel)).1 rfl
  let ⟨_, _, h2, _⟩ := (e { Proxy.zero with en := true, err := true, why := 3 } (by decide +kernel) rfl rfl (by decide +kernel) (by decide +kernel)).1 (by decide +kernel)
  let ⟨_, _, h3, _⟩ := (e { Proxy.zero with en := true, entries := List.replicate 256 (0, 0) } (by decide +kernel) rfl rfl (by decide +kernel) (by decide +kernel)).2.1
    (by decide +kernel) (by decide +kernel)
  let ⟨_, _, h4, _⟩ := (e { Proxy.zero with en := true, entries := List.replicate 255 (0, 0) } (by decide +kernel) rfl rfl (by decide +kernel) (by decide +kernel)).2.2
    (by decide +kernel) (by decide +kernel)
  ⟨⟨_, h1⟩, ⟨_, h2⟩, ⟨_, h3⟩, _, h4⟩

/-- A bank-bound run with its one target. -/
def runB (x : Target) (fetched : List (Byte × Bool)) : Run :=
  { run0 with dst := some { map0 with kind := 1, base := 0x100 }, targets := [x], fetched := fetched }

/-- Core 0's slot 1, barrier 3. -/
def tgt0 : Target := { core := 0, slot := 1, barrier := 3, sent := 0, landed := 0, flight := [] }

/-- The walk of four elements to memory. -/
def walk0 : Haul × Nat × List LineW :=
  walkElems { core := 0, q := 7 } fill0 run0 1 0 8192 0 [] { c := (sD (q0 run0)).chip, elem := 0, seen := [], stop := none }

theorem walk_ok : walk0.1.stop = none ∧ (flushLines { core := 0, q := 7 } fill0 1 0 walk0.2.2 walk0.1.c).2 = none
    ∧ runIn { sD (q0 run0) with chip := (flushLines { core := 0, q := 7 } fill0 1 0 walk0.2.2 walk0.1.c).1 } 0 7 = some run0 := by decide +kernel

/-- The walk of a bank-bound fill. -/
def fetch0 : Haul × List MByte :=
  fetchElems { core := 0, q := 7 } fill0 (runB tgt0 []) 1 0 8192 0 { c := (sD (q0 (runB tgt0 []))).chip, elem := 0, seen := [], stop := none }

theorem fetch_ok : fetch0.1.stop = none ∧ runIn { sD (q0 (runB tgt0 [])) with chip := fetch0.1.c } 0 7 = some (runB tgt0 []) := by decide +kernel

theorem meets_CommandWalks (h : CommandWalks) :
    (∃ t, exec (.hansomWalkStart 0 7) (sD (q0 run0)) = .next t) ∧ ∃ t, exec (.hansomWalkStart 0 7) (sD (q0 (runB tgt0 []))) = .next t :=
  let ⟨_, _, h1, _⟩ := (h (sD (q0 run0)) 0 7 fill0 run0 _ ⟨by decide, _, rfl, rfl⟩ ⟨_, rfl, rfl⟩ (by decide) (fun x hx => by cases hx)
    (.inl ⟨by decide, by decide, rfl⟩)).1 walk0.1 walk0.2.1 walk0.2.2 (by decide) rfl (by decide) rfl walk_ok.1 walk_ok.2.1 walk_ok.2.2
  let ⟨_, _, h2, _⟩ := (h (sD (q0 (runB tgt0 []))) 0 7 fill0 (runB tgt0 []) _ ⟨by decide, _, rfl, rfl⟩ ⟨_, rfl, rfl⟩ (by decide)
    (fun x hx => by cases hx) (.inl ⟨by decide, by decide, rfl⟩)).2 _ fetch0.1 fetch0.2 (.inr ⟨rfl, by decide⟩) (by decide) rfl fetch_ok.1 fetch_ok.2
  ⟨⟨_, h1⟩, _, h2⟩

/-- A page fault on which the command stalls. -/
def pf0 (failed : Bool) : PageFault :=
  { id := 0, addr := 0x20100, kind := 1, level := 0, tag := 1, engine := 0, cid := 0, op := 0xDA, gang := 0, party := .drayQueue 0 7, ring := true,
    failed := failed, resolved := false, pos := p0 }

/-- The state of a stalled command with faults outstanding. -/
def sP (fs : List PageFault) : State :=
  let s := sD (q0 { run0 with state := 2, fault := some 0x20100 })
  { s with chip := { s.chip with faults := fs } }

/-- A command that has written all, one that is to end REMOTE, and stalled ones. -/
theorem meets_CommandEnd (h : CommandEnd) :
    (∃ t, exec (.drayCommandEnd 0 7) (sD (q0 { run0 with p := 4 })) = .next t)
    ∧ (∃ t, exec (.drayCommandEnd 0 7) (sD (q0 { runB tgt0 [] with ending := some (2, 3, 0) })) = .next t)
    ∧ (∃ t, exec (.drayFaultResume 0 7) (sP []) = .next t) ∧ (∃ t, exec (.drayFaultResume 0 7) (sP [pf0 false]) = .next t)
    ∧ ∃ t, exec (.drayFaultResume 0 7) (sP [pf0 true]) = .next t :=
  let ⟨_, h1, _⟩ := h.1 (sD (q0 { run0 with p := 4 })) 0 7 fill0 _ 0 0 0 ⟨by decide, _, rfl, rfl⟩ ⟨_, rfl, rfl⟩ (fun h => nomatch h) (by decide)
    (.inr ⟨rfl, by decide, rfl⟩)
  let ⟨_, h2, _⟩ := h.1 (sD (q0 { runB tgt0 [] with ending := some (2, 3, 0) })) 0 7 fill0 _ 2 3 0 ⟨by decide, _, rfl, rfl⟩ ⟨_, rfl, rfl⟩ (fun h => nomatch h)
    (by decide) (.inl ⟨rfl, by decide⟩)
  let ⟨_, h3, _⟩ := h.2.1 (sP []) 0 7 fill0 _ ⟨_, rfl, rfl⟩ rfl (by decide)
  let h4 := (h.2.2 (sP [pf0 false]) 0 7 fill0 _ (pf0 false) ⟨_, rfl, rfl⟩ rfl (by decide)).1 rfl
  let ⟨_, h5, _⟩ := (h.2.2 (sP [pf0 true]) 0 7 fill0 _ (pf0 true) ⟨_, rfl, rfl⟩ rfl (by decide)).2 rfl
  ⟨⟨_, h1⟩, ⟨_, h2⟩, ⟨_, h3⟩, ⟨_, h4⟩, _, h5⟩

/-- A DCOLL of one rank: one FP32 element, the sum. -/
def desc0 : Nat := 1 + 2 ^ 29

/-- Its rank here, with the address of its result. -/
def rank0 (dst : DWord) : CollRun :=
  { id := 9, desc := desc0, ranks := [0x3FFFFF], rank := 0, ordered := false, dst := dst, deadline := none, passed := false }

/-- Its contribution here, with a result that switches have returned, or a descriptor that has differed. -/
def gathered0 (bad : Bool) : Coll :=
  { id := 9, desc := desc0, bad := bad, got := [(0, [(1, false), (2, false), (3, false), (4, false)])], ready := [],
    switched := [(0, [(5, false), (6, false), (7, false), (8, true)])] }

/-- The state that holds them; the context's root table, at 0, has no entry. -/
def sK (bad : Bool) (dst : DWord) : State :=
  let s := sD { q0 { run0 with count := 1, dst := none, coll := some (rank0 dst) } with cmds := [dcoll0] }
  { s with chip := { s.chip with colls := [gathered0 bad], mem := [(0x10, 1), (0x20000, 0x11), (0x30000, 0x3F)] } }

/-- The run after its result has been written, or has met a page that is not there. -/
theorem result_ok {dst : DWord} {P : Cmd × Run → Bool} (h : (match (sK false dst).chip.writeResult l7 dcoll0 (rank0 dst)
      (((sK false dst).chip.collOutcome (gathered0 false) (rank0 dst)).getD []) with
    | .ok c => (match c.runOf l7 with
      | some y => P y
      | none => false)
    | .error _ => false) = true) (hs : ((sK false dst).chip.collOutcome (gathered0 false) (rank0 dst)).isSome = true) :
    ∃ bs c1 y, (sK false dst).chip.collOutcome (gathered0 false) (rank0 dst) = some bs
    ∧ (sK false dst).chip.writeResult l7 dcoll0 (rank0 dst) bs = .ok c1 ∧ c1.runOf l7 = some y ∧ P y = true := by
  obtain ⟨bs, hb⟩ := Option.isSome_iff_exists.mp hs
  rw [hb] at h
  split at h
  · next c hc =>
    split at h
    · next y hy => exact ⟨bs, c, y, hb, hc, hy, h⟩
    · cases h
  · cases h

/-- A result in local memory, one whose page is not there, descriptors that differ, and the two origins of a result. -/
theorem meets_CollectiveResult (h : CollectiveResult) :
    (∃ t, exec (.collectiveCombine 0) (sK false 0x20100) = .next t) ∧ (∃ t, exec (.collectiveCombine 0) (sK false 0x7FFFF0000) = .next t)
    ∧ (∃ t, exec (.collectiveCombine 0) (sK true 0x20100) = .next t)
    ∧ (sK false 0).chip.collOutcome (gathered0 false) (rank0 0) = (gathered0 false).whole.map (collResult desc0 0)
    ∧ ({ (sK false 0).chip with links := [(0, { Link.zero with up := true, canonical := true })] } : Chip).collOutcome (gathered0 false) (rank0 0)
        = some [(5, false), (6, false), (7, false), (8, true)] := by
  obtain ⟨bs, c1, y, hb, hw, hy, hp⟩ := result_ok (dst := 0x20100) (P := fun y => decide (y.2.count ≤ y.2.upto)) (by decide +kernel) (by decide)
  obtain ⟨bs', c1', y', hb', hw', hy', hp'⟩ := result_ok (dst := 0x7FFFF0000) (P := fun y => decide (y.2.upto < y.2.count) && y.2.state == 2)
    (by decide +kernel) (by decide)
  simp only [Bool.and_eq_true, decide_eq_true_eq, beq_iff_eq] at hp hp'
  have h1 := (h.1 (sK false 0x20100) 0 _ l7 _ _ _ bs c1 rfl (by decide) rfl rfl rfl (by decide) hb hw).1
    (fun z hz => by rw [hy] at hz; cases hz; exact hp) (by rw [hy]; rfl)
  have h2 := (h.1 (sK false 0x7FFFF0000) 0 _ l7 _ _ _ bs' c1' rfl (by decide) rfl rfl rfl (by decide) hb' hw').2 y' hy' hp'.1 hp'.2
  obtain ⟨_, h3, _⟩ := h.2.1 (sK true 0x20100) 0 _ l7 _ _ _ rfl (by decide) rfl rfl rfl
  exact ⟨⟨_, h1⟩, ⟨_, h2⟩, ⟨_, h3⟩, h.2.2.1 (sK false 0).chip (gathered0 false) (rank0 0) (.inr (.inl (by decide))),
    h.2.2.2.1 _ (gathered0 false) (rank0 0) _ [] rfl (by decide) (by decide) rfl (by decide)⟩

/-- The state with barrier 3 of core 0 armed for 16 bytes, or with an entry of the scoreboard that is over. -/
def sB (r : Run) : State :=
  let s := sD (q0 r)
  let k := { core0 w0 with tlb := [bootTlb, dataTlb], dray := dray0 (q0 r), bars := [(3, { Barrier.zero with expect := 1, xbytes := 16 })],
                           score := [⟨0, 0, 7, 1, 0, 15, true⟩] }
  { s with chip := { s.chip with cores := [(0, k)] } }

/-- Sixteen of 32 bytes granted, sixteen that land, an entry that retires, an entry of a slice that closes. -/
theorem meets_CopyDelivery (h : Obligations.CopyDelivery) :
    (∃ t, exec (.turntableGrant 0 7) (sB (runB tgt0 (List.replicate 32 (7, false)))) = .next t)
    ∧ (∃ t, exec (.byteLand 0 7) (sB (runB { tgt0 with sent := 2, flight := [(0x100, 7, false), (0x101, 8, true)] } [])) = .next t)
    ∧ (∃ t, exec (.scoreboardRetire 0 0) (sB run0) = .next t) ∧ ∃ t, exec (.multicastEntryClose 0x20000) (sB run0) = .next t :=
  let ⟨_, _, h1, _⟩ := h.1 (sB (runB tgt0 (List.replicate 32 (7, false)))) 0 7 fill0 _ tgt0 ⟨by decide, _, rfl, rfl⟩ ⟨_, rfl, rfl⟩ rfl (by decide) rfl
    (by decide) (fun x hx => by cases hx)
  let ⟨_, h2, _⟩ := h.2.1 (sB (runB { tgt0 with sent := 2, flight := [(0x100, 7, false), (0x101, 8, true)] } [])) 0 7 fill0 _ _ 1 ⟨_, rfl, rfl⟩ rfl
    (by decide) (by decide) (by decide)
  let ⟨_, h3, _⟩ := h.2.2.1 (sB run0) 0 0 _ rfl rfl
  ⟨⟨_, h1⟩, ⟨_, h2⟩, ⟨_, h3⟩, _, h.2.2.2 (sB run0) 0x20000⟩

end Sys2Proof.Tests
end

