-- ==== Sys2Proof/Tests/Witness6.lean ====
section
/-! SUPPORT. Witnesses of the claims about grids, gangs, child warps and the choice of warps. -/

namespace Sys2Proof.Tests

open Sys2Proof Sys2Proof.Machine Sys2Proof.Claims

-- one theorem at a time: proofs that wait for the kernel in parallel would hold a thread each
set_option Elab.async false

/-- A grid that waits. -/
def grid0 : Grid := { bootGrid with phase := 0 }

/-- A running part with that grid and nothing on its cores, at 2 ms. -/
def cW : Chip := { Chip.reset with running := true, grids := [(0, some grid0)], nextGrid := 1, time := 2000000 }

/-- The same, where a victim of that grid is still to be saved. -/
def cRoom : Chip :=
  { cW with grids := [(0, some { grid0 with prio := 7 }), (1, some { bootGrid with phase := 4, room := some 0 })], nextGrid := 2,
            gangs := [(0, some { Gang.fresh 1 0 0 [bootGroup] with phase := 1, whyPrio := true })], nextGang := 1 }

theorem some_of {α : Type} {o : Option α} (h : o.isSome = true) : ∃ a, o = some a := Option.isSome_iff_exists.mp h

theorem meets_GridAdmission (h : GridAdmission) :
    (∃ t, exec .gridAdmit (sOf cW) = .next t) ∧ (∃ t, exec .gridAdmit (sOf Chip.reset) = .next t) ∧ (∃ t, exec .gridAdmit (sOf cRoom) = .next t)
    ∧ (∃ t, exec (.priorityAge 0) (sOf cW) = .next t)
    ∧ ∃ t, exec (.priorityAge 0) (sOf { cW with time := 1999999 }) = .next t := by
  obtain ⟨_, g⟩ := some_of (o := cW.placeGrid 0 grid0) (by decide +kernel)
  obtain ⟨_, _, h1, _⟩ := (h (sOf cW) 0 grid0).1 _ (by decide +kernel) (by decide +kernel) (by decide +kernel) rfl g
  exact ⟨⟨_, h1⟩, ⟨_, (h (sOf Chip.reset) 0 grid0).2.1 (by decide +kernel)⟩,
    ⟨_, (h (sOf cRoom) 0 { grid0 with prio := 7 }).2.2.1 (by decide +kernel) (.inr (by decide +kernel))⟩, ⟨_, (h (sOf cW) 0 grid0).2.2.2.1 rfl (by decide) (by decide) (by decide)⟩,
    _, (h (sOf { cW with time := 1999999 }) 0 grid0).2.2.2.2 rfl (.inr (.inr (by decide)))⟩

/-- A pending child, spawned in cycle 0. -/
def child0 (due : Bool) : Child :=
  { gang := 0, entry := 7, join := (0, 63), payload := [5, 0, 0, 0], unit := 0, cycle := 0, due := due }

/-- The state of a gang with such a child, a slot of core 0 reserved for its child warps. -/
def sCh (due : Bool) : State :=
  sOf { c0 i0 w0 with cycle := 256, clusters := [(0, { Cluster.zero with banks := bootBanks, spawnQ := [child0 due] })],
                      gangs := [(0, some { Gang.fresh 0 0 0 [bootGroup] with childSlots := [(0, 31)] })] }

theorem meets_ChildWarps (h : ChildWarps) :
    (∃ t, exec (.spawnListTimeout 0 0 7) (sCh false) = .next t) ∧ ∃ t, exec (.childWarpIssue 0 0 7) (sCh true) = .next t :=
  let ⟨_, h1, _⟩ := (h (sCh false) 0 0 7 (Gang.fresh 0 0 0 [bootGroup]) bootGrid).1 (child0 false) [] rfl (by decide)
  let ⟨_, _, _, h2, _⟩ := (h (sCh true) 0 0 7 _ bootGrid).2 0 31 rfl rfl rfl (.inr ⟨child0 true, rfl, rfl⟩) (by decide)
  ⟨⟨_, h1⟩, _, h2⟩

/-- Core 0 with warps in its slots. -/
def sWs (ws : AMap (Option Warp)) : State :=
  let c := c0 i0 w0
  sOf { c with cores := [(0, { core0 w0 with warps := ws })], cycle := 1024 }

/-- A lane at a clause boundary. -/
def laneB : Lane := Lane.fresh (Pos.at (dw bootAddr)) false none

/-- A pending warp that has waited for 1,024 cycles. -/
def pend : Warp := { w0 with active := false, unchosen := 1024 }

/-- A warp in the active set, at a clause boundary. -/
def act8 (j : Nat) : Warp := { w0 with lanes := [laneB, laneB], joined := j, unchosen := 256, lag := [(p0, 64)] }

/-- Eight warps in the active set, and a pending one in slot 8. -/
def full : AMap (Option Warp) := (List.range 8).map (fun j => (j, some (act8 (j + 1)))) ++ [(8, some pend)]

theorem meets_WarpSelection (h : WarpSelection) :
    (∃ t, exec (.counterStarve 0 0) (sWs full) = .next t) ∧ (∃ t, exec (.warpAgeLimit 0 7) (sWs full) = .next t)
    ∧ (∃ t, exec (.warpPromote 0) (sWs [(8, some pend)]) = .next t) ∧ (∃ t, exec (.warpPromote 0) (sWs full) = .next t)
    ∧ ∃ t, exec (.pendingWarpTimeout 0) (sWs full) = .next t :=
  let ⟨_, h5, _⟩ := (h (sWs full) 0 8 pend).2.2.2.2 0 (act8 1) (by decide +kernel) (by decide +kernel) (by decide) (by decide +kernel)
  ⟨⟨_, (h (sWs full) 0 0 _).1 rfl⟩, ⟨_, (h (sWs full) 0 7 _).2.1 rfl rfl rfl⟩,
   ⟨_, (h (sWs [(8, some pend)]) 0 8 pend).2.2.1 (by decide +kernel) (by decide +kernel)⟩,
   ⟨_, (h (sWs full) 0 8 pend).2.2.2.1 (by decide +kernel)⟩, _, h5⟩

/-- A posted trap that may be taken at once. -/
def post0 : Posted := { syn := 0x0F000000, pos := p0, lane := 0, from_ := 0, kind := 0, queue := 0, addr := 0, inner := 0, stopped := 0 }

/-- A warp whose lanes have all exited. -/
def wdone : Warp := { w0 with lanes := [{ Lane.fresh p0 false none with exited := true }] }

theorem meets_WarpEvents (h : WarpEvents) :
    (∃ t, exec (.warpRetire 0 0) (sOf (c0 i0 wdone)) = .next t) ∧ (∃ t, exec (.warpRetire 0 0) (sOf (c0 i0 { wdone with posted := [post0] })) = .next t)
    ∧ (∃ t, exec (.warpRetire 0 0) s0 = .next t) ∧ (∃ t, exec (.postedTrapTake 0 0) (sOf (c0 i0 { w0 with posted := [post0] })) = .next t)
    ∧ (∃ t, exec (.postedTrapTake 0 0) (sOf (c0 i0 { wdone with posted := [post0] })) = .next t)
    ∧ (∃ t, exec (.postedTrapTake 0 0) (sOf (c0 i0 { w0 with posted := [post0], handler := true })) = .next t)
    ∧ ∃ t, exec (.nopreLimit 0 0) (sOf (c0 i0 { w0 with sectOpen := true, sectCount := 65536 })) = .next t :=
  ⟨⟨_, ((h (sOf (c0 i0 wdone)) 0 0 _ rfl).1 (by decide) (by decide) (by decide) ⟨_, rfl, by decide⟩).1 rfl⟩,
   ⟨_, ((h (sOf (c0 i0 { wdone with posted := [post0] })) 0 0 _ rfl).1 (by decide) (by decide) (by decide) ⟨_, rfl, by decide⟩).2 post0 [] rfl⟩,
   ⟨_, (h s0 0 0 w0 rfl).2.1 (by decide)⟩,
   ⟨_, ((h (sOf (c0 i0 { w0 with posted := [post0] })) 0 0 _ rfl).2.2.1 post0 [] rfl ⟨_, rfl, by decide⟩ rfl (by decide)).1 (by decide)⟩,
   ⟨_, ((h (sOf (c0 i0 { wdone with posted := [post0] })) 0 0 _ rfl).2.2.1 post0 [] rfl ⟨_, rfl, by decide⟩ rfl (by decide)).2 (by decide)⟩,
   ⟨_, (h (sOf (c0 i0 { w0 with posted := [post0], handler := true })) 0 0 _ rfl).2.2.2.1 rfl⟩,
   _, (h (sOf (c0 i0 { w0 with sectOpen := true, sectCount := 65536 })) 0 0 _ rfl).2.2.2.2 rfl (by decide) (by decide) (by decide)⟩

/-- A chip whose gang is `k`, with nothing in flight; `ws` the warps of core 0. -/
def cG (k : Gang) (gr : Grid) (ws : AMap (Option Warp)) : Chip :=
  { c0 i0 w0 with cur := none, cores := [(0, { core0 w0 with warps := ws, mat := Mat.zero, dray := Dray.zero })],
                  grids := [(0, some gr)], gangs := [(0, some k)] }

/-- The gang of the boot state. -/
def gang0 : Gang := Gang.fresh 0 0 0 [bootGroup]

/-- A stopped gang that may be saved; a saved one with room on its core. -/
def cSave : Chip := cG { gang0 with phase := 1, whyPrio := true } bootGrid [(0, some { w0 with active := false })]

/-- A frame with the gang's warp. -/
def frame0 : Frame := { warps := [(0, 0, { w0 with active := false })], mats := [(0, Mat.zero)], drays := [(0, Dray.zero)], races := [], count := 1 }

/-- The chip of a gang saved for a page whose faults are settled. -/
def cRest : Chip := cG { gang0 with phase := 2, whyPage := true, frame := some frame0 } bootGrid []

theorem meets_SaveAndRestore (h : Obligations.SaveAndRestore) :
    (∃ t, exec (.gangSaveComplete 0) (sOf cSave) = .next t) ∧ ∃ t, exec (.gangRestore 0) (sOf cRest) = .next t :=
  let ⟨_, _, h1, _⟩ := (h (sOf cSave) 0 _ rfl).1 (by decide +kernel) (fun n hn x hx => by cases hx)
  let ⟨_, h2, _⟩ := (h (sOf cRest) 0 _ rfl).2 frame0 bootKernel rfl rfl (by decide +kernel) (by decide +kernel) (by decide +kernel) rfl (by decide) (by decide)
  ⟨⟨_, h1⟩, _, h2⟩

theorem meets_KillAndRelaunch (h : KillAndRelaunch) :
    (∃ t, exec (.killMarkersDone 0) (sOf (cG { gang0 with phase := 3, cause := 5 } bootGrid [])) = .next t)
    ∧ ∃ t, exec (.gangRelaunch 0) (sOf { cG { gang0 with phase := 4 } bootGrid [] with clusters := [] }) = .next t := by
  obtain ⟨_, g⟩ := some_of (o := { cG { gang0 with phase := 4 } bootGrid [] with clusters := [] }.placeIn 0 { gang0 with phase := 4, refused := 0 } bootGrid 0)
    (by decide +kernel)
  obtain ⟨_, _, h1, _⟩ := (h (sOf (cG { gang0 with phase := 3, cause := 5 } bootGrid [])) 0 _ _ rfl rfl).1 rfl (fun r hr => by cases hr)
  obtain ⟨_, h2, _⟩ := (h (sOf { cG { gang0 with phase := 4 } bootGrid [] with clusters := [] }) 0 _ _ rfl rfl).2 _ rfl rfl (by decide +kernel) g
  exact ⟨⟨_, h1⟩, _, h2⟩

theorem meets_GroupAndGangRetire (h : GroupAndGangRetire) :
    (∃ t, exec (.groupRetire 0 0) (sOf (cG gang0 bootGrid [])) = .next t)
    ∧ ∃ t, exec (.gangRetire 0) (sOf (cG { gang0 with groups := [{ bootGroup with retired := true }] } bootGrid [])) = .next t :=
  let ⟨_, h1, _⟩ := (h (sOf (cG gang0 bootGrid [])) 0 _ rfl (by decide)).1 0 bootGroup rfl rfl (by decide)
  let ⟨_, h2, _⟩ := (h (sOf (cG { gang0 with groups := [{ bootGroup with retired := true }] } bootGrid [])) 0 _ rfl (by decide)).2 (by decide) (by decide)
  ⟨⟨_, h1⟩, _, h2⟩

/-- A grid whose gang has ended. -/
def cEnd (gr : Grid) : Chip := cG { gang0 with phase := 5 } gr []

/-- A grid that goes on with its successors' decrements, its release and status word done. -/
def gridOn (dec : Option (Nat × DWord)) : Grid := { bootGrid with retire := some 5, ended := true, dec := dec }

/-- The chip after the release and the status word of a grid's end. -/
def relDone (c : Chip) (gr : Grid) : Chip :=
  (((c.unitCid 0).1).gridRelease ((gangsOf c 0).flatMap Gang.cores).eraseDups (c.unitCid 0).2).statusWrite gr.task gr.recAddr
    (statusWord 1 0 gr.relaunches) (some (c.unitCid 0).2)

/-- A grid whose first successor's counter lies at an address without a translation. -/
def gridSucc : Grid := { bootGrid with task := { bootTask with succ0 := 0x7FFFF0030 } }

/-- A grid as its first decrement begins. -/
def begunAt (gr : Grid) (id : DWord) : Grid := { gr with retire := some id, ended := true, dec := some (0, id) }

/-- The chip of such a grid; the context's root table, at 0, has no entry. -/
def cSuccEnd : Chip := { cEnd gridSucc with mem := [(0x10, 1)] }

theorem stop_ok {c : Chip} (h : (match (c.successors 0).2 with
    | some st => (match (c.successors 0).1.coachStop st with
      | .ok _ => true
      | .error _ => false)
    | none => false) = true) : ∃ c2 st c3, c.successors 0 = (c2, some st) ∧ c2.coachStop st = .ok c3 := by
  split at h
  · next st hst =>
    split at h
    · next c3 h3 => exact ⟨(c.successors 0).1, st, c3, Prod.ext rfl hst, h3⟩
    · cases h
  · cases h

/-- A failed grid, one that has triggered, one that has not, one whose successor's page is not there, and one that goes on. -/
theorem meets_GridRetire (h : GridRetire) :
    (∃ t, exec (.gridRetire 0) (sOf (cEnd { bootGrid with fail := some 4 })) = .next t)
    ∧ (∃ t, exec (.gridRetire 0) (sOf (cEnd { bootGrid with triggered := true })) = .next t) ∧ (∃ t, exec (.gridRetire 0) (sOf (cEnd bootGrid)) = .next t)
    ∧ (∃ t, exec (.gridRetire 0) (sOf cSuccEnd) = .next t) ∧ ∃ t, exec (.gridRetire 0) (sOf (cEnd (gridOn (some (0, 5))))) = .next t := by
  obtain ⟨_, h1, _⟩ := (h (sOf (cEnd { bootGrid with fail := some 4 })) 0 _ rfl rfl (by decide)).1 4 rfl rfl rfl rfl
  have g (gr : Grid) (hg : gr.phase = 1) (hf : gr.fail = none) (hr : gr.retire = none) (he : gr.ended = false) (hm : (cEnd gr).remotes = [])
      (hb : ∀ n ∈ ((gangsOf (cEnd gr) 0).flatMap Gang.cores).eraseDups, (cEnd gr).peerBusy n = false ∧ (cEnd gr).owedBy (.core n) n = []
        ∧ (cEnd gr).owedBy (.dray n) n = []) (hk : ∀ k ∈ gangsOf (cEnd gr) 0, k.phase = 5) :=
    (h (sOf (cEnd gr)) 0 gr rfl hg hk).2.1 hf hr he (fun r hx => by rw [show (sOf (cEnd gr)).chip.remotes = [] from hm] at hx; cases hx) hb
  obtain ⟨_, h2, _⟩ := (g { bootGrid with triggered := true } rfl rfl rfl rfl rfl (by decide +kernel) (by decide)).1 rfl rfl
  obtain ⟨_, h3, _⟩ := (g bootGrid rfl rfl rfl rfl rfl (by decide +kernel) (by decide)).2.1 _ rfl
    (Prod.ext rfl (Option.isNone_iff_eq_none.mp (by decide +kernel)))
  obtain ⟨_, st, _, k1, k2⟩ := stop_ok (c := (relDone cSuccEnd gridSucc).setGrid 0 (begunAt gridSucc (cSuccEnd.unitCid 0).2)) (by decide +kernel)
  have h4 := ((h (sOf cSuccEnd) 0 gridSucc rfl rfl (by decide)).2.1 rfl rfl rfl (fun r hx => by cases hx) (by decide +kernel)).2.2 _ st _ rfl k1 k2
  obtain ⟨_, h5, _⟩ := (h (sOf (cEnd (gridOn (some (0, 5))))) 0 _ rfl rfl (by decide)).2.2 5 _ rfl rfl
    (Prod.ext rfl (Option.isNone_iff_eq_none.mp (by decide +kernel)))
  exact ⟨⟨_, h1⟩, ⟨_, h2⟩, ⟨_, h3⟩, ⟨_, h4⟩, _, h5⟩

end Sys2Proof.Tests
end

