-- ==== Sys2Proof/Tests/Witness7.lean ====
section
/-! SUPPORT. Witnesses of the claims about deadlines, the Conductor's walks and queries, and the fabric. -/

namespace Sys2Proof.Tests

open Sys2Proof Sys2Proof.Machine Sys2Proof.Claims

-- one theorem at a time: proofs that wait for the kernel in parallel would hold a thread each
set_option Elab.async false

/-- The node of slot 0, lane set 0 of core 0 of device 0. -/
def nParty : DWord := 0x30000000000#64

/-- The nodes of barrier 2 of core 0 and of the memory barrier at 0x40, on device 0. -/
def nBar : DWord := 0x10000000400#64
def nMem : DWord := 0x20000000001#64

/-- A walk that stands at a node and awaits an answer since time 0. -/
def walkAt (n : DWord) (visited : List DWord) (coll : Option DWord) : Walk :=
  { id := 3, node := n, visited := visited, asked := some (n, 0), coll := coll, cid := 9, origin := n, phase := 0, passedAt := 77 }

/-- Device 0 at 10 ms with a warp on core 0 and such a walk. -/
def cWalk (w : Walk) : Chip := { c0 i0 w0 with priv := { PrivRegs.reset with gwdev := 0 }, walks := [w], nextWalk := 4, time := 10000000 }

theorem meets_WalkSteps (h : WalkSteps) :
    (∃ t, exec (.queryAnswer 3 .present) (sOf (cWalk (walkAt nParty [nParty] none))) = .next t)
    ∧ (∃ t, exec (.queryAnswer 3 .saved) (sOf (cWalk (walkAt nParty [nParty] none))) = .next t)
    ∧ (∃ t, exec (.queryAnswer 3 (.blocked 1 nBar 7)) (sOf (cWalk (walkAt nParty [nParty, nBar] none))) = .next t)
    ∧ (∃ t, exec (.queryAnswer 3 (.blocked 1 nMem 7)) (sOf (cWalk (walkAt nParty (List.replicate 64 nBar) none))) = .next t)
    ∧ (∃ t, exec (.queryAnswer 3 (.barrier 4 none none)) (sOf (cWalk (walkAt nBar [nBar] none))) = .next t)
    ∧ (∃ t, exec (.queryAnswer 3 (.barrier 0 none none)) (sOf (cWalk (walkAt nBar [nBar] none))) = .next t)
    ∧ (∃ t, exec (.queryAnswer 3 (.party none)) (sOf (cWalk (walkAt nBar [nBar] (some 5)))) = .next t)
    ∧ ∃ t, exec (.queryTimeout 3) (sOf (cWalk (walkAt nBar [nBar] none))) = .next t :=
  let ⟨_, h1, _⟩ := ((h (sOf (cWalk (walkAt nParty [nParty] none))) (walkAt nParty [nParty] none) .present rfl rfl).1 (by decide) rfl (by decide)).1 1
    (by decide)
  let ⟨_, h2, _⟩ := ((h (sOf (cWalk (walkAt nParty [nParty] none))) (walkAt nParty [nParty] none) .saved rfl rfl).1 (by decide) rfl (by decide)).1 7
    (by decide)
  let ⟨_, _, _, _, h3, _⟩ := (((h (sOf (cWalk (walkAt nParty [nParty, nBar] none))) (walkAt nParty [nParty, nBar] none) (.blocked 1 nBar 7) rfl rfl).1
    (by decide) rfl (by decide)).2 1 nBar 7 rfl (by decide)).1 (by decide)
  let ⟨_, h4, _⟩ := (((h (sOf (cWalk (walkAt nParty (List.replicate 64 nBar) none))) (walkAt nParty (List.replicate 64 nBar) none) (.blocked 1 nMem 7)
    rfl rfl).1 (by decide) rfl (by decide)).2 1 nMem 7 rfl (by decide)).2 (by decide) (by decide)
  let ⟨_, h5, _⟩ := ((h (sOf (cWalk (walkAt nBar [nBar] none))) (walkAt nBar [nBar] none) (.barrier 4 none none) rfl rfl).2.1 (by decide) rfl (by decide)
    4 none none rfl).1 (by decide)
  let ⟨_, h6, _⟩ := ((h (sOf (cWalk (walkAt nBar [nBar] none))) (walkAt nBar [nBar] none) (.barrier 0 none none) rfl rfl).2.1 (by decide) rfl (by decide)
    0 none none rfl).2 (by decide) rfl rfl
  let ⟨_, h7, _⟩ := (h (sOf (cWalk (walkAt nBar [nBar] (some 5)))) (walkAt nBar [nBar] (some 5)) (.party none) rfl rfl).2.2.1 5 (by decide) rfl rfl
  let ⟨_, h8, _⟩ := (h (sOf (cWalk (walkAt nBar [nBar] none))) (walkAt nBar [nBar] none) .present rfl rfl).2.2.2 nBar 0 rfl (by decide)
  ⟨⟨_, h1⟩, ⟨_, h2⟩, ⟨_, h3⟩, ⟨_, h4⟩, ⟨_, h5⟩, ⟨_, h6⟩, ⟨_, h7⟩, _, h8⟩

/-- A barrier whose deadline of 10 us has passed; the chip with it in core 0 and in memory, its Conductor on or off. -/
def late0 : Barrier := { Barrier.zero with deadline := 1, since := 1, expect := 1 }

def cLate (on : Bool) : Chip :=
  let c := cWalk (walkAt nBar [nBar] none)
  { c with cores := [(0, { core0 w0 with bars := [(2, late0)] })], memBars := [(0x40, some late0)],
           priv := { c.priv with condcfg := if on then 0x03E84001 else 0 } }

/-- A DCOLL past its deadline. -/
def coll0 : Cmd :=
  { op := 0xDC, ka := 0x20000, kb := 7, kc := 0, kd := 0, imm := 0, acq := false, rel := false, scope := 5, opId := none, pos := p0, issued := 0,
    cid := 0, prog := 0, sentTo := [], cancelled := false }

def collRun : CollRun := { id := 5, desc := 0, ranks := [0, 1], rank := 0, ordered := false, dst := 0x20100, deadline := some 4, passed := false }

def runColl : Run := { Run.fresh coll0 with begun := true, coll := some collRun }

def cColl : Chip :=
  let c := cWalk (walkAt nBar [nBar] none)
  { c with cores := [(0, { core0 w0 with dray := { Dray.zero with s := st0, queues := [(7, { Queue.zero with
             cmds := [coll0], run := some runColl })] } })] }

theorem meets_DeadlineWalk (h : DeadlineWalk) :
    (∃ t, exec (.deadlinePass (.core 0 2)) (sOf (cLate false)) = .next t) ∧ (∃ t, exec (.deadlinePass (.core 0 2)) (sOf (cLate true)) = .next t)
    ∧ (∃ t, exec (.deadlinePass (.core 0 3)) (sOf (cLate true)) = .next t) ∧ (∃ t, exec (.deadlinePass (.mem 0x40)) (sOf (cLate false)) = .next t)
    ∧ (∃ t, exec (.deadlinePass (.mem 0x40)) (sOf (cLate true)) = .next t) ∧ ∃ t, exec (.deadlinePass (.dcoll 0 7)) (sOf cColl) = .next t :=
  have o1 (on : Bool) : Overdue (cLate on) ((cLate on).bar (.core 0 2)) := by cases on <;> (refine ⟨?_, ?_, ?_, ?_⟩ <;> decide +kernel)
  have o2 (on : Bool) : Overdue (cLate on) ((cLate on).bar (.mem 0x40)) := by cases on <;> (refine ⟨?_, ?_, ?_, ?_⟩ <;> decide +kernel)
  have o3 : ¬ Overdue (cLate true) ((cLate true).bar (.core 0 3)) := fun x => x.1 (by decide +kernel)
  ⟨⟨_, ((h (sOf (cLate false)) rfl).1 0 2 (o1 false)).1 (by decide)⟩, ⟨_, ((h (sOf (cLate true)) rfl).1 0 2 (o1 true)).2 (by decide)⟩,
   ⟨_, (h (sOf (cLate true)) rfl).2.1 0 3 o3⟩, ⟨_, ((h (sOf (cLate false)) rfl).2.2.1 0x40 rfl (o2 false)).1 (by decide)⟩,
   ⟨_, ((h (sOf (cLate true)) rfl).2.2.1 0x40 rfl (o2 true)).2 (by decide)⟩,
   _, ((h (sOf cColl) rfl).2.2.2 0 7 coll0 runColl collRun 4 ⟨[], by decide +kernel, by decide +kernel⟩ rfl rfl rfl (by decide)).2 (by decide)⟩

theorem meets_QueryAnswers (h : QueryAnswers) :
    (∃ t, exec (.summaryQuery 1 nParty) (sOf (cLate true)) = .next t) ∧ (∃ t, exec (.summaryQuery 1 nBar) (sOf (cLate true)) = .next t)
    ∧ (∃ t, exec (.collectiveQuery 1 5) (sOf cColl) = .next t) ∧ (∃ t, exec (.conductorBarrierQuery 1 nMem) (sOf (cLate true)) = .next t)
    ∧ (∃ t, exec (.conductorBarrierQuery 1 nParty) (sOf (cLate true)) = .next t) ∧ (cLate true).summary none nParty = .free :=
  have j : Joined (sOf (cLate true)) := ⟨rfl, by decide⟩
  let ⟨_, _, _, h4, _⟩ := (h (sOf (cLate true)) 1 nMem j).2.2.2.1 (.inr (by decide)) (by decide)
  ⟨⟨_, (h (sOf (cLate true)) 1 nParty j).1 (by decide) (by decide)⟩, ⟨_, (h (sOf (cLate true)) 1 nBar j).2.1 (.inl (by decide))⟩,
   ⟨_, (h (sOf cColl) 1 5 ⟨rfl, by decide⟩).2.2.1⟩, ⟨_, h4⟩, ⟨_, (h (sOf (cLate true)) 1 nParty j).2.2.2.2.1 (.inr (.inl (by decide)))⟩,
   (h (sOf (cLate true)) 1 nParty j).2.2.2.2.2 w0 (Gang.fresh 0 0 0 [bootGroup]) 0 (by decide) (by decide +kernel) rfl rfl (by decide)
    (by decide +kernel)⟩

theorem meets_ConductorCompletes (h : ConductorCompletes) :
    (∃ t, exec (.summaryQuery 1 nParty) State.reset = .next t) ∧ ∃ t, exec (.queryAnswer 3 .free) (sOf (cWalk (walkAt nParty [] none))) = .next t :=
  let ⟨_, h1, _⟩ := h State.reset (.summaryQuery 1 nParty) (.inr (.inl ⟨1, nParty, .inl rfl⟩))
  let ⟨_, h2, _⟩ := h (sOf (cWalk (walkAt nParty [] none))) (.queryAnswer 3 .free) (.inr (.inr (.inl ⟨3, .free, rfl⟩)))
  ⟨⟨_, h1⟩, _, h2⟩

end Sys2Proof.Tests
end

