-- ==== Sys2Proof/Tests/Witness8.lean ====
section
/-! SUPPORT. Witnesses of the claims about flows, admission, remote requests and links. -/

namespace Sys2Proof.Tests

open Sys2Proof Sys2Proof.Machine Sys2Proof.Claims

-- one theorem at a time: proofs that wait for the kernel in parallel would hold a thread each
set_option Elab.async false

/-- Device 0 at 2 ms whose port 0 leads to device 1, with context 1 in its table. -/
def cNet : Chip :=
  { c0 i0 w0 with priv := { PrivRegs.reset with gwdev := 0 }, links := [(0, { Link.zero with up := true, width := 2 })], routes := [(1, [0])],
                  time := 2000000, mem := [(0x10, 1), (0x10040, 7)],
                  dir := [{ slice := (c0 i0 w0).home 0x10040, line := 0x10040, resident := false }] }

/-- A read of four bytes that an operation has asked of device 1. -/
def rem0 : Remote :=
  { id := 7, dst := 1, off := 0x40, kind := .read 4, who := .lanes 0 0 1, op := some 0, lane := 0, opcode := 0x81, tag := 1, refusals := 0,
    retryAt := none, byNs := 0, cid := 9, va := 0x400040, pos := p0, cls := 2, bytes := 0, stale := false, priv := false, flag := false }

/-- The operation that made it. -/
def opR : Op :=
  { id := 0, eng := .warp 0 0, mask := 1, flag := some 0, code := 0x81, pos := p0, gang := 0, writes := [(64, 0, false)], uwrites := [], qwrite := none,
    kwrite := none, fail := none, hold := true, cid := 9, late := none, race := none, acq := 0, long := false, moved := false, src := [] }

/-- The machine with that request. -/
def sNet (r : Remote) : State := sOf { cNet with remotes := [r], ops := [opR], nextOp := 1, nextReq := 8 }

/-- A packet of device 1 in class 2. -/
def pk (seq : BitVec 32) (b : Body) : Packet :=
  { src := 1, cls := 2, seq := seq, ack := 0xFFFFFFFF, tag := 1, gen := 0, byNs := 0, atNs := 0, slowDev := 0, slowPort := 0, cid := 9, body := b }

/-- A packet of this device that nobody has acknowledged since 1 ms. -/
def out0 : OutPacket :=
  { dst := 1, cls := 2, seq := some 0, ack := 0, tag := 1, gen := 0, byNs := 0, cid := 9, msg := .request 8 0x40 (.read 4) none, bytes := 0,
    given := 1000000, waited := 0, sentAt := 1000000, port := 0 }

theorem meets_FlowDelivery (h : FlowDelivery) :
    (∃ t, exec (.packetDeliver (pk 0 (.ack 2))) (sNet rem0) = .next t) ∧ (∃ t, exec (.packetDeliver (pk 256 (.late 0))) (sNet rem0) = .next t)
    ∧ (∃ t, exec (.packetDeliver (pk 0xFFFFFFFF (.late 0))) (sNet rem0) = .next t)
    ∧ (∃ t, exec (.packetDeliver (pk 0 (.reply 8 [1, 2, 3, 4] false))) (sNet rem0) = .next t)
    ∧ ∃ t, exec (.packetResendTimeout 1 2) (sOf { cNet with outFlows := [(6, { OutFlow.zero with next := 1, unacked := [out0] })] }) = .next t :=
  have j : Joined (sNet rem0) := ⟨rfl, by decide⟩
  let ⟨_, h4, _⟩ := (h (sNet rem0) (pk 0 (.reply 8 [1, 2, 3, 4] false)) j).2.2.2.2.1 8 [1, 2, 3, 4] false rem0 0 rfl (by decide +kernel) rfl
    (by decide +kernel) (by decide +kernel) rfl rfl
  let ⟨_, h5, _⟩ := (h (sOf { cNet with outFlows := [(6, { OutFlow.zero with next := 1, unacked := [out0] })] }) (pk 0 (.ack 2)) ⟨rfl, by decide⟩).2.2.2.2.2
    1 2 ⟨out0, by decide +kernel, by decide +kernel⟩
  ⟨⟨_, (h (sNet rem0) (pk 0 (.ack 2)) j).2.1 2 rfl⟩,
   ⟨_, (h (sNet rem0) (pk 256 (.late 0)) j).2.2.1 (fun _ x => by cases x) (by decide +kernel) (by decide +kernel)
     (fun x hx => by rw [show (sNet rem0).chip.inFlow _ = InFlow.zero from rfl] at hx; cases hx)⟩,
   ⟨_, (h (sNet rem0) (pk 0xFFFFFFFF (.late 0)) j).2.2.2.1 (fun _ x => by cases x) (by decide +kernel)⟩, ⟨_, h4⟩, _, h5⟩

/-- A piece of 64 bytes for device `dst`. -/
def piece0 (dst bytes : Nat) : Piece := { id := 2, dst := dst, cls := 2, bytes := bytes, port := 0, req := 7, hintAt := none, admitted := none }

/-- The machine with that piece to offer. -/
def sPc (p : Piece) : State := sOf { (sNet rem0).chip with pieces := [p] }

/-- The same where the classes have no share of a port. -/
def cNone : Chip := { (sPc (piece0 1 64)).chip with priv := { PrivRegs.reset with gwdev := 0, gwcls := 0 } }

theorem meets_Admission (h : Admission) :
    (∃ t, exec (.pieceOffer 2) (sPc (piece0 1 64)) = .next t) ∧ (∃ t, exec (.pieceOffer 2) (sPc (piece0 1 0x80000000)) = .next t)
    ∧ (∃ t, exec (.pieceOffer 2) (sOf cNone) = .next t) ∧ (∃ t, exec (.pieceOffer 2) (sPc (piece0 5 64)) = .next t)
    ∧ ∃ t, exec (.admissionHintExpiry 2) (sPc { piece0 1 64 with hintAt := some 5 }) = .next t :=
  let ⟨_, h1, _⟩ := ((h.1 (sPc (piece0 1 64)) (piece0 1 64) rem0 rfl rfl rfl rfl rfl).2 0 (by decide)).1 ⟨by decide, by decide⟩
  let ⟨_, _, h2⟩ := ((h.1 (sPc (piece0 1 0x80000000)) (piece0 1 0x80000000) rem0 rfl rfl rfl rfl rfl).2 0 (by decide)).2.2 (by decide)
    (fun x => absurd x.2 (by decide))
  let ⟨_, h4, _⟩ := h.2 (sPc { piece0 1 64 with hintAt := some 5 }) 2 rfl
  ⟨⟨_, h1⟩, ⟨_, h2⟩, ⟨_, ((h.1 (sOf cNone) (piece0 1 64) rem0 rfl rfl rfl rfl rfl).2 0 (by decide)).2.1 (by decide)⟩,
    ⟨_, (h.1 (sPc (piece0 5 64)) (piece0 5 64) rem0 rfl rfl rfl rfl rfl).1 (by decide)⟩, _, h4⟩

theorem meets_RemoteEnds (h : RemoteEnds) :
    (∃ t, exec (.remoteRetry 7) (sNet { rem0 with retryAt := some 5 }) = .next t) ∧ (∃ t, exec (.remoteTimeout 7) (sNet { rem0 with byNs := 1 }) = .next t)
    ∧ ∀ o ∈ ((sNet rem0).chip.failRemote rem0 3).ops, o.id = 0 → o.fail.isSome = true :=
  let ⟨_, h1, _⟩ := (h (sNet { rem0 with retryAt := some 5 }) { rem0 with retryAt := some 5 } rfl).1 5 rfl rfl (by decide)
  ⟨⟨_, h1⟩, ⟨_, (h (sNet { rem0 with byNs := 1 }) { rem0 with byNs := 1 } rfl).2.1 rfl (by decide) (by decide) rfl (by decide)⟩, fun o ho hi =>
    let ⟨_, h3⟩ := ((h (sNet rem0) rem0 rfl).2.2 3 0 (by decide) rfl).2.2 o ho hi (fun o' ho' _ => by
      rcases List.mem_singleton.mp ho' with rfl; rfl)
    by rw [h3]; rfl⟩

/-- A request of device 1 at byte 0x10040 of this device's memory. -/
def inb (k : ReqKind) : Inbound := { src := 1, req := 3, tag := 1, gen := 0, off := 0x10040, kind := k, cid := 9 }

theorem meets_InboundRequests (h : InboundRequests) :
    (∃ t, exec (.inboundRequest { inb (.read 4) with gen := 255 }) (sOf cNet) = .next t) ∧ (∃ t, exec (.inboundRequest (inb (.read 4))) (sOf cNet) = .next t)
    ∧ ∃ t, exec (.inboundRequest (inb (.write [1, 2] false))) (sOf cNet) = .next t :=
  have j : Joined (sOf cNet) := ⟨rfl, by decide⟩
  have sv (k : ReqKind) (n : Nat) (hk : lineParts 0x10040 (reqBytes k) = [(0x10040, n)]) (hw : writesWeights k [(0x10040, n)] = false) :
      Served cNet (inb k) := ⟨show genOld 0 (aget 0 cNet.gens 1) = false by decide, show (cNet.ctxRoot 1).isSome = true by decide +kernel,
      show cNet.savedOut 1 = false by decide, by rw [← hw, ← hk]; rfl, fun p hp => by
        rw [show lineParts (inb k).off (reqBytes (inb k).kind) = [(0x10040, n)] from hk] at hp
        rcases List.mem_singleton.mp hp with rfl
        exact ⟨show offsetExists 0x10040 = true by decide, fun _ => ⟨show cNet.frameHeld 0x10040 1 = false by decide +kernel, show 0x10040 / 65536 ∉ cNet.moving by decide⟩, fun x hx => by cases hx⟩⟩
  let ⟨_, _, h2, _⟩ := (h (sOf cNet) (inb (.read 4)) j).2.1 4 rfl (sv _ 4 (by decide) (by decide)) (by decide) (by decide +kernel) (fun p hp => by
    rcases List.mem_singleton.mp hp with rfl
    exact ⟨by decide +kernel, fun x hx => by cases hx⟩)
  let ⟨_, _, h3, _⟩ := (h (sOf cNet) (inb (.write [1, 2] false)) j).2.2 [1, 2] rfl (sv _ 2 (by decide) (by decide)) (by decide) (fun p hp => by
    rcases List.mem_singleton.mp hp with rfl
    decide +kernel)
  ⟨⟨_, (h (sOf cNet) { inb (.read 4) with gen := 255 } j).1 (by decide)⟩, ⟨_, h2⟩, _, h3⟩

/-- Two flits sent at 1 ms, the older replayed `n` times. -/
def lk (n : Nat) : Link := { Link.zero with up := true, width := 2, buffer := [(4, 1000000, n), (5, 1000000, 0)], recvSeq := 9 }

theorem meets_LinkSteps (h : Obligations.LinkSteps) :
    (∃ t, exec (.flitReceive 0 { seq := 9, ack := 5, good := true }) (sOf { cNet with links := [(0, lk 0)] }) = .next t)
    ∧ (∃ t, exec (.flitReceive 0 { seq := 9, ack := 5, good := false }) (sOf { cNet with links := [(0, lk 0)] }) = .next t)
    ∧ (∃ t, exec (.flitReplayTimeout 0) (sOf { cNet with links := [(0, lk 0)] }) = .next t)
    ∧ (∃ t, exec (.flitReplayTimeout 0) (sOf { cNet with links := [(0, lk 15)] }) = .next t) ∧ (∃ t, exec (.linkRetrain 31 1) (sOf cNet) = .next t)
    ∧ ∃ t, exec (.linkRetrain 31 3) (sOf cNet) = .next t :=
  have l0 (n : Nat) : (sOf { cNet with links := [(0, lk n)] }).chip.link 0 = lk n := rfl
  let ⟨_, h4, _⟩ := ((h (sOf { cNet with links := [(0, lk 15)] }) 0 rfl).2.2.1 (4, 1000000, 15) [(5, 1000000, 0)] (by decide +kernel) (by decide +kernel)
    (by decide)).2 ⟨(4, 1000000, 15), by decide +kernel, by decide⟩
  let ⟨_, h5, _⟩ := ((h (sOf cNet) 31 rfl).2.2.2 1 (by decide) (by decide +kernel)).1 (.inl rfl)
  ⟨⟨_, (h (sOf { cNet with links := [(0, lk 0)] }) 0 rfl).1 _ (by decide +kernel) rfl⟩,
   ⟨_, (h (sOf { cNet with links := [(0, lk 0)] }) 0 rfl).2.1 _ (.inl rfl)⟩,
   ⟨_, ((h (sOf { cNet with links := [(0, lk 0)] }) 0 rfl).2.2.1 (4, 1000000, 0) [(5, 1000000, 0)] (by decide +kernel) (by decide +kernel) (by decide)).1
     (by rw [l0]; decide)⟩, ⟨_, h4⟩, ⟨_, h5⟩, _, ((h (sOf cNet) 31 rfl).2.2.2 3 (by decide) (by decide +kernel)).2 (.inr rfl)⟩

end Sys2Proof.Tests
end

