-- ==== Sys2Proof/Tests/Witness9.lean ====
section
/-! SUPPORT. Witnesses of the claims about the host port, the task rings, the shadow queues, invalidation. -/

namespace Sys2Proof.Tests

open Sys2Proof Sys2Proof.Machine Sys2Proof.Claims

-- one theorem at a time: proofs that wait for the kernel in parallel would hold a thread each
set_option Elab.async false

/-- The running machine with some bytes in memory; the weight window open to the host, or not. -/
def sH (fill : Bool) : State :=
  sOf { c0 i0 w0 with mem := [(0x100, 7), (0x10000000040, 9)], time := 2000000, priv := { PrivRegs.reset with hfill := if fill then 1 else 0 } }

theorem noRings_of {c : Chip} {off n : Nat} (h : (lineParts off n).all (fun p => (c.ringAt (lineOf p.1)).isNone) = true) : NoRings c off n :=
  fun p hp => Option.isNone_iff_eq_none.mp (List.all_eq_true.mp h p hp)

theorem meets_HostReads (h : HostReads) :
    (∃ t, exec (.hostMemoryRead 4 0x100 8) (sH true) = .next t) ∧ (∃ t, exec (.hostMemoryRead 6 0x40 8) (sH true) = .next t)
    ∧ (∃ t, exec (.hostMemoryRead 6 0x40 8) (sH false) = .next t) ∧ (∃ t, exec (.hostMemoryRead 4 0xC000000000 8) (sH false) = .next t)
    ∧ (∃ t, exec (.hostMemoryRead 2 0x2000 8) (sH false) = .next t) ∧ (∃ t, exec (.hostMemoryRead 0 0 8) (sH false) = .next t)
    ∧ ∃ t, exec (.hostMemoryRead 2 0x100 8) State.reset = .next t :=
  let ⟨_, h1, _⟩ := (h (sH true) 0x100 8).1 rfl (by decide) (by decide)
  let ⟨_, h2, _⟩ := (h (sH true) 0x40 8).2.1 rfl (by decide) (by decide) (by decide)
  ⟨⟨_, h1⟩, ⟨_, h2⟩, ⟨_, (h (sH false) 0x40 8).2.2.1 rfl (by decide)⟩, ⟨_, (h (sH false) 0xC000000000 8).2.2.2.1 rfl (by decide)⟩,
   ⟨_, (h (sH false) 0 8).2.2.2.2.1 0 rfl (by decide) (by decide +kernel)⟩, ⟨_, (h (sH false) 0 8).2.2.2.2.2.1⟩,
   _, ((h State.reset 0x100 8).2.2.2.2.2.2 rfl).2⟩

theorem meets_HostWrites (h : HostWrites) :
    (∃ t, exec (.hostMemoryWrite 0x101 [1, 2]) (sH true) = .next t) ∧ (∃ t, exec (.hostMemoryWrite 0x101 [1, 2]) State.reset = .next t)
    ∧ (∃ t, exec (.hostFillWrite 0x41 [1, 2]) (sH true) = .next t) ∧ (∃ t, exec (.hostFillWrite 0x41 [1, 2]) (sH false) = .next t)
    ∧ ∃ t, exec (.hostFetchadd 0x100 true 250) (sH true) = .next t :=
  let ⟨_, h1, _⟩ := (h (sH true) 0x101 [1, 2] true 0).1 rfl (by decide) (by decide) (noRings_of (by decide))
  let ⟨_, h3, _⟩ := (h (sH true) 0x41 [1, 2] true 0).2.2.1 rfl (by decide) (by decide) (by decide)
  let ⟨_, h5, _⟩ := (h (sH true) 0x100 [] true 250).2.2.2.2 rfl (by decide) (by decide) (by decide) (noRings_of (by decide))
  ⟨⟨_, h1⟩, ⟨_, (h State.reset 0x101 [1, 2] true 0).2.1 (.inl rfl)⟩, ⟨_, h3⟩, ⟨_, (h (sH false) 0x41 [1, 2] true 0).2.2.2.1 (by decide)⟩, _, h5⟩

theorem meets_HostRegisters (h : HostRegisters) :
    (∃ t, exec (.hostRegisterWrite 0x2020 1024) (sH true) = .next t) ∧ (∃ t, exec (.hostRegisterWrite 0x400000 5) (sH true) = .next t)
    ∧ ∃ t, exec (.hostRegisterWrite 0x2020 5) State.reset = .next t :=
  let ⟨_, h1, _⟩ := (h (sH true) 0 1024).1 rfl 0x404 0 (by decide)
  ⟨⟨_, h1⟩, ⟨_, (h (sH true) 0x400000 5).2.1 rfl (by decide) (by decide)⟩, _, (h State.reset 0x2020 5).2.2 rfl⟩

/-- A load of host memory that can fail, in flight; its operation. -/
def remH : Remote :=
  { id := 7, dst := 0x400000, off := 0x40, kind := .read 4, who := .lanes 0 0 1, op := some 0, lane := 1, opcode := 0x81, tag := 1, refusals := 0,
    retryAt := none, byNs := 0, cid := 9, va := 0x400040, pos := p0, cls := 2, bytes := 0, stale := false, priv := false, flag := false }

def opH : Op :=
  { id := 0, eng := .warp 0 0, mask := 1, flag := some 0, code := 0x81, pos := p0, gang := 0, writes := [(64, 0, false)], uwrites := [], qwrite := none,
    kwrite := none, fail := none, hold := true, cid := 9, late := none, race := none, acq := 0, long := false, moved := false, src := [] }

theorem meets_HostErrors (h : HostErrors) :
    (∃ t, exec (.hostCompletionError 7) (sOf { (sH true).chip with remotes := [remH], ops := [opH] }) = .next t)
    ∧ ∃ t, exec (.hostWriteRejected 0x40) (sH true) = .next t :=
  let ⟨_, h1, _⟩ := (h (sOf { (sH true).chip with remotes := [remH], ops := [opH] })).1 remH 0 rfl rfl (fun o ho _ f hf => by
    rcases List.mem_singleton.mp ho with rfl; cases hf)
  let ⟨_, h2, _⟩ := (h (sH true)).2 0x40
  ⟨⟨_, h1⟩, _, h2⟩

/-- Ring 3 with its control block at 0x20000 and eight slots after it; HEAD 0, TAIL `tail`, the first slot's stamp and body. -/
def ring3 : Ring := { cb := 0x20000, en := true, tag := 1, log2 := 3, state := 1, stale := 0, awake := true, polled := 0 }

def cRing (k : Ring) (mem : AMap Byte) : Chip :=
  { c0 i0 w0 with rings := [(3, k)], mem := mem, time := 2000000, owner := [(1, 1), (2, 0xFFFF), (3, 0xFFFF)],
                  priv := { PrivRegs.reset with ringsel := 3 } }

/-- The slot at the head of that ring. -/
def slot3 : Nat := ring3.slotAt 0

/-- A slot that names the record at 0x20400, whose counter is 5. -/
def sRing : State :=
  let c := cRing ring3 [(0x20010, 1), (slot3, 1), (slot3 + 9, 4), (slot3 + 10, 2), (0x20430, 5)]
  sOf { c with cores := (coachCore, { Core.zero with tlb := [dataTlb] }) :: c.cores,
               dir := [{ slice := c.home 0x20400, line := 0x20400, resident := false }] }

/-- The same with a record whose page's table entry is not there; the context's root table, at 0, has no entry. -/
def sRingPage : State := sOf (cRing ring3 [(0x10, 1), (0x20010, 1), (slot3, 1), (slot3 + 9, 4), (slot3 + 10, 0xFF), (slot3 + 11, 0xFF), (slot3 + 12, 7)])

/-- The slot of a ring as it is taken. -/
def slotIn (s : State) (rec_ : Nat) : RingSlot := { cb := 0x20000, head := 0, rec_ := rec_, tag := 1, cid := (s.chip.unitCid 0).2 }

/-- The chip in which a slot's decrement is made. -/
def slotTaken (s : State) (rec_ : Nat) : Chip := (s.chip.unitCid 0).1.setRing 3 { ring3 with state := 1, slot := some (slotIn s rec_) }

theorem slotStop {s : State} {r : Nat} (h : (match (slotTaken s r).counterDec (2 ^ 32 + 3) (slotIn s r).cid 1 ((r + 0x30) % 2 ^ 64) true with
    | .ok _ => false
    | .error st => (match (slotTaken s r).coachStop st with
      | .ok _ => true
      | .error _ => false)) = true) :
    ∃ st c, (slotTaken s r).counterDec (2 ^ 32 + 3) (slotIn s r).cid 1 ((r + 0x30) % 2 ^ 64) true = .error st
      ∧ (slotTaken s r).coachStop st = .ok c := by
  split at h
  · cases h
  · next st hst =>
    split at h
    · next c hc => exact ⟨st, c, hst, hc⟩
    · cases h

/-- The ring off, its first slot still in progress. -/
def sRingOff : State :=
  { sRing with chip := sRing.chip.setRing 3 { ring3 with en := false, slot := some (slotIn sRing 0x20400) } }

theorem meets_RingSteps (h : RingSteps) :
    (∃ t, exec (.ringDoorbell 3 5) (sOf (cRing ring3 [])) = .next t) ∧ (∃ t, exec (.ringDoorbell 3 0) (sOf (cRing ring3 [])) = .next t)
    ∧ (∃ t, exec (.ringConsume 3) (sOf (cRing ring3 [])) = .next t) ∧ (∃ t, exec (.ringConsume 3) (sOf (cRing ring3 [(0x20010, 1)])) = .next t)
    ∧ (∃ t, exec (.ringConsume 3) (sOf (cRing ring3 [(0x20010, 1), (slot3, 2)])) = .next t)
    ∧ (∃ t, exec (.ringConsume 3) (sOf (cRing ring3 [(0x20010, 1), (slot3, 1), (slot3 + 16, 9)])) = .next t)
    ∧ (∃ t, exec (.ringConsume 3) sRing = .next t) ∧ (∃ t, exec (.ringConsume 3) sRingPage = .next t) ∧ (∃ t, exec (.ringConsume 3) sRingOff = .next t)
    ∧ (∃ t, exec (.stampPoll 3) (sOf (cRing { ring3 with state := 2, awake := false } [])) = .next t)
    ∧ ∃ t, exec .ringctlSkip (sOf (cRing ring3 [])) = .next t := by
  have sv (m : AMap Byte) (ho : offsetExists (ring3.slotAt ((cRing ring3 m).ringHead ring3) + 63) = true) : Serving (cRing ring3 m) 3 :=
    ⟨rfl, rfl, show ¬ (1 = 3) by decide, fun x => absurd x (show ¬ (1 = 2) by decide), show offsetExists 0x20000 = true by decide, ho, rfl⟩
  obtain ⟨c, g, _⟩ := okWith (e := (slotTaken sRing 0x20400).counterDec (2 ^ 32 + 3) (slotIn sRing 0x20400).cid 1 0x20430 true) (fun _ => true)
    (by decide +kernel)
  obtain ⟨st, c', g1, g2⟩ := slotStop (s := sRingPage) (r := 0x7FFFF0400) (by decide +kernel)
  obtain ⟨c2, g3, _⟩ := okWith (e := sRingOff.chip.counterDec (2 ^ 32 + 3) (slotIn sRing 0x20400).cid 1 0x20430 true) (fun _ => true) (by decide +kernel)
  obtain ⟨_, h1, _⟩ := ((h (sOf (cRing ring3 [])) 3).1 5 rfl (by decide)).1 (by decide +kernel)
  obtain ⟨_, h5, _⟩ := ((h (sOf (cRing ring3 [(0x20010, 1), (slot3, 2)])) 3).2.1 (sv _ (by decide +kernel))).2.2.1 (by decide +kernel) (by decide +kernel)
  obtain ⟨_, h6, _⟩ := ((h (sOf (cRing ring3 [(0x20010, 1), (slot3, 1), (slot3 + 16, 9)])) 3).2.1 (sv _ (by decide +kernel))).2.2.2.1 (by decide +kernel)
    (by decide +kernel) (by decide +kernel) (by decide)
  obtain ⟨_, h9, _⟩ := (h (sOf (cRing ring3 [])) 3).2.2.2.2 rfl rfl (by decide) (by decide)
  have h7 := (((h sRing 3).2.1 (sv _ (by decide +kernel))).2.2.2.2 (by decide +kernel) (by decide +kernel) (by decide +kernel)).1 c g
  have h8 := (((h sRingPage 3).2.1 (sv _ (by decide +kernel))).2.2.2.2 (by decide +kernel) (by decide +kernel) (by decide +kernel)).2 st c' g1 g2
  have h10 := (h sRingOff 3).2.2.1 (slotIn sRing 0x20400) c2 rfl (by decide +kernel) g3
  exact ⟨⟨_, h1⟩, ⟨_, ((h (sOf (cRing ring3 [])) 3).1 0 rfl (by decide)).2 (by decide +kernel)⟩,
    ⟨_, ((h (sOf (cRing ring3 [])) 3).2.1 (sv _ (by decide +kernel))).1 (by decide +kernel)⟩,
    ⟨_, ((h (sOf (cRing ring3 [(0x20010, 1)])) 3).2.1 (sv _ (by decide +kernel))).2.1 (by decide +kernel) (by decide +kernel)⟩, ⟨_, h5⟩, ⟨_, h6⟩,
    ⟨_, h7⟩, ⟨_, h8⟩, ⟨_, h10⟩,
    ⟨_, (h (sOf (cRing { ring3 with state := 2, awake := false } [])) 3).2.2.2.1 rfl rfl rfl rfl (by decide)⟩, _, h9⟩

/-- An entry for shadow queue 5 that arrived at time 0. -/
def pq5 (n : Nat) : Proxy := { tgt := 0, en := true, err := false, why := 0, log2 := 8, entries := List.replicate n (0, 0), batch := none }

def sPq (p : Proxy) : State := sOf { (sH true).chip with proxies := [(5, p)], priv := { PrivRegs.reset with pqsel := 5 } }

theorem meets_MailBatches (h : MailBatches) :
    (∃ t, exec (.mailBatchSend 5) (sPq (pq5 64)) = .next t) ∧ (∃ t, exec (.mailBatchSend 5) (sPq (pq5 63)) = .next t)
    ∧ (∃ t, exec (.mailBatchTimeout 5) (sPq (pq5 1)) = .next t) ∧ (∃ t, exec .pqcfgErrClear (sPq { pq5 1 with err := true }) = .next t)
    ∧ ∃ t, exec .pqcfgErrClear (sPq (pq5 1)) = .next t :=
  let ⟨_, h1, _⟩ := (h (sPq (pq5 64)) 5 rfl).1 (by decide +kernel) (by decide +kernel)
  let ⟨_, h3, _⟩ := (h (sPq (pq5 1)) 5 rfl).2.2.1 (0, 0) [] (by decide +kernel) (by decide +kernel) (by decide)
  ⟨⟨_, h1⟩, ⟨_, (h (sPq (pq5 63)) 5 rfl).2.1 (by decide +kernel)⟩, ⟨_, h3⟩, ⟨_, (h (sPq { pq5 1 with err := true }) 5 rfl).2.2.2.1 (by decide) rfl⟩,
   _, (h (sPq (pq5 1)) 5 rfl).2.2.2.2 (by decide) rfl⟩

/-- The machine with an invalidation of context 1 pending, and with a request to a peer through it. -/
def sInv (xs : List Nat) (rs : List Remote) : State :=
  sOf { (sH true).chip with priv := { PrivRegs.reset with xpend := xs }, remotes := rs }

theorem meets_Invalidation (h : Invalidation) :
    (∃ t, exec (.xinvWrite 2 1) (sInv [] []) = .next t) ∧ (∃ t, exec .invalidationComplete (sInv [1] []) = .next t)
    ∧ (∃ t, exec .invalidationComplete (sInv [1] [{ remH with dst := 1 }]) = .next t) ∧ ∃ t, exec .invalidationComplete (sInv [] []) = .next t :=
  let ⟨_, h1, _⟩ := (h (sInv [] []) 2 1).1 rfl
  let ⟨_, h2, _⟩ := (h (sInv [1] []) 2 1).2.1 (by decide) (fun _ hr => by cases hr)
  ⟨⟨_, h1⟩, ⟨_, h2⟩, ⟨_, (h (sInv [1] [{ remH with dst := 1 }]) 2 1).2.2.1 _ (List.mem_singleton.mpr rfl) 1 (List.mem_singleton.mpr rfl) (by decide)⟩,
   _, (h (sInv [] []) 2 1).2.2.2 rfl⟩

end Sys2Proof.Tests
end

section
/-! PROOF. Conversions through format slots (O6): what `cvtOp` writes where no active lane's check traps, and the trap it ends in otherwise. -/

namespace Sys2Proof.Proofs

open Sys2Proof Sys2Proof.Machine Sys2Proof.Claims

/-! ### Lists of lanes -/

theorem lanesOf_pairwise (m : BitVec 64) : (lanesOf m).Pairwise (· < ·) := lanesFrom_pairwise m.toNat warpWidth 0

/-- A rising list with the lanes of a set is the list of the set. -/
theorem eq_lanesOf {ls : List Nat} {m : BitVec 64} (hs : ls.Pairwise (· < ·)) (hm : ∀ l, l ∈ ls ↔ m.getLsbD l = true) : ls = lanesOf m :=
  List.Pairwise.eq_of_mem_iff hs (lanesOf_pairwise m) (fun l => by rw [hm, mem_lanesOf])

theorem lanesOf_zero : lanesOf 0 = [] := by decide

theorem lanesOf_laneBit {l : Nat} (hl : l < 64) : lanesOf (laneBit l) = [l] :=
  (eq_lanesOf (List.pairwise_singleton _ l) (fun k => by simp [laneBit_getLsbD]; omega)).symm

theorem lowLane_mem {m : BitVec 64} (h : m ≠ 0) : lowLane m ∈ lanesOf m := by
  unfold lowLane
  cases hL : lanesOf m with
  | cons a r => simp
  | nil =>
    refine absurd (BitVec.eq_of_getLsbD_eq fun j _ => ?_) h
    have : j ∉ lanesOf m := by simp [hL]
    simpa using this

theorem lowLane_lt {m : BitVec 64} (h : m ≠ 0) : lowLane m < 64 := lt_of_mem_lanesOf (lowLane_mem h)

/-- The lanes that `passing` keeps are the filtered lanes of the set. -/
theorem lanesOf_passing (m : BitVec 64) (chk : Nat → List Checked) :
    lanesOf (passing m chk) = (lanesOf m).filter (fun l => (chk l).all passes) :=
  (eq_lanesOf ((lanesOf_pairwise m).filter _) (fun l => by
    rw [passing, maskOf_filter_lanesOf]; simp)).symm

theorem mem_passing {m : BitVec 64} {chk : Nat → List Checked} {l : Nat} :
    (passing m chk).getLsbD l = true ↔ m.getLsbD l = true ∧ (chk l).all passes = true := by
  rw [passing, maskOf_filter_lanesOf, Bool.and_eq_true]

theorem passing_nil (m : BitVec 64) : passing m (fun _ => []) = m :=
  BitVec.eq_of_getLsbD_eq fun l _ => by rw [passing, maskOf_filter_lanesOf]; simp

/-- R8: the lowest lane in which something is found, in a rising list. -/
theorem firstLane_eq {α : Type} {f : Nat → Option α} {ls : List Nat} {l : Nat} {a : α} (hs : ls.Pairwise (· < ·)) (hl : l ∈ ls)
    (ha : f l = some a) (hn : ∀ j ∈ ls, j < l → f j = none) : firstLane f ls = some (l, a) := by
  induction ls with
  | nil => cases hl
  | cons k ls ih =>
    obtain ⟨hk, hs⟩ := List.pairwise_cons.1 hs
    rcases List.mem_cons.1 hl with rfl | hl
    · simp [firstLane, ha]
    · simp [firstLane, hn k (by simp) (hk l hl), ih hs hl (fun j hj => hn j (by simp [hj]))]

/-! ### Sticky bits -/

theorem orFlags_getLsbD (fs : List Flags) (k : Nat) : (orFlags fs).getLsbD k = fs.any (fun f => f.getLsbD k) := by
  induction fs with
  | nil => simp [orFlags]
  | cons f fs ih => simp [orFlags, ih]

theorem orFlags_append (fs gs : List Flags) : orFlags (fs ++ gs) = orFlags fs ||| orFlags gs :=
  BitVec.eq_of_getLsbD_eq fun k _ => by simp [orFlags_getLsbD]

theorem orFlags_flatMap (h : Nat → List Flags) (ls : List Nat) :
    orFlags (ls.flatMap h) = orFlags (ls.map (fun l => orFlags (h l))) := by
  induction ls with
  | nil => rfl
  | cons l ls ih => rw [List.flatMap_cons, orFlags_append, ih]; rfl

theorem orFlags_map_zero {α : Type} (ls : List α) : orFlags (ls.map (fun _ => 0)) = 0 := by
  induction ls with
  | nil => rfl
  | cons l ls ih => rw [List.map_cons, orFlags, ih]; rfl

theorem orFlags_map_or (g h : Nat → Flags) (ls : List Nat) :
    orFlags (ls.map (fun l => g l ||| h l)) = orFlags (ls.map g) ||| orFlags (ls.map h) := by
  induction ls with
  | nil => simp [orFlags]
  | cons l ls ih => simp only [List.map_cons, orFlags, ih]; ac_rfl

theorem stickies_or (m act : BitVec 64) (g h : Nat → Flags) :
    stickies m act (fun l => g l ||| h l) = stickies m act g ||| stickies m act h := by
  unfold stickies
  rw [← orFlags_map_or]
  congr 2; funext l; split <;> simp

theorem stickies_zero (m act : BitVec 64) : stickies m act (fun _ => 0) = 0 := by
  simp only [stickies, ite_self, orFlags_map_zero]

/-! ### The checks of several lanes -/

/-- The checks of some lanes, each with its lane, as `cvtOp` lists them. -/
def laneChecks (L : Nat → List Checked) (ls : List Nat) : List LaneCheck := ls.flatMap (fun l => (L l).map (fun k => (l, k)))

/-- The detail of a lane's first check that traps. -/
def firstRange : List Checked → Option Nat
  | [] => none
  | .range d :: _ => some d
  | .pass _ _ _ :: r => firstRange r

theorem firstRange_eq_none {cs : List Checked} (h : cs.all passes = true) : firstRange cs = none := by
  induction cs with
  | nil => rfl
  | cons c cs ih =>
    obtain ⟨hc, hcs⟩ := List.all_cons.symm ▸ h |> Bool.and_eq_true_iff.1
    cases c with
    | pass x k f => exact ih hcs
    | range d => cases hc

/-- A list of checks with another lane's before it shows the same of a lane. -/
theorem rangeIn_append_ne (op l k : Nat) (cs : List Checked) (r : List LaneCheck) (h : k ≠ l) :
    rangeIn op l (cs.map (fun c => (k, c)) ++ r) = rangeIn op l r := by
  induction cs with
  | nil => rfl
  | cons c cs ih => cases c <;> simpa [rangeIn, h] using ih

theorem rangeIn_append_same (op l : Nat) (cs : List Checked) (r : List LaneCheck) :
    rangeIn op l (cs.map (fun c => (l, c)) ++ r)
      = match firstRange cs with
        | some d => some (syndrome 9 (op * 65536 + d), 0)
        | none => rangeIn op l r := by
  induction cs with
  | nil => rfl
  | cons c cs ih =>
    cases c with
    | pass x k f => simpa [rangeIn, firstRange] using ih
    | range d => simp [rangeIn, firstRange]

/-- R8, R81: what the checks of several lanes show of one lane. -/
theorem rangeIn_laneChecks (op l : Nat) (L : Nat → List Checked) (ls : List Nat) :
    rangeIn op l (laneChecks L ls) = if l ∈ ls then (firstRange (L l)).map (fun d => (syndrome 9 (op * 65536 + d), 0)) else none := by
  induction ls with
  | nil => rfl
  | cons k ls ih =>
    rw [laneChecks, List.flatMap_cons, ← laneChecks]
    by_cases h : k = l
    · subst h
      rw [rangeIn_append_same, ih]
      cases firstRange (L k) <;> simp
    · rw [rangeIn_append_ne op l k _ _ h, ih]
      simp [Ne.symm h]

/-- The checks of one lane among those of several. -/
theorem filter_laneChecks {ls : List Nat} (hn : ls.Nodup) (L : Nat → List Checked) (l : Nat) :
    (laneChecks L ls).filter (fun q => q.1 == l) = if l ∈ ls then (L l).map (fun k => (l, k)) else [] := by
  induction ls with
  | nil => rfl
  | cons k ls ih =>
    obtain ⟨hk, hn⟩ := List.nodup_cons.1 hn
    rw [laneChecks, List.flatMap_cons, ← laneChecks, List.filter_append, ih hn]
    by_cases h : k = l
    · subst h
      rw [List.filter_eq_self.2 (by simp)]
      simp [hk]
    · rw [List.filter_eq_nil_iff.2 (by simp [h])]
      simp [Ne.symm h]

/-- The value that a lane's only check passed on. -/
theorem checkedVal_laneChecks {ls : List Nat} (hn : ls.Nodup) (chk : Nat → Checked) (l : Nat) (hp : l ∈ ls → passes (chk l) = true) :
    checkedVal (laneChecks (fun k => [chk k]) ls) l = if l ∈ ls then some (passed (chk l), clampedTo (chk l)) else none := by
  have hf := filter_laneChecks hn (fun k => [chk k]) l
  rw [checkedVal, ← List.head?_filter, hf]
  by_cases h : l ∈ ls
  · have hp := hp h
    cases hc : chk l with
    | pass x k f => simp [h, passed, clampedTo]
    | range d => rw [hc] at hp; cases hp
  · simp [h]

/-- The lanes of the checks that trap are those with a check that does not pass. -/
theorem mem_trapping {traps : LaneCheck → Bool} (ht : ∀ q, traps q = !passes q.2) (L : Nat → List Checked) (ls : List Nat) (l : Nat) :
    l ∈ ((laneChecks L ls).filter traps).map (fun q => q.1) ↔ l ∈ ls ∧ (L l).all passes = false := by
  simp only [laneChecks, List.mem_map, List.mem_filter, List.mem_flatMap, List.all_eq_false, ht, Bool.not_eq_true']
  constructor
  · rintro ⟨q, ⟨⟨k, hk, c, hc, rfl⟩, hq⟩, rfl⟩
    exact ⟨hk, c, hc, by simp [hq]⟩
  · rintro ⟨hl, c, hc, hp⟩
    exact ⟨(l, c), ⟨⟨l, hl, c, hc, rfl⟩, by simpa using hp⟩, rfl⟩

/-- Dropping the checks of some lanes leaves those of the others. -/
theorem laneChecks_filter (L : Nat → List Checked) (ls : List Nat) (p : Nat → Bool) :
    (laneChecks L ls).filter (fun q => p q.1) = laneChecks L (ls.filter p) := by
  induction ls with
  | nil => rfl
  | cons k ls ih =>
    rw [laneChecks, List.flatMap_cons, ← laneChecks, List.filter_append, ih]
    by_cases h : p k = true
    · rw [List.filter_eq_self.2 (by simp [h])]; simp [h, laneChecks]
    · rw [List.filter_eq_nil_iff.2 (by simp [h])]; simp [h]

/-- R82, R83: the sticky bits of the checks of several lanes. -/
theorem checkFlags_laneChecks (act : BitVec 64) (L : Nat → List Checked) (ls : List Nat) :
    checkFlags act (laneChecks L ls) = orFlags (ls.map (fun l => if act.getLsbD l then orFlags ((L l).map raised) else 0)) := by
  rw [checkFlags, laneChecks, List.map_flatMap, orFlags_flatMap]
  congr 2; funext l
  rw [List.map_map]
  by_cases h : act.getLsbD l = true
  · rw [if_pos h]; congr 2; funext c
    cases c <;> simp [raised, h]
  · rw [if_neg h]
    refine Eq.trans (congrArg orFlags (List.map_congr_left fun c _ => ?_)) (orFlags_map_zero (L l))
    cases c <;> simp [h]

/-! ### What is written -/

/-- R8: a fault of the whole instruction whose operands are good is reported in the lowest active lane. -/
theorem atLow_of_bad {p : Prep} (hb : p.bad = none) (i : Issue) (syn addr : Nat) :
    p.atLow i syn addr = laneTrap i syn (lowLane p.act) addr := by
  simp [Prep.atLow, Prep.lowest, hb, firstLane]

/-- The lanes that a conversion serves are those that `Form.writing` names. -/
theorem prepared_lanes (f : Form) (i : Issue) (core slot : Nat) (w : Warp) : (f.prepared i core slot w).lanes = lanesOf (f.writing i w) := by
  unfold Prep.lanes Form.writing Form.prepared
  simp only
  split
  · split
    · exact lanesOf_zero.symm
    · rename_i h
      exact (lanesOf_laneBit (lowLane_lt h)).symm
  · rfl

/-- Outputs folded into a warp, a lane without one left out, are results written lane by lane. -/
theorem foldl_outputs {put : Warp → Nat × Option (Nat × Flags) → Warp} {d : Nat} (h0 : ∀ w l, put w (l, none) = w)
    (h1 : ∀ w l v k, put w (l, some (v, k)) = w.setD d l 1 v) (w : Warp) (keep : Nat → Bool) (v : Nat → Nat) (g : Nat → Flags) (ls : List Nat) :
    (ls.map (fun l => (l, if keep l then some (v l, g l) else none))).foldl put w = writeEach w d 1 v (ls.filter keep) := by
  induction ls generalizing w with
  | nil => rfl
  | cons l ls ih => cases hk : keep l <;> simp [hk, h0, h1, ih, writeEach]

/-- R83: the sticky bits of the outputs, of the active lanes alone. -/
theorem orFlags_outputs {mark : Nat × Option (Nat × Flags) → Flags} {act : BitVec 64} (h0 : ∀ l, mark (l, none) = 0)
    (h1 : ∀ l v k, mark (l, some (v, k)) = if act.getLsbD l then k else 0) (keep : Nat → Bool) (v : Nat → Nat) (g : Nat → Flags)
    (ls : List Nat) :
    orFlags ((ls.map (fun l => (l, if keep l then some (v l, g l) else none))).map mark)
      = orFlags ((ls.filter keep).map (fun l => if act.getLsbD l then g l else 0)) := by
  induction ls with
  | nil => rfl
  | cons l ls ih => rw [List.map_cons, List.map_cons, orFlags, ih]; cases hk : keep l <;> simp [hk, h0, h1, orFlags]

/-- A result written in each lane of a set, of a uniform register in one lane at most, with sticky bits set, as `Wrote` says it. -/
theorem wrote_writeEach (m : BitVec 64) (d n : Nat) (v : Nat → Nat) (fl : Flags) (i : Issue) (w : Warp)
    (hu : 960 ≤ d → ∀ l ∈ lanesOf m, m = laneBit l) :
    Wrote m d n v fl i w
      (((writeEach w d n v (lanesOf m)).sticky fl).onLanes i.lanes (fun _ l => { l with pos := i.pos.after i.hdr, wait := none })) := by
  have hlt : ∀ l ∈ lanesOf m, l < 64 := fun l h => lt_of_mem_lanesOf h
  obtain ⟨rv, rp, ru, rq, hform⟩ := writeEach_form w d n v (lanesOf m)
  have hread (code l k : Nat) : ((writeEach w d n v (lanesOf m)).sticky fl).regs code l k = (writeEach w d n v (lanesOf m)).regs code l k
      ∧ ((writeEach w d n v (lanesOf m)).sticky fl).poisN code l k = (writeEach w d n v (lanesOf m)).poisN code l k :=
    Warp.regs_congr _ _ _ _ _ (fun _ _ _ => ⟨rfl, rfl⟩)
  refine Wrote.of_form fl ⟨rv, rp, ru, rq, by rw [hform]; rfl⟩ (fun hd l hl => ?_) (fun code l hl h => ?_)
  · rw [(hread d l n).1, (hread d l n).2]
    rcases hd with hd | hd
    · exact writeEach_regs w d n v _ hlt (lanesOf_nodup m) hd l hl
    · rw [hu hd l hl, lanesOf_laneBit (hlt l hl)]
      exact Warp.regs_setD w d l n (v l) (hlt l hl) (.inr hd)
  · rcases h with h | h | rfl | ⟨h, h'⟩
    · exact writeEach_kept w d n v _ hlt code l hl (.inl h)
    · exact writeEach_kept w d n v _ hlt code l hl (.inr (.inl h))
    · rw [lanesOf_zero]; exact ⟨rfl, rfl⟩
    · exact writeEach_kept w d n v _ hlt code l hl (.inr (.inr ⟨h, by simp [h']⟩))

/-! ### `cvtOp` -/

section
variable {op fs : Nat} {f : Form} {ok : Slot → Bool} {chk : Slot → List Bound → Prep → Nat → List Checked}
  {res : Slot → Prep → List LaneCheck → Nat → Option (Nat × Flags)} {s : State} {i : Issue} {core slot : Nat} {w : Warp}

/-- The lanes of a conversion whose checks pass are one at most where D is uniform. -/
theorem passing_uniform {d : Reg} (hd : f.d = some (d, 1)) (L : Nat → List Checked) (hu : 960 ≤ d.toNat) :
    ∀ l ∈ lanesOf (passing (f.writing i w) L), passing (f.writing i w) L = laneBit l := by
  have ho : f.once = true := by simpa [Form.once, hd, isU] using hu
  intro l hl
  have hl' := (mem_passing.1 ((mem_lanesOf _ _).1 hl)).1
  have hw : f.writing i w = laneBit l := by
    rw [Form.writing, if_pos ho] at hl' ⊢
    split at hl'
    · simp at hl'
    · rename_i ha
      rw [if_neg ha]
      rw [laneBit_getLsbD, Bool.and_eq_true, decide_eq_true_eq] at hl'
      rw [hl'.1]
  refine BitVec.eq_of_getLsbD_eq fun k _ => ?_
  rw [Bool.eq_iff_iff, mem_passing, hw]
  have hk := (mem_passing.1 ((mem_lanesOf _ _).1 hl)).2
  refine ⟨fun h => h.1, fun h => ⟨h, ?_⟩⟩
  rw [laneBit_getLsbD, Bool.and_eq_true, decide_eq_true_eq] at h
  rw [h.1]; exact hk

/-- What the checks at issue answer where the operands let the instruction execute. -/
theorem prepLanes_prepared (hi : Issuing s i core slot w) (hr : f.Ready s.chip i w) :
    prepLanes f i s.chip = .ok (f.prepared i core slot w) ∧ (f.prepared i core slot w).bad = none
      ∧ (f.prepared i core slot w).lanes = lanesOf (f.writing i w) ∧ (f.prepared i core slot w).act = f.active i w
      ∧ (f.prepared i core slot w).w = w ∧ (f.prepared i core slot w).core = core ∧ (f.prepared i core slot w).slot = slot :=
  ⟨prepLanes_ready f s i core slot w hi hr, rfl, prepared_lanes f i core slot w, rfl, rfl, rfl, rfl⟩

/-- R8, R81: the lowest active lane with a check that traps ends a conversion with RANGE. -/
theorem cvtOp_range (L : Nat → List Checked) {l detail : Nat} (hi : Issuing s i core slot w) (hr : f.Ready s.chip i w)
    (hok : ok (s.chip.slot i.eng fs) = true)
    (hL : ∀ j, chk (s.chip.slot i.eng fs) (s.chip.bounds i.eng) (f.prepared i core slot w) j = L j)
    (ha : (f.active i w).getLsbD l = true) (hw : l ∈ lanesOf (f.writing i w)) (hl : firstRange (L l) = some detail)
    (hj : ∀ j ∈ lanesOf (f.writing i w), j < l → (f.active i w).getLsbD j = true → (L j).all passes = true) :
    cvtOp op fs f ok chk res i s.chip = .error (laneTrap i (syndrome 9 (op * 65536 + detail)) l 0) := by
  have hlow : firstLane (fun l => rangeIn op l (laneChecks L (lanesOf (f.writing i w)))) (lanesOf (f.active i w))
      = some (l, syndrome 9 (op * 65536 + detail), 0) := by
    refine firstLane_eq (lanesOf_pairwise _) ((mem_lanesOf _ _).2 ha) (by simp only [rangeIn_laneChecks, hw, hl, if_true, Option.map_some]) ?_
    intro j hja hjl
    rw [rangeIn_laneChecks]
    split
    · rename_i hjw
      rw [firstRange_eq_none (hj j hjw hjl ((mem_lanesOf _ _).1 hja))]; rfl
    · rfl
  obtain ⟨hp, hb, hlanes, hact, -⟩ := prepLanes_prepared hi hr
  generalize f.prepared i core slot w = p at *
  have hcs : (lanesOf (f.writing i w)).flatMap
      (fun l => (chk (s.chip.slot i.eng fs) (s.chip.bounds i.eng) p l).map (fun k => (l, k)))
        = laneChecks L (lanesOf (f.writing i w)) := by simp only [hL, laneChecks]
  unfold cvtOp
  simp only [hp, hok, hlanes, hb, hact, hcs, Prep.lowest, hlow, Bool.not_true, Bool.false_eq_true, if_false]

/-- R78: a slot that does not suit ends a conversion with FORMAT. -/
theorem cvtOp_format (hi : Issuing s i core slot w) (hr : f.Ready s.chip i w) (hok : ok (s.chip.slot i.eng fs) = false)
    (ha : f.active i w ≠ 0) :
    cvtOp op fs f ok chk res i s.chip = .error (laneTrap i (formatSyn op fs (s.chip.slot i.eng fs)) (lowLane (f.active i w)) 0) := by
  obtain ⟨hp, hb, -, hact, -⟩ := prepLanes_prepared hi hr
  generalize f.prepared i core slot w = p at *
  unfold cvtOp
  simp only [hp, hok, Bool.not_false, if_true, atLow_of_bad hb, hact, if_neg ha]

/-- R85-R87: a conversion that no active lane's check traps writes each lane whose checks pass. -/
theorem cvtOp_writes (L : Nat → List Checked) (v : Nat → Nat) (g : Nat → Flags) {d : Reg} (hd : f.d = some (d, 1))
    (hi : Issuing s i core slot w) (hr : f.Ready s.chip i w) (hok : ok (s.chip.slot i.eng fs) = true)
    (hL : ∀ j, chk (s.chip.slot i.eng fs) (s.chip.bounds i.eng) (f.prepared i core slot w) j = L j)
    (hpass : ∀ l ∈ lanesOf (f.writing i w), (f.active i w).getLsbD l = true → (L l).all passes = true)
    (hres : ∀ l ∈ lanesOf (passing (f.writing i w) L), res (s.chip.slot i.eng fs) (f.prepared i core slot w)
      (laneChecks L (lanesOf (passing (f.writing i w) L))) l = some (v l, g l)) :
    cvtOp op fs f ok chk res i s.chip = .ok (s.chip.setWarp core slot (some
      (((writeEach w d.toNat 1 v (lanesOf (passing (f.writing i w) L))).sticky
        (stickies (passing (f.writing i w) L) (f.active i w) (fun l => g l ||| orFlags ((L l).map raised)))).onLanes i.lanes
          (fun _ l => { l with pos := i.pos.after i.hdr, wait := none })))) := by
  obtain ⟨hp, hb, hlanes, hact, hpw, hcore, hslot⟩ := prepLanes_prepared hi hr
  generalize f.prepared i core slot w = p at *
  have hcs : (lanesOf (f.writing i w)).flatMap
      (fun l => (chk (s.chip.slot i.eng fs) (s.chip.bounds i.eng) p l).map (fun k => (l, k)))
        = laneChecks L (lanesOf (f.writing i w)) := by simp only [hL, laneChecks]
  have hlow : firstLane (fun l => rangeIn op l (laneChecks L (lanesOf (f.writing i w)))) (lanesOf (f.active i w)) = none := by
    refine firstLane_none _ _ fun j hja => ?_
    rw [rangeIn_laneChecks]
    split
    · rename_i hjw
      rw [firstRange_eq_none (hpass j hjw ((mem_lanesOf _ _).1 hja))]; rfl
    · rfl
  unfold cvtOp
  simp only [hp, hok, hlanes, hb, hact, hcs, hd, Prep.lowest, hlow, Bool.not_true, Bool.false_eq_true, if_false]
  set bad := ((laneChecks L (lanesOf (f.writing i w))).filter _).map _ with hbad
  have hkeep (l : Nat) (hl : l ∈ lanesOf (f.writing i w)) : bad.contains l = !(L l).all passes := by
    rw [Bool.eq_iff_iff, List.contains_iff_mem, hbad, mem_trapping (fun q => by cases q.2 <;> rfl)]; simp [hl]
  have hgood : (laneChecks L (lanesOf (f.writing i w))).filter (fun q => !bad.contains q.1)
      = laneChecks L (lanesOf (passing (f.writing i w) L)) := by
    rw [laneChecks_filter L _ (fun l => !bad.contains l), lanesOf_passing, List.filter_congr (fun l hl => by rw [hkeep l hl, Bool.not_not])]
  have houts : (lanesOf (f.writing i w)).map (fun l => (l, if bad.contains l = true then none
        else res (s.chip.slot i.eng fs) p (laneChecks L (lanesOf (passing (f.writing i w) L))) l))
      = (lanesOf (f.writing i w)).map (fun l => (l, if (L l).all passes then some (v l, g l) else none)) := by
    refine List.map_congr_left fun l hl => ?_
    rw [hkeep l hl]
    cases hp : (L l).all passes with
    | false => rfl
    | true => rw [hres l ((mem_lanesOf _ _).2 (mem_passing.2 ⟨(mem_lanesOf _ _).1 hl, hp⟩))]; rfl
  rw [hgood, houts, foldl_outputs (fun _ _ => rfl) (fun _ _ _ _ => rfl), orFlags_outputs (fun _ => rfl) (fun _ _ _ => rfl),
    checkFlags_laneChecks, ← lanesOf_passing, stickies_or, finish_eq i p _ s.chip (by rw [hcore, hslot, hi.eng]), hcore, hslot, hpw]
  rfl

/-- An instruction that is a conversion and that no active lane's check traps completes. -/
theorem completes_cvtOp {k : Instr} {F : Issue → Chip → Except Stop Chip} (L : Nat → List Checked) (v : Nat → Nat) (g fl : Nat → Flags)
    {d : Reg} (hk : exec k s = runIssue s F) (hF : F i s.chip = cvtOp op fs f ok chk res i s.chip) (hd : f.d = some (d, 1))
    (hi : Issuing s i core slot w) (hr : f.Ready s.chip i w) (hok : ok (s.chip.slot i.eng fs) = true)
    (hL : ∀ j, chk (s.chip.slot i.eng fs) (s.chip.bounds i.eng) (f.prepared i core slot w) j = L j)
    (hpass : ∀ l ∈ lanesOf (f.writing i w), (f.active i w).getLsbD l = true → (L l).all passes = true)
    (hres : ∀ l ∈ lanesOf (passing (f.writing i w) L), res (s.chip.slot i.eng fs) (f.prepared i core slot w)
      (laneChecks L (lanesOf (passing (f.writing i w) L))) l = some (v l, g l))
    (hfl : ∀ l, g l ||| orFlags ((L l).map raised) = fl l) :
    CompletesWriting k (passing (f.writing i w) L) d.toNat 1 v (stickies (passing (f.writing i w) L) (f.active i w) fl) s i core slot w :=
  ⟨_, by rw [hk, runIssue_ok hi.cur (hF.trans (cvtOp_writes L v g hd hi hr hok hL hpass hres)), funext hfl],
    wrote_writeEach _ _ _ _ _ _ _ (passing_uniform hd L)⟩

end

/-! ### The conversions -/

/-- R86: I2F and F2I make no bound check. -/
theorem integerConversions : IntegerConversions := by
  intro ct u d a fs s i core slot w sl v hi
  refine ⟨fun hr ha hb => ?_, fun hr ha hb => ?_⟩
  · have h := completes_cvtOp (k := .i2f ct u d a fs) (fun _ => []) (fun l => convertTo sl.fb sl (intSource sl.fa u (v l))) (fun _ => 0)
      (fun _ => 0) rfl rfl rfl hi hr (by simpa [isFloat] using ⟨ha, hb⟩) (fun _ => rfl) (fun _ _ _ => rfl) (fun _ _ => rfl) (fun _ => rfl)
    rwa [passing_nil, stickies_zero] at h
  · have h := completes_cvtOp (k := .f2i ct u d a fs) (fun _ => []) (fun l => (floatToInt sl.fb u sl.rnd (widen sl.fa (v l))).1) _
      (fun l => if (floatToInt sl.fb u sl.rnd (widen sl.fa (v l))).2 then flagISAT else 0)
      rfl rfl rfl hi hr (by simpa [isFloat] using ⟨ha, hb⟩) (fun _ => rfl) (fun _ _ _ => rfl) (fun _ _ => rfl) (fun _ => BitVec.or_zero)
    rwa [passing_nil] at h

/-- The value that a lane's check of several passed on, where all of them pass. -/
theorem checkedVal_of_passing {chk : Nat → Checked} {m : BitVec 64} {l : Nat} (h : l ∈ lanesOf (passing m (fun k => [chk k]))) :
    checkedVal (laneChecks (fun k => [chk k]) (lanesOf (passing m (fun k => [chk k])))) l = some (passed (chk l), clampedTo (chk l)) := by
  rw [checkedVal_laneChecks (lanesOf_nodup _) chk l fun h => by simpa using (mem_passing.1 ((mem_lanesOf _ _).1 h)).2, if_pos h]

/-- R85: the slots that CVTF accepts in its plain form. -/
def cvtfSuits (sl : Slot) : Bool := isFloat sl.fa && sl.fb < 6 && (!isSx sl.fb || sl.fa = 0)

/-- R85: the slots that the pair form accepts. -/
def pairSuits (sl : Slot) : Bool := sl.fa = 0 && (sl.fb = 1 || sl.fb = 2)

/-- R81, R85: the checks that CVTF makes in a lane: of A, in the pair form then of B. -/
def cvtfCheck (ct : Ctl) (pk : Bool) (a b : Reg) (sl : Slot) (bds : List Bound) (p : Prep) (l : Nat) : List Checked :=
  [boundCheck bds sl (widen sl.fa ((srcA ct a 1).val p.w l))] ++ (if pk then [boundCheck bds sl (widen sl.fa ((srcB b 1).val p.w l))] else [])

/-- R85: what CVTF writes in a lane, given the checked values. -/
def cvtfValue (pk : Bool) (sl : Slot) (p : Prep) (cs : List LaneCheck) (l : Nat) : Option (Nat × Flags) :=
  if isSx sl.fb then some (sxLane sl p cs l)
  else
    let vs := (cs.filter (fun q => q.1 == l)).map (fun q => match q.2 with
      | .pass x _ _ => convertTo sl.fb sl x
      | .range _ => 0)
    some (vs.getD 0 0 + (if pk then vs.getD 1 0 * 65536 else 0), 0)

/-- R85: CVTF as `cvtOp` does it, where its pair form accepts what the plain form does. -/
theorem exec_cvtf (ct : Ctl) (pk : Bool) (d a b : Reg) (fs : BitVec 3) (s : State) :
    exec (.cvtf ct pk d a b fs) s = runIssue s (fun i c =>
      if pk && cvtfSuits (c.slot i.eng fs.toNat) && !pairSuits (c.slot i.eng fs.toNat) then
        .error (laneTrap i (syndrome 1 (opReason 0x58 9)) (lowLane i.lanes) 0)
      else cvtOp 0x58 fs.toNat (cvtForm 0x58 ct d (if pk then [srcA ct a 1, srcB b 1] else [srcA ct a 1])) cvtfSuits (cvtfCheck ct pk a b)
        (cvtfValue pk) i c) := rfl

theorem not_sx_of_lt {fb : Nat} (h : fb < 3) : isSx fb = false := by simp [isSx]; omega

/-- R85: what CVTF writes in a lane of scalar formats whose checks all passed. -/
theorem cvtfValue_scalar {sl : Slot} (hb : sl.fb < 3) (pk : Bool) (p : Prep) {L : Nat → List Checked} {m : BitVec 64} {l : Nat}
    (hl : l ∈ lanesOf (passing m L)) :
    cvtfValue pk sl p (laneChecks L (lanesOf (passing m L))) l
      = some (((L l).map (fun c => convertTo sl.fb sl (passed c))).getD 0 0
          + (if pk then ((L l).map (fun c => convertTo sl.fb sl (passed c))).getD 1 0 * 65536 else 0), 0) := by
  have hp := (mem_passing.1 ((mem_lanesOf _ _).1 hl)).2
  have hv : ((L l).map (fun k => (l, k))).map (fun q : LaneCheck => match q.2 with
      | .pass x _ _ => convertTo sl.fb sl x
      | .range _ => 0) = (L l).map (fun c => convertTo sl.fb sl (passed c)) := by
    rw [List.map_map]
    refine List.map_congr_left fun c hc => ?_
    cases c with
    | pass x k f => rfl
    | range d => cases List.all_eq_true.1 hp _ hc
  simp only [cvtfValue, not_sx_of_lt hb, filter_laneChecks (lanesOf_nodup _), if_pos hl]
  rw [hv]; rfl

/-- R85: the value of a block that the `j`th of its lanes brings: +0 where none passed its check; on the uniform unit the first alone. -/
def blockElement (once : Bool) (v : Option (FVal × Option Word)) (j : Nat) : FVal :=
  match v with
  | some (x, _) => if once && j != 0 then .fin false 0 0 else x
  | none => .fin false 0 0

theorem sxLane_eq (sl : Slot) (p : Prep) (cs : List LaneCheck) (l : Nat) :
    let base := if p.once then l else l / 16 * 16
    let b := toSX sl.fb sl.sb sl.rnd sl.sat ((List.range 16).map (fun j => blockElement p.once (checkedVal cs (base + j)) j))
    sxLane sl p cs l = (fp32.pack .rne false (sxElement sl.fb sl.sb (b.1.bytes sl.fb) (l - base)), b.2) := rfl

/-- R85, log 15: what CVTF writes in a lane of the block form. -/
theorem cvtfValue_block {sl : Slot} (hb : isSx sl.fb = true) (p : Prep) (chk : Nat → Checked) (m : BitVec 64) (l : Nat) :
    let m' := passing m (fun k => [chk k])
    let blk := toSX sl.fb sl.sb sl.rnd sl.sat (block m' p.once (fun k => passed (chk k)) l)
    cvtfValue false sl p (laneChecks (fun k => [chk k]) (lanesOf m')) l
      = some (fp32.pack .rne false (sxElement sl.fb sl.sb (blk.1.bytes sl.fb) (if p.once then 0 else l % 16)), blk.2) := by
  intro m' blk
  have hval (k : Nat) : checkedVal (laneChecks (fun k => [chk k]) (lanesOf m')) k
      = if m'.getLsbD k then some (passed (chk k), clampedTo (chk k)) else none := by
    rw [checkedVal_laneChecks (lanesOf_nodup _) chk k fun h => by simpa using (mem_passing.1 ((mem_lanesOf _ _).1 h)).2]
    simp only [mem_lanesOf]
  have hxs : (List.range 16).map (fun j => blockElement p.once (checkedVal (laneChecks (fun k => [chk k]) (lanesOf m'))
      ((if p.once then l else l / 16 * 16) + j)) j) = block m' p.once (fun k => passed (chk k)) l := by
    refine List.map_congr_left fun j _ => ?_
    rw [hval, ite_add]
    dsimp only
    generalize (if p.once = true then l + j else l / 16 * 16 + j) = k
    cases m'.getLsbD k <;> cases p.once <;> cases j <;> rfl
  have hpos : l - (if p.once = true then l else l / 16 * 16) = if p.once = true then 0 else l % 16 := by split <;> omega
  simp only [cvtfValue, hb, if_true]
  rw [sxLane_eq, hxs, hpos]

theorem cvtfSuits_scalar {sl : Slot} (ha : sl.fa < 3) (hb : sl.fb < 3) : cvtfSuits sl = true := by
  simp [cvtfSuits, isFloat, not_sx_of_lt hb, ha]; omega

theorem cvtfSuits_block {sl : Slot} (ha : sl.fa = 0) (hb : isSx sl.fb = true) : cvtfSuits sl = true := by
  have : sl.fb < 6 := by simp [isSx] at hb; omega
  simp [cvtfSuits, isFloat, ha, this]

/-- R81, R85, R87: CVTF and BCHK where no active lane's check traps. -/
theorem boundedConversions : BoundedConversions := by
  intro ct d a b fs s i core slot w sl chk A B hi
  refine ⟨?_, ?_, ?_, ?_⟩
  · intro f m hr ha hb hp
    exact completes_cvtOp (fun l => [chk A l]) _ (fun _ => 0) _ (exec_cvtf ct false d a 0 fs s) (if_neg (by simp)) rfl hi hr
      (cvtfSuits_scalar ha hb) (fun _ => rfl) (fun l hl hla => by simpa using hp l hl hla) (fun l hl => cvtfValue_scalar hb _ _ hl)
      (fun l => by simp [orFlags])
  · intro f m hr ha hb hp
    have h3 : sl.fb < 3 := by omega
    have hs : pairSuits sl = true := by simp [pairSuits, ha, hb]
    refine completes_cvtOp (fun l => [chk A l, chk B l]) _ (fun _ => 0) _ (exec_cvtf ct true d a b fs s)
      (if_neg (by rw [hs]; simp)) rfl hi hr (cvtfSuits_scalar (ha ▸ (by decide)) h3) (fun _ => rfl) (fun l hl hla => by simpa using hp l hl hla)
      (fun l hl => (cvtfValue_scalar h3 _ _ hl).trans ?_) (fun l => by simp [orFlags])
    simp [Nat.mul_comm]
  · intro f m blk hr ha hb hp
    exact completes_cvtOp (fun l => [chk A l]) _ _ _ (exec_cvtf ct false d a 0 fs s) (if_neg (by simp)) rfl hi hr
      (cvtfSuits_block ha hb) (fun _ => rfl) (fun l hl hla => by simpa using hp l hl hla) (fun l _ => cvtfValue_block hb _ _ _ l)
      (fun l => by simp [orFlags, BitVec.or_comm]; rfl)
  · intro f m hr ha hp
    refine completes_cvtOp (k := .bchk ct d a fs) (fun l => [chk A l]) _ (fun _ => 0) _ rfl rfl rfl hi hr
      (by simpa using ha) (fun l => by simp only [chk, sl] at ha ⊢; rw [ha]; rfl) (fun l hl hla => by simpa using hp l hl hla)
      (fun l hl => ?_) (fun l => by simp [orFlags])
    simp only [checkedVal_of_passing hl]
    cases clampedTo (chk A l) <;> rfl

/-- A meaning that ends in a trap of its lane set. -/
theorem exec_trapped {k : Instr} {s : State} {i : Issue} {F : Issue → Chip → Except Stop Chip} {syn lane addr : Nat}
    (hk : exec k s = runIssue s F) (hc : s.chip.cur = some i) (hF : F i s.chip = .error (laneTrap i syn lane addr)) :
    exec k s = .next (s.trapped i syn lane addr) :=
  hk.trans (runIssue_trap hc hF)

/-- R8, R81: CVTF and BCHK where an active lane's check traps. -/
theorem conversionRanges : ConversionRanges := by
  intro ct d a b fs s i core slot w l detail sl chk A B hi
  refine ⟨?_, ?_⟩
  · rintro k op (⟨rfl, rfl, hs⟩ | ⟨rfl, rfl, ha⟩) f hr hact hw hl hj
    · have hs : cvtfSuits sl = true := hs.elim (fun h => cvtfSuits_scalar h.1 h.2) (fun h => cvtfSuits_block h.1 h.2)
      exact exec_trapped (exec_cvtf ct false d a 0 fs s) hi.cur ((if_neg (by simp)).trans
        (cvtOp_range (fun j => [chk A j]) hi hr hs (fun _ => rfl) hact hw (by simp [hl, firstRange])
          (fun j hjw hjl hja => by simpa using hj j hjw hjl hja)))
    · exact exec_trapped (k := .bchk ct d a fs) rfl hi.cur (cvtOp_range (fun j => [chk A j]) hi hr (by simpa using ha)
        (fun l => by simp only [chk, sl] at ha ⊢; rw [ha]; rfl) hact hw (by simp [hl, firstRange])
        (fun j hjw hjl hja => by simpa using hj j hjw hjl hja))
  · intro f hr ha hb hact hw hl hj
    have hs : pairSuits sl = true := by simp [pairSuits, ha, hb]
    have h3 : sl.fb < 3 := by omega
    have hfirst : firstRange [chk A l, chk B l] = some detail := by
      rcases hl with hl | ⟨hp, hl⟩
      · rw [hl]; rfl
      · cases hA : chk A l with
        | pass x k g => rw [hl]; rfl
        | range e => rw [hA] at hp; cases hp
    exact exec_trapped (exec_cvtf ct true d a b fs s) hi.cur ((if_neg (by rw [hs]; simp)).trans
      (cvtOp_range (fun j => [chk A j, chk B j]) hi hr (cvtfSuits_scalar (ha ▸ (by decide)) h3) (fun _ => rfl) hact hw hfirst
        (fun j hjw hjl hja => by simpa using hj j hjw hjl hja)))

/-- R78, R85: slots that a conversion does not accept. -/
theorem conversionFormats : ConversionFormats := by
  intro ct u pk d a b fs s i core slot w sl A suits hi
  refine ⟨?_, fun hs hp => ?_⟩
  · intro k op srcs ok hmem f hr hact hok
    simp only [List.mem_cons, Prod.mk.injEq, List.not_mem_nil, or_false] at hmem
    rcases hmem with ⟨rfl, rfl, rfl, rfl⟩ | ⟨rfl, rfl, rfl, rfl⟩ | ⟨rfl, rfl, rfl, rfl⟩ | ⟨rfl, rfl, rfl, rfl⟩
    · have hs : cvtfSuits sl = false := hok
      cases pk <;> exact exec_trapped (exec_cvtf ct _ d a _ fs s) hi.cur ((if_neg (by rw [hs]; simp)).trans (cvtOp_format hi hr hs hact))
    · exact exec_trapped (k := .i2f ct u d a fs) rfl hi.cur (cvtOp_format hi hr hok hact)
    · exact exec_trapped (k := .f2i ct u d a fs) rfl hi.cur (cvtOp_format hi hr hok hact)
    · exact exec_trapped (k := .bchk ct d a fs) rfl hi.cur (cvtOp_format hi hr hok hact)
  · have hs : cvtfSuits sl = true := hs
    have hp : pairSuits sl = false := by simp [pairSuits]; omega
    exact exec_trapped (exec_cvtf ct true d a b fs s) hi.cur (if_pos (by rw [hs, hp]; rfl))

/-- Settles O6: each clause is a use of what `cvtOp` does, written or trapped. -/
theorem conversions : Obligations.Conversions := ⟨integerConversions, boundedConversions, conversionRanges, conversionFormats⟩

end Sys2Proof.Proofs
end

section
/-! PROOF. Special registers read and written (O9): which addresses hold a register, what RDSR and WRSR answer where their operands let them
execute, and what each answer leaves. -/

namespace Sys2Proof.Proofs

open Sys2Proof Sys2Proof.Machine Sys2Proof.Claims

/-- R371: an address that lies in one of the runs of the unprivileged space. -/
def Assigned (a : Nat) : Prop := ∃ x ∈ readableRegisters, x.1 ≤ a ∧ a ≤ x.2

/-- R371: an address reads as a register exactly where it is assigned. -/
theorem srRead_isSome (c : Chip) (core slot : Nat) (w : Warp) (l a : Nat) : (c.srRead core slot w l a).isSome = true ↔ Assigned a := by
  simp only [Assigned, readableRegisters, List.mem_cons, List.not_mem_nil, or_false, exists_eq_or_imp, exists_eq_left]
  unfold Chip.srRead
  split
  iterate 26 · simp
  · simp only [Bool.and_eq_true, decide_eq_true_eq]
    split_ifs <;> simp only [Option.isSome_some, Option.isSome_none, true_iff, Bool.false_eq_true, false_iff, imp_false] at * <;> omega

theorem assigned_fpstat : Assigned (0x020#11).toNat := ⟨(0x020, 0x022), by simp [readableRegisters], by decide⟩

theorem assigned_mstat : Assigned (0x021#11).toNat := ⟨(0x020, 0x022), by simp [readableRegisters], by decide⟩

theorem assigned_trap {n : Nat} (h : 0x0C0 ≤ n ∧ n ≤ 0x0C9) : Assigned n := ⟨(0x0C0, 0x0C9), by simp [readableRegisters], h⟩

theorem Assigned.lt {a : Nat} (h : Assigned a) : a < 0x400 := by
  simp only [Assigned, readableRegisters, List.mem_cons, List.not_mem_nil, or_false, exists_eq_or_imp, exists_eq_left] at h
  omega

section
variable {s : State} {i : Issue} {core slot : Nat} {w : Warp} {g : Guard} {a d : Reg} {addr : BitVec 11}

/-- R371: a privileged or an assigned address passes the check that one which names no register fails. -/
theorem srFault_none (op : Nat) (hi : Issuing s i core slot w) (ha : 0x400 ≤ addr.toNat ∨ Assigned addr.toNat) :
    srFault s.chip i op i.eng.core i.eng.slot addr.toNat = none := by
  unfold srFault
  split
  · rfl
  · rename_i hlt
    have hs : (s.chip.srRead core slot w 0 addr.toNat).isNone = false := by
      rw [Option.isNone_eq_false_iff, srRead_isSome]; exact ha.resolve_left hlt
    simp only [hi.eng, Eng.core, Eng.slot, hi.warp, hs, Bool.false_eq_true, if_false]

/-- What RDSR does once its checks are passed. -/
def rdsrWork (d : Reg) (addr : BitVec 11) (i : Issue) (p : Prep) (c : Chip) : Except Stop Chip :=
  if addr = 0x020 && c.bitsDue i then .error .wait
  else finish i p (p.write d.toNat 2 (fun l => (c.srRead p.core p.slot p.w l addr.toNat).getD 0)) c

/-- What WRSR does once its checks are passed. -/
def wrsrWork (addr : BitVec 11) (a : Reg) (i : Issue) (p : Prep) (c : Chip) : Except Stop Chip :=
  if p.act = 0 then finish i p p.w c
  else
    match c.srWrite p.core p.slot addr.toNat (p.w.regs a.toNat (lowLane p.act) 2) with
    | none => .error (laneTrap i (syndrome 6 (opReason 0xBE 9)) (lowLane p.act) 0)
    | some c1 =>
      if 0x0C0 ≤ addr.toNat && !p.w.handler then .error (laneTrap i (syndrome 6 (opReason 0xBE 0xB)) (lowLane p.act) 0)
      else .ok (c1.advance i)

/-- The operands of RDSR. -/
def rdsrForm (g : Guard) (d : Reg) : Form := ctlForm 0xBD g (some (d, 2)) .always []

/-- The operands of WRSR. -/
def wrsrForm (g : Guard) (a : Reg) : Form := ctlForm 0xBE g none .rule [srcPair a false] true

/-- The run of a meaning depends on what it answers for the issue in progress alone. -/
theorem exec_congr {k : Instr} {F G : Issue → Chip → Except Stop Chip} (hk : exec k s = runIssue s F) (hc : s.chip.cur = some i)
    (h : F i s.chip = G i s.chip) : exec k s = runIssue s G := by
  rw [hk]; simp only [runIssue, hc, h]

/-- RDSR of a privileged or an assigned address whose operands let it execute. -/
theorem exec_rdsr (hi : Issuing s i core slot w) (hr : (rdsrForm g d).Ready s.chip i w) (ha : 0x400 ≤ addr.toNat ∨ Assigned addr.toNat) :
    let p := (rdsrForm g d).prepared i core slot w
    exec (.rdsr g d addr) s = runIssue s (fun i c => p.orTrap i (srPrivileged p 0xBD addr.toNat) (rdsrWork d addr i p c)) := by
  refine exec_congr (Eq.trans (b := execRdsr g d addr s) rfl rfl) hi.cur ?_
  have hp := prepLanes_ready _ s i core slot w hi hr
  rw [rdsrForm, ctlForm] at hp
  simp only [srFault_none 0xBD hi ha, hp]
  rfl

/-- WRSR of a privileged or an assigned address whose operands let it execute. -/
theorem exec_wrsr (hi : Issuing s i core slot w) (hr : (wrsrForm g a).Ready s.chip i w) (ha : 0x400 ≤ addr.toNat ∨ Assigned addr.toNat) :
    let p := (wrsrForm g a).prepared i core slot w
    exec (.wrsr g addr a) s = runIssue s (fun i c => p.orTrap i (srPrivileged p 0xBE addr.toNat) (wrsrWork addr a i p c)) := by
  refine exec_congr (Eq.trans (b := execWrsr g addr a s) rfl rfl) hi.cur ?_
  have hp := prepLanes_ready _ s i core slot w hi hr
  rw [wrsrForm, ctlForm, srcPair] at hp
  simp only [srFault_none 0xBE hi ha, hp]
  rfl

/-- R8, R372: a privileged address is PROTECTION, reason 0xA, in the lowest executing lane. -/
theorem orTrap_privileged {f : Form} {op n : Nat} (work : Except Stop Chip) (ha : f.active i w ≠ 0) (hn : 0x400 ≤ n) :
    (f.prepared i core slot w).orTrap i (srPrivileged (f.prepared i core slot w) op n) work
      = .error (laneTrap i (syndrome 6 (opReason op 0xA)) (lowLane (f.active i w)) 0) := by
  have : srPrivileged (f.prepared i core slot w) op n = some (syndrome 6 (opReason op 0xA), 0) := 
    if_pos (by simpa [hn, Form.prepared] using ha)
  rw [this]
  exact congrArg Except.error (atLow_of_bad (p := f.prepared i core slot w) rfl i _ _)

/-- Below the privileged addresses, and where no lane executes, the work is done. -/
theorem orTrap_work {f : Form} {op n : Nat} (work : Except Stop Chip) (h : n < 0x400 ∨ f.active i w = 0) :
    (f.prepared i core slot w).orTrap i (srPrivileged (f.prepared i core slot w) op n) work = work := by
  have : srPrivileged (f.prepared i core slot w) op n = none := if_neg (by
    rcases h with h | h
    · simp [Nat.not_le.2 h]
    · simpa [Form.prepared] using fun _ => h)
  rw [this]; rfl

/-- R8, R372: RDSR of a privileged address that a lane executes. -/
theorem rdsr_privileged (hi : Issuing s i core slot w) (hr : (rdsrForm g d).Ready s.chip i w) (ha : (rdsrForm g d).active i w ≠ 0)
    (hn : 0x400 ≤ addr.toNat) :
    exec (.rdsr g d addr) s = .next (s.trapped i (0x06000000 + 0xBD * 0x10000 + 0xA) (lowLane ((rdsrForm g d).active i w)) 0) :=
  exec_trapped (exec_rdsr hi hr (.inl hn)) hi.cur (orTrap_privileged _ ha hn)

/-- R8, R372: WRSR of a privileged address that a lane executes. -/
theorem wrsr_privileged (hi : Issuing s i core slot w) (hr : (wrsrForm g a).Ready s.chip i w) (ha : (wrsrForm g a).active i w ≠ 0)
    (hn : 0x400 ≤ addr.toNat) :
    exec (.wrsr g addr a) s = .next (s.trapped i (0x06000000 + 0xBE * 0x10000 + 0xA) (lowLane ((wrsrForm g a).active i w)) 0) :=
  exec_trapped (exec_wrsr hi hr (.inl hn)) hi.cur (orTrap_privileged _ ha hn)

/-- A meaning that leaves its warp's registers passes on and changes nothing else. -/
theorem exec_passes {k : Instr} {F : Issue → Chip → Except Stop Chip} {f : Form} (hi : Issuing s i core slot w)
    (hk : exec k s = runIssue s F) (hF : F i s.chip = finish i (f.prepared i core slot w) w s.chip) :
    ∃ w', exec k s = .next { s with chip := s.chip.setWarp core slot (some w') } ∧ w.Passed w' i ∧ { w' with lanes := w.lanes } = w :=
  ⟨_, hk.trans (runIssue_ok hi.cur (hF.trans (finish_eq i _ w s.chip hi.eng))), fun l => Warp.lane_onLanes w _ _ l, rfl⟩

/-- R51: WRSR that no lane executes. -/
theorem wrsrWork_idle {c : Chip} (ha : (wrsrForm g a).active i w = 0) :
    wrsrWork addr a i ((wrsrForm g a).prepared i core slot w) c = finish i ((wrsrForm g a).prepared i core slot w) w c :=
  if_pos ha

/-- R83: RDSR's work, once no operation has still to set a bit of SR.FPSTAT. -/
theorem rdsrWork_eq {p : Prep} {c : Chip} (hb : addr = 0x020 → c.bitsDue i = false) :
    rdsrWork d addr i p c = finish i p (p.write d.toNat 2 (fun l => (c.srRead p.core p.slot p.w l addr.toNat).getD 0)) c :=
  if_neg (by simpa using hb)

/-- R51: without an executing lane, and with no helper lanes, nothing is written. -/
theorem write_idle {f : Form} {n m : Nat} {v : Nat → Nat} (hq : f.hq = false) (ha : f.active i w = 0) :
    (f.prepared i core slot w).write n m v = w := by
  have hwr : f.reached i w = 0 := by
    simp only [Form.reached, Form.helping, hq, ha, Bool.false_eq_true, if_false, lanesOf_zero, List.filter_nil, maskOf]; rfl
  simp only [Prep.write, Form.prepared, ha, hwr, lanesOf_zero, writeEach, if_true, ite_self]

/-- R51: RDSR that no lane executes. -/
theorem rdsrWork_idle {c : Chip} (ha : (rdsrForm g d).active i w = 0) (hb : addr = 0x020 → c.bitsDue i = false) :
    rdsrWork d addr i ((rdsrForm g d).prepared i core slot w) c = finish i ((rdsrForm g d).prepared i core slot w) w c := by
  rw [rdsrWork_eq hb, write_idle rfl ha]

/-- R371, R83: RDSR of an assigned register. -/
theorem specialRegisterRead : SpecialRegisterRead := by
  intro g d addr s i core slot w f hi hr hb ha
  have ha : Assigned addr.toNat := ha.elim (fun h => (srRead_isSome _ _ _ _ _ _).1 h.2) id
  refine ⟨fun l => (s.chip.srRead core slot w l addr.toNat).getD 0, fun l => ?_, ?_⟩
  · obtain ⟨v, hv⟩ := Option.isSome_iff_exists.1 ((srRead_isSome s.chip core slot w l addr.toNat).2 ha)
    simp only [hv, Option.getD_some]
  · refine ⟨_, (exec_rdsr hi hr (.inr ha)).trans (runIssue_ok hi.cur ?_), wrote_write f i core slot w d 2 _ rfl⟩
    exact (orTrap_work _ (.inl ha.lt)).trans ((rdsrWork_eq hb).trans (finish_eq i _ _ s.chip hi.eng))

/-- R8, R51, R372: privileged addresses, and words that no lane executes. -/
theorem specialRegisterGuard : SpecialRegisterGuard := by
  intro g a d addr s i core slot w hi
  refine ⟨fun hr ha hn => rdsr_privileged hi hr ha hn, ?_⟩
  intro k f hmem hr hact hb ha
  simp only [List.mem_cons, Prod.mk.injEq, List.not_mem_nil, or_false] at hmem
  rcases hmem with ⟨rfl, rfl⟩ | ⟨rfl, rfl⟩
  · exact exec_passes hi (exec_wrsr hi hr ha) ((orTrap_work _ (.inr hact)).trans (wrsrWork_idle hact))
  · exact exec_passes hi (exec_rdsr hi hr ha) ((orTrap_work _ (.inr hact)).trans (rdsrWork_idle hact hb))

/-- R13, R14, R82, R218, R365, R390: the registers' values, by the table of R371. -/
theorem specialRegisterValues : SpecialRegisterValues :=
  fun _ _ _ _ _ => ⟨rfl, rfl, rfl, rfl, rfl, rfl, rfl, rfl, rfl⟩

/-- The value that WRSR writes: the pair A, A+1 of the lowest executing lane. -/
def wrsrValue (g : Guard) (a : Reg) (i : Issue) (w : Warp) : Nat := w.regs a.toNat (lowLane ((wrsrForm g a).active i w)) 2

/-- What WRSR of an assigned register does in an executing lane. -/
theorem exec_wrsr_assigned (hi : Issuing s i core slot w) (hr : (wrsrForm g a).Ready s.chip i w) (ha : (wrsrForm g a).active i w ≠ 0)
    (hn : Assigned addr.toNat) :
    exec (.wrsr g addr a) s = runIssue s (fun i c => match c.srWrite core slot addr.toNat (wrsrValue g a i w) with
      | none => .error (laneTrap i (syndrome 6 (opReason 0xBE 9)) (lowLane ((wrsrForm g a).active i w)) 0)
      | some c1 =>
        if 0x0C0 ≤ addr.toNat && !w.handler then
          .error (laneTrap i (syndrome 6 (opReason 0xBE 0xB)) (lowLane ((wrsrForm g a).active i w)) 0)
        else .ok (c1.advance i)) :=
  exec_congr (exec_wrsr hi hr (.inr hn)) hi.cur ((orTrap_work _ (.inl hn.lt)).trans (if_neg ha))

/-- R371: a register without a field to write is PROTECTION, reason 9. -/
theorem wrsr_unwritable (hi : Issuing s i core slot w) (hr : (wrsrForm g a).Ready s.chip i w) (ha : (wrsrForm g a).active i w ≠ 0)
    (hn : Assigned addr.toNat) (hv : s.chip.srWrite core slot addr.toNat (wrsrValue g a i w) = none) :
    exec (.wrsr g addr a) s = .next (s.trapped i (0x06000000 + 0xBE * 0x10000 + 9) (lowLane ((wrsrForm g a).active i w)) 0) :=
  exec_trapped (exec_wrsr_assigned hi hr ha hn) hi.cur (by simp only [hv]; rfl)

/-- R365: a trap register outside handler mode is PROTECTION, reason 0xB. -/
theorem wrsr_outside_handler (hi : Issuing s i core slot w) (hr : (wrsrForm g a).Ready s.chip i w) (ha : (wrsrForm g a).active i w ≠ 0)
    (hn : Assigned addr.toNat) {c : Chip} (hv : s.chip.srWrite core slot addr.toNat (wrsrValue g a i w) = some c) (hc : 0x0C0 ≤ addr.toNat)
    (hh : w.handler = false) :
    exec (.wrsr g addr a) s = .next (s.trapped i (0x06000000 + 0xBE * 0x10000 + 0xB) (lowLane ((wrsrForm g a).active i w)) 0) :=
  exec_trapped (exec_wrsr_assigned hi hr ha hn) hi.cur (by simp only [hv, hc, hh, decide_true, Bool.not_false, Bool.and_self, if_true]; rfl)

/-- R371: a register that is written: the warp that the write leaves passes on. -/
theorem wrsr_writes (hi : Issuing s i core slot w) (hr : (wrsrForm g a).Ready s.chip i w) (ha : (wrsrForm g a).active i w ≠ 0)
    (hn : Assigned addr.toNat) {c : Chip} {w1 : Warp} (hv : s.chip.srWrite core slot addr.toNat (wrsrValue g a i w) = some c)
    (hh : 0x0C0 ≤ addr.toNat → w.handler = true) (hw : c.warp core slot = some w1) :
    ∃ w', exec (.wrsr g addr a) s = .next { s with chip := c.setWarp core slot (some w') } ∧ w1.Passed w' i
      ∧ { w' with lanes := w1.lanes } = w1 := by
  obtain ⟨w', hadv, hpass, hrest⟩ := advance_warp c i core slot w1 hi.eng hw
  have hg : (decide (0x0C0 ≤ addr.toNat) && !w.handler) = false := by simpa using hh
  exact ⟨w', (exec_wrsr_assigned hi hr ha hn).trans (runIssue_ok hi.cur (by simp only [hv, hg, Bool.false_eq_true, if_false, hadv])), hpass, hrest⟩

/-- R82: a write of SR.FPSTAT. -/
theorem srWrite_fpstat (hw : s.chip.warp core slot = some w) (v : Nat) :
    s.chip.srWrite core slot 0x020 v = some (s.chip.setWarp core slot (some { w with fpstat := w.fpstat &&& ~~~BitVec.ofNat 5 v })) := by
  simp only [Chip.srWrite, hw]

/-- R274: a core's matrix engine as a write of SR.MSTAT by a warp leaves it. -/
def mstatWritten (c : Chip) (core : Nat) (w : Warp) (v : Nat) : Mat :=
  if c.declared w false then { (c.core core).mat with mstat := (c.core core).mat.mstat &&& ~~~BitVec.ofNat 6 v } else (c.core core).mat

/-- R274: a write of SR.MSTAT. -/
theorem srWrite_mstat (hw : s.chip.warp core slot = some w) (v : Nat) :
    s.chip.srWrite core slot 0x021 v
      = some (if s.chip.declared w false then s.chip.setMat core (mstatWritten s.chip core w v) else s.chip) := by
  simp only [Chip.srWrite, hw, mstatWritten]
  split <;> rfl

/-- R365: the trap registers as a write of `v` leaves them, at the three addresses that have a field to write. -/
def trapWritten (n v : Nat) (t : TrapRegs) : Option TrapRegs :=
  if n = 0x0C0 then some { t with pc := BitVec.ofNat 64 v }
  else if n = 0x0C1 then some { t with idx := BitVec.ofNat 5 v }
  else if n = 0x0C2 then some { t with ent := v.testBit 0, abandon := v.testBit 3 }
  else none

/-- R365: a write of any register but SR.FPSTAT and SR.MSTAT is one of the trap registers. -/
theorem srWrite_trap (hw : s.chip.warp core slot = some w) (v : Nat) {n : Nat} (h : n ≠ 0x020 ∧ n ≠ 0x021) :
    s.chip.srWrite core slot n v = (trapWritten n v w.tr).map (fun t => s.chip.setWarp core slot (some { w with tr := t })) := by
  simp only [Chip.srWrite, hw, trapWritten]
  split
  · exact absurd rfl h.1
  · exact absurd rfl h.2
  · rfl
  · rfl
  · rfl
  · rename_i h0 h1 h2
    rw [if_neg h0, if_neg h1, if_neg h2]; rfl

/-- R82: WRSR of SR.FPSTAT clears the bits written with ones. -/
theorem wrsr_fpstat (hi : Issuing s i core slot w) (hr : (wrsrForm g a).Ready s.chip i w) (ha : (wrsrForm g a).active i w ≠ 0) :
    ∃ w', exec (.wrsr g 0x020 a) s = .next { s with chip := s.chip.setWarp core slot (some w') } ∧ w.Passed w' i
      ∧ w'.fpstat = w.fpstat &&& ~~~BitVec.ofNat 5 (wrsrValue g a i w) ∧ { w' with lanes := w.lanes, fpstat := w.fpstat } = w := by
  obtain ⟨w', he, hp, hrest⟩ := wrsr_writes hi hr ha assigned_fpstat (srWrite_fpstat hi.warp _) (fun h => absurd h (by decide))
    (Chip.warp_setWarp_same _ _ _ _)
  rw [Chip.setWarp_setWarp] at he
  exact ⟨w', he, hp, congrArg Warp.fpstat hrest, congrArg (fun x : Warp => { x with fpstat := w.fpstat }) hrest⟩

/-- R365: in handler mode a trap register is written. -/
theorem wrsr_trap_register (hi : Issuing s i core slot w) (hr : (wrsrForm g a).Ready s.chip i w) (ha : (wrsrForm g a).active i w ≠ 0)
    (hn : addr.toNat = 0x0C0 ∨ addr.toNat = 0x0C1 ∨ addr.toNat = 0x0C2) {t : TrapRegs}
    (ht : trapWritten addr.toNat (wrsrValue g a i w) w.tr = some t) (hh : w.handler = true) :
    ∃ w', exec (.wrsr g addr a) s = .next { s with chip := s.chip.setWarp core slot (some w') } ∧ w.Passed w' i ∧ w'.tr = t
      ∧ { w' with lanes := w.lanes, tr := w.tr } = w := by
  obtain ⟨w', he, hp, hrest⟩ := wrsr_writes hi hr ha (assigned_trap (n := addr.toNat) (by omega))
    ((srWrite_trap hi.warp _ (by omega)).trans (by rw [ht]; rfl)) (fun _ => hh) (Chip.warp_setWarp_same _ _ _ _)
  rw [Chip.setWarp_setWarp] at he
  exact ⟨w', he, hp, congrArg Warp.tr hrest, congrArg (fun x : Warp => { x with tr := w.tr }) hrest⟩

/-- R82, R365, R371, R372: WRSR of the sticky bits, of the trap registers, of a privileged address. -/
theorem specialRegisterWrite : SpecialRegisterWrite := by
  intro g a addr s i core slot w f v hi hr ha
  refine ⟨?_, fun hh tr hmem => ?_, fun hh hn => ?_, fun hn => wrsr_privileged hi hr ha hn⟩
  · rintro rfl
    exact wrsr_fpstat hi hr ha
  · simp only [List.mem_cons, Prod.mk.injEq, List.not_mem_nil, or_false] at hmem
    rcases hmem with ⟨rfl, rfl⟩ | ⟨rfl, rfl⟩ | ⟨rfl, rfl⟩
    · exact wrsr_trap_register hi hr ha (.inl rfl) rfl hh
    · exact wrsr_trap_register hi hr ha (.inr (.inl rfl)) rfl hh
    · exact wrsr_trap_register hi hr ha (.inr (.inr rfl)) rfl hh
  · have hn : addr.toNat = 0x0C0 ∨ addr.toNat = 0x0C1 ∨ addr.toNat = 0x0C2 :=
      hn.imp (congrArg BitVec.toNat) (Or.imp (congrArg BitVec.toNat) (congrArg BitVec.toNat))
    obtain ⟨t, ht⟩ : ∃ t, trapWritten addr.toNat (wrsrValue g a i w) w.tr = some t := by
      rcases hn with h | h | h <;> exact ⟨_, by rw [h]; rfl⟩
    exact wrsr_outside_handler hi hr ha (assigned_trap (by omega))
      ((srWrite_trap hi.warp _ (by omega)).trans (by rw [ht]; rfl)) (by omega) hh

/-- A core that holds a warp is not the core with nothing on it. -/
theorem core_ne_zero {c : Chip} (hw : c.warp core slot = some w) : c.core core ≠ Core.zero := by
  intro h
  have : (none : Option Warp) = some w := by rw [← hw, Chip.warp, h]; rfl
  cases this

/-- A matrix engine left as it is beside a warp that is replaced. -/
theorem setMat_setWarp_self {c : Chip} (hw : c.warp core slot = some w) (w' : Warp) :
    (c.setMat core (c.core core).mat).setWarp core slot (some w') = c.setWarp core slot (some w') := by
  have hz := Core.ne_zero_of_warp (c.core core) slot w'
  unfold Chip.setMat Chip.setWarp
  rw [Chip.core_setCore_same]
  unfold Chip.setCore
  rw [aput_aput _ _ _ _ _ (core_ne_zero hw) hz]

/-- The warps of a core are those they were when its matrix engine is replaced. -/
theorem warp_setMat {c : Chip} (m : Mat) : (c.setMat core m).warp core slot = c.warp core slot := by
  rw [Chip.warp, Chip.setMat, Chip.core_setCore_same]; rfl

/-- R274: WRSR of SR.MSTAT. -/
theorem wrsr_mstat (hi : Issuing s i core slot w) (hr : (wrsrForm g a).Ready s.chip i w) (ha : (wrsrForm g a).active i w ≠ 0) :
    ∃ w', exec (.wrsr g 0x021 a) s = .next { s with
          chip := (s.chip.setMat core (mstatWritten s.chip core w (wrsrValue g a i w))).setWarp core slot (some w') }
      ∧ w.Passed w' i ∧ { w' with lanes := w.lanes } = w := by
  cases hd : s.chip.declared w false with
  | true =>
    exact wrsr_writes hi hr ha assigned_mstat ((srWrite_mstat hi.warp _).trans (congrArg some (if_pos hd))) (fun h => absurd h (by decide))
      ((warp_setMat _).trans hi.warp)
  | false =>
    obtain ⟨w', he, hp, hrest⟩ := wrsr_writes hi hr ha assigned_mstat
      ((srWrite_mstat hi.warp _).trans (congrArg some (if_neg (by simp [hd])))) (fun h => absurd h (by decide)) hi.warp
    rw [← setMat_setWarp_self hi.warp] at he
    exact ⟨w', by rw [mstatWritten, if_neg (by simp [hd])]; exact he, hp, hrest⟩

theorem trapWritten_none {n v : Nat} {t : TrapRegs} (h : n ≠ 0x0C0 ∧ n ≠ 0x0C1 ∧ n ≠ 0x0C2) : trapWritten n v t = none := by
  simp [trapWritten, h]

/-- R82, R274, R365, R371: WRSR of every assigned register. -/
theorem specialRegisterWritten : SpecialRegisterWritten := by
  intro g a addr s i core slot w f v hi hr ha
  refine ⟨?_, fun hn hne => ?_⟩
  · simp only [List.mem_cons, List.not_mem_nil, or_false]
    rintro ((rfl | rfl) | ⟨hn, hh⟩)
    · obtain ⟨w', he, hp, hf, hrest⟩ := wrsr_fpstat hi hr ha
      rw [← setMat_setWarp_self hi.warp] at he
      have ht : w'.tr = w.tr := (congrArg Warp.tr hrest :)
      exact ⟨w', _, he, hp, hf, ht, congrArg (fun x : Warp => { x with tr := w.tr }) hrest, rfl⟩
    · obtain ⟨w', he, hp, hrest⟩ := wrsr_mstat hi hr ha
      have hf : w'.fpstat = w.fpstat := (congrArg Warp.fpstat hrest :)
      have ht : w'.tr = w.tr := (congrArg Warp.tr hrest :)
      refine ⟨w', _, he, hp, hf, ht, congrArg (fun x : Warp => { x with fpstat := w.fpstat, tr := w.tr }) hrest, ?_⟩
      simp [mstatWritten, v, wrsrValue, wrsrForm, f]
    · have htr (t : TrapRegs) (hn : addr.toNat = 0x0C0 ∨ addr.toNat = 0x0C1 ∨ addr.toNat = 0x0C2)
          (ht : trapWritten addr.toNat (wrsrValue g a i w) w.tr = some t) :
          ∃ w', exec (.wrsr g addr a) s = .next { s with chip := (s.chip.setMat core (s.chip.core core).mat).setWarp core slot (some w') }
            ∧ w.Passed w' i ∧ w'.fpstat = w.fpstat ∧ w'.tr = t ∧ { w' with lanes := w.lanes, fpstat := w.fpstat, tr := w.tr } = w := by
        obtain ⟨w', he, hp, htr, hrest⟩ := wrsr_trap_register hi hr ha hn ht hh
        rw [← setMat_setWarp_self hi.warp] at he
        exact ⟨w', he, hp, (congrArg Warp.fpstat hrest :), htr, congrArg (fun x : Warp => { x with fpstat := w.fpstat }) hrest⟩
      rcases hn with rfl | rfl | rfl
      · obtain ⟨w', he, hp, hf, ht, hrest⟩ := htr _ (.inl rfl) rfl
        exact ⟨w', _, he, hp, hf, ht, hrest, rfl⟩
      · obtain ⟨w', he, hp, hf, ht, hrest⟩ := htr _ (.inr (.inl rfl)) rfl
        exact ⟨w', _, he, hp, hf, ht, hrest, rfl⟩
      · obtain ⟨w', he, hp, hf, ht, hrest⟩ := htr _ (.inr (.inr rfl)) rfl
        exact ⟨w', _, he, hp, hf, ht, hrest, rfl⟩
  · simp only [List.mem_cons, List.not_mem_nil, or_false, not_or, ← BitVec.toNat_inj] at hne
    obtain ⟨h0, h1, -, h2, h3, h4⟩ := hne
    exact wrsr_unwritable hi hr ha hn ((srWrite_trap hi.warp _ ⟨h0, h1⟩).trans (by rw [trapWritten_none ⟨h2, h3, h4⟩]; rfl))

end

/-- Settles O9: what RDSR and WRSR answer at each kind of address. -/
theorem specialRegisters : Obligations.SpecialRegisters :=
  ⟨specialRegisterRead, specialRegisterValues, specialRegisterWrite, specialRegisterWritten, specialRegisterGuard⟩

end Sys2Proof.Proofs
end

section
/-! PROOF. The host port (O49): what its accesses leave of the slices, the bytes that they reach, the registers, the errors that it records. -/

namespace Sys2Proof.Proofs

open Sys2Proof Sys2Proof.Machine Sys2Proof.Claims

/-! ### Home slices -/

/-- A chip without what its home slices keep of the lines that pass through them (R126-R129). -/
def noSlices (c : Chip) : Chip := { c with detectors := [], stats := [], dir := [], staged := [], sliceWaits := [] }

theorem sliceAlloc_noSlices (c : Chip) (s line : Nat) (res : Bool) : noSlices (c.sliceAlloc s line res) = noSlices c := by
  unfold Chip.sliceAlloc
  simp only
  split
  · rfl
  · split
    · rfl
    · split <;> rfl

theorem sliceFill_noSlices (c : Chip) (s line pol : Nat) : noSlices (c.sliceFill s line pol) = noSlices c := by
  unfold Chip.sliceFill
  split
  · exact sliceAlloc_noSlices ..
  · split
    · exact sliceAlloc_noSlices ..
    · exact sliceAlloc_noSlices ..

theorem stat_noSlices (c : Chip) (s k : Nat) : noSlices (c.stat s k) = noSlices c := rfl

theorem unwait_noSlices (c : Chip) (s requester line : Nat) : noSlices (c.unwait s requester line) = noSlices c := rfl

theorem staged_noSlices (c : Chip) (x : List StagedLine) : noSlices { c with staged := x } = noSlices c := rfl

theorem stage_noSlices (c : Chip) (s requester line : Nat) : noSlices (c.stage s requester line) = noSlices c :=
  (staged_noSlices _ _).trans ((unwait_noSlices _ s requester line).trans (stat_noSlices c s 3))

theorem dir_noSlices (c : Chip) (x : List SliceLine) : noSlices { c with dir := x } = noSlices c := rfl

theorem sliceHit_noSlices (c : Chip) (s line : Nat) : noSlices (c.sliceHit s line) = noSlices c :=
  (dir_noSlices _ _).trans (stat_noSlices c s 1)

theorem detected_noSlices (c : Chip) (requester line : Nat) : noSlices (c.detected requester line).2 = noSlices c := rfl

/-- R126-R129: a read at a home slice changes what the slices keep alone. -/
theorem sliceServe_noSlices {c c' : Chip} {requester line pol : Nat} {waits : Bool} (h : c.sliceServe requester line pol waits = some c') :
    noSlices c' = noSlices c := by
  have hd := detected_noSlices c requester line
  unfold Chip.sliceServe at h
  generalize c.detected requester line = d at h hd
  obtain ⟨mark, c1⟩ := d
  dsimp only at h hd
  split_ifs at h <;> obtain rfl := Option.some.inj h <;>
    simp only [stat_noSlices, unwait_noSlices, stage_noSlices, sliceHit_noSlices, sliceFill_noSlices, hd]

theorem sliceTouch_noSlices (c : Chip) (requester line pol : Nat) : noSlices (c.sliceTouch requester line pol) = noSlices c := by
  unfold Chip.sliceTouch
  cases h : c.sliceServe requester line pol false with
  | none => rfl
  | some c' => exact sliceServe_noSlices h

theorem touchRange_noSlices (c : Chip) (requester : Nat) (parts : List (Nat × Nat)) : noSlices (c.touchRange requester parts) = noSlices c := by
  unfold Chip.touchRange
  induction parts generalizing c with
  | nil => rfl
  | cons p ps ih => exact (ih _).trans (sliceTouch_noSlices ..)

/-- R126-R129: a port's write at a home slice changes what the slices keep alone. -/
theorem sliceWrite_noSlices (c : Chip) (requester line pol : Nat) (full : Bool) :
    noSlices (c.sliceWrite (some requester) line pol full) = noSlices c := by
  have hd := detected_noSlices c requester line
  unfold Chip.sliceWrite
  dsimp only
  generalize c.detected requester line = d at hd ⊢
  obtain ⟨mark, c1⟩ := d
  dsimp only at hd ⊢
  split_ifs <;> simp only [stat_noSlices, stage_noSlices, sliceHit_noSlices, sliceFill_noSlices, hd]

theorem storeRange_noSlices (c : Chip) (requester : Nat) (parts : List (Nat × Nat)) : noSlices (c.storeRange requester parts) = noSlices c := by
  unfold Chip.storeRange
  induction parts generalizing c with
  | nil => rfl
  | cons p ps ih => exact (ih _).trans (sliceWrite_noSlices ..)

/-! ### Reads -/

/-- R154, R155: a read that brings bytes. -/
theorem hostRead_some {s : State} {bar addr n : Nat} {bs : List Byte} (hd : ¬ (bar = 2 ∧ n = 8 ∧ (doorbellAt addr).isSome ∧ s.chip.running))
    (h : hostRead s bar addr n = some bs) :
    ∃ c, exec (.hostMemoryRead bar addr n) s = .next { s with chip := c.completion bs } ∧ noSlices c = noSlices s.chip
      ∧ (bar ≠ 4 → bar ≠ 6 → c = s.chip) := by
  refine ⟨if bar = 4 then s.chip.touchRange hostRequester (lineParts addr n)
    else if bar = 6 then s.chip.touchRange hostRequester ((lineParts (2 ^ 40 + addr) n).map (fun (p : Nat × Nat) => (devPa p.1, p.2)))
    else s.chip, ?_, ?_, fun h4 h6 => by rw [if_neg h4, if_neg h6]⟩
  · show execHostMemoryRead bar addr n s = _
    simp only [execHostMemoryRead, runChip, if_neg hd, h]
  · split
    · exact touchRange_noSlices ..
    · split
      · exact touchRange_noSlices ..
      · rfl

/-- R154: a read that no unit answers. -/
theorem hostRead_none {s : State} {bar addr n : Nat} (hd : ¬ (bar = 2 ∧ n = 8 ∧ (doorbellAt addr).isSome ∧ s.chip.running))
    (h : hostRead s bar addr n = none) : exec (.hostMemoryRead bar addr n) s = .next (refusedByPort s) := by
  show execHostMemoryRead bar addr n s = _
  simp only [execHostMemoryRead, runChip, if_neg hd, h]
  rfl

/-- R154, R155: a read of HBM through BAR4. -/
theorem hostRead_memory {s : State} (hr : s.chip.running = true) (addr n : Nat) :
    hostRead s 4 addr n = if 2 ^ 40 < addr + n || !rangeExists addr n then none else some (agetN 0 s.chip.mem addr n) := by
  rw [hostRead, if_neg (by decide), if_neg (by simp [hr]), if_neg (by decide), if_pos rfl]

/-- R154, R158: a read of the weight tier through BAR6. -/
theorem hostRead_weights {s : State} (hr : s.chip.running = true) (addr n : Nat) :
    hostRead s 6 addr n = if s.chip.priv.hfill.getLsbD 0 then
      (if 2 ^ 40 < addr + n || !rangeExists (2 ^ 40 + addr) n then none else some (agetN 0 s.chip.mem (2 ^ 40 + addr) n)) else none := by
  rw [hostRead, if_neg (by decide), if_neg (by simp [hr]), if_neg (by decide), if_neg (by decide)]
  simp only [true_and]

/-- R154: a read of a privileged register through BAR2. -/
theorem hostRead_register {s : State} (hr : s.chip.running = true) {a : Nat} (ha : a < 0x80000) :
    hostRead s 2 (8 * a) 8 = (s.chip.privRead s.life a).map (bytesOf 8) := by
  rw [hostRead, if_neg (by decide), if_neg (by simp [hr]), if_pos rfl, bar2Read, if_neg (by omega), if_pos ⟨by omega, rfl⟩,
    Nat.mul_div_cancel_left a (by decide)]

/-- R405: the part's state word through BAR0. -/
theorem hostRead_stateWord (s : State) : hostRead s 0 0 8 = some (bytesOf 8 s.life.word) := rfl

/-- R154: a part that has not passed self-test answers through BAR0 alone. -/
theorem hostRead_idle {s : State} (hr : s.chip.running = false) {bar : Nat} (hb : bar ≠ 0) (addr n : Nat) : hostRead s bar addr n = none := by
  rw [hostRead, if_neg hb, if_pos (by simp [hr])]

/-- R154: no doorbell lies below them. -/
theorem doorbellAt_none {a : Nat} (h : a < 0x800000) : doorbellAt a = none := if_neg (by omega)

/-- R154, R155, R405: what the host reads through each BAR. -/
theorem hostReads : HostReads := by
  intro s addr n
  refine ⟨fun hr ha he => ?_, fun hr hf ha he => ?_, fun hr hf => ?_, fun hr he => ?_, fun v hr ha hv => ?_, ?_, fun hr => ⟨?_, ?_⟩⟩
  · obtain ⟨c, hx, hc, -⟩ := hostRead_some (by omega) ((hostRead_memory hr addr n).trans (if_neg (by simp [he]; omega)))
    exact ⟨_, hx, congrArg (fun x : Chip => x.hostOut ++ [.data (agetN 0 s.chip.mem addr n)]) hc, (congrArg Chip.mem hc :),
      (congrArg Chip.cores hc :)⟩
  · obtain ⟨c, hx, hc, -⟩ := hostRead_some (by omega) ((hostRead_weights hr addr n).trans ((if_pos hf).trans (if_neg (by rw [he]; simp; omega))))
    exact ⟨_, hx, congrArg (fun x : Chip => x.hostOut ++ [.data (agetN 0 s.chip.mem (2 ^ 40 + addr) n)]) hc, (congrArg Chip.mem hc :)⟩
  · exact hostRead_none (by omega) ((hostRead_weights hr addr n).trans (if_neg (by rw [hf]; simp)))
  · exact hostRead_none (by omega) ((hostRead_memory hr addr n).trans (if_pos (by simp [he])))
  · obtain ⟨c, hx, -, hc⟩ := hostRead_some (s := s) (bar := 2) (addr := 8 * (0x400 + addr)) (n := 8)
      (by simp [doorbellAt_none (show 8 * (0x400 + addr) < 0x800000 by omega)]) ((hostRead_register hr (by omega)).trans (by rw [hv]; rfl))
    rw [hc (by decide) (by decide)] at hx
    exact hx
  · obtain ⟨c, hx, -, hc⟩ := hostRead_some (by omega) (hostRead_stateWord s)
    rw [hc (by decide) (by decide)] at hx
    exact hx
  · exact hostRead_none (by omega) (hostRead_idle hr (by decide) addr n)
  · exact hostRead_none (by simp [hr]) (hostRead_idle hr (by decide) addr n)

/-! ### Bytes -/

/-- The byte at a place of the number that bytes spell. -/
theorem natOfBytes_byte (bs : List Byte) (k : Nat) : natOfBytes bs / 256 ^ k % 256 = (bs.getD k 0).toNat := by
  induction bs generalizing k with
  | nil => simp [natOfBytes]
  | cons b bs ih =>
    have hb := b.isLt
    cases k with
    | zero => simp [natOfBytes]; omega
    | succ k =>
      rw [natOfBytes, pow_succ', ← Nat.div_div_eq_div_mul, show (b.toNat + 256 * natOfBytes bs) / 256 = natOfBytes bs by omega, ih]
      simp

/-- A field of a number that fits a width, read from the number cut to that width. -/
theorem ofNat_field {w x a b : Nat} (h : a + b ≤ w) : (BitVec.ofNat w x).toNat / 2 ^ a % 2 ^ b = x / 2 ^ a % 2 ^ b := by
  obtain ⟨e, rfl⟩ := Nat.exists_eq_add_of_le h
  rw [BitVec.toNat_ofNat, Nat.add_assoc, pow_add, Nat.mod_mul_right_div_self, Nat.mod_mod_of_dvd _ (pow_dvd_pow 2 (by omega))]

/-- A byte of a line that holds some bytes from one of its places on. -/
theorem lineByte_placed (bs : List Byte) {o j : Nat} (ho : o ≤ j) (hj : j < 64) :
    lineByte (BitVec.ofNat 512 (natOfBytes bs * 2 ^ (8 * o))) j = bs.getD (j - o) 0 := by
  obtain ⟨k, rfl⟩ := Nat.exists_eq_add_of_le ho
  have hplace : 2 ^ (8 * (o + k)) = 2 ^ (8 * o) * 256 ^ k := by rw [Nat.mul_add, pow_add, pow_mul 2 8 k]; rfl
  apply BitVec.eq_of_toNat_eq
  rw [lineByte, BitVec.extractLsb'_toNat, Nat.shiftRight_eq_div_pow, ofNat_field (by omega), Nat.add_sub_cancel_left, ← natOfBytes_byte, hplace,
    ← Nat.div_div_eq_div_mul, Nat.mul_div_cancel _ (by positivity)]
  rfl

/-- The bit of a byte in the mask of `n` bytes from a place on. -/
theorem placedMask_bit {n o : Nat} (h : o + n ≤ 64) (j : Nat) :
    (BitVec.ofNat 64 ((2 ^ n - 1) * 2 ^ o)).toNat.testBit j = decide (o ≤ j ∧ j < o + n) := by
  rw [BitVec.testBit_toNat, BitVec.getLsbD_ofNat, Nat.testBit_mul_two_pow, Nat.testBit_two_pow_sub_one, Bool.eq_iff_iff]
  simp
  omega

/-- A chip without its memory and what its home slices keep of its lines: their marks and multicast entries. -/
def noMemory (c : Chip) : Chip := { c with mem := [], pois := [], mc := [] }

/-- Bytes that a unit or port writes in one line of the part's memory at `pa`, R351: of no ring's control block. -/
theorem homeWrite_placed (c : Chip) (pa : Nat) (bs : List Byte) (cid : Option DWord) (hl : pa % 64 + bs.length ≤ 64)
    (ht : tierOf (lineOf pa) ≠ 2) (hr : c.ringAt (lineOf pa) = none) :
    let c' := c.homeWrite (lineOf pa) (BitVec.ofNat 64 ((2 ^ bs.length - 1) * 2 ^ (pa % 64)))
      (BitVec.ofNat 512 (natOfBytes bs * 2 ^ (8 * (pa % 64)))) false cid
    noMemory c' = noMemory c ∧ ∀ a, aget 0 c'.mem a = aget 0 (aputN 0 c.mem (pa % 2 ^ 64) bs) a := by
  have hmem : ∀ a, aget 0 (writeMasked (BitVec.ofNat 64 ((2 ^ bs.length - 1) * 2 ^ (pa % 64))).toNat
      (BitVec.ofNat 512 (natOfBytes bs * 2 ^ (8 * (pa % 64)))) (lineOf pa % 2 ^ 64) 64 0 c.mem) a = aget 0 (aputN 0 c.mem (pa % 2 ^ 64) bs) a := by
    intro a
    have hb : lineOf pa % 2 ^ 64 + pa % 64 = pa % 2 ^ 64 := by unfold lineOf; omega
    rw [aget_writeMasked, aget_aputN, placedMask_bit hl]
    by_cases h : pa % 2 ^ 64 ≤ a ∧ a < pa % 2 ^ 64 + bs.length
    · rw [if_pos ⟨by omega, by omega, by simp; omega⟩, if_pos h, lineByte_placed bs (by omega) (by omega)]
      congr 1; omega
    · rw [if_neg (by simp; omega), if_neg h]
  unfold Chip.homeWrite
  by_cases hz : BitVec.ofNat 64 ((2 ^ bs.length - 1) * 2 ^ (pa % 64)) = 0
  · simp only [if_pos hz]
    refine ⟨trivial, fun a => ?_⟩
    rw [← hmem a, hz, aget_writeMasked]
    simp
  · simp only [if_neg hz, if_neg ht, hr]
    exact ⟨rfl, hmem⟩

/-! ### Ranges of bytes -/

/-- Pieces that lie one after another from an offset on, each within a line. -/
def Chain : Nat → List (Nat × Nat) → Prop
  | _, [] => True
  | a, (pa, n) :: r => pa % 2 ^ 64 = a ∧ pa % 64 + n ≤ 64 ∧ Chain (a + n) r

/-- R351: lines of the part's own memory with no ring's control block. -/
def Plain (c : Chip) (parts : List (Nat × Nat)) : Prop := ∀ p ∈ parts, tierOf (lineOf p.1) ≠ 2 ∧ c.ringAt (lineOf p.1) = none

theorem ringAt_congr {c c' : Chip} (h : c'.rings = c.rings) (line : Nat) : c'.ringAt line = c.ringAt line := by
  simp only [Chip.ringAt, h]

theorem plain_congr {c c' : Chip} {parts : List (Nat × Nat)} (h : Plain c parts) (hr : c'.rings = c.rings) : Plain c' parts :=
  fun p hp => ⟨(h p hp).1, (ringAt_congr hr _).trans (h p hp).2⟩

/-- Bytes written in two parts are the bytes written at once. -/
theorem aget_aputN_split {m m' : AMap Byte} {a n : Nat} {bs : List Byte} (h : ∀ k, aget 0 m' k = aget 0 (aputN 0 m a (bs.take n)) k)
    (hn : n ≤ bs.length) (k : Nat) : aget 0 (aputN 0 m' (a + n) (bs.drop n)) k = aget 0 (aputN 0 m a bs) k := by
  rw [aget_aputN, h, aget_aputN, aget_aputN, List.length_drop, List.length_take, Nat.min_eq_left hn]
  by_cases h1 : k < a + n
  · rw [if_neg (by omega)]
    by_cases h2 : a ≤ k
    · rw [if_pos ⟨h2, h1⟩, if_pos ⟨h2, by omega⟩, List.getD_eq_getElem?_getD, List.getElem?_take_of_lt (by omega), ← List.getD_eq_getElem?_getD]
    · rw [if_neg (by omega), if_neg (by omega)]
  · by_cases h2 : k < a + bs.length
    · rw [if_pos (by omega), if_pos (by omega), List.getD_eq_getElem?_getD, List.getElem?_drop, ← List.getD_eq_getElem?_getD]
      congr 1; omega
    · rw [if_neg (by omega), if_neg (by omega), if_neg (by omega)]

/-- R155: bytes written at their homes piece by piece, as one write of the range. -/
theorem hostStore_chain (parts : List (Nat × Nat)) (bs : List Byte) (c : Chip) (a : Nat) (hc : Chain a parts)
    (hn : (parts.map (fun p => p.2)).sum = bs.length) (hp : Plain c parts) :
    noMemory (hostStore parts bs c) = noMemory c ∧ ∀ k, aget 0 (hostStore parts bs c).mem k = aget 0 (aputN 0 c.mem a bs) k := by
  induction parts generalizing bs c a with
  | nil =>
    obtain rfl : bs = [] := by simpa using hn.symm
    exact ⟨rfl, fun _ => rfl⟩
  | cons p r ih =>
    obtain ⟨pa, n⟩ := p
    obtain ⟨rfl, hl, hc⟩ := hc
    rw [List.map_cons, List.sum_cons] at hn
    have hlen : (bs.take n).length = n := by rw [List.length_take]; omega
    obtain ⟨he, hm⟩ := homeWrite_placed c pa (bs.take n) none (by omega) (hp (pa, n) (by simp)).1 (hp (pa, n) (by simp)).2
    rw [hlen] at he hm
    rw [hostStore]
    generalize c.homeWrite _ _ _ _ _ = c1 at he hm ⊢
    have hrings : c1.rings = c.rings := (congrArg Chip.rings he :)
    obtain ⟨he', hm'⟩ := ih (bs.drop n) c1 _ hc (by rw [List.length_drop]; omega) (plain_congr (fun q hq => hp q (by simp [hq])) hrings)
    refine ⟨he'.trans he, fun k => ?_⟩
    exact (hm' k).trans (aget_aputN_split hm (by omega) k)

/-- The piece of a range of `n` bytes from `a` on in its `k`th line, moved by `g`. -/
def linePart (a n : Nat) (g : Nat → Nat) (k : Nat) : Nat × Nat :=
  (g (max a ((a / 64 + k) * 64) % 2 ^ 64), min (a + n) ((a / 64 + k + 1) * 64) - max a ((a / 64 + k) * 64))

theorem map_lineParts (a n : Nat) (g : Nat → Nat) :
    (lineParts a n).map (fun p => (g p.1, p.2)) = (List.range' 0 ((a % 64 + n + 63) / 64)).map (linePart a n g) := by
  rw [lineParts, List.map_map, List.range_eq_range']; rfl

section
variable {a n : Nat} {g : Nat → Nat}

/-- The pieces of a range from its `k`th line on lie one after another. -/
theorem linePart_chain (h : a + n < 2 ^ 64) (hg : ∀ x, a ≤ x → x ≤ a + n → g x % 2 ^ 64 = x) (j : Nat) :
    ∀ k b, k + j = (a % 64 + n + 63) / 64 → (j = 0 ∨ b = max a ((a / 64 + k) * 64)) →
      Chain b ((List.range' k j).map (linePart a n g))
      ∧ (((List.range' k j).map (linePart a n g)).map (fun p => p.2)).sum = a + n - max a ((a / 64 + k) * 64) := by
  induction j with
  | zero => intro k b hk _; exact ⟨trivial, by simp; omega⟩
  | succ j ih =>
    intro k b hk hb
    obtain rfl := hb.resolve_left (by omega)
    have hlo : max a ((a / 64 + k) * 64) ≤ a + n := by omega
    have hmod : max a ((a / 64 + k) * 64) % 2 ^ 64 = max a ((a / 64 + k) * 64) := Nat.mod_eq_of_lt (by omega)
    have hgx := hg (max a ((a / 64 + k) * 64)) (by omega) hlo
    obtain ⟨hc, hs⟩ := ih (k + 1) (max a ((a / 64 + k) * 64) + (min (a + n) ((a / 64 + k + 1) * 64) - max a ((a / 64 + k) * 64))) (by omega)
      (by omega)
    rw [List.range'_succ, List.map_cons, List.map_cons, List.sum_cons, hs]
    refine ⟨⟨?_, ?_, ?_⟩, ?_⟩
    · rw [hmod]; exact hgx
    · rw [hmod]; omega
    · exact hc
    · simp only [linePart]; omega

/-- The pieces of a range, each moved by `g`, lie one after another. -/
theorem lineParts_chain (h : a + n < 2 ^ 64) (hg : ∀ x, a ≤ x → x ≤ a + n → g x % 2 ^ 64 = x) :
    Chain a ((lineParts a n).map (fun p => (g p.1, p.2))) ∧ (((lineParts a n).map (fun p => (g p.1, p.2))).map (fun p => p.2)).sum = n := by
  have hc := linePart_chain h hg _ 0 a (Nat.zero_add _) (.inr (by omega))
  rw [← map_lineParts] at hc
  exact ⟨hc.1, by omega⟩

theorem lineParts_bounds (h : a + n < 2 ^ 64) {p : Nat × Nat} (hp : p ∈ lineParts a n) : a ≤ p.1 ∧ p.1 ≤ a + n := by
  simp only [lineParts, List.mem_map, List.mem_range] at hp
  obtain ⟨k, hk, rfl⟩ := hp
  dsimp only
  omega

end

/-! ### Writes -/

/-- Bytes that stand where a range was written are stored. -/
theorem stored_of_aputN {s t : State} {off : Nat} {bs : List Byte} (h : ∀ k, aget 0 t.chip.mem k = aget 0 (aputN 0 s.chip.mem off bs) k) :
    Stored s t off bs := by
  refine ⟨fun j b hb => ?_, fun a ha => ?_⟩
  · have hj := (List.getElem?_eq_some_iff.1 hb).1
    rw [h, aget_aputN, if_pos (by omega), Nat.add_sub_cancel_left, List.getD_eq_getElem?_getD, hb]; rfl
  · rw [h, aget_aputN, if_neg (by omega)]

theorem tierOf_lineOf {a : Nat} : tierOf (lineOf a) = tierOf a := by unfold tierOf lineOf; omega

/-- R351: a range of HBM with no ring's control block in its lines. -/
theorem noRings_plain {c : Chip} {a n : Nat} (h : NoRings c a n) (ha : a + n ≤ 2 ^ 40) : Plain c (lineParts a n) := fun p hp => by
  have hb := lineParts_bounds (by omega) hp
  exact ⟨by rw [tierOf_lineOf, tierOf]; omega, h p hp⟩

theorem noRings_ringAt_first {c : Chip} {a n : Nat} (h : NoRings c a n) (ha : a + n ≤ 2 ^ 40) (hn : 0 < n) : c.ringAt (lineOf a) = none := by
  have hmem : (max a ((a / 64 + 0) * 64) % 2 ^ 64, min (a + n) ((a / 64 + 0 + 1) * 64) - max a ((a / 64 + 0) * 64)) ∈ lineParts a n :=
    List.mem_map.2 ⟨0, List.mem_range.2 (by omega), rfl⟩
  have hr := h _ hmem
  rwa [show max a ((a / 64 + 0) * 64) % 2 ^ 64 = a by omega] at hr

/-- R351: a write of such a range is no write of a ring's TAIL. -/
theorem noRings_tailAt_none {c : Chip} {a n : Nat} (h : NoRings c a n) (ha : a + n ≤ 2 ^ 40) : c.tailAt a n = none := by
  unfold Chip.tailAt
  split
  · exact noRings_ringAt_first h ha (by omega)
  · rfl

/-- R155, R158: the chip before its memory takes a write of HBM by the host: the home slices are touched, under FILL the frames shared. -/
def hostTouched (c : Chip) (addr n : Nat) : Chip :=
  (if c.priv.hfill.getLsbD 1 then c.shareFrames addr n else c).storeRange hostRequester (lineParts addr n)

theorem hostTouched_keeps (c : Chip) (addr n : Nat) : (hostTouched c addr n).rings = c.rings ∧ (hostTouched c addr n).mem = c.mem := by
  have h := storeRange_noSlices (if c.priv.hfill.getLsbD 1 then c.shareFrames addr n else c) hostRequester (lineParts addr n)
  unfold hostTouched
  cases hf : c.priv.hfill.getLsbD 1 <;> rw [hf] at h <;> exact ⟨(congrArg Chip.rings h :), (congrArg Chip.mem h :)⟩

/-- R155, R158: a write of HBM by the host. -/
theorem exec_hostMemoryWrite {s : State} {addr : Nat} {bytes : List Byte} (hr : s.chip.running = true) (ha : addr + bytes.length ≤ 2 ^ 40)
    (he : rangeExists addr bytes.length = true) (hn : NoRings s.chip addr bytes.length) :
    exec (.hostMemoryWrite addr bytes) s
      = .next { s with chip := hostStore (lineParts addr bytes.length) bytes (hostTouched s.chip addr bytes.length) } := by
  have hg : (!s.chip.running || decide (2 ^ 40 < addr + bytes.length) || !rangeExists addr bytes.length) = false := by
    rw [hr, he]; simp; omega
  show execHostMemoryWrite addr bytes s = _
  simp only [execHostMemoryWrite, runChip, hg, Bool.false_eq_true, if_false, noRings_tailAt_none hn ha, hostTouched]

/-- Bytes stored in the pieces of a range of the part's own memory, from a chip with the same rings and bytes. -/
theorem hostStore_range {c c0 : Chip} {off : Nat} {bytes : List Byte} {g : Nat → Nat} (h : off + bytes.length < 2 ^ 64)
    (hg : ∀ x, off ≤ x → x ≤ off + bytes.length → g x % 2 ^ 64 = x) (hrings : c0.rings = c.rings) (hmem : c0.mem = c.mem)
    (hp : Plain c ((lineParts off bytes.length).map (fun p => (g p.1, p.2)))) :
    let c' := hostStore ((lineParts off bytes.length).map (fun p => (g p.1, p.2))) bytes c0
    noMemory c' = noMemory c0 ∧ ∀ k, aget 0 c'.mem k = aget 0 (aputN 0 c.mem off bytes) k := by
  obtain ⟨hc, hs⟩ := lineParts_chain h hg
  have := hostStore_chain _ bytes c0 off hc hs (plain_congr hp hrings)
  rwa [hmem] at this

/-- R158: the pieces of a fill, at their physical addresses. -/
def fillParts (addr n : Nat) : List (Nat × Nat) := (lineParts (2 ^ 40 + addr) n).map (fun p => (devPa p.1, p.2))

/-- R118: the chip before its memory takes a fill: the poison entries of its lines are cleared, the home slices touched. -/
def fillTouched (c : Chip) (addr n : Nat) : Chip :=
  (c.refill ((fillParts addr n).map (fun p => lineOf p.1))).storeRange hostRequester (fillParts addr n)

/-- R155: a fill of the weight tier by the host. -/
theorem exec_hostFillWrite {s : State} {addr : Nat} {bytes : List Byte} (hr : s.chip.running = true) (hf : s.chip.priv.hfill.getLsbD 0 = true)
    (ha : addr + bytes.length ≤ 2 ^ 40) (he : rangeExists (2 ^ 40 + addr) bytes.length = true) :
    exec (.hostFillWrite addr bytes) s
      = .next { s with chip := hostStore (fillParts addr bytes.length) bytes (fillTouched s.chip addr bytes.length) } := by
  have hg : (!s.chip.running || !s.chip.priv.hfill.getLsbD 0 || decide (2 ^ 40 < addr + bytes.length)
      || !rangeExists (2 ^ 40 + addr) bytes.length) = false := by
    rw [hr, hf, he]; simp; omega
  show execHostFillWrite addr bytes s = _
  unfold execHostFillWrite runChip fillTouched fillParts
  simp only [hg, Bool.false_eq_true, if_false]

theorem devPa_weights {x : Nat} (h : 2 ^ 40 ≤ x) : devPa x = 2 ^ 64 + x := if_neg (by omega)

/-- R351: a fill meets no ring's control block, which stands in HBM. -/
theorem fillParts_plain (c : Chip) {addr n : Nat} (h : addr + n ≤ 2 ^ 40) : Plain c (fillParts addr n) := fun p hp => by
  obtain ⟨q, hq, rfl⟩ := List.mem_map.1 hp
  have hb := lineParts_bounds (a := 2 ^ 40 + addr) (n := n) (by omega) hq
  have ht : tierOf (lineOf (devPa q.1)) = 1 := by rw [tierOf_lineOf, devPa_weights (by omega), tierOf]; omega
  exact ⟨by rw [ht]; decide, by rw [Chip.ringAt, ht]; rfl⟩

/-- R118, R133: the bytes of a fill are stored, and no line of it is held. -/
theorem hostFillWrite_stores {s : State} {addr : Nat} {bytes : List Byte} (hr : s.chip.running = true)
    (hf : s.chip.priv.hfill.getLsbD 0 = true) (ha : addr + bytes.length ≤ 2 ^ 40) (he : rangeExists (2 ^ 40 + addr) bytes.length = true) :
    ∃ t, exec (.hostFillWrite addr bytes) s = .next t ∧ Stored s t (2 ^ 40 + addr) bytes
      ∧ ∀ h ∈ t.chip.held, ∀ p ∈ lineParts (2 ^ 40 + addr) bytes.length, h.line ≠ lineOf (2 ^ 64 + p.1) := by
  have hslices : noSlices (fillTouched s.chip addr bytes.length)
      = noSlices (s.chip.refill ((fillParts addr bytes.length).map (fun p => lineOf p.1))) := storeRange_noSlices ..
  have hrings : (fillTouched s.chip addr bytes.length).rings = s.chip.rings := (congrArg Chip.rings hslices :)
  have hmem0 : (fillTouched s.chip addr bytes.length).mem = s.chip.mem := (congrArg Chip.mem hslices :)
  have hheld0 : (fillTouched s.chip addr bytes.length).held
      = s.chip.held.filter (fun h => !((fillParts addr bytes.length).map (fun p => lineOf p.1)).contains h.line) := (congrArg Chip.held hslices :)
  obtain ⟨hrest, hmem⟩ := hostStore_range (c := s.chip) (off := 2 ^ 40 + addr) (bytes := bytes) (g := devPa) (by omega)
    (fun x h1 h2 => by rw [devPa_weights (by omega)]; omega) hrings hmem0 (fillParts_plain s.chip ha)
  refine ⟨_, exec_hostFillWrite hr hf ha he, stored_of_aputN hmem, fun h hh p hp hline => ?_⟩
  have hheld : (hostStore (fillParts addr bytes.length) bytes (fillTouched s.chip addr bytes.length)).held
      = (fillTouched s.chip addr bytes.length).held := (congrArg Chip.held hrest :)
  have hb := lineParts_bounds (a := 2 ^ 40 + addr) (n := bytes.length) (by omega) hp
  have hin : h.line ∈ (fillParts addr bytes.length).map (fun p => lineOf p.1) := by
    rw [hline, ← devPa_weights (by omega)]
    exact List.mem_map.2 ⟨_, List.mem_map.2 ⟨p, hp, rfl⟩, rfl⟩
  have hh : h ∈ s.chip.held.filter (fun h => !((fillParts addr bytes.length).map (fun p => lineOf p.1)).contains h.line) := by
    rw [← hheld0, ← hheld]; exact hh
  simpa [hin] using (List.mem_filter.1 hh).2

/-- R155, R158: the bytes of a write of HBM by the host are stored. -/
theorem hostMemoryWrite_stores {s : State} {addr : Nat} {bytes : List Byte} (hr : s.chip.running = true) (ha : addr + bytes.length ≤ 2 ^ 40)
    (he : rangeExists addr bytes.length = true) (hn : NoRings s.chip addr bytes.length) :
    ∃ t, exec (.hostMemoryWrite addr bytes) s = .next t ∧ Stored s t addr bytes := by
  obtain ⟨hrings, hmem0⟩ := hostTouched_keeps s.chip addr bytes.length
  have hid : (lineParts addr bytes.length).map (fun p => (id p.1, p.2)) = lineParts addr bytes.length := List.map_id _
  obtain ⟨-, hmem⟩ := hostStore_range (off := addr) (bytes := bytes) (g := id) (by omega)
    (fun x _ h2 => Nat.mod_eq_of_lt (show x < 2 ^ 64 by omega)) hrings hmem0 (by rw [hid]; exact noRings_plain hn ha)
  rw [hid] at hmem
  exact ⟨_, exec_hostMemoryWrite hr ha he hn, stored_of_aputN hmem⟩

/-- R156, R441: what the home slice of a FetchAdd by the host leaves, before the completion. -/
def fetchadded (c : Chip) (addr w : Nat) (val : BitVec 64) : Chip :=
  (c.touchRange hostRequester [(addr, w)]).unitWrite addr w ((c.rdMem addr w + val.toNat) % 2 ^ (8 * w))

/-- R156: a FetchAdd by the host. -/
theorem exec_hostFetchadd {s : State} {addr : Nat} {w8 : Bool} {val : BitVec 64} {w : Nat} (hw : w = if w8 then 8 else 4)
    (hr : s.chip.running = true) (ha : addr + w ≤ 2 ^ 40) (he : rangeExists addr w = true) (hal : addr % w = 0) :
    exec (.hostFetchadd addr w8 val) s
      = .next { s with chip := (fetchadded s.chip addr w val).completion (bytesOf w (s.chip.rdMem addr w)) } := by
  have hg : (!s.chip.running || decide (2 ^ 40 < addr + w) || !rangeExists addr w || decide (addr % w ≠ 0)) = false := by
    rw [hr, he, hal]; simp; omega
  subst hw
  show execHostFetchadd addr w8 val s = _
  unfold execHostFetchadd runChip fetchadded
  simp only [hg, Bool.false_eq_true, if_false]

/-- A number written by a unit of the part in one line of its memory with no ring's control block. -/
theorem unitWrite_stores (c : Chip) {pa n v : Nat} (hl : pa % 64 + n ≤ 64) (ht : tierOf (lineOf pa) ≠ 2) (hr : c.ringAt (lineOf pa) = none) :
    (c.unitWrite pa n v).hostOut = c.hostOut ∧ ∀ a, aget 0 (c.unitWrite pa n v).mem a = aget 0 (aputN 0 c.mem (pa % 2 ^ 64) (bytesOf n v)) a := by
  have h := homeWrite_placed c pa (bytesOf n v) none (by rw [bytesOf_length]; exact hl) ht hr
  rw [natOfBytes_bytesOf, bytesOf_length, show (256 : Nat) = 2 ^ 8 from rfl, ← pow_mul] at h
  exact ⟨(congrArg Chip.hostOut h.1 :), h.2⟩

/-- R156, R441: a FetchAdd by the host stores the sum and brings back the old value. -/
theorem hostFetchadd_stores {s : State} {addr : Nat} {w8 : Bool} {val : BitVec 64} {w : Nat} (hw : w = if w8 then 8 else 4)
    (hr : s.chip.running = true) (ha : addr + w ≤ 2 ^ 40) (he : rangeExists addr w = true) (hal : addr % w = 0)
    (hn : NoRings s.chip addr w) :
    ∃ t, exec (.hostFetchadd addr w8 val) s = .next t ∧ Stored s t addr (bytesOf w ((s.chip.rdMem addr w + val.toNat) % 2 ^ (8 * w)))
      ∧ t.chip.hostOut = s.chip.hostOut ++ [.data (bytesOf w (s.chip.rdMem addr w))] := by
  have hw48 : w = 4 ∨ w = 8 := by cases w8 <;> simp [hw]
  have hl : addr % 64 + w ≤ 64 := by rcases hw48 with rfl | rfl <;> omega
  have hslices := touchRange_noSlices s.chip hostRequester [(addr, w)]
  have hrings : (s.chip.touchRange hostRequester [(addr, w)]).rings = s.chip.rings := (congrArg Chip.rings hslices :)
  have hmem0 : (s.chip.touchRange hostRequester [(addr, w)]).mem = s.chip.mem := (congrArg Chip.mem hslices :)
  have hout0 : (s.chip.touchRange hostRequester [(addr, w)]).hostOut = s.chip.hostOut := (congrArg Chip.hostOut hslices :)
  obtain ⟨hout, hmem⟩ := unitWrite_stores (s.chip.touchRange hostRequester [(addr, w)]) (v := (s.chip.rdMem addr w + val.toNat) % 2 ^ (8 * w)) hl
    (by rw [tierOf_lineOf, tierOf]; omega) ((ringAt_congr hrings _).trans (noRings_ringAt_first hn ha (by omega)))
  rw [hmem0, show addr % 2 ^ 64 = addr from Nat.mod_eq_of_lt (by omega)] at hmem
  refine ⟨_, exec_hostFetchadd hw hr ha he hal, stored_of_aputN hmem, ?_⟩
  exact congrArg (fun x => x ++ [HostMsg.data (bytesOf w (s.chip.rdMem addr w))]) (hout.trans hout0)

/-- R133, R155, R156, R158, R441: the bytes that the host's writes, fills and FetchAdds reach. -/
theorem hostWrites : HostWrites := by
  intro s addr bytes w8 val n w
  refine ⟨fun hr ha he hn => hostMemoryWrite_stores hr ha he hn, fun h => ?_, fun hr hf ha he => hostFillWrite_stores hr hf ha he, fun hf => ?_,
    fun hr ha he hal hn => hostFetchadd_stores rfl hr ha he hal hn⟩
  · show execHostMemoryWrite addr bytes s = _
    have hg : (!s.chip.running || decide (2 ^ 40 < addr + bytes.length) || !rangeExists addr bytes.length) = true := by
      rcases h with h | h
      · simp [h]
      · have : 2 ^ 40 < addr + bytes.length := h
        simp only [this, decide_true, Bool.or_true, Bool.true_or]
    simp only [execHostMemoryWrite, runChip, hg, if_true]
    rfl
  · show execHostFillWrite addr bytes s = _
    have hg : (!s.chip.running || !s.chip.priv.hfill.getLsbD 0 || decide (2 ^ 40 < addr + bytes.length)
        || !rangeExists (2 ^ 40 + addr) bytes.length) = true := by rw [hf]; simp
    simp only [execHostFillWrite, runChip, hg, if_true]
    rfl

/-! ### Registers and errors -/

/-- R154: a write of a privileged register that is one of BAR2's plain cells. -/
theorem exec_hostRegisterWrite {s : State} (hr : s.chip.running = true) {a : Nat} (ha : a < 0x80000) {val : BitVec 64} {c : Chip}
    (hw : s.chip.privWrite a val = some c) : exec (.hostRegisterWrite (8 * a) val) s = .next { s with chip := c } := by
  show execHostRegisterWrite (8 * a) val s = _
  unfold execHostRegisterWrite runChip
  simp only [hr, Bool.not_true, Bool.false_eq_true, if_false, doorbellAt_none (show 8 * a < 0x800000 by omega), Option.isSome_none,
    if_neg (show ¬ (0x400000 ≤ 8 * a ∧ 8 * a < 0x800000) by omega), Nat.mul_mod_right, Nat.mul_div_cancel_left a (show 0 < 8 by decide),
    ne_eq, not_true_eq_false, hw, Option.getD_some]

/-- R4, R154: what a write of a plain privileged register leaves, read back. -/
theorem privWrite_plain (c : Chip) (l : Life) (val : BitVec 64) {a v : Nat} (h : (a, v) ∈ plainRegisters val.toNat) :
    ∃ c', c.privWrite a val = some c' ∧ c'.privRead l a = some v ∧ c'.mem = c.mem ∧ c'.cores = c.cores := by
  simp only [plainRegisters, List.mem_cons, Prod.mk.injEq, List.not_mem_nil, or_false] at h
  rcases h with ⟨rfl, rfl⟩ | ⟨rfl, rfl⟩ | ⟨rfl, rfl⟩ | ⟨rfl, rfl⟩ | ⟨rfl, rfl⟩ | ⟨rfl, rfl⟩ | ⟨rfl, rfl⟩ | ⟨rfl, rfl⟩ | ⟨rfl, rfl⟩ | ⟨rfl, rfl⟩
    | ⟨rfl, rfl⟩ | ⟨rfl, rfl⟩ | ⟨rfl, rfl⟩ | ⟨rfl, rfl⟩
  all_goals refine ⟨_, rfl, congrArg some ?_, rfl, rfl⟩
  iterate 3 · simp only [dw, bitsAt, BitVec.toNat_ofNat]; omega
  iterate 3 · exact BitVec.toNat_ofNat ..
  · rw [BitVec.toNat_ofNat]; omega
  iterate 3 · exact BitVec.toNat_ofNat ..
  · rw [Nat.testBit_zero]
    simp only [decide_eq_true_eq]
    split <;> omega
  · exact BitVec.toNat_ofNat ..
  · rfl
  · exact BitVec.toNat_ofNat ..

/-- R4, R154, R389: registers that the host writes through BAR2. -/
theorem hostRegisters : HostRegisters := by
  intro s addr val
  refine ⟨fun hr a v hmem => ?_, fun hr h1 h2 => ?_, fun hr => ?_⟩
  · obtain ⟨c, hw, hv, hm, hc⟩ := privWrite_plain s.chip s.life val hmem
    have ha : a < 0x80000 := by
      simp only [plainRegisters, List.mem_cons, Prod.mk.injEq, List.not_mem_nil, or_false] at hmem
      omega
    exact ⟨_, exec_hostRegisterWrite hr ha hw, hv, hm, hc⟩
  · show execHostRegisterWrite addr val s = _
    simp only [execHostRegisterWrite, runChip, hr, Bool.not_true, Bool.false_eq_true, if_false, h1, h2, and_self, if_true]
  · show execHostRegisterWrite addr val s = _
    simp only [execHostRegisterWrite, runChip, hr, Bool.not_false, if_true]
    rfl

/-- R384, R386: a record of any type but a clause's start joins its source's buffer. -/
theorem emit_recorded (c : Chip) (source type : Nat) (cid payload : DWord) (extra : Nat) (h : type ≠ 0x10) :
    Recorded c (c.emit source type cid payload extra) (source % 4096)
      (fun x => x.type = BitVec.ofNat 16 type ∧ x.cid = cid ∧ x.payload = payload) := by
  have hg : (decide (type = 0x10) && decide (12 ≤ (aget TraceBuf.zero c.trace.bufs (source % 4096)).recs.length)) = false := by simp [h]
  unfold Recorded Chip.emit Chip.emitAt
  simp only [hg, Bool.false_eq_true, if_false, aget_aput_same]
  exact ⟨_, rfl, rfl, rfl, rfl⟩

/-- A chip without its operations in flight. -/
def noOps (c : Chip) : Chip := { c with ops := [] }

/-- R8: an operation whose failure, where it has one, is a higher lane's takes that of a request. -/
theorem failed_fail (o : Op) (r : Remote) (reason : Nat) (h : ∀ f, o.fail = some f → r.lane < f.2.2) :
    (o.failed r reason).fail = some (BitVec.ofNat 32 (failSyndrome r reason), dw (failAddr r reason), r.lane) := by
  have hg : (o.fail.map (fun f => decide (f.2.2 ≤ r.lane))).getD false = false := by
    cases hf : o.fail with
    | none => rfl
    | some f => simpa using h f hf
  rw [Op.failed, hg, if_neg (by decide)]

/-- What holds of the operations of a number after each of them is changed. -/
theorem modOp_ops {c : Chip} {id : Nat} {f : Op → Op} {P : Op → Prop} (h : ∀ o ∈ c.ops, o.id = id → P (f o)) :
    ∀ o ∈ (c.modOp id f).ops, o.id = id → P o := by
  intro o ho hid
  obtain ⟨x, hx, rfl⟩ := List.mem_map.1 ho
  by_cases hxid : x.id = id
  · rw [if_pos hxid]; exact h x hx hxid
  · rw [if_neg hxid] at hid; exact absurd hid hxid

/-- R144, R159: the failure of a request of an operation changes the operations in flight alone; the operation keeps it where no lower lane's
stands. -/
theorem failFate_op (c : Chip) {r : Remote} {id : Nat} (reason : Nat) (hid : r.op = some id)
    (hlow : ∀ o ∈ c.ops, o.id = id → ∀ f, o.fail = some f → r.lane < f.2.2) :
    noOps (c.failFate r reason) = noOps c ∧ ∀ o ∈ (c.failFate r reason).ops, o.id = id →
      o.fail = some (BitVec.ofNat 32 (failSyndrome r reason), dw (failAddr r reason), r.lane) := by
  have hfailed : ∀ o ∈ (c.modOp id (fun o => o.failed r reason)).ops, o.id = id →
      o.fail = some (BitVec.ofNat 32 (failSyndrome r reason), dw (failAddr r reason), r.lane) :=
    modOp_ops (P := fun o => o.fail = some (BitVec.ofNat 32 (failSyndrome r reason), dw (failAddr r reason), r.lane))
      (fun o ho hoid => failed_fail o r reason (hlow o ho hoid))
  simp only [Chip.failFate, hid, Chip.unhold]
  split
  · exact ⟨rfl, hfailed⟩
  · exact ⟨rfl, modOp_ops (P := fun o => o.fail = some (BitVec.ofNat 32 (failSyndrome r reason), dw (failAddr r reason), r.lane)) hfailed⟩

/-- R159, R403: the latest write that has left for a host address names its operation's causal ID. -/
theorem postedCid_last (c : Chip) {ms : List HostMsg} {addr : Nat} {n : List Byte} {id : DWord}
    (h : c.hostOut = ms ++ [.outWrite addr n (some id)]) : c.postedCid addr = some id := by
  simp [Chip.postedCid, h]

theorem recorded_congr {c c' d d' : Chip} {key : Nat} {p : Caseg → Prop} (h : Recorded c c' key p) (hc : d.trace = c.trace)
    (hc' : d'.trace = c'.trace) : Recorded d d' key p := by
  unfold Recorded at *
  rwa [hc, hc']

theorem recorded_mono {c c' : Chip} {key : Nat} {p q : Caseg → Prop} (h : Recorded c c' key p) (hq : ∀ x, p x → q x) : Recorded c c' key q :=
  let ⟨x, hx, hp⟩ := h
  ⟨x, hx, hq x hp⟩

/-- R385: the payload of a failed read of the host port names its reason. -/
theorem reason_payload (v : DWord) : (dw (v.toNat / 2 ^ 42 * 2 ^ 42 + 5)).toNat % 2 ^ 42 = 5 := by
  have := v.isLt
  rw [dw, BitVec.toNat_ofNat]; omega

/-- R144, R159: a failed read of the host port. -/
theorem hostCompletionError_ends (s : State) {r : Remote} {id : Nat}
    (hfind : s.chip.remotes.find? (fun x => x.id == r.id && x.dst == 2 ^ 22) = some r) (hid : r.op = some id)
    (hlow : ∀ o ∈ s.chip.ops, o.id = id → ∀ f, o.fail = some f → r.lane < f.2.2) :
    ∃ t, exec (.hostCompletionError r.id) s = .next t ∧ (∀ x ∈ t.chip.remotes, x.id ≠ r.id)
      ∧ Recorded s.chip t.chip 0xC30 (fun x => x.type = 0x50#16 ∧ x.cid = r.cid ∧ x.payload.toNat % 2 ^ 42 = 5)
      ∧ (∀ o ∈ t.chip.ops, o.id = id → o.fail = some (BitVec.ofNat 32 (0x0D * 2 ^ 24 + (r.opcode * 65536 + 5) % 2 ^ 24), 0, r.lane))
      ∧ t.chip.mem = s.chip.mem := by
  set c1 := ((s.chip.dropRemote r.id).draw).1
  set v := ((s.chip.dropRemote r.id).draw).2
  have hemit := emit_trace c1 (0xC00 + 48) 0x50 r.cid (dw (v.toNat / 2 ^ 42 * 2 ^ 42 + 5)) 0
  have hrec := emit_recorded c1 (0xC00 + 48) 0x50 r.cid (dw (v.toNat / 2 ^ 42 * 2 ^ 42 + 5)) 0 (by decide)
  set c2 := c1.emit (0xC00 + 48) 0x50 r.cid (dw (v.toNat / 2 ^ 42 * 2 ^ 42 + 5)) 0
  have hops : c2.ops = s.chip.ops := by obtain ⟨tr, h⟩ := hemit; rw [h]; rfl
  have hrem : c2.remotes = s.chip.remotes.filter (fun x => x.id != r.id) := by obtain ⟨tr, h⟩ := hemit; rw [h]; rfl
  have hmem : c2.mem = s.chip.mem := by obtain ⟨tr, h⟩ := hemit; rw [h]; rfl
  obtain ⟨hrest, hfail⟩ := failFate_op c2 5 hid (by rw [hops]; exact hlow)
  have hremotes : (c2.failFate r 5).remotes = c2.remotes := (congrArg Chip.remotes hrest :)
  have htrace : (c2.failFate r 5).trace = c2.trace := (congrArg Chip.trace hrest :)
  have hmem' : (c2.failFate r 5).mem = c2.mem := (congrArg Chip.mem hrest :)
  refine ⟨{ s with chip := c2.failFate r 5 }, ?_, fun x hx => ?_, ?_, hfail, hmem'.trans hmem⟩
  · show execHostCompletionError r.id s = _
    unfold execHostCompletionError runChip
    simp only [hfind]
    rfl
  · have hx : x ∈ s.chip.remotes.filter (fun x => x.id != r.id) := by rw [← hrem, ← hremotes]; exact hx
    simpa using (List.mem_filter.1 hx).2
  · exact recorded_mono (recorded_congr hrec rfl htrace) (fun x ⟨ht, hc, hp⟩ => ⟨ht, hc, by rw [hp]; exact reason_payload v⟩)

/-- A record leaves memory and the cores as they were. -/
theorem emit_keeps (c : Chip) (source type : Nat) (cid payload : DWord) (extra : Nat) :
    (c.emit source type cid payload extra).mem = c.mem ∧ (c.emit source type cid payload extra).cores = c.cores := by
  obtain ⟨t, h⟩ := emit_trace c source type cid payload extra
  rw [h]; exact ⟨rfl, rfl⟩

/-- R159, R403: a write that the host rejects. -/
theorem hostWriteRejected_recorded (s : State) (addr : Nat) :
    ∃ t, exec (.hostWriteRejected addr) s = .next t
      ∧ Recorded s.chip t.chip 0xC30 (fun x => x.type = 0x54#16 ∧ x.payload = BitVec.ofNat 64 addr
          ∧ ∀ ms n id, s.chip.hostOut = ms ++ [.outWrite addr n (some id)] → x.cid = id) ∧ t.chip.mem = s.chip.mem
      ∧ t.chip.cores = s.chip.cores := by
  have hexec : exec (.hostWriteRejected addr) s = execHostWriteRejected addr s := rfl
  unfold execHostWriteRejected runChip at hexec
  cases hp : s.chip.postedCid addr with
  | some id =>
    simp only [hp] at hexec
    have hrec := emit_recorded s.chip (0xC00 + 48) 0x54 id (dw addr) 0 (by decide)
    obtain ⟨hm, hc⟩ := emit_keeps s.chip (0xC00 + 48) 0x54 id (dw addr) 0
    refine ⟨_, hexec, recorded_mono hrec fun x ⟨ht, hcid, hx⟩ => ⟨ht, hx, fun ms n id' hout => ?_⟩, hm, hc⟩
    exact hcid.trans (Option.some.inj (hp.symm.trans (postedCid_last _ hout)))
  | none =>
    simp only [hp] at hexec
    have hrec := emit_recorded (s.chip.unitCid 48).1 (0xC00 + 48) 0x54 (s.chip.unitCid 48).2 (dw addr) 0 (by decide)
    obtain ⟨hm, hc⟩ := emit_keeps (s.chip.unitCid 48).1 (0xC00 + 48) 0x54 (s.chip.unitCid 48).2 (dw addr) 0
    refine ⟨_, hexec, recorded_mono (recorded_congr hrec rfl rfl) fun x ⟨ht, hcid, hx⟩ => ⟨ht, hx, fun ms n id' hout => ?_⟩, hm, hc⟩
    rw [postedCid_last _ hout] at hp
    cases hp

/-- R144, R159, R403: errors of the host's accesses. -/
theorem hostErrors : HostErrors :=
  fun s => ⟨fun _ _ hfind hid hlow => hostCompletionError_ends s hfind hid hlow, hostWriteRejected_recorded s⟩

/-- Settles O49: reads, writes, registers and errors of the host port. -/
theorem hostPort : Obligations.HostPort := ⟨hostReads, hostWrites, hostRegisters, hostErrors⟩

end Sys2Proof.Proofs
end

section
/-! PROOF. Active and pending warps, retirement of a warp, posted traps and the limit of a section (O40). -/

namespace Sys2Proof.Proofs

open Sys2Proof Sys2Proof.Machine Sys2Proof.Claims

/-! ### The choice of warps -/

/-- R24: the counters of a warp that have not been chosen in 64 issue cycles are starved. -/
theorem counterStarve_starves {s : State} {core slot : Nat} {w : Warp} (hw : s.chip.warp core slot = some w) :
    exec (.counterStarve core slot) s = .next { s with
      chip := s.chip.setWarp core slot (some { w with lag := w.lag.map (fun (p : Pos × Nat) => (p.1, if p.2 = 64 then 65 else p.2)) }) } := by
  have hlag : (fun p : Pos × Nat => if p.2 = 64 then (p.1, 65) else p) = fun p => (p.1, if p.2 = 64 then 65 else p.2) := by
    funext p
    split <;> rfl
  show execCounterStarve core slot s = _
  simp only [execCounterStarve, runChip, hw, hlag]

/-- R356: a warp of the active set that has not been chosen in 256 cycles. -/
theorem warpAgeLimit_ages {s : State} {core slot : Nat} {w : Warp} (hw : s.chip.warp core slot = some w) (ha : w.active = true)
    (hu : w.unchosen = 256) :
    exec (.warpAgeLimit core slot) s = .next { s with chip := s.chip.setWarp core slot (some { w with unchosen := 257 }) } := by
  show execWarpAgeLimit core slot s = _
  simp [execWarpAgeLimit, runChip, hw, ha, hu]

/-- R358, R359: the eligible pending warp that joined first enters the active set, where there is room. -/
theorem warpPromote_enters {s : State} {core slot : Nat} {w : Warp}
    (hf : firstJoined ((s.chip.coreWarps core).filter (fun x => x.2.eligible)) = some (slot, w)) (hc : s.chip.activeCount core < 8) :
    exec (.warpPromote core) s = .next { s with chip := s.chip.setWarp core slot (some (w.enter s.chip.cycle)) } := by
  show execWarpPromote core s = _
  simp only [execWarpPromote, runChip, hf, if_neg (Nat.not_le.2 hc)]

/-- R359: eight warps fill the active set. -/
theorem warpPromote_full {s : State} {core : Nat} (hc : 8 ≤ s.chip.activeCount core) : exec (.warpPromote core) s = .next s := by
  show execWarpPromote core s = _
  cases hf : firstJoined ((s.chip.coreWarps core).filter (fun x => x.2.eligible)) with
  | none => simp only [execWarpPromote, runChip, hf]
  | some p => simp only [execWarpPromote, runChip, hf, if_pos hc]

/-- R358: the overdue warp enters the active set, and the one longest in it joins the pending ones. -/
theorem pendingWarpTimeout_swaps {s : State} {core slot out : Nat} {w v : Warp} (ho : s.chip.overdue core = some (slot, w))
    (ha : s.chip.oldestActive core = some (out, v)) (hc : s.chip.activeCount core ≤ 8) :
    exec (.pendingWarpTimeout core) s = .next { s with
      chip := (s.chip.setWarp core out (some (v.demote s.chip.cycle))).setWarp core slot (some (w.enter s.chip.cycle)) } := by
  show execPendingWarpTimeout core s = _
  simp only [execPendingWarpTimeout, runChip, ho, ha, if_neg (Nat.not_lt.2 hc)]

/-- R24, R356-R359: the steps of a core's selection. -/
theorem warpSelection : WarpSelection := by
  intro s core slot w
  refine ⟨counterStarve_starves, warpAgeLimit_ages, warpPromote_enters, warpPromote_full, fun out v ho ha hne hc =>
    ⟨_, pendingWarpTimeout_swaps ho ha hc, ?_, ?_, fun n r hs hout => ?_, rfl⟩⟩
  · simp [warpIn, Warp.enter]
  · simp [warpIn, Chip.warp_setWarp, Ne.symm hne, Warp.demote]
  · have hs : ¬ (n = core ∧ r = slot) := fun ⟨hn, hr⟩ => hs (by rw [hn, hr])
    have hout : ¬ (n = core ∧ r = out) := fun ⟨hn, hr⟩ => hout (by rw [hn, hr])
    simp [Chip.warp_setWarp, hs, hout]

/-! ### Retirement, posted traps, the limit of a section -/

/-- R322: that a gang is on its cores and not being killed, as the steps of a warp ask it. -/
theorem onCores_of_gangRuns {c : Chip} {g : Nat} (h : GangRuns c g) : ((c.gang g).map (fun k => decide (k.phase < 2))).getD false = true := by
  obtain ⟨k, hk, hp⟩ := h
  simp only [hk, Option.map_some, Option.getD_some, hp, decide_true]

section
variable {s : State} {core slot : Nat} {w : Warp}

/-- R322: what keeps a warp in its slot: a lane that has not exited, a flag, an operation in flight, a gang that is off its cores or killed. -/
theorem warpRetire_guard (hl : w.live = 0) (hcf : w.cf = []) (hops : ∀ o ∈ s.chip.ops, o.eng ≠ .warp core slot) (hg : GangRuns s.chip w.gang) :
    (w.live != 0 || w.cf != [] || s.chip.ops.any (fun o => o.eng == .warp core slot)
      || !((s.chip.gang w.gang).map (fun k => decide (k.phase < 2))).getD false) = false := by
  have hno : s.chip.ops.any (fun o => o.eng == .warp core slot) = false := by simpa using hops
  rw [hl, hcf, hno, onCores_of_gangRuns hg]
  rfl

variable (hw : s.chip.warp core slot = some w)
include hw

/-- R322: a warp that has nothing left leaves its slot. -/
theorem warpRetire_leaves (hl : w.live = 0) (hcf : w.cf = []) (hops : ∀ o ∈ s.chip.ops, o.eng ≠ .warp core slot) (hg : GangRuns s.chip w.gang)
    (hp : w.posted = []) : exec (.warpRetire core slot) s = .next { s with chip := s.chip.setWarp core slot none } := by
  show execWarpRetire core slot s = _
  simp only [execWarpRetire, runChip, hw, warpRetire_guard hl hcf hops hg, hp, Bool.false_eq_true, if_false]

/-- R335: a posted trap that a warp leaves behind fails its gang. -/
theorem warpRetire_fails (hl : w.live = 0) (hcf : w.cf = []) (hops : ∀ o ∈ s.chip.ops, o.eng ≠ .warp core slot) (hg : GangRuns s.chip w.gang)
    {p : Posted} {ps : List Posted} (hp : w.posted = p :: ps) : exec (.warpRetire core slot) s = .next { s with
      chip := (s.chip.setWarp core slot none).failGang w.gang p.failClass p.cid } := by
  show execWarpRetire core slot s = _
  simp only [execWarpRetire, runChip, hw, warpRetire_guard hl hcf hops hg, hp, Bool.false_eq_true, if_false]

/-- R322: a warp with a lane that has not exited stays. -/
theorem warpRetire_stays (hl : w.live ≠ 0) : exec (.warpRetire core slot) s = .next s := by
  have hb : (w.live != 0) = true := bne_iff_ne.2 hl
  show execWarpRetire core slot s = _
  simp only [execWarpRetire, runChip, hw, hb, Bool.true_or, if_true]

/-- R363, R381: a posted trap that is due is taken from the queue of its warp. -/
theorem postedTrapTake_takes {p : Posted} {ps : List Posted} (hh : w.handler = false) (hg : GangRuns s.chip w.gang) (hp : w.posted = p :: ps)
    (hdue : p.from_ ≤ s.chip.cycle) : exec (.postedTrapTake core slot) s = .next { s with chip := s.chip.takePosted core slot } := by
  have hlate : w.posted.head?.any (fun p => decide (s.chip.cycle < p.from_)) = false := by simp [hp, Nat.not_lt.2 hdue]
  show execPostedTrapTake core slot s = _
  simp only [execPostedTrapTake, runChip, hw, hh, hlate, onCores_of_gangRuns hg]
  rfl

/-- R363: in handler mode no posted trap is taken. -/
theorem postedTrapTake_handler (hh : w.handler = true) : exec (.postedTrapTake core slot) s = .next s := by
  show execPostedTrapTake core slot s = _
  simp [execPostedTrapTake, runChip, hw, hh]

/-- R375: a section at its limit closes, and its warp gets the trap NOPRE with reason 1. -/
theorem nopreLimit_closes (ho : w.sectOpen = true) (hn : 65536 ≤ w.sectCount) (hl : w.live ≠ 0) (hq : w.posted.length < 4) :
    exec (.nopreLimit core slot) s = .next { s with
      chip := s.chip.setWarp core slot (some { w with sectOpen := false, posted := w.posted ++
        [{ syn := 0x0FBF0001#32, pos := (w.lane (lowLane w.live)).pos, lane := 0, from_ := s.chip.cycle + 1, kind := 0, queue := 0,
           addr := 0, inner := 0, stopped := 0 }] }) } := by
  have hlive : ({ w with sectOpen := false } : Warp).live ≠ 0 := hl
  have hsyn : BitVec.ofNat 32 (syndrome 0x0F (opReason 0xBF 1)) = 0x0FBF0001#32 := by decide
  show execNopreLimit core slot s = _
  simp only [execNopreLimit, runChip, hw, ho, Bool.not_true, Bool.false_or, decide_eq_true_eq, if_neg (Nat.not_lt.2 hn), Chip.postTrap,
    Chip.warp_setWarp_same, if_neg hlive, if_neg (Nat.not_le.2 hq), Chip.setWarp_setWarp, hsyn]

end

/-- R322, R335, R363, R375: the events of a warp. -/
theorem warpEvents : WarpEvents := by
  intro s core slot w hw
  refine ⟨fun hl hcf hops hg => ⟨warpRetire_leaves hw hl hcf hops hg, fun p ps => warpRetire_fails hw hl hcf hops hg⟩, warpRetire_stays hw,
    fun p ps hh hg hp hdue => ⟨fun hl => ?_, fun hl => ?_⟩, postedTrapTake_handler hw, nopreLimit_closes hw⟩
  · rw [postedTrapTake_takes hw hh hg hp hdue]
    simp only [Chip.takePosted, hw, hp, if_neg hl]
  · rw [postedTrapTake_takes hw hh hg hp hdue]
    simp only [Chip.takePosted, hw, hp, if_pos hl, Posted.failClass]

/-- Settles O40: the steps of a core's selection and the events of a warp. -/
theorem warpSteps : Obligations.WarpSteps := ⟨warpSelection, warpEvents⟩

end Sys2Proof.Proofs
end

section
/-! PROOF. Groups, gangs and grids retire (O43): what a gang gives up leaves memory and the barriers as they are; a grid that is over leaves the
part once its release, its status word and its decrements are done. -/

namespace Sys2Proof.Proofs

open Sys2Proof Sys2Proof.Machine Sys2Proof.Claims

/-! ### What is left as it was -/

/-- What no step of a fold changes, the fold leaves. -/
theorem foldl_keeps {σ α β : Type} (p : σ → β) (f : σ → α → σ) (l : List α) (c : σ) (h : ∀ x, ∀ a ∈ l, p x = p c → p (f x a) = p c) :
    p (l.foldl f c) = p c :=
  List.foldlRecOn (motive := fun x => p x = p c) l f rfl fun x hx a ha => h x a ha hx

/-- What a change of the listed values leaves of each of them, it leaves of the value at any key. -/
theorem aget_map_keeps {α β : Type} (d : α) (m : AMap α) (f : Nat × α → α) (p : α → β) (h : ∀ x, p (f x) = p x.2) (n : Nat) :
    p (aget d (m.map (fun x => (x.1, f x))) n) = p (aget d m n) := by
  induction m with
  | nil => rfl
  | cons x r ih =>
    simp only [List.map_cons, aget]
    split
    · exact h x
    · exact ih

/-- What does not depend on what a gang that retires gives up beside its Drays: warps, window slots, matrix engines, banks, what peers have
found for it, grants of banks and scoreboard entries. -/
structure Apart {β : Type} (p : Chip → β) : Prop where
  warp : ∀ c n slot w, p (c.setWarp n slot w) = p c
  win : ∀ c n slot w, p (c.setWin n slot w) = p c
  mat : ∀ c n m, p (c.setMat n m) = p c
  bank : ∀ c cl b k, p (c.setBank cl b k) = p c
  races : ∀ c n slots streams, p (c.dropRaces n slots streams) = p c
  lists : ∀ (c : Chip) (f : Nat × Core → Core), (∀ x, (f x).bars = x.2.bars ∧ (f x).dray = x.2.dray) →
    p { c with cores := c.cores.map (fun x => (x.1, f x)) } = p c

theorem apart_mem : Apart Chip.mem where
  warp _ _ _ _ := rfl
  win _ _ _ _ := rfl
  mat _ _ _ := rfl
  bank _ _ _ _ := rfl
  races _ _ _ _ := rfl
  lists _ _ _ := rfl

/-- R190: the barriers and the Dray of every core. -/
def barsAndDrays (c : Chip) (n : Nat) : AMap Barrier × Dray := ((c.core n).bars, (c.core n).dray)

theorem barsAndDrays_setCore (c : Chip) (n : Nat) (k : Core) (h : (k.bars, k.dray) = barsAndDrays c n) :
    barsAndDrays (c.setCore n k) = barsAndDrays c := by
  funext m
  unfold barsAndDrays
  rw [Chip.core_setCore]
  split
  · subst_vars; exact h
  · rfl

theorem apart_barsAndDrays : Apart barsAndDrays where
  warp c n _ _ := barsAndDrays_setCore c n _ rfl
  win c n _ _ := barsAndDrays_setCore c n _ rfl
  mat c n _ := barsAndDrays_setCore c n _ rfl
  bank _ _ _ _ := rfl
  races _ _ _ _ := rfl
  lists c f h := funext fun n => aget_map_keeps Core.zero c.cores f (fun k => (k.bars, k.dray))
    (fun x => Prod.ext (h x).1 (h x).2) n

/-! ### What a group and a gang give up -/

theorem clearRun_mem (c : Chip) (l : Lane8) (run : Option Run) : (c.clearRun l run).mem = c.mem := by
  cases run with
  | none => rfl
  | some r => exact foldl_keeps Chip.mem _ _ _ fun _ _ _ h => h

theorem clearQueue_mem (c : Chip) (g : Nat) (l : Lane8) : (c.clearQueue g l).mem = c.mem := clearRun_mem c l _

/-- R190: a gang's bank returned to the pool, out of the window slot at which it was attached. -/
def returnBank (g cl : Nat) (x : Chip) (b : Nat) : Chip :=
  if (x.bank cl b).gang ≠ some g then x
  else
    let x1 := match (x.bank cl b).at_ with
      | none => x
      | some (core, slot) => x.setWin core slot Win.zero
    x1.setBank cl b { x1.bank cl b with gang := none, at_ := none }

theorem returnBanks_eq (c : Chip) (g cl : Nat) : c.returnBanks g cl = (List.range 64).foldl (returnBank g cl) c := by
  unfold Chip.returnBanks
  generalize List.range 64 = bs
  rfl

section
variable {β : Type} {p : Chip → β} (hp : Apart p)
include hp

/-- R215, R268: what a group that is given up without a kill leaves; `hqueue` and `hdray` speak of a Dray that is the gang's own. -/
theorem clearCore_keeps {c : Chip} {g : Nat} {gr : Group} (hqueue : (c.core gr.core).dray.s.gang = g → ∀ x l, p (Chip.clearQueue x g l) = p x)
    (hdray : ∀ x : Chip, p x = p c → (x.core gr.core).dray.s.gang = g → p (x.setDray gr.core Dray.zero) = p c) :
    p (c.clearCore g false gr) = p c := by
  unfold Chip.clearCore
  extract_lets own c0 mine c1 bars wins c2 c3 k c4
  have h0 : p c0 = p c := by
    dsimp only [c0]
    split
    · rename_i ho
      exact foldl_keeps p _ _ _ fun x q _ h => (hqueue ho.2 x _).trans h
    · rfl
  have h1 : p c1 = p c0 := (hp.races _ _ _ _).trans (foldl_keeps p _ _ _ fun x a _ h => (hp.warp x _ a _).trans h)
  have h3 : p c3 = p c1 := foldl_keeps p _ _ _ fun x a _ h => (hp.win x _ _ _).trans h
  have h4 : p c4 = p c3 := by
    dsimp only [c4]
    split
    · exact hp.mat ..
    · rfl
  have hc : p c4 = p c := h4.trans (h3.trans (h1.trans h0))
  split
  · rename_i ho
    exact hdray c4 hc ho.2
  · exact hc

/-- R190: the banks that a gang returns. -/
theorem returnBanks_keeps (c : Chip) (g cl : Nat) : p (c.returnBanks g cl) = p c := by
  rw [returnBanks_eq]
  refine foldl_keeps p _ _ _ fun x b _ h => ?_
  unfold returnBank
  split
  · exact h
  · rw [hp.bank]
    split
    · exact h
    · exact (hp.win ..).trans h

/-- R18, R190: what a gang that retires leaves. -/
theorem freeGang_keeps {c : Chip} {g : Nat} {k : Gang} (hcore : ∀ x, ∀ gr ∈ k.groups, p x = p c → p (Chip.clearCore x g false gr) = p c) :
    p (c.freeGang g k false) = p c := by
  unfold Chip.freeGang
  extract_lets c1 mine c2 c3
  have h1 : p c1 = p c := foldl_keeps p _ _ _ hcore
  have h2 : p c2 = p c1 := foldl_keeps p _ _ _ fun x a _ h => ((hp.races _ _ _ _).trans (hp.warp x _ _ _)).trans h
  have h3 : p c3 = p c2 := returnBanks_keeps hp c2 g k.cluster
  have hc : p c3 = p c := h3.trans (h2.trans h1)
  clear_value c3
  rw [← hc]
  exact hp.lists c3 _ fun _ => ⟨rfl, rfl⟩

end

theorem freeGang_mem (c : Chip) (g : Nat) (k : Gang) : (c.freeGang g k false).mem = c.mem :=
  freeGang_keeps apart_mem fun x _ _ h =>
    (clearCore_keeps apart_mem (c := x) (fun _ y l => clearQueue_mem y g l) fun _ hy _ => hy).trans h

/-- Barriers keep what they hold as a gang retires whose groups' cores have no Dray of its own. -/
theorem freeGang_barsAndDrays {c : Chip} {g : Nat} {k : Gang} (hd : ∀ gr ∈ k.groups, (c.core gr.core).dray.s.gang ≠ g) :
    barsAndDrays (c.freeGang g k false) = barsAndDrays c := by
  have hother {x : Chip} {gr : Group} (hgr : gr ∈ k.groups) (hx : barsAndDrays x = barsAndDrays c) : (x.core gr.core).dray.s.gang ≠ g := by
    have hdray : (x.core gr.core).dray = (c.core gr.core).dray := congrArg Prod.snd (congrFun hx gr.core)
    rw [hdray]
    exact hd gr hgr
  exact freeGang_keeps apart_barsAndDrays fun x gr hgr hx =>
    (clearCore_keeps apart_barsAndDrays (fun ho => absurd ho (hother hgr hx))
      fun y hy ho => absurd ho (hother hgr (hy.trans hx))).trans hx

/-! ### Banks -/

theorem bank_setBank (c : Chip) (cl b n : Nat) (k : Bank) : (c.setBank cl b k).bank cl n = if n = b then k else c.bank cl n := by
  simp [Chip.bank, Chip.setBank, aget_aput]

/-- A returned bank is no gang's, and the others keep their gangs. -/
theorem returnBank_gang (g cl : Nat) (x : Chip) (b n : Nat) :
    ((returnBank g cl x b).bank cl n).gang = if n = b ∧ (x.bank cl b).gang = some g then none else (x.bank cl n).gang := by
  unfold returnBank
  by_cases h : (x.bank cl b).gang = some g
  · rw [if_neg (not_not.2 h), bank_setBank]
    by_cases hn : n = b
    · rw [if_pos hn, if_pos ⟨hn, h⟩]
    · rw [if_neg hn, if_neg fun hb => hn hb.1]
      split <;> rfl
  · rw [if_pos h, if_neg fun hb => h hb.2]

/-- R190: the banks of a list are no longer the gang's once they have been returned. -/
theorem returnBank_foldl (g cl : Nat) (bs : List Nat) (c : Chip) (n : Nat) (h : n ∈ bs ∨ (c.bank cl n).gang ≠ some g) :
    ((bs.foldl (returnBank g cl) c).bank cl n).gang ≠ some g := by
  induction bs generalizing c with
  | nil => exact h.resolve_left List.not_mem_nil
  | cons b bs ih =>
    refine ih _ ?_
    by_cases hn : n ∈ bs
    · exact .inl hn
    · refine .inr ?_
      rw [returnBank_gang]
      by_cases hb : n = b
      · subst hb; split <;> simp_all
      · rw [if_neg fun hx => hb hx.1]
        exact h.resolve_left (by simp [hb, hn])

theorem freeGang_bank (c : Chip) (g : Nat) (k : Gang) (killed : Bool) {b : Nat} (hb : b < 64) :
    ((c.freeGang g k killed).bank k.cluster b).gang ≠ some g := by
  unfold Chip.freeGang
  extract_lets c1 mine c2 c3
  have h : (c3.bank k.cluster b).gang ≠ some g := by
    rw [show c3 = _ from returnBanks_eq c2 g k.cluster]
    exact returnBank_foldl g k.cluster _ c2 b (.inl (List.mem_range.2 hb))
  clear_value c3
  exact h

/-! ### Groups and gangs -/

/-- R383, R386: a record of a unit changes its sequence value and the trace alone. -/
theorem emitUnit_changes (c : Chip) (unit type : Nat) (payload : DWord) (cid : Option DWord) :
    ∃ u t, c.emitUnit unit type payload cid = { c with unitSeq := u, trace := t } := by
  cases cid with
  | none =>
    obtain ⟨t, h⟩ := emit_trace (c.unitCid unit).1 (0xC00 + unit) type (c.unitCid unit).2 payload 0
    exact ⟨_, t, h⟩
  | some id =>
    obtain ⟨t, h⟩ := emit_trace c (0xC00 + unit) type id payload 0
    exact ⟨_, t, h⟩

/-- R348, R349: what the settlement of a grid whose gangs are out leaves. -/
theorem settleGrid_keeps (c : Chip) (grid : Nat) :
    (c.settleGrid grid).gangs = c.gangs ∧ (c.settleGrid grid).cores = c.cores ∧ (c.settleGrid grid).clusters = c.clusters
    ∧ (c.settleGrid grid).mem = c.mem := by
  unfold Chip.settleGrid
  split
  · exact ⟨rfl, rfl, rfl, rfl⟩
  · extract_lets ks c1
    split_ifs
    · exact ⟨rfl, rfl, rfl, rfl⟩
    · exact ⟨rfl, rfl, rfl, rfl⟩
    · obtain ⟨u, t, h⟩ := emitUnit_changes c1 0 0x21 _ none
      rw [h]
      exact ⟨rfl, rfl, rfl, rfl⟩
    · exact ⟨rfl, rfl, rfl, rfl⟩

/-- R18, R28: the chip `f` in which a gang has been freed, after the end of that gang. -/
def gangEnded (f : Chip) (g : Nat) (k : Gang) : Chip :=
  let c1 := f.setGang g { k with phase := 5, reserved := 0 }
  ({ c1 with resvFrames := c1.resvFrames - k.reserved } : Chip).settleGrid k.grid

theorem gangEnded_keeps (f : Chip) (g : Nat) (k : Gang) :
    (gangEnded f g k).gang g = some { k with phase := 5, reserved := 0 } ∧ (gangEnded f g k).cores = f.cores
    ∧ (gangEnded f g k).clusters = f.clusters ∧ (gangEnded f g k).mem = f.mem := by
  unfold gangEnded
  extract_lets c1
  obtain ⟨hgangs, hcores, hclusters, hmem⟩ := settleGrid_keeps { c1 with resvFrames := c1.resvFrames - k.reserved } k.grid
  refine ⟨?_, hcores, hclusters, hmem⟩
  rw [Chip.gang, hgangs]
  exact Chip.gang_setGang_same f g _

theorem gangRetire_ends {s : State} {g : Nat} {k : Gang} (hg : s.chip.gang g = some k) (hp : k.phase < 2)
    (hr : ∀ gr ∈ k.groups, gr.retired = true) (hc : s.chip.hasChildren g k = false) :
    exec (.gangRetire g) s = .next { s with chip := gangEnded (s.chip.freeGang g k false) g k } := by
  have hno : k.groups.any (fun gr => !gr.retired) = false := by simpa using hr
  show execGangRetire g s = _
  simp only [execGangRetire, runChip, hg, hno, hc, Nat.not_le.2 hp, decide_false, Bool.or_false, Bool.false_eq_true, if_false]
  rfl

/-- R18: a core's sequencers given up, where they are the gang's. -/
def giveUp (c : Chip) (g n : Nat) : Chip :=
  let c1 := if (c.core n).mat.s.st ≠ 0 ∧ (c.core n).mat.s.gang = g then c.setMat n Mat.zero else c
  if (c.core n).dray.s.st ≠ 0 ∧ (c.core n).dray.s.gang = g then c1.setDray n Dray.zero else c1

theorem giveUp_core (c : Chip) (g n m : Nat) : (giveUp c g n).core m = if m = n then
    { c.core n with
      mat := if (c.core n).mat.s.st ≠ 0 ∧ (c.core n).mat.s.gang = g then Mat.zero else (c.core n).mat,
      dray := if (c.core n).dray.s.st ≠ 0 ∧ (c.core n).dray.s.gang = g then Dray.zero else (c.core n).dray }
    else c.core m := by
  unfold giveUp
  extract_lets c1
  have h1 : c1.core = fun m => if m = n then
      { c.core n with mat := if (c.core n).mat.s.st ≠ 0 ∧ (c.core n).mat.s.gang = g then Mat.zero else (c.core n).mat } else c.core m := by
    funext m
    dsimp only [c1]
    split
    · rw [Chip.setMat, Chip.core_setCore]
    · split
      · subst_vars; rfl
      · rfl
  split
  · rw [Chip.setDray, Chip.core_setCore, h1]
    simp only [if_pos]
    split <;> rfl
  · rw [h1]

theorem giveUp_mem (c : Chip) (g n : Nat) : (giveUp c g n).mem = c.mem := by
  unfold giveUp
  extract_lets c1
  have h1 : c1.mem = c.mem := by dsimp only [c1]; split <;> rfl
  split <;> exact h1

/-- R18: a group with nothing left. -/
theorem groupRetire_gives {s : State} {g j : Nat} {k : Gang} {gr : Group} (hg : s.chip.gang g = some k) (hp : k.phase < 2)
    (hj : k.groups[j]? = some gr) (hr : gr.retired = false) (hd : s.chip.groupDone g j gr = true) :
    exec (.groupRetire g j) s = .next { s with
      chip := (giveUp s.chip g gr.core).setGang g { k with groups := k.groups.set j { gr with retired := true } } } := by
  have hgr : s.chip.groupOf g j = some gr := by simp [Chip.groupOf, hg, hj]
  show execGroupRetire g j s = _
  simp only [execGroupRetire, runChip, hg, hgr, hr, hd, Nat.not_le.2 hp, decide_false, Bool.or_false, Bool.not_true, Bool.false_eq_true, if_false]
  rfl

/-- R18, R190: groups and gangs retire. -/
theorem groupAndGangRetire : GroupAndGangRetire := by
  intro s g k hg hp
  refine ⟨fun j gr hj hr hd => ⟨_, groupRetire_gives hg hp hj hr hd, ?_, fun hst hown => ?_, fun hst hown => ?_, fun n hn => ?_, ?_⟩,
    fun hr hc => ?_⟩
  · exact Chip.gang_setGang_same ..
  · rw [Chip.core_setGang, giveUp_core, if_pos rfl]
    exact if_pos ⟨hst, hown⟩
  · rw [Chip.core_setGang, giveUp_core, if_pos rfl]
    exact if_pos ⟨hst, hown⟩
  · rw [Chip.core_setGang, giveUp_core, if_neg hn]
  · exact giveUp_mem ..
  · have hend := gangRetire_ends hg hp hr hc
    have hmem := freeGang_mem s.chip g k
    have hbank (b : Nat) (hb : b < 64) := freeGang_bank s.chip g k false hb
    have hbars (hd) := freeGang_barsAndDrays (c := s.chip) (g := g) (k := k) hd
    -- opaque from here on: unfolding it would return its 64 banks one by one
    generalize s.chip.freeGang g k false = f at hend hmem hbank hbars
    obtain ⟨hgang, hcores, hclusters, hmem'⟩ := gangEnded_keeps f g k
    refine ⟨_, hend, hgang, fun b hb => ?_, hmem'.trans hmem, fun hd n j => ?_⟩
    · simp only [Chip.bank, Chip.cluster, hclusters]
      exact hbank b hb
    · have hcore : (f.core n).bars = (s.chip.core n).bars := congrArg Prod.fst (congrFun (hbars hd) n)
      simp only [Chip.bar, Chip.core, hcores]
      exact congrArg (fun m => aget Barrier.zero m j) hcore

/-! ### Grids -/

/-- A value other than the default that a map holds is listed. -/
theorem mem_of_aget {α : Type} {d a : α} {m : AMap α} {n : Nat} (h : aget d m n = a) (ha : a ≠ d) : (n, a) ∈ m := by
  induction m with
  | nil => exact absurd h.symm ha
  | cons x r ih =>
    obtain ⟨j, v⟩ := x
    simp only [aget] at h
    split at h
    · subst_vars; exact List.mem_cons_self
    · exact List.mem_cons_of_mem _ (ih h)

/-- R18, R349: a grid that has left the part, with its gangs. -/
def Gone (c : Chip) (g : Nat) : Prop := c.grid g = none ∧ ∀ q k, c.gang q = some k → k.grid ≠ g

theorem dropGrid_gone (c : Chip) (g : Nat) : Gone (c.dropGrid g) g := by
  refine ⟨aget_aput_same none c.grids g none, fun q k h => ?_⟩
  have hin := (List.mem_filter.1 (mem_of_aget h (by simp))).2
  simpa using hin

/-- R349: once its decrements are made, a grid leaves the part. -/
theorem finishRetire_drops {c c1 : Chip} {g : Nat} (h : c.successors g = (c1, none)) (gr : Grid) (id : DWord) :
    ∃ c2, c.finishRetire g gr id = .ok c2 ∧ Gone c2 g ∧ c2.mem = c1.mem := by
  refine ⟨(if gr.task.flags.getLsbD 4 then c1.emit 0xC00 0x23 id gr.recAddr 0 else c1).dropGrid g, ?_, dropGrid_gone _ g, ?_⟩
  · simp only [Chip.finishRetire, h]
  · show Chip.mem (if _ then _ else _) = _
    split
    · exact Chip.emit_mem ..
    · rfl

/-- R343, R349: a decrement that must wait ends the step in its stop. -/
theorem finishRetire_stops {c c1 : Chip} {g : Nat} {st : CStop} (h : c.successors g = (c1, some st)) (gr : Grid) (id : DWord) :
    c.finishRetire g gr id = c1.coachStop st := by simp only [Chip.finishRetire, h]

/-- R343: a grid without decrements to make. -/
theorem successors_setGrid_none (c : Chip) (g : Nat) (gr : Grid) (h : gr.dec = none) :
    (c.setGrid g gr).successors g = (c.setGrid g gr, none) := by
  simp only [Chip.successors, Chip.grid_setGrid_same, h]

/-- A step of the part that completes. -/
theorem runChipE_ok {s : State} {f : Chip → Except Nat Chip} {c : Chip} (h : f s.chip = .ok c) : runChipE s f = .next { s with chip := c } := by
  simp only [runChipE, h]

/-- R349: a grid's entry as its decrements begin, its release and status word done under a causal ID. -/
def endedGrid (gr : Grid) (id : DWord) (dec : Option (Nat × DWord)) : Grid := { gr with retire := some id, ended := true, dec := dec }

/-- R302, R349: the cores that the gangs of a grid have used. -/
def gridCores (c : Chip) (g : Nat) : List Nat := ((gangsOf c g).flatMap Gang.cores).eraseDups

/-- R349: the chip after the release and the status word of a grid that completes. -/
def completed (c : Chip) (g : Nat) (gr : Grid) : Chip :=
  ((c.unitCid 0).1.gridRelease (gridCores c g) (c.unitCid 0).2).statusWrite gr.task gr.recAddr (statusWord 1 0 gr.relaunches)
    (some (c.unitCid 0).2)

section
variable {s : State} {g : Nat} {gr : Grid} (hg : s.chip.grid g = some gr) (hp : gr.phase = 1) (hk : ∀ k ∈ gangsOf s.chip g, k.phase = 5)

include hp hk in
/-- R349: what keeps a grid on the part: it is not admitted, or a gang of it has not ended. -/
theorem gridRetire_guard : (decide (gr.phase ≠ 1) || !(gangsOf s.chip g).all (fun k => decide (k.phase = 5))) = false := by
  have hall : (gangsOf s.chip g).all (fun k => decide (k.phase = 5)) = true := List.all_eq_true.2 fun k hin => decide_eq_true (hk k hin)
  rw [hall, hp]
  rfl

include hg hp hk

/-- R341: a failed grid's status word, its release left out. -/
theorem gridRetire_failed {cls : Nat} (hf : gr.fail = some cls) (hr : gr.retire = none) (he : gr.ended = false) :
    exec (.gridRetire g) s = runChipE s (fun _ =>
      (((s.chip.unitCid 0).1.statusWrite gr.task gr.recAddr (statusWord 3 cls gr.relaunches) (some (s.chip.unitCid 0).2)).setGrid g
        (endedGrid gr (s.chip.unitCid 0).2 gr.dec)).finishRetire g gr (s.chip.unitCid 0).2) := by
  have hgo := gridRetire_guard hp hk
  simp only [gangsOf] at hgo
  show execGridRetire g s = _
  simp only [execGridRetire, runChipE, endedGrid, hg, hgo, hr, he, hf, Bool.false_eq_true, if_false]

/-- R302, R349: a grid that completes: its release, where it has none to tell and none of its cores waits for a peer, and its status word. -/
theorem gridRetire_completes (hf : gr.fail = none) (hr : gr.retire = none) (he : gr.ended = false)
    (hrem : ∀ r ∈ s.chip.remotes, r.who = .coachman → isRelease r.kind = false)
    (hcores : ∀ n ∈ gridCores s.chip g, s.chip.peerBusy n = false ∧ s.chip.owedBy (.core n) n = [] ∧ s.chip.owedBy (.dray n) n = []) :
    exec (.gridRetire g) s = runChipE s (fun _ =>
      ((completed s.chip g gr).setGrid g (endedGrid gr (s.chip.unitCid 0).2
        (if gr.triggered then gr.dec else some (0, (s.chip.unitCid 0).2)))).finishRetire g gr (s.chip.unitCid 0).2) := by
  have hgo := gridRetire_guard hp hk
  have hfree : ((gridCores s.chip g).any (fun n => s.chip.peerBusy n)
      || s.chip.remotes.any (fun r => r.who == .coachman && isRelease r.kind)) = false := by
    rw [Bool.or_eq_false_iff, List.any_eq_false, List.any_eq_false]
    refine ⟨fun n hn => by simp [(hcores n hn).1], fun r hin => ?_⟩
    rw [Bool.and_eq_true, beq_iff_eq]
    rintro ⟨hwho, hrel⟩
    exact absurd ((hrem r hin hwho).symm.trans hrel) (by decide)
  have hpaid : (gridCores s.chip g).any (fun n => s.chip.owedBy (.core n) n != [] || s.chip.owedBy (.dray n) n != []) = false := by
    rw [List.any_eq_false]
    intro n hn
    obtain ⟨-, hcore, hdray⟩ := hcores n hn
    simp [hcore, hdray]
  simp only [gridCores, gangsOf] at hgo hfree hpaid
  show execGridRetire g s = _
  simp only [execGridRetire, runChipE, endedGrid, completed, gridCores, gangsOf, hg, hgo, hfree, hpaid, hr, he, hf, Bool.false_eq_true, if_false]

/-- R349: a grid whose release and status word are done goes on with its decrements alone. -/
theorem gridRetire_resumes {x : DWord} (hr : gr.retire = some x) (he : gr.ended = true) :
    exec (.gridRetire g) s = runChipE s (fun _ => s.chip.finishRetire g gr x) := by
  have hgo := gridRetire_guard hp hk
  simp only [gangsOf] at hgo
  show execGridRetire g s = _
  simp only [execGridRetire, runChipE, hg, hgo, hr, he, Bool.false_eq_true, if_false, if_true]

end

section
variable {s : State} {g : Nat} {gr : Grid} {id : DWord} {c : Chip}

/-- R349: a grid whose decrements are all made leaves the part. -/
theorem leaves_of_successors {c2 : Chip} (h : exec (.gridRetire g) s = runChipE s (fun _ => c.finishRetire g gr id))
    (hs : c.successors g = (c2, none)) : ∃ t, exec (.gridRetire g) s = .next t ∧ Gone t.chip g ∧ t.chip.mem = c2.mem := by
  obtain ⟨c3, hfin, hgone, hmem⟩ := finishRetire_drops hs gr id
  exact ⟨_, h.trans (runChipE_ok hfin), hgone, hmem⟩

/-- R315, R341: a grid without decrements to make, since it has failed or triggered, leaves the part. -/
theorem leaves_without_successors {e : Grid} (h : exec (.gridRetire g) s = runChipE s (fun _ => (c.setGrid g e).finishRetire g gr id))
    (hd : e.dec = none) : ∃ t, exec (.gridRetire g) s = .next t ∧ Gone t.chip g ∧ t.chip.mem = c.mem := by
  obtain ⟨t, ht, hgone, hmem⟩ := leaves_of_successors h (successors_setGrid_none c g e hd)
  exact ⟨t, ht, hgone, hmem⟩

end

/-- R341, R343, R349: a grid whose gangs have all ended leaves the part. -/
theorem gridRetire : GridRetire := by
  intro s g gr hg hp hk
  refine ⟨fun cls hf hr he hd => ?_, fun hf hr he hrem hcores => ?_, fun x c2 hr he hs => ?_⟩
  · exact leaves_without_successors (gridRetire_failed hg hp hk hf hr he) hd
  · have hrun := gridRetire_completes hg hp hk hf hr he hrem hcores
    refine ⟨fun ht hd => ?_, fun c2 ht hs => ?_, fun c2 st c3 ht hs hst => ?_⟩
    · simp only [ht, if_true] at hrun
      exact leaves_without_successors hrun hd
    · simp only [ht, Bool.false_eq_true, if_false] at hrun
      exact leaves_of_successors hrun hs
    · simp only [ht, Bool.false_eq_true, if_false] at hrun
      rw [hrun]
      exact runChipE_ok ((finishRetire_stops hs gr _).trans hst)
  · exact leaves_of_successors (gridRetire_resumes hg hp hk hr he) hs

/-- Settles O43: groups, gangs and grids retire. -/
theorem retirement : Obligations.Retirement := ⟨groupAndGangRetire, gridRetire⟩

end Sys2Proof.Proofs
end

section
/-! PROOF. Words and instructions (O55, O57, O58): what an issue runs is what the word decodes to; words written out; the word that a
well-formed instruction encodes to and that decodes to nothing. -/

namespace Sys2Proof.Proofs

open Sys2Proof Sys2Proof.Machine Sys2Proof.Claims

/-! ### Steps and the words they run -/

/-- R40: a word of an entered clause that decodes is run under the clause's header. -/
theorem runWord_decoded {i : Issue} {c c1 : Chip} {s : State} {w : Nat} {k : Instr} (hidx : i.pos.idx ≤ i.hdr.count.toNat)
    (hf : c.fetchAt i.eng.core (c.tagOf (c.gangOf i.eng)) i.pos.word.toNat = .ok (w, c1))
    (hk : decodeIn i.eng.cls i.hdr i.pos.idx w = .ok k) : runWord i c s = exec k (issuingOn s c1 i) := by
  simp only [runWord, if_neg (Nat.not_lt.2 hidx), hf, hk]
  rfl

/-- R36, R39, R40: the lanes that an issue takes run the instruction that the word where they stand decodes to. -/
theorem issueLanes_runsDecoded {s : State} {e : Eng} {p : Pos} {m : BitVec 64} (h : s.chip.lanesAt e p &&& m ≠ 0) :
    RunsDecoded s e p (s.chip.lanesAt e p &&& m) (issueLanes e p m s) := by
  have hrun : issueLanes e p m s
      = Out.map (State.issued e (s.chip.lanesAt e p &&& m) p s.chip.nextOp) (runAt e (s.chip.lanesAt e p &&& m) p s) := if_neg h
  rw [hrun]
  refine ⟨?_, ?_, ?_, ?_⟩
  · intro hw c k hp hn hf hk
    congr 1
    simp only [runAt, hp, hn, hf, hk, Bool.false_eq_true, if_false]
    rfl
  · intro hd hp hn
    congr 1
    simp only [runAt, hp, hn, Bool.false_eq_true, if_false]
    rfl
  · intro hd w c k hp hn hidx hf hk
    congr 1
    simp only [runAt, hp, hn, if_true]
    exact runWord_decoded (i := issueOf e _ p hd) hidx hf hk
  · intro hw c w c2 k hp hn hf hd c1 hidx hf2 hk
    congr 1
    simp only [runAt, hp, hn, hf, if_true]
    exact runWord_decoded (i := issueOf e _ p hd) hidx hf2 hk

/-- Settles O55: a step takes the next input, or the next issue of the cycle's plan, and runs what stands there. -/
theorem stepRunsDecoded : Obligations.StepRunsDecoded := by
  intro s
  refine ⟨?_, ?_, ?_, ?_⟩
  · intro k rest ha hs
    simp [step, ha, Act.stalls, hs, act]
  · intro k rest ha hs
    simp [step, ha, Act.stalls, hs]
  · intro e p rest ha h
    have hall : s.chip.lanesAt e p &&& BitVec.allOnes 64 = s.chip.lanesAt e p := BitVec.and_allOnes
    have hstep : step s = issueLanes e p (BitVec.allOnes 64) { s with agenda := rest } := by simp [step, ha, Act.stalls, act, issueAt]
    have hrun := issueLanes_runsDecoded (s := { s with agenda := rest }) (m := BitVec.allOnes 64) (e := e) (p := p) (by rwa [hall])
    rwa [hall, ← hstep] at hrun
  · intro e p m ts ha hl hp s1 h
    have hstep : step s = issueLanes e p m s1 := by simp [step, ha, leftAlone, hl, runPart, hp, Turn.run, s1]
    rw [hstep]
    exact issueLanes_runsDecoded h

/-! ### Words -/

/-- Settles O57: each word is split into the fields of its format and checked against the encoding. -/
theorem decodedWords : Obligations.DecodedWords := by
  refine ⟨?_, ?_, ?_, ?_, ?_, ?_, ?_, ?_, ?_, ?_⟩ <;> rfl

/-- Refutes O58: the encoder takes FSEL as it stands, and `Instr.wf` does not shut out FSEL 3, the value that R44 reserves: the well-formed
LD with FSEL 3 encodes to a word that is ILLEGAL_INSTRUCTION, reason 2. -/
theorem not_encodingRoundTrip : ¬ Obligations.EncodingRoundTrip := by
  rintro ⟨hround, -⟩
  obtain ⟨-, hdec⟩ := hround (.ld 0 3 0 0 0 0 0) .lane 0x810000000000000C rfl rfl
  have hill : decodeWord .lane 0x810000000000000C = .error (.instruction 2) := rfl
  rw [if_neg (by decide), hill] at hdec
  cases hdec

end Sys2Proof.Proofs
end

section
/-! PROOF. NOP and clause headers (O7): what entering a clause leaves of a warp or a stream, and the trap of a header of another class. -/

namespace Sys2Proof.Proofs

open Sys2Proof Sys2Proof.Machine Sys2Proof.Claims

/-! ### Causal IDs and lanes -/

/-- R383: drawing a causal ID counts in its engine's core, and changes nothing else. -/
theorem nextCid_form (c : Chip) (e : Eng) :
    ∃ a b d, (c.nextCid e).1 = c.setCore e.core { c.core e.core with seqW := a, seqM := b, seqD := d } := by
  cases e <;> exact ⟨_, _, _, rfl⟩

theorem nextCid_mem (c : Chip) (e : Eng) : (c.nextCid e).1.mem = c.mem := by
  obtain ⟨a, b, d, h⟩ := nextCid_form c e
  rw [h, Chip.setCore_mem]

/-- R383: the warps and the sequencers of every core stand where they stood once a causal ID is drawn. -/
theorem nextCid_core (c : Chip) (e : Eng) (n : Nat) :
    ((c.nextCid e).1.core n).warps = (c.core n).warps ∧ ((c.nextCid e).1.core n).mat = (c.core n).mat
      ∧ ((c.nextCid e).1.core n).dray = (c.core n).dray := by
  obtain ⟨a, b, d, h⟩ := nextCid_form c e
  rw [h, Chip.core_setCore]
  split
  · subst n; exact ⟨rfl, rfl, rfl⟩
  · exact ⟨rfl, rfl, rfl⟩

/-- The cores of a chip after a record are those before it. -/
theorem emit_core (c : Chip) (source type : Nat) (cid payload : DWord) (extra n : Nat) :
    (c.emit source type cid payload extra).core n = c.core n :=
  congrArg (fun m => aget Core.zero m n) (emit_keeps c source type cid payload extra).2

/-- Lanes of one set changed twice are changed once. -/
theorem mapLanes_mapLanes (m : BitVec 64) (f g : Nat → Lane → Lane) (b : Nat) (ls : List Lane) :
    mapLanes m g b (mapLanes m f b ls) = mapLanes m (fun k l => g k (f k l)) b ls := by
  induction ls generalizing b with
  | nil => rfl
  | cons l ls ih => by_cases h : m.getLsbD b <;> simp [mapLanes, ih, h]

theorem onLanes_onLanes (w : Warp) (m : BitVec 64) (f g : Nat → Lane → Lane) :
    (w.onLanes m f).onLanes m g = w.onLanes m (fun k l => g k (f k l)) :=
  congrArg (fun ls => { w with lanes := ls }) (mapLanes_mapLanes m f g 0 w.lanes)

/-! ### One engine of a core changed -/

theorem onlyMat_setMat {core : Nat} {m' : Mat} {s t : State} (h : OnlyMat core m' s t) (m : Mat) :
    OnlyMat core m s { t with chip := t.chip.setMat core m } := by
  refine ⟨h.1, fun n => ?_⟩
  have hn := h.2 n
  simp only [Chip.setMat, Chip.core_setCore]
  split
  · subst n; rw [hn, if_pos rfl]
  · rw [hn, if_neg ‹_›]

theorem onlyMat_self (core : Nat) (s : State) : OnlyMat core (s.chip.core core).mat s s :=
  ⟨rfl, fun n => by split <;> simp [*]⟩

theorem onlyDray_setDray {core : Nat} {d' : Dray} {s t : State} (h : OnlyDray core d' s t) (d : Dray) :
    OnlyDray core d s { t with chip := t.chip.setDray core d } := by
  refine ⟨h.1, fun n => ?_⟩
  have hn := h.2 n
  simp only [Chip.setDray, Chip.core_setCore]
  split
  · subst n; rw [hn, if_pos rfl]
  · rw [hn, if_neg ‹_›]

theorem onlyDray_self (core : Nat) (s : State) : OnlyDray core (s.chip.core core).dray s s :=
  ⟨rfl, fun n => by split <;> simp [*]⟩

/-! ### Clause headers -/

/-- R39: the lane set or stream in issue inside the clause at whose header it stood, which it keeps. -/
def clauseEntered (c : Chip) (i : Issue) (h : Header) : Chip :=
  (c.place i { addr := i.pos.addr, idx := 0, entered := true }).keepHeader i.eng i.lanes h

/-- R39, R384: the same with the record of a traced header. -/
def clauseStarted (c : Chip) (i : Issue) (h : Header) : Chip :=
  let c1 := clauseEntered c i h
  if h.trace then
    (c1.nextCid i.eng).1.emit i.source 0x10 (c1.nextCid i.eng).2 i.pos.addr (if c.isChild i.eng then 4 else 0)
  else c1

/-- A traced header leaves memory, the warps and the sequencers as entering the clause does. -/
theorem clauseStarted_keeps (c : Chip) (i : Issue) (h : Header) (n : Nat) :
    (clauseStarted c i h).mem = (clauseEntered c i h).mem
      ∧ ((clauseStarted c i h).core n).warps = ((clauseEntered c i h).core n).warps
      ∧ ((clauseStarted c i h).core n).mat = ((clauseEntered c i h).core n).mat
      ∧ ((clauseStarted c i h).core n).dray = ((clauseEntered c i h).core n).dray := by
  unfold clauseStarted
  split
  · rw [emit_core, (emit_keeps _ _ _ _ _ _).1, nextCid_mem]
    exact ⟨rfl, nextCid_core _ _ n⟩
  · exact ⟨rfl, rfl, rfl, rfl⟩

/-- R42: no flag of a mask is set where each of them reads zero. -/
theorem flagsHeld_false {cf : AMap Nat} {mask : BitVec 12} (h : ∀ k < 12, mask.getLsbD k → cfGet cf k = 0) : flagsHeld cf mask = false := by
  rw [flagsHeld, List.any_eq_false]
  intro k hk
  by_cases hm : mask.getLsbD k = true
  · simp [h k (List.mem_range.1 hk) hm]
  · simp [hm]

section
variable {s : State} {i : Issue} {core : Nat}

/-- R39: a header of the engine's own class whose flags are clear is entered. -/
theorem exec_clauseStart_enters (hc : s.chip.cur = some i) (h : Header) (hf : flagsHeld (s.chip.flags i.eng) h.wait = false) :
    exec (.clauseStart i.eng.cls h) s = .next { s with chip := clauseStarted s.chip i h } := by
  have hexec : exec (.clauseStart i.eng.cls h) s = execClauseStart i.eng.cls h s := rfl
  rw [hexec, execClauseStart]
  refine runIssue_ok hc ?_
  simp only [ne_eq, not_true, if_false, hf, Bool.false_eq_true, clauseStarted, clauseEntered]
  split <;> rfl

/-- R39: a header of another class than the engine's is ILLEGAL_CLAUSE, reason 3. -/
theorem exec_clauseStart_traps (hc : s.chip.cur = some i) {cls : Sys2Proof.Class} (h : Header) (hcls : cls ≠ i.eng.cls) :
    exec (.clauseStart cls h) s = .next (s.trapped i (0x02000000 + classByte cls * 0x10000 + 3) (lowLane i.lanes) 0) := by
  have hsyn : syndrome 2 (classByte cls * 65536 + 3) = 0x02000000 + classByte cls * 0x10000 + 3 := by cases cls <;> rfl
  have hexec : exec (.clauseStart cls h) s = execClauseStart cls h s := rfl
  rw [← hsyn, hexec, execClauseStart]
  exact runIssue_trap hc (if_pos hcls)

/-- R39: a warp whose lanes in issue enter a clause, and keep the header. -/
def warpEntered (w : Warp) (i : Issue) (h : Header) : Warp :=
  w.onLanes i.lanes (fun _ l => { l with pos := { addr := i.pos.addr, idx := 0, entered := true }, wait := none, hdr := some h })

theorem clauseEntered_warp {slot : Nat} {w : Warp} {c : Chip} (he : i.eng = .warp core slot) (hw : c.warp core slot = some w) (h : Header) :
    clauseEntered c i h = c.setWarp core slot (some (warpEntered w i h)) := by
  simp only [clauseEntered, warpEntered, Chip.place, Chip.keepHeader, he, hw, Chip.warp_setWarp_same, Chip.setWarp_setWarp, onLanes_onLanes]

/-- R39: a stream that enters a clause, and keeps the header. -/
def streamEntered (st : Stream) (i : Issue) (h : Header) : Stream :=
  { moved st { addr := i.pos.addr, idx := 0, entered := true } with hdr := some h }

theorem clauseEntered_matrix (he : i.eng = .matrix core) (h : Header) :
    OnlyMat core { (s.chip.core core).mat with s := streamEntered (s.chip.core core).mat.s i h } s
      { s with chip := clauseEntered s.chip i h } := by
  have h1 := onlyMat_setMat (onlyMat_self core s)
    { (s.chip.core core).mat with s := moved (s.chip.core core).mat.s { addr := i.pos.addr, idx := 0, entered := true } }
  have h2 := onlyMat_setMat h1 { (s.chip.core core).mat with s := streamEntered (s.chip.core core).mat.s i h }
  simp only [clauseEntered, Chip.place, Chip.keepHeader, he, Chip.modStream, Chip.setMat, Chip.core_setCore_same] at h2 ⊢
  exact h2

theorem clauseEntered_copy (he : i.eng = .copy core) (h : Header) :
    OnlyDray core { (s.chip.core core).dray with s := streamEntered (s.chip.core core).dray.s i h } s
      { s with chip := clauseEntered s.chip i h } := by
  have h1 := onlyDray_setDray (onlyDray_self core s)
    { (s.chip.core core).dray with s := moved (s.chip.core core).dray.s { addr := i.pos.addr, idx := 0, entered := true } }
  have h2 := onlyDray_setDray h1 { (s.chip.core core).dray with s := streamEntered (s.chip.core core).dray.s i h }
  simp only [clauseEntered, Chip.place, Chip.keepHeader, he, Chip.modStream, Chip.setDray, Chip.core_setCore_same] at h2 ⊢
  exact h2

end

theorem wordsWithoutEffect : WordsWithoutEffect := by
  refine ⟨fun s i core slot w hi => ?_, fun h s i core slot w hi hf => ?_⟩
  · obtain ⟨w', hadv, hpass, hrest⟩ := advance_warp s.chip i core slot w hi.eng hi.warp
    exact ⟨w', (runIssue_ok hi.cur (congrArg Except.ok hadv) : execNop s = _), hpass, hrest⟩
  · have hcls : i.eng.cls = .lane := by rw [hi.eng]; rfl
    have hflags : s.chip.flags i.eng = w.cf := by rw [hi.eng]; simp only [Chip.flags, hi.warp]; rfl
    have hrun := exec_clauseStart_enters hi.cur h (by rw [hflags]; exact flagsHeld_false hf)
    have hent := clauseEntered_warp hi.eng hi.warp h
    obtain ⟨hmem, hwarps, -, -⟩ := clauseStarted_keeps s.chip i h core
    rw [hcls] at hrun
    refine ⟨_, warpEntered w i h, hrun, ?_, rfl, Warp.lane_onLanes w _ _, ?_, fun ht => ?_⟩
    · rw [warpIn, Chip.warp, hwarps, ← Chip.warp, hent, Chip.warp_setWarp_same]
    · rw [hmem, hent, Chip.setWarp_mem]
    · rw [← hent, clauseStarted, if_neg (by simp [ht])]

theorem clauseClassTrap : ClauseClassTrap := by
  intro cls h s i core slot w hi hcls
  have htrap := exec_clauseStart_traps hi.cur h (cls := cls) (by rw [hi.eng]; exact hcls)
  cases cls with
  | lane => exact absurd rfl hcls
  | matrix => exact htrap
  | copy => exact htrap

theorem sequencerClauses : SequencerClauses := by
  intro cls h s i core hc entered
  refine ⟨fun he => ⟨fun hf => ?_, fun hcls => ?_⟩, fun he => ⟨fun hf => ?_, fun hcls => ?_⟩⟩
  · have hent := clauseEntered_matrix (s := s) he h
    have hrun := exec_clauseStart_enters hc h (by rw [he]; exact flagsHeld_false hf)
    obtain ⟨hmem, -, hmat, -⟩ := clauseStarted_keeps s.chip i h core
    rw [he] at hrun
    refine ⟨_, hrun, ?_, ?_, fun ht => ?_⟩
    · rw [hmat]; exact congrArg Core.mat ((hent.2 core).trans (if_pos rfl))
    · rw [hmem]; exact congrArg (fun t => t.chip.mem) hent.1
    · rwa [clauseStarted, if_neg (by simp [ht])]
  · have htrap := exec_clauseStart_traps hc h (cls := cls) (by rw [he]; exact hcls)
    cases cls with
    | lane => exact htrap
    | matrix => exact absurd rfl hcls
    | copy => exact htrap
  · have hent := clauseEntered_copy (s := s) he h
    have hrun := exec_clauseStart_enters hc h (by rw [he]; exact flagsHeld_false hf)
    obtain ⟨hmem, -, -, hdray⟩ := clauseStarted_keeps s.chip i h core
    rw [he] at hrun
    refine ⟨_, hrun, ?_, ?_, fun ht => ?_⟩
    · rw [hdray]; exact congrArg Core.dray ((hent.2 core).trans (if_pos rfl))
    · rw [hmem]; exact congrArg (fun t => t.chip.mem) hent.1
    · rwa [clauseStarted, if_neg (by simp [ht])]
  · have htrap := exec_clauseStart_traps hc h (cls := cls) (by rw [he]; exact hcls)
    cases cls with
    | lane => exact htrap
    | matrix => exact htrap
    | copy => exact absurd rfl hcls

/-- Settles O7: NOP, and the headers of the three classes. -/
theorem clauseWords : Obligations.ClauseWords := ⟨wordsWithoutEffect, clauseClassTrap, sequencerClauses⟩

end Sys2Proof.Proofs
end

section
/-! PROOF. Long-latency operations (O11): what their issue and their end leave of a warp, its flags and the operations in flight. -/

namespace Sys2Proof.Proofs

open Sys2Proof Sys2Proof.Machine Sys2Proof.Claims

/-! ### Issue -/

/-- R42-R44: a warp whose lanes in issue have passed an operation's word: its flag has risen, or they wait for operation `id`. -/
def warpIssued (w : Warp) (i : Issue) (flag : Option Nat) (id : Nat) : Warp :=
  { w.onLanes i.lanes (fun _ l =>
      { l with pos := i.pos.after i.hdr, wait := none, sync := if flag = none then some id else l.sync }) with
    cf := (flag.map (cfUp w.cf)).getD w.cf }

/-- R42-R44: the engine of an issued operation passes its word; its flag rises, or it waits for operation `id`. -/
def passedBy (c : Chip) (i : Issue) (flag : Option Nat) (id : Nat) : Chip :=
  match flag with
  | some f => (c.advance i).modFlags i.eng (fun cf => cfUp cf f)
  | none =>
    match i.eng with
    | .warp n s =>
      match (c.advance i).warp n s with
      | none => c.advance i
      | some w => (c.advance i).setWarp n s (some (w.onLanes i.lanes (fun _ l => { l with sync := some id })))
    | .matrix _ => (c.advance i).modStream i.eng (fun s => { s with sync := some id })
    | .copy _ => (c.advance i).modStream i.eng (fun s => { s with sync := some id })

/-- R42: an issued operation joins those in flight, and its engine passes the word. -/
theorem issueOp_passedBy (c : Chip) (i : Issue) (o : Op) :
    c.issueOp i o = passedBy { c with ops := c.ops ++ [inFlight c i o], nextOp := c.nextOp + 1 } i o.flag c.nextOp := rfl

theorem passedBy_warp {c : Chip} {i : Issue} {core slot : Nat} {w : Warp} (he : i.eng = .warp core slot) (hw : c.warp core slot = some w)
    (flag : Option Nat) (id : Nat) : passedBy c i flag id = c.setWarp core slot (some (warpIssued w i flag id)) := by
  unfold passedBy
  have hadv : c.advance i = c.setWarp core slot (some (w.onLanes i.lanes (fun _ l => { l with pos := i.pos.after i.hdr, wait := none }))) := by
    simp [Chip.advance, he, hw]
  rw [hadv]
  cases flag with
  | some f => simp only [he, Chip.modFlags, Chip.warp_setWarp_same, Chip.setWarp_setWarp]; rfl
  | none => simp only [he, Chip.warp_setWarp_same, Chip.setWarp_setWarp, onLanes_onLanes]; rfl

/-- R42-R44: an issued operation of a warp joins those in flight, and its warp passes the word. -/
theorem issueOp_warp {c : Chip} {i : Issue} {core slot : Nat} {w : Warp} (he : i.eng = .warp core slot) (hw : c.warp core slot = some w)
    (o : Op) : c.issueOp i o = ({ c with ops := c.ops ++ [inFlight c i o], nextOp := c.nextOp + 1 } : Chip).setWarp core slot
      (some (warpIssued w i o.flag c.nextOp)) :=
  passedBy_warp (c := { c with ops := c.ops ++ [inFlight c i o], nextOp := c.nextOp + 1 }) he hw o.flag c.nextOp

/-- R42: a flag raised where an operation names it. -/
theorem cfGet_raised (cf : AMap Nat) (flag : Option Nat) (k : Nat) :
    cfGet ((flag.map (cfUp cf)).getD cf) k = cfGet cf k + (if flag = some k then 1 else 0) := by
  cases flag with
  | none => simp
  | some f =>
    simp only [Option.map_some, Option.getD_some, cfGet, cfUp, aget_aput, Option.some.injEq]
    by_cases h : k = f
    · simp [h]
    · simp [h, Ne.symm h]

/-- R42: a flag lowered where an operation names it. -/
theorem cfGet_lowered (cf : AMap Nat) (flag : Option Nat) (k : Nat) :
    cfGet ((flag.map (cfDown cf)).getD cf) k = cfGet cf k - (if flag = some k then 1 else 0) := by
  cases flag with
  | none => simp
  | some f =>
    simp only [Option.map_some, Option.getD_some, cfGet, cfDown, aget_aput, Option.some.injEq]
    by_cases h : k = f
    · simp [h]
    · simp [h, Ne.symm h]

theorem longLatencyIssue : LongLatencyIssue := by
  intro c i o core slot w he hw
  have hissue := issueOp_warp he hw o
  refine ⟨warpIssued w i o.flag c.nextOp, ?_, ?_, ?_, ?_, rfl, cfGet_raised w.cf o.flag, Warp.lane_onLanes w _ _⟩
  · rw [hissue, Chip.setWarp_ops]
  · rw [hissue, Chip.setWarp_nextOp]
  · rw [hissue, Chip.warp_setWarp_same]
  · rw [hissue, Chip.setWarp_mem]

/-! ### EVT -/

theorem eventRecord : EventRecord := by
  intro g a code s i core slot w f l c id hi hr ha hfull
  have hp : prep f i s.chip = .ok (f.prepared i core slot w) := prep_ready f s i core slot w hi hr
  have hexec : exec (.evt g a code) s = execEvt g a code s := rfl
  rw [hexec, execEvt]
  refine runIssue_ok hi.cur ?_
  rw [withFlag, hfull, if_neg (by decide)]
  simp only [f, ctlForm, srcPair] at hp
  simp only [hp]
  exact if_neg ha

/-! ### Completion -/

/-- R42, R44: a warp that an operation has left: its flag lowered, the lanes that waited for it free to go on. -/
def warpLeft (w : Warp) (o : Op) : Warp := ({ w with cf := (o.flag.map (cfDown w.cf)).getD w.cf } : Warp).unsync o.id

/-- R42, R44: an operation of a warp leaves. -/
theorem leaveOp_warp {c : Chip} {o : Op} {core slot : Nat} {w : Warp} (hfind : c.ops.find? (fun x => x.id == o.id) = some o)
    (he : o.eng = .warp core slot) (hw : c.warp core slot = some w) :
    c.leaveOp o = ({ c with ops := c.ops.filter (fun x => x.id != o.id) } : Chip).setWarp core slot (some (warpLeft w o)) := by
  have hw1 : ({ c with ops := c.ops.filter (fun x => x.id != o.id) } : Chip).warp core slot = some w := hw
  unfold Chip.leaveOp Chip.dropOp
  cases hf : o.flag with
  | none => simp only [hfind, he, hf, hw1, warpLeft]; rfl
  | some f =>
    simp only [hfind, he, hf, Chip.modFlags, hw1, Chip.warp_setWarp_same, Chip.setWarp_setWarp, warpLeft]
    rfl

/-- R42, R43: an operation of a warp writes its destinations there. -/
theorem deliverOp_warp {c : Chip} {o : Op} {core slot : Nat} {w : Warp} (he : o.eng = .warp core slot) (hw : c.warp core slot = some w) :
    c.deliverOp o = c.setWarp core slot (some ((w.complete o).noteMarks o)) := by
  simp only [Chip.deliverOp, he, hw]

/-- A core set to one with its own warps leaves every warp as it was. -/
theorem warp_setCore {c : Chip} {n : Nat} {k : Core} (hk : k.warps = (c.core n).warps) (core slot : Nat) :
    (c.setCore n k).warp core slot = c.warp core slot := by
  simp only [Chip.warp, Chip.core_setCore]
  split
  case isTrue h => rw [hk, h]
  case isFalse => rfl

/-- R224: an acquire leaves memory, the operations in flight and every warp as they were. -/
theorem acquire_keeps (c : Chip) (n scope core slot : Nat) :
    (c.acquire n scope).mem = c.mem ∧ (c.acquire n scope).ops = c.ops ∧ (c.acquire n scope).warp core slot = c.warp core slot := by
  unfold Chip.acquire
  split
  case isTrue => exact ⟨rfl, rfl, rfl⟩
  case isFalse =>
    exact ⟨rfl, rfl, warp_setCore (c := c) (n := n) (k := { c.core n with
      l1 := ((c.core n).l1.map (fun e => if e.priv then e else { e with valid := e.valid &&& e.dirty })).filter (fun e => e.valid != 0) })
      rfl core slot⟩

theorem acquireBy_keeps (c : Chip) (e : Eng) (scope core slot : Nat) :
    (c.acquireBy e scope).mem = c.mem ∧ (c.acquireBy e scope).ops = c.ops ∧ (c.acquireBy e scope).warp core slot = c.warp core slot := by
  cases e with
  | matrix n => exact ⟨rfl, rfl, rfl⟩
  | copy n => exact ⟨rfl, rfl, rfl⟩
  | warp n k => exact acquire_keeps c n scope core slot

/-- Of several writes of one key of a map the last stays. -/
theorem aget_foldl_aput {α β : Type} [DecidableEq α] (d : α) (f : β → α) (ws : List (Nat × β)) (m : AMap α) (k : Nat) :
    aget d (ws.foldl (fun m p => aput d m p.1 (f p.2)) m) k
      = ((ws.reverse.find? (fun x => x.1 == k)).map (fun x => f x.2)).getD (aget d m k) := by
  induction ws generalizing m with
  | nil => rfl
  | cons p ws ih =>
    rw [List.foldl_cons, ih, List.reverse_cons, List.find?_append, aget_aput]
    cases ws.reverse.find? (fun x => x.1 == k) with
    | some q => rfl
    | none =>
      by_cases h : p.1 = k
      · simp [h]
      · simp [h, Ne.symm h]

/-- R43, R322: the lane registers that an operation writes, those of exited lanes left out. -/
theorem foldl_setV (ex : Nat → Bool) (ws : List (Nat × Word × Bool)) (w : Warp) (hex : ∀ j, (w.lane j).exited = ex j) :
    ∃ vp, ws.foldl (fun (x : Warp) p => if (x.lane (p.1 % 64)).exited then x else x.setV (p.1 / 64) (p.1 % 64) p.2.1.toNat p.2.2) w
      = { w with v := (ws.filter (fun x => !ex (x.1 % 64))).foldl (fun m p => aput 0 m p.1 p.2.1) w.v, vp := vp } := by
  induction ws generalizing w with
  | nil => exact ⟨w.vp, rfl⟩
  | cons p ws ih =>
    rw [List.foldl_cons, hex]
    by_cases h : ex (p.1 % 64) = true
    · simpa [h] using ih w hex
    · obtain ⟨vp, hvp⟩ := ih (w.setV (p.1 / 64) (p.1 % 64) p.2.1.toNat p.2.2) hex
      refine ⟨vp, ?_⟩
      simp only [h, Bool.false_eq_true, if_false, hvp, Bool.not_false, List.filter_cons_of_pos, List.foldl_cons]
      simp only [Warp.setV, Nat.div_add_mod', BitVec.ofNat_toNat, BitVec.setWidth_eq]

/-- R43: the uniform registers that an operation writes. -/
theorem foldl_setU (us : List (Nat × Word × Bool)) (w : Warp) :
    ∃ up, us.foldl (fun (x : Warp) p => x.setU p.1 p.2.1.toNat p.2.2) w
      = { w with u := us.foldl (fun m p => aput 0 m p.1 p.2.1) w.u, up := up } := by
  induction us generalizing w with
  | nil => exact ⟨w.up, rfl⟩
  | cons p us ih =>
    obtain ⟨up, hup⟩ := ih (w.setU p.1 p.2.1.toNat p.2.2)
    refine ⟨up, ?_⟩
    simp only [List.foldl_cons, hup]
    simp only [Warp.setU, BitVec.ofNat_toNat, BitVec.setWidth_eq]

/-- R43, R322: what an operation writes in its warp; the lanes and the flags stay as they are. -/
theorem complete_writes (w : Warp) (o : Op) :
    written (o.writes.filter (fun x => !(w.lane (x.1 % 64)).exited)) o.uwrites w (w.complete o)
      ∧ (∀ q, aget 0 (w.complete o).q q = ((o.qwrite.filter (fun x => x.1 == q)).map (fun x => x.2.1)).getD (aget 0 w.q q))
      ∧ (w.complete o).lanes = w.lanes ∧ (w.complete o).cf = w.cf := by
  obtain ⟨vp, hv⟩ := foldl_setV (fun j => (w.lane j).exited) o.writes w (fun _ => rfl)
  obtain ⟨up, hu⟩ := foldl_setU o.uwrites { w with
    v := (o.writes.filter (fun x => !(w.lane (x.1 % 64)).exited)).foldl (fun m p => aput 0 m p.1 p.2.1) w.v, vp := vp }
  have hwritten (y : Warp) (hy : y.v = (o.writes.filter (fun x => !(w.lane (x.1 % 64)).exited)).foldl (fun m p => aput 0 m p.1 p.2.1) w.v)
      (hy' : y.u = o.uwrites.foldl (fun m p => aput 0 m p.1 p.2.1) w.u) :
      written (o.writes.filter (fun x => !(w.lane (x.1 % 64)).exited)) o.uwrites w y :=
    ⟨fun k => hy ▸ aget_foldl_aput 0 Prod.fst _ w.v k, fun k => hy' ▸ aget_foldl_aput 0 Prod.fst _ w.u k⟩
  unfold Warp.complete
  simp only [hv, hu]
  cases o.qwrite with
  | none => exact ⟨hwritten _ rfl rfl, fun q => rfl, rfl, rfl⟩
  | some x =>
    refine ⟨hwritten _ rfl rfl, fun q => ?_, rfl, rfl⟩
    by_cases h : x.1 = q
    · simp [Option.filter, h]
    · simp [Option.filter, aget_aput, h, Ne.symm h]

theorem lane_unsync (w : Warp) (id l : Nat) :
    ((w.unsync id).lane l).exited = (w.lane l).exited
      ∧ ((w.unsync id).lane l).sync = if (w.lane l).sync = some id then none else (w.lane l).sync := by
  simp only [Warp.lane, Warp.unsync, List.getD_eq_getElem?_getD, List.getElem?_map]
  cases w.lanes[l]? <;> simp

/-- R42, R43, R46: an operation of a warp that awaits nothing writes its destinations and leaves; an acquire at its scope follows. -/
theorem exec_opComplete {s : State} {o : Op} {core slot : Nat} {w : Warp} (hfind : s.chip.ops.find? (fun x => x.id == o.id) = some o)
    (he : o.eng = .warp core slot) (hw : s.chip.warp core slot = some w) (hhold : o.hold = false) (hlate : o.late = none)
    (hfail : o.fail = none) (hrace : o.race = none) (hcode : o.code ≠ 0x94) (hg : ∃ k, s.chip.gang o.gang = some k ∧ k.phase < 2) :
    ∃ rs, exec (.opComplete o.id) s = .next { s with
      chip := (({ s.chip with ops := s.chip.ops.filter (fun x => x.id != o.id), remotes := rs } : Chip).setWarp core slot
        (some (((warpLeft w o).complete o).noteMarks o))).acquireBy o.eng o.acq } := by
  have hexec : exec (.opComplete o.id) s = execOpComplete o.id s := rfl
  have hready : s.chip.opReady o = true := by
    obtain ⟨k, hk, hp⟩ := hg
    simpa [Chip.opReady, hhold, hk, hcode, hlate] using Nat.le_of_lt_succ hp
  have hleave := leaveOp_warp (c := { s.chip with remotes := s.chip.remotes.filter (fun r => !(r.op == some o.id && r.dst == 2 ^ 22)) })
    hfind he hw
  refine ⟨s.chip.remotes.filter (fun r => !(r.op == some o.id && r.dst == 2 ^ 22)), ?_⟩
  rw [hexec, execOpComplete, runChip]
  simp only [hfind, hready, hlate, hhold, hfail, Bool.not_true, Bool.false_eq_true, if_false, Chip.finishOp, Chip.overlapAt, hrace, hleave]
  rw [deliverOp_warp he (Chip.warp_setWarp_same _ _ _ _), Chip.setWarp_setWarp]

theorem operationCompletes : OperationCompletes := by
  intro s o core slot w hfind he hw hhold hlate hfail hrace hcode hg
  obtain ⟨rs, hexec⟩ := exec_opComplete hfind he hw hhold hlate hfail hrace hcode hg
  obtain ⟨hmem, hops, hwarp⟩ := acquireBy_keeps (({ s.chip with
    ops := s.chip.ops.filter (fun x => x.id != o.id), remotes := rs } : Chip).setWarp core slot
      (some (((warpLeft w o).complete o).noteMarks o))) o.eng o.acq core slot
  obtain ⟨hwritten, hq, hlanes, hcf⟩ := complete_writes (warpLeft w o) o
  have hexited : (fun x : Nat × Word × Bool => !((warpLeft w o).lane (x.1 % 64)).exited) = fun x => !(w.lane (x.1 % 64)).exited :=
    funext fun x => congrArg not (lane_unsync _ o.id (x.1 % 64)).1
  rw [hexited] at hwritten
  refine ⟨_, ((warpLeft w o).complete o).noteMarks o, hexec, ?_, fun x hx => ?_, hwritten, fun k => ?_, hq, fun l => ?_, ?_⟩
  · rw [warpIn, hwarp, Chip.warp_setWarp_same]
  · rw [hops, Chip.setWarp_ops] at hx
    simpa using (List.mem_filter.1 hx).2
  · exact (congrArg (fun cf => cfGet cf k) hcf).trans (cfGet_lowered w.cf o.flag k)
  · have hl : ((((warpLeft w o).complete o).noteMarks o).lane l) = (warpLeft w o).lane l := by
      simp only [Warp.lane, Warp.noteMarks, hlanes]
    rw [hl]
    exact (lane_unsync _ o.id l).2
  · rw [hmem, Chip.setWarp_mem]

/-- Settles O11: EVT, the issue of an operation, and its end. -/
theorem longLatency : Obligations.LongLatency := ⟨eventRecord, longLatencyIssue, operationCompletes⟩

end Sys2Proof.Proofs
end

section
/-! PROOF. Matrix products (O32): the syndrome of FORMAT is cut to its 24 bits of detail, which the claim's is not. -/

namespace Sys2Proof.Proofs

open Sys2Proof Sys2Proof.Machine Sys2Proof.Claims

/-- A matrix stream in issue at the first word of a clause of core 0, no flag named. -/
def productIssue : Issue :=
  { eng := .matrix 0, lanes := 1, pos := bootPos 0,
    hdr := { count := 0, wait := 0, setaEn := false, seta := 0, setbEn := false, setb := 0, trace := false } }

/-- A matrix engine whose tile 0 holds a format number of 22 bits; SR.MPRG names no state. -/
def unheldFormat : Mat := { Mat.zero with s := { Stream.zero with st := 1 }, tiles := [(0, { Tile.zero with fmt := 2 ^ 21 })] }

/-- A gang of `bootKernel` on core 0 whose matrix stream issues on that engine. -/
def productState : State :=
  { State.reset with chip := { Chip.reset with
      running := true, cores := [(0, { Core.zero with mat := unheldFormat })], grids := [(0, some bootGrid)],
      gangs := [(0, some (Gang.fresh 0 0 0 [bootGroup]))], cur := some productIssue } }

theorem productState_ready : MatReady productState productIssue 0 0xC3 0 [0, 0] none :=
  ⟨rfl, rfl, by decide, by decide, by decide, by decide⟩

/-- SR.MPRG.STATE of core 0 after a step. -/
def progressAfter : Host.Outcome State Fault Refusal → Option Nat
  | .next t => some (t.chip.core 0).mat.prgState
  | _ => none

/-- R368: MMA of the unheld format with itself stops its stream: state 3. -/
theorem progressAfter_mma : progressAfter (exec (.mma 0 0 0 0 0) productState) = some 3 := by decide

/-- The detail of the claim's syndrome carries into its class, 0x0C: such a fault kills the gang, and the stream is not stopped for a trap. -/
theorem progressAfter_carried :
    progressAfter (.next (productState.trapped productIssue (0x0A000000 + 0xC3 * 0x10000 + 2 ^ 21 * 16 + 2 ^ 21) 0 0)) = some 0 := by decide

/-- Refutes O32: `ProductTraps` gives FORMAT the syndrome 0x0A000000 + op * 0x10000 + FA * 16 + FB with nothing to bound FA and FB, the model's
`syndrome` keeps 24 bits of detail (R81). A tile's format is a natural number; at 2 ^ 21, which no instruction makes, the two differ. -/
theorem not_products : ¬ Obligations.Products := by
  rintro ⟨-, -, htraps⟩
  have hformat := (htraps 0 0 0 0 0 productState productIssue 0 _ _ (.head _) productState_ready).2 (.inl (by decide)) (by decide)
  exact absurd (progressAfter_mma.symm.trans ((congrArg progressAfter hformat).trans progressAfter_carried)) (by decide)

end Sys2Proof.Proofs
end

section
/-! PROOF. Floating point in the lanes (O4): a meaning that computes one word from words completes with the value that its table gives; packed
halves, the bit of a predicate and the signed amount of FSCL in the claim's own terms. -/

namespace Sys2Proof.Proofs

open Sys2Proof Sys2Proof.Machine Sys2Proof.Claims

/-! ### Meanings that compute one word -/

/-- Wherever its operands let it, an instruction completes with the results of a line of a table. -/
def Performs (k : Instr) (a : Alu) : Prop :=
  ∀ s i core slot w, Issuing s i core slot w → a.form.Ready s.chip i w →
    CompletesWriting k (a.form.writing i w) a.d.toNat a.n (a.val (a.form.computing i w) w) 0 s i core slot w

theorem computes_of_performs {table : Instr → Option Alu} (h : ∀ k a, table k = some a → Performs k a) : Computes table :=
  fun k a hk _ => h k a hk

/-- The operands of an instruction that computes its result as `aluOp` does. -/
def aluForm (op : Nat) (ct : Ctl) (d : Reg) (n : Nat) (srcs : List Src) : Form :=
  { op := op, g := ct.g, hq := ct.hq, d := some (d, n), ud := .rule, srcs := srcs }

/-- R248, R252: `aluOp` writes what it computes from its sources' values. -/
theorem completes_aluOp {k : Instr} {op n : Nat} {ct : Ctl} {d : Reg} {srcs : List Src} {f : List Nat → Nat} {s : State} {i : Issue}
    {core slot : Nat} {w : Warp} (hk : exec k s = runIssue s (aluOp op ct d n srcs f)) (hi : Issuing s i core slot w)
    (hr : (aluForm op ct d n srcs).Ready s.chip i w) :
    CompletesWriting k ((aluForm op ct d n srcs).writing i w) d.toNat n (fun l => f (srcs.map (fun r => r.val w l))) 0 s i core slot w := by
  refine ⟨_, hk.trans (runIssue_ok hi.cur ?_), wrote_write _ i core slot w d n _ rfl⟩
  have hprep := prep_ready _ s i core slot w hi hr
  unfold aluForm at hprep
  rw [aluOp, hprep]
  exact finish_eq i _ _ s.chip hi.eng

/-- A one-register source's word is its value. -/
theorem word_toNat {r : Src} (hr : r.n = 1) (w : Warp) (l : Nat) : (word r w l).toNat = r.val w l := by
  have hlt := r.val_lt w l
  rw [hr] at hlt
  exact BitVec.toNat_ofNat _ _ ▸ Nat.mod_eq_of_lt hlt

/-- A number written to one register is the word it makes. -/
theorem writes_word {v : Nat} {x : Word} (h : BitVec.ofNat 32 v = x) : v % 2 ^ (32 * 1) = x.toNat % 2 ^ (32 * 1) := by
  rw [← h, BitVec.toNat_ofNat, Nat.mod_mod]

section
variable {k : Instr} {op : Nat} {ct : Ctl} {d a b r : Reg}

/-- R248, R252: an instruction of one source, whose numbers make the table's words. -/
theorem performs_one {f : Nat → Nat} {g : Word → Word} (hk : ∀ s, exec k s = runIssue s (alu1 op ct d a f))
    (hg : ∀ x : Word, BitVec.ofNat 32 (f x.toNat) = g x) : Performs k (Alu.one op ct d a g) := by
  intro s i core slot w hi hr
  refine (completes_aluOp (hk s) hi hr).congr fun l _ => writes_word ?_
  rw [← hg, word_toNat rfl]
  rfl

/-- The same of two sources. -/
theorem performs_two {f : Nat → Nat → Nat} {g : Word → Word → Word} (hk : ∀ s, exec k s = runIssue s (alu2 op ct d a b f))
    (hg : ∀ x y : Word, BitVec.ofNat 32 (f x.toNat y.toNat) = g x y) : Performs k (Alu.two op ct d a b g) := by
  intro s i core slot w hi hr
  refine (completes_aluOp (hk s) hi hr).congr fun l _ => writes_word ?_
  rw [← hg, word_toNat rfl, word_toNat rfl]
  rfl

/-- The same of three sources. -/
theorem performs_three {f : Nat → Nat → Nat → Nat} {g : Word → Word → Word → Word}
    (hk : ∀ s, exec k s = runIssue s (alu3 op ct d a b r f))
    (hg : ∀ x y z : Word, BitVec.ofNat 32 (f x.toNat y.toNat z.toNat) = g x y z) : Performs k (Alu.three op ct d a b r g) := by
  intro s i core slot w hi hr
  refine (completes_aluOp (hk s) hi hr).congr fun l _ => writes_word ?_
  rw [← hg, word_toNat rfl, word_toNat rfl, word_toNat rfl]
  rfl

end

/-! ### Packed halves -/

theorem fp16_signBit_le (neg : Bool) : fp16.signBit neg ≤ 2 ^ 15 := by cases neg <;> decide

theorem fp16_infBits_lt : fp16.infBits < 2 ^ 15 := by decide

theorem fp16_overflow_lt (rnd : Rnd) (sat neg : Bool) : fp16.overflow rnd sat neg < 2 ^ 16 := by
  have hs := fp16_signBit_le neg
  have hi := fp16_infBits_lt
  have hmax (b : Bool) : (if b then fp16.infBits - 1 else fp16.infBits) ≤ fp16.infBits := by cases b <;> simp
  exact lt_of_le_of_lt (Nat.add_le_add_left (hmax _) _) (by omega)

/-- R71: what rounds to FP16 has 16 bits. -/
theorem fp16_roundTo_lt (rnd : Rnd) (sat neg : Bool) (m : Nat) (e : Int) (sticky : Bool) : fp16.roundTo rnd sat neg m e sticky < 2 ^ 16 := by
  have hs := fp16_signBit_le neg
  have hi := fp16_infBits_lt
  unfold FSpec.roundTo
  by_cases hz : (m = 0 && !sticky) = true
  · rw [if_pos hz]; omega
  · rw [if_neg hz]
    extract_lets m' e' top q r bits
    by_cases ho : fp16.infBits ≤ bits
    · rw [if_pos ho]; exact fp16_overflow_lt rnd sat neg
    · rw [if_neg ho]; omega

theorem fp16_pack_lt (rnd : Rnd) (sat : Bool) (v : FVal) : fp16.pack rnd sat v < 2 ^ 16 := by
  cases v with
  | nan => exact (by decide : fp16.nanBits < 2 ^ 16)
  | inf neg =>
    have hs := fp16_signBit_le neg
    have hi := fp16_infBits_lt
    simp only [FSpec.pack]; omega
  | fin neg m e => exact fp16_roundTo_lt rnd sat neg m e false

/-- A number put together from a lower half of 16 bits and an upper half. -/
theorem ofNat_halves {lo hi : Nat} (h : lo < 2 ^ 16) : BitVec.ofNat 32 (lo + hi * 65536) = BitVec.ofNat 16 hi ++ BitVec.ofNat 16 lo := by
  apply BitVec.eq_of_toNat_eq
  rw [BitVec.toNat_append, BitVec.toNat_ofNat, BitVec.toNat_ofNat, BitVec.toNat_ofNat, Nat.mod_eq_of_lt h,
    ← Nat.shiftLeft_add_eq_or_of_lt h, Nat.shiftLeft_eq]
  omega

/-- R260: an operation on halves whose results have 16 bits. -/
theorem ofNat_halves_apply {f : Nat → Nat → Nat → Nat} (hf : ∀ p q u, f p q u < 2 ^ 16) (x y z : Word) :
    BitVec.ofNat 32 (halves f x.toNat y.toNat z.toNat)
      = BitVec.ofNat 16 (f (x.extractLsb' 16 16).toNat (y.extractLsb' 16 16).toNat (z.extractLsb' 16 16).toNat)
        ++ BitVec.ofNat 16 (f (x.setWidth 16).toNat (y.setWidth 16).toNat (z.setWidth 16).toNat) := by
  have hup (v : Word) : (v.extractLsb' 16 16).toNat = v.toNat / 65536 := by
    rw [BitVec.extractLsb'_toNat, Nat.shiftRight_eq_div_pow]; omega
  have hlow (v : Word) : (v.setWidth 16).toNat = v.toNat % 65536 := BitVec.toNat_setWidth ..
  simp only [hup, hlow, halves]
  exact ofNat_halves (hf _ _ _)

/-! ### Single bits, signed amounts -/

theorem ofNat_two_pow (n : Nat) : BitVec.ofNat 32 (2 ^ n) = 1#32 <<< n := by
  rw [← BitVec.twoPow_eq]
  exact BitVec.eq_of_toNat_eq (by rw [BitVec.toNat_ofNat, BitVec.toNat_twoPow])

theorem signed_toNat (y : Word) : signed 32 y.toNat = y.toInt := by
  have hy := y.isLt
  simp only [signed, BitVec.toInt, Nat.mod_eq_of_lt hy]
  split <;> split <;> omega

/-- A word of one bit or none, in numbers and in words. -/
theorem ofNat_bit (n : Nat) (b : Bool) : BitVec.ofNat 32 (if b then 2 ^ n else 0) = (if b then 1#32 else 0#32) <<< n := by
  cases b
  · simp
  · exact ofNat_two_pow n

/-- A word without one bit, joined with that bit. -/
theorem clear_or_bit (x : Word) (n : Nat) (b : Bool) :
    (x &&& ~~~(1#32 <<< n)) ||| (if b then 1#32 else 0#32) <<< n = (x &&& ~~~(1#32 <<< n)) + (if b then 1#32 else 0#32) <<< n := by
  refine (BitVec.add_eq_or_of_and_eq_zero _ _ ?_).symm
  cases b
  · simp
  · rw [if_pos rfl, BitVec.and_assoc, BitVec.not_and_self]
    exact BitVec.and_zero

/-- A word is the word without one bit and that bit. -/
theorem clear_add_bit (x : Word) (n : Nat) : (x &&& ~~~(1#32 <<< n)) + (if x.getLsbD n then 1#32 else 0#32) <<< n = x := by
  have hbit : (if x.getLsbD n then 1#32 else 0#32) <<< n = x &&& 1#32 <<< n := by
    rw [← BitVec.twoPow_eq, BitVec.and_twoPow, BitVec.twoPow_eq]
    cases x.getLsbD n <;> simp
  rw [← clear_or_bit, hbit, ← BitVec.and_or_distrib_left, BitVec.or_comm, BitVec.or_not_self, BitVec.and_allOnes]

/-- R257: the bit that FSET writes, in numbers and in words. -/
theorem ofNat_putBit (x : Word) (pos : BitVec 5) (b : Bool) : BitVec.ofNat 32 (putBit x.toNat pos.toNat b) = setBit x pos b := by
  have hle : (if x.toNat.testBit pos.toNat then 2 ^ pos.toNat else 0) ≤ x.toNat := by
    split
    · exact Nat.ge_two_pow_of_testBit ‹_›
    · exact Nat.zero_le _
  have hclear : BitVec.ofNat 32 (x.toNat - if x.toNat.testBit pos.toNat then 2 ^ pos.toNat else 0) = x &&& ~~~(1#32 <<< pos.toNat) := by
    refine add_right_cancel (b := BitVec.ofNat 32 (if x.toNat.testBit pos.toNat then 2 ^ pos.toNat else 0)) ?_
    rw [← BitVec.ofNat_add, Nat.sub_add_cancel hle, BitVec.ofNat_toNat, BitVec.setWidth_eq, ofNat_bit, BitVec.testBit_toNat, clear_add_bit]
  rw [putBit, setBit, BitVec.ofNat_add, hclear, ofNat_bit, clear_or_bit]

/-- R257: FSET, a comparison of A and B as one bit of D. -/
theorem performs_fset (ct : Ctl) (d a b : Reg) (cond : BitVec 4) (pos : BitVec 5) {l : Alu} (hl : floats (.fset ct d a b cond pos) = some l) :
    Performs (.fset ct d a b cond pos) l := by
  obtain rfl := Option.some.inj hl
  intro s i core slot w hi hr
  refine (completes_aluOp rfl hi hr).congr fun l _ => writes_word ?_
  rw [word_toNat rfl, word_toNat rfl, ← ofNat_putBit, word_toNat rfl]
  rfl

/-! ### The tables -/

/-- R88-R90, R257, R258, R260: floating point on words. -/
theorem floatResults : FloatResults := by
  refine computes_of_performs fun k a hk => ?_
  unfold floats at hk
  split at hk
  -- FSET; an instruction that the table does not name
  case h_14 => exact performs_fset _ _ _ _ _ _ hk
  case h_15 => cases hk
  all_goals obtain rfl := Option.some.inj hk
  -- FADD, FSUB, FMUL, FMIN, FMAX, FDIV; FFMA
  case h_1 | h_2 | h_3 | h_5 | h_6 | h_7 => exact performs_two (fun _ => rfl) (fun _ _ => rfl)
  case h_4 => exact performs_three (fun _ => rfl) (fun _ _ _ => rfl)
  -- HADD2, HMUL2; HFMA2
  case h_8 | h_9 => exact performs_two (fun _ => rfl) (fun x y => ofNat_halves_apply (fun _ _ _ => fp16_pack_lt ..) x y 0)
  case h_10 => exact performs_three (fun _ => rfl) (ofNat_halves_apply (fun _ _ _ => fp16_pack_lt ..))
  -- FSCL, FRND, FCLASS
  case h_11 => exact performs_two (fun _ => rfl) (fun _ _ => by rw [signed_toNat])
  case h_12 => exact performs_one (fun _ => rfl) (fun _ => rfl)
  case h_13 => exact performs_one (fun _ => rfl) (fun _ => ofNat_two_pow _)

/-- R259: the special functions, each of one word. -/
theorem functionResults : FunctionResults := by
  refine computes_of_performs fun k a hk => ?_
  unfold functions at hk
  split at hk
  case h_9 => cases hk
  all_goals
    obtain rfl := Option.some.inj hk
    exact performs_one (fun _ => rfl) (fun _ => rfl)

/-- Settles O4: each line of the two tables is what its instruction computes. -/
theorem floatInstructions : Obligations.FloatInstructions := ⟨floatResults, functionResults⟩

end Sys2Proof.Proofs
end

section
/-! PROOF. Kills (O12): a gang that is killed stands in phase 3 with its cause, has no operation in flight, and stays so; memory is left. -/

namespace Sys2Proof.Proofs

open Sys2Proof Sys2Proof.Machine Sys2Proof.Claims

/-- R377: a gang's record as a kill for a cause leaves it. -/
def killedGang (k : Gang) (cause : Nat) (noRelaunch : Bool) : Gang :=
  { k with phase := 3, frame := k.frame.map Frame.commands, kills := k.kills + 1, cause := cause,
           noRelaunch := k.noRelaunch || noRelaunch, out := k.phase == 2, whyPage := false, whyPrio := false, whyIft := false }

/-- R377: the gangs, the operations in flight and memory. -/
def gangsOpsMem (c : Chip) : AMap (Option Gang) × List Op × AMap Byte := (c.gangs, c.ops, c.mem)

/-- R376: a gang that is being killed for a cause, with no operation in flight. -/
def Stopped (c : Chip) (g cause : Nat) : Prop :=
  (∃ k, c.gang g = some k ∧ k.phase = 3 ∧ k.cause = cause) ∧ ∀ o ∈ c.ops, o.gang ≠ g

section
variable {c : Chip} {g cause : Nat} {k : Gang} {ctx : Option Nat} {noRelaunch : Bool} {cid : Option DWord}

/-- R376, R377: a gang that is not being killed is killed: its record, and no operation of it in flight. -/
theorem killOne_kills (hk : c.gang g = some k) (h3 : k.phase ≠ 3) (h4 : k.phase ≠ 4) (h5 : k.phase ≠ 5) :
    (c.killOne g cause ctx noRelaunch cid).gangs = aput none c.gangs g (some (killedGang k cause noRelaunch))
    ∧ (c.killOne g cause ctx noRelaunch cid).ops = c.ops.filter (fun o => o.gang != g)
    ∧ (c.killOne g cause ctx noRelaunch cid).mem = c.mem := by
  unfold Chip.killOne
  rw [hk]
  simp -zeta only [if_neg h5, if_neg h4, if_neg h3]
  extract_lets c1 c2 cl c3 c4 what
  have h2 : gangsOpsMem c2 = gangsOpsMem c1 := foldl_keeps gangsOpsMem _ _ _ fun x gr _ hx => by
    refine Eq.trans ?_ hx
    dsimp only
    split <;> split <;> rfl
  obtain ⟨hgangs, hops, hmem⟩ : c2.gangs = c1.gangs ∧ c2.ops = c1.ops ∧ c2.mem = c1.mem := by simpa [gangsOpsMem] using h2
  have hend : c4.gangs = c1.gangs ∧ c4.ops = c1.ops.filter (fun o => o.gang != g) ∧ c4.mem = c1.mem :=
    ⟨hgangs, congrArg (List.filter _) hops, hmem⟩
  clear_value c4
  cases cid with
  | some id =>
    obtain ⟨t, ht⟩ := emit_trace c4 0xC00 0x12 id what 0
    dsimp only
    rw [ht]; exact hend
  | none =>
    obtain ⟨u, t, ht⟩ := emitUnit_changes c4 0 0x12 what none
    dsimp only
    rw [ht]; exact hend

/-- R378: of a gang that is being killed a further kill says at most that it is not relaunched. -/
theorem killOne_killed (hk : c.gang g = some k) (hp : k.phase = 3) :
    c.killOne g cause ctx noRelaunch cid = c.setGang g { k with noRelaunch := k.noRelaunch || noRelaunch } := by
  unfold Chip.killOne
  simp [hk, hp]

/-- R378: of a gang that is being killed, awaits its relaunch or has ended, a kill changes at most the record. -/
theorem killOne_held (hk : c.gang g = some k) (hp : k.phase = 3 ∨ k.phase = 4 ∨ k.phase = 5) :
    c.killOne g cause ctx noRelaunch cid = c ∨ ∃ k', c.killOne g cause ctx noRelaunch cid = c.setGang g k' := by
  rcases hp with hp | hp | hp
  · exact .inr ⟨_, killOne_killed hk hp⟩
  · unfold Chip.killOne
    cases noRelaunch
    · simp [hk, hp]
    · exact .inr ⟨{ k with phase := 5, noRelaunch := true }, by simp [hk, hp]⟩
  · exact .inl (by unfold Chip.killOne; simp [hk, hp])

/-- R377: a kill leaves the records of other gangs and memory, and starts no operation. -/
theorem killOne_frame (c : Chip) (g cause : Nat) (ctx : Option Nat) (noRelaunch : Bool) (cid : Option DWord) :
    (∀ h, h ≠ g → (c.killOne g cause ctx noRelaunch cid).gang h = c.gang h)
    ∧ (∀ o ∈ (c.killOne g cause ctx noRelaunch cid).ops, o ∈ c.ops) ∧ (c.killOne g cause ctx noRelaunch cid).mem = c.mem := by
  by_cases hrun : ∃ k, c.gang g = some k ∧ k.phase ≠ 3 ∧ k.phase ≠ 4 ∧ k.phase ≠ 5
  · obtain ⟨k, hk, h3, h4, h5⟩ := hrun
    obtain ⟨hgangs, hops, hmem⟩ := killOne_kills (cause := cause) (ctx := ctx) (noRelaunch := noRelaunch) (cid := cid) hk h3 h4 h5
    exact ⟨fun h hh => by simp only [Chip.gang, hgangs, aget_aput_ne _ _ _ hh], fun o ho => List.mem_of_mem_filter (hops ▸ ho), hmem⟩
  · have hform : c.killOne g cause ctx noRelaunch cid = c ∨ ∃ k', c.killOne g cause ctx noRelaunch cid = c.setGang g k' := by
      cases hk : c.gang g with
      | none => exact .inl (by unfold Chip.killOne; rw [hk])
      | some k => exact killOne_held hk (by by_contra hp; exact hrun ⟨k, hk, by tauto⟩)
    obtain h | ⟨k', h⟩ := hform
    · rw [h]
      exact ⟨fun _ _ => rfl, fun _ ho => ho, rfl⟩
    · rw [h]
      exact ⟨fun g' hg' => (Chip.gang_setGang ..).trans (if_neg hg'), fun _ ho => ho, rfl⟩

/-- R376, R377: a gang that runs, stops or is saved, once it has been killed. -/
theorem killOne_stops (hk : c.gang g = some k) (hp : k.phase < 3) : Stopped (c.killOne g cause ctx noRelaunch cid) g cause := by
  obtain ⟨hgangs, hops, -⟩ := killOne_kills (cause := cause) (ctx := ctx) (noRelaunch := noRelaunch) (cid := cid) hk (by omega) (by omega)
    (by omega)
  refine ⟨⟨killedGang k cause noRelaunch, ?_, rfl, rfl⟩, fun o ho => ?_⟩
  · rw [Chip.gang, hgangs, aget_aput_same]
  · rw [hops] at ho
    simpa using (List.mem_filter.1 ho).2

/-- R378: a gang that is being killed remains so, for the cause that it has, through every further kill. -/
theorem Stopped.after_killOne (hs : Stopped c g cause) (g' cause' : Nat) (ctx : Option Nat) (noRelaunch : Bool) (cid : Option DWord) :
    Stopped (c.killOne g' cause' ctx noRelaunch cid) g cause := by
  obtain ⟨⟨k, hk, hp, hcause⟩, hops⟩ := hs
  obtain ⟨hother, hops', -⟩ := killOne_frame c g' cause' ctx noRelaunch cid
  refine ⟨?_, fun o ho => hops o (hops' o ho)⟩
  by_cases hg : g = g'
  · subst hg
    rw [killOne_killed hk hp]
    exact ⟨_, Chip.gang_setGang_same .., hp, hcause⟩
  · exact ⟨k, (hother g hg).trans hk, hp, hcause⟩

end

/-- R378: a list of gangs killed one after another: each that is listed stops. -/
theorem foldl_killOne_stops {gs : List Nat} {c : Chip} {g cause : Nat} {k : Gang} {cid : Option DWord} (hg : g ∈ gs)
    (hk : c.gang g = some k) (hp : k.phase < 3) : Stopped (gs.foldl (fun d x => d.killOne x cause none true cid) c) g cause := by
  induction gs generalizing c with
  | nil => cases hg
  | cons x gs ih =>
    rw [List.foldl_cons]
    by_cases hx : g = x
    · subst hx
      exact List.foldlRecOn (motive := fun d => Stopped d g cause) gs _ (killOne_stops hk hp) fun d hd y _ => hd.after_killOne y cause none true cid
    · exact ih ((List.mem_cons.1 hg).resolve_left hx) (((killOne_frame c x cause none true cid).1 g hx).trans hk)

theorem mem_gangsWhere {c : Chip} {g : Nat} {k : Gang} {f : Gang → Bool} (hk : c.gang g = some k) (hf : f k = true) : g ∈ c.gangsWhere f :=
  List.mem_filterMap.2 ⟨(g, some k), mem_of_aget hk (by simp), by simp [hf]⟩

/-- R376, R378: the kill of a gang that is not being killed stops it, whether it is relaunched or its grid ends, and leaves memory. -/
theorem killGang_stops {c : Chip} {g cause : Nat} {k : Gang} {gr : Grid} {noRelaunch : Bool} {id : DWord} (hk : c.gang g = some k)
    (hg : c.gridOf g = some gr) (hp : k.phase < 3) :
    Stopped (c.killGang g cause noRelaunch (some id)) g cause ∧ (c.killGang g cause noRelaunch (some id)).mem = c.mem := by
  unfold Chip.killGang
  simp only [hk, hg]
  split
  · exact ⟨killOne_stops hk hp, (killOne_frame ..).2.2⟩
  · exact ⟨foldl_killOne_stops (mem_gangsWhere hk (by simp)) hk hp,
      foldl_keeps Chip.mem _ _ _ fun d x _ h => (killOne_frame d x cause none true (some id)).2.2.trans h⟩

end Sys2Proof.Proofs
end

section
/-! PROOF. Traps (O12): the entry of a trap that is not fatal, and the kill that a fatal one brings. The claim speaks of every lane that a warp's
list names, the model's masks of 64 lanes: the entry holds below lane 64, and fails at lane 64 of a list that goes so far. -/

namespace Sys2Proof.Proofs

open Sys2Proof Sys2Proof.Machine Sys2Proof.Claims

/-! ### Lanes -/

theorem le_of_mem_liveLanes {b l : Nat} {ls : List Lane} (h : l ∈ liveLanes b ls) : b ≤ l := by
  induction ls generalizing b with
  | nil => cases h
  | cons x ls ih =>
    simp only [liveLanes] at h
    split at h
    · exact Nat.le_of_succ_le (ih h)
    · rcases List.mem_cons.1 h with rfl | h
      · exact Nat.le_refl _
      · exact Nat.le_of_succ_le (ih h)

/-- The lanes listed from number `b` on that have not exited. -/
theorem mem_liveLanes (b j : Nat) (ls : List Lane) : b + j ∈ liveLanes b ls ↔ ∃ x, ls[j]? = some x ∧ x.exited = false := by
  induction ls generalizing b j with
  | nil => simp [liveLanes]
  | cons x ls ih =>
    cases j with
    | zero =>
      have hlow : b ∉ liveLanes (b + 1) ls := fun h => by have := le_of_mem_liveLanes h; omega
      cases hx : x.exited <;> simp [liveLanes, hx, hlow]
    | succ j =>
      have htail := ih (b + 1) j
      rw [show b + 1 + j = b + (j + 1) by omega] at htail
      cases hx : x.exited <;> simp [liveLanes, hx, htail]

/-- A lane of the mask of live lanes is one of the first 64 and has not exited. -/
theorem live_getLsbD (w : Warp) (l : Nat) : w.live.getLsbD l = (!(w.lane l).exited && decide (l < 64)) := by
  rw [Warp.live, maskOf_getLsbD, Warp.lane, List.getD_eq_getElem?_getD]
  congr 1
  rw [Bool.eq_iff_iff, decide_eq_true_iff, ← Nat.zero_add l, mem_liveLanes]
  cases hl : w.lanes[l]? <;> simp [hl]

theorem lane_lt_length {w : Warp} {l : Nat} (h : (w.lane l).exited = false) : l < w.lanes.length := by
  by_contra hl
  rw [Warp.lane, List.getD_eq_default _ _ (by omega)] at h
  cases h

/-- The lanes that have not exited changed, read back. -/
theorem lane_onLive (w : Warp) (f : Nat → Lane → Lane) {l : Nat} (hl : l < 64) :
    (w.onLanes w.live f).lane l = if (w.lane l).exited then w.lane l else f l (w.lane l) := by
  rw [Warp.lane_onLanes, live_getLsbD]
  cases hx : (w.lane l).exited with
  | true => simp
  | false => simp [hl, lane_lt_length hx]

/-! ### A trap that is taken -/

/-- R364, R365: a warp as a trap that is not fatal leaves it. -/
def enteredWarp (c : Chip) (core slot : Nat) (w : Warp) (x : TrapInfo) (kn : Kernel) (gr : Grid) : Warp :=
  { w.onLanes w.live (fun _ l =>
      { l with saved := l.pos, savedHdr := l.hdr, pos := handlerAt kn, wait := none, held := l.sync, sync := none }) with
    tr := trapRegs x gr.task.tile core slot w.child, handler := true, active := true, joined := if w.active then w.joined else c.cycle,
    deferred := none }

/-- R14, R365: TR.UNIT is SR.UNIT of the lane with the kind and the queue of the trap in its free bits. -/
theorem trapUnit_eq {core slot lane : Nat} (kind queue : Nat) (child : Bool) (hs : slot < 32) (hl : lane < 64) :
    kind * 2 ^ 30 + queue * 2 ^ 13 + unitWord core slot lane child % 2 ^ 13 + unitWord core slot lane child / 2 ^ 16 * 2 ^ 16
      = kind * 2 ^ 30 + (if child then 2 ^ 28 else 0) + core / 256 * 2 ^ 27 + core / 128 * 2 ^ 25 + core * 2 ^ 16 + queue * 2 ^ 13
        + slot * 2 ^ 8 + lane := by
  unfold unitWord dieOf clusterOf
  cases child <;> simp only [if_true, Bool.false_eq_true, if_false] <;> omega

theorem warp_congr_core {c c' : Chip} {n : Nat} (h : (c'.core n).warps = (c.core n).warps) (s : Nat) : c'.warp n s = c.warp n s := by
  rw [Chip.warp, Chip.warp, h]

section
variable {c : Chip} {core slot : Nat} {w : Warp} {x : TrapInfo} {kn : Kernel} {gr : Grid}

/-- R364: a trap that is taken replaces its warp and leaves memory and every other warp. -/
theorem trapEnter_entered (hw : c.warp core slot = some w) (hk : c.kernelOf w.gang = some kn) (hg : c.gridOf w.gang = some gr)
    (hc : x.syn / 2 ^ 24 ≠ 0x0C) (hm : w.handler = false) (hh : kn.handler ≠ 0) (hs : slot < 32) (hl : x.lane < 64) :
    (c.trapEnter core slot x).mem = c.mem ∧ ∀ n s, (c.trapEnter core slot x).warp n s
      = if n = core ∧ s = slot then some (enteredWarp c core slot w x kn gr) else c.warp n s := by
  unfold Chip.trapEnter
  simp only [hw, hk, hg, if_neg hc, hm, hh, Bool.false_or, decide_false, Bool.false_eq_true, if_false, trapUnit_eq _ _ _ hs hl]
  refine ⟨?_, fun n s => ?_⟩
  · rw [Chip.emit_mem, nextCid_mem, Chip.setWarp_mem]; rfl
  · rw [warp_congr_core ((congrArg Core.warps (emit_core ..)).trans (nextCid_core ..).1) s, Chip.warp_setWarp]
    rfl

/-- R364, R365, R82: what the claim says of a trap that is not fatal, of the lanes that a warp has. -/
theorem trapEntry_below_64 (hw : c.warp core slot = some w) (hk : c.kernelOf w.gang = some kn) (hg : c.gridOf w.gang = some gr)
    (hc : x.syn / 2 ^ 24 ≠ 0x0C) (hm : w.handler = false) (hh : kn.handler ≠ 0) (hs : slot < 32) (hl : x.lane < 64) :
    ∃ w', (c.trapEnter core slot x).warp core slot = some w' ∧ w'.handler = true ∧ w'.tr = trapRegs x gr.task.tile core slot w.child
      ∧ (∀ l, l < 64 → w'.lane l = if (w.lane l).exited then w.lane l else
          { w.lane l with
            saved := (w.lane l).pos, savedHdr := (w.lane l).hdr, pos := handlerAt kn, wait := none, held := (w.lane l).sync,
            sync := none })
      ∧ w'.v = w.v ∧ w'.u = w.u ∧ w'.q = w.q ∧ w'.fpstat = w.fpstat ∧ w'.cf = w.cf ∧ w'.posted = w.posted
      ∧ (c.trapEnter core slot x).mem = c.mem ∧ ∀ n s, (n, s) ≠ (core, slot) → (c.trapEnter core slot x).warp n s = c.warp n s := by
  obtain ⟨hmem, hwarp⟩ := trapEnter_entered hw hk hg hc hm hh hs hl
  refine ⟨enteredWarp c core slot w x kn gr, (hwarp core slot).trans (if_pos ⟨rfl, rfl⟩), rfl, rfl, fun l h => lane_onLive w _ h, rfl, rfl, rfl,
    rfl, rfl, rfl, hmem, fun n s h => (hwarp n s).trans (if_neg fun he => h (Prod.ext he.1 he.2))⟩

end

/-! ### A trap that kills -/

/-- R383, R385: what a draw of a value or of a causal ID, or a record, leaves of the chip: gangs, grids, memory. -/
def SameGangs (c c' : Chip) : Prop := c'.gangs = c.gangs ∧ c'.grids = c.grids ∧ c'.mem = c.mem

theorem SameGangs.trans {c c' c'' : Chip} (h : SameGangs c c') (h' : SameGangs c' c'') : SameGangs c c'' := by
  obtain ⟨hgangs, hgrids, hmem⟩ := h
  obtain ⟨hgangs', hgrids', hmem'⟩ := h'
  exact ⟨hgangs'.trans hgangs, hgrids'.trans hgrids, hmem'.trans hmem⟩

theorem sameGangs_poisonLine (c : Chip) (m : Nat) : SameGangs c (c.poisonLine m).1 := by
  unfold Chip.poisonLine
  split <;> exact ⟨rfl, rfl, rfl⟩

theorem sameGangs_causeCid (c : Chip) (e : Eng) (cid : Option DWord) : SameGangs c (c.causeCid e cid).1 := by
  cases cid with
  | some id => exact ⟨rfl, rfl, rfl⟩
  | none =>
    obtain ⟨a, b, d, h⟩ := nextCid_form c e
    rw [Chip.causeCid, h]
    exact ⟨rfl, rfl, rfl⟩

theorem sameGangs_emit (c : Chip) (source type : Nat) (cid payload : DWord) (extra : Nat) :
    SameGangs c (c.emit source type cid payload extra) := by
  obtain ⟨t, h⟩ := emit_trace c source type cid payload extra
  rw [h]
  exact ⟨rfl, rfl, rfl⟩

/-- R376: the same kill, after draws and records. -/
theorem SameGangs.killGang_stops {c c' : Chip} (h : SameGangs c c') {g : Nat} {k : Gang} {gr : Grid} (hk : c.gang g = some k)
    (hg : c.gridOf g = some gr) (hp : k.phase < 3) (cause : Nat) (id : DWord) :
    Stopped (c'.killGang g cause false (some id)) g cause ∧ (c'.killGang g cause false (some id)).mem = c.mem := by
  obtain ⟨hgangs, hgrids, hmem⟩ := h
  have hk' : c'.gang g = some k := by rw [Chip.gang, hgangs]; exact hk
  have hg' : c'.gridOf g = some gr := by
    rw [Chip.gridOf, hk']
    rw [Chip.gridOf, hk] at hg
    simpa [Chip.grid, hgrids] using hg
  exact (Proofs.killGang_stops hk' hg' hp).imp_right fun h => h.trans hmem

/-- R364, R376: POISON, a trap in handler mode, a kernel without a handler. -/
theorem fatalTrap : FatalTrap := by
  intro c core slot w x kn gr k hw hkn hgr hk hp hfatal
  suffices Stopped (c.trapEnter core slot x) w.gang (x.syn / 2 ^ 24) ∧ (c.trapEnter core slot x).mem = c.mem by
    obtain ⟨⟨⟨k', hk', hp', hc'⟩, hops⟩, hmem⟩ := this
    exact ⟨k', hk', hp', hc', hops, hmem⟩
  unfold Chip.trapEnter
  simp only [hw, hkn, hgr]
  by_cases hc : x.syn / 2 ^ 24 = 0x0C
  · rw [if_pos hc]
    exact SameGangs.killGang_stops
      ((sameGangs_poisonLine ..).trans ((sameGangs_causeCid ..).trans (sameGangs_emit ..))) hk hgr hp _ _
  · have hkills : (w.handler || decide (kn.handler = 0)) = true := by simpa using hfatal.resolve_left hc
    rw [if_neg hc, if_pos hkills]
    exact SameGangs.killGang_stops (sameGangs_causeCid ..) hk hgr hp _ _

/-! ### A warp of 65 lanes -/

/-- A warp of `bootKernel` whose list names 65 lanes at address 0. -/
def crowdedWarp : Warp := Warp.fresh bootKernel 0 0 0 0 false (List.replicate 65 (Lane.fresh Pos.zero false none)) 0

/-- A part with that warp in slot 0 of core 0. -/
def crowdedChip : Chip :=
  { Chip.reset with
    running := true, cores := [(0, { Core.zero with warps := [(0, some crowdedWarp)] })], grids := [(0, some bootGrid)],
    gangs := [(0, some (Gang.fresh 0 0 0 [bootGroup]))] }

/-- A precise trap of lane 0. -/
def crowdedTrap : TrapInfo :=
  { syn := 0x04000000, pos := Pos.zero, posted := false, kind := 0, queue := 0, lane := 0, addr := 0, mask := 1, inner := 0, stopped := 0 }

/-- The model leaves lane 64 where it stood. -/
theorem crowdedChip_lane64 :
    ((crowdedChip.trapEnter 0 0 crowdedTrap).warp 0 0).map (fun w => (w.lane 64).pos) = some Pos.zero := by decide

theorem handlerAt_bootKernel : handlerAt bootKernel ≠ Pos.zero := by decide

/-- R364: the entry that the claim gives every lane, the model gives the 64 lanes of a mask. -/
theorem not_trapEntry : ¬ TrapEntry := by
  intro h
  obtain ⟨w', hw', -, -, hlane, -⟩ := h crowdedChip 0 0 crowdedWarp crowdedTrap bootKernel bootGrid rfl rfl rfl (by decide) rfl (by decide)
    (by decide) (by decide) (by decide) (by decide) (by decide)
  have hpos := crowdedChip_lane64
  rw [hw'] at hpos
  exact handlerAt_bootKernel ((congrArg Lane.pos (hlane 64)).symm.trans (Option.some.inj hpos))

/-- Refutes O12: `TrapEntry` moves every lane of the warp's list that has not exited, with nothing to bound the list; the model moves those of the
64-bit mask of live lanes. Lane 64 of `crowdedWarp` stays at address 0. Of the two parts `fatalTrap` holds, and `trapEntry_below_64` is the other
for the 64 lanes of a warp. -/
theorem not_trapEntries : ¬ Obligations.TrapEntries := fun h => not_trapEntry h.1

end Sys2Proof.Proofs
end

section
/-! PROOF. The memory system apart from the rest (O17, O18, O35, O41, O51): what accesses of memory, releases and requests to peers leave as it
was: warps, sequencers, operations in flight, gangs, grids, registers. -/

namespace Sys2Proof.Proofs

open Sys2Proof Sys2Proof.Machine Sys2Proof.Claims

/-! ### The rest of the part -/

/-- A core without what accesses of memory change in it: its L1, its translation cache, its count of implicit releases, its sequence values. -/
def coreRest (k : Core) : Core := { k with l1 := [], tlb := [], impl := 0, seqW := 0, seqM := 0, seqD := 0 }

/-- A chip without its cores and without what accesses of memory change: bytes and marks, intents, slices, causal IDs, requests to peers, rings'
TAILs, records. -/
def chipRest (c : Chip) : Chip :=
  { c with
    cores := [], mem := [], hostMem := [], pois := [], owner := [], intents := [], filter := [], dir := [], mc := [], staged := [],
    sliceWaits := [], drawn := [], owed := [], peerRaces := [], detectors := [], stats := [], rings := [], remotes := [], pieces := [],
    nextReq := 0, unitSeq := [], trace := Trace.reset, hostOut := [] }

/-- What no access of memory changes. -/
def work (c : Chip) : Chip × (Nat → Core) := (chipRest c, fun n => coreRest (c.core n))

theorem work_warp {c c' : Chip} (h : work c' = work c) (n slot : Nat) : c'.warp n slot = c.warp n slot :=
  congrArg (fun x : Chip × (Nat → Core) => aget none (x.2 n).warps slot) h

theorem work_dray {c c' : Chip} (h : work c' = work c) (n : Nat) : (c'.core n).dray = (c.core n).dray :=
  congrArg (fun x : Chip × (Nat → Core) => (x.2 n).dray) h

theorem work_ops {c c' : Chip} (h : work c' = work c) : c'.ops = c.ops := congrArg (fun x : Chip × (Nat → Core) => x.1.ops) h

theorem work_nextOp {c c' : Chip} (h : work c' = work c) : c'.nextOp = c.nextOp := congrArg (fun x : Chip × (Nat → Core) => x.1.nextOp) h

theorem work_gangs {c c' : Chip} (h : work c' = work c) : c'.gangs = c.gangs := congrArg (fun x : Chip × (Nat → Core) => x.1.gangs) h

theorem work_priv {c c' : Chip} (h : work c' = work c) : c'.priv = c.priv := congrArg (fun x : Chip × (Nat → Core) => x.1.priv) h

/-- A core set to one whose rest is its own. -/
theorem work_setCore {c : Chip} {n : Nat} {k : Core} (h : coreRest k = coreRest (c.core n)) : work (c.setCore n k) = work c := by
  refine Prod.ext rfl (funext fun m => ?_)
  show coreRest ((c.setCore n k).core m) = coreRest (c.core m)
  rw [Chip.core_setCore]
  split
  · subst m; exact h
  · rfl

/-- The L1 of a core replaced. -/
theorem work_setL1 (c : Chip) (n : Nat) (l : List L1Line) : work (c.setCore n { c.core n with l1 := l }) = work c := work_setCore rfl

/-- Every listed core changed in what is not its rest. -/
theorem work_mapCores (c : Chip) (f : Nat × Core → Core) (h : ∀ x, coreRest (f x) = coreRest x.2) :
    work { c with cores := c.cores.map (fun x => (x.1, f x)) } = work c :=
  Prod.ext rfl (funext fun n => aget_map_keeps Core.zero c.cores f coreRest h n)

/-! ### Causal IDs and records -/

@[simp] theorem work_emit (c : Chip) (source type : Nat) (cid payload : DWord) (extra : Nat) :
    work (c.emit source type cid payload extra) = work c := by
  obtain ⟨t, h⟩ := emit_trace c source type cid payload extra
  rw [h]; rfl

@[simp] theorem work_emitUnit (c : Chip) (unit type : Nat) (payload : DWord) (cid : Option DWord) :
    work (c.emitUnit unit type payload cid) = work c := by
  cases cid with
  | some id => exact work_emit ..
  | none => exact (work_emit ..).trans rfl

@[simp] theorem work_nextCid (c : Chip) (e : Eng) : work (c.nextCid e).1 = work c := by
  obtain ⟨a, b, d, h⟩ := nextCid_form c e
  rw [h]; exact work_setCore rfl

@[simp] theorem work_issueCid (c : Chip) (i : Issue) : work (c.issueCid i).1 = work c := by
  unfold Chip.issueCid
  split
  · rfl
  · exact work_nextCid ..

@[simp] theorem work_takeCid (c : Chip) (i : Issue) : work (c.takeCid i).1 = work c := rfl

@[simp] theorem work_takePeerRace (c : Chip) (who : Party) (g : Nat) (pos : Pos) : work (c.takePeerRace who g pos).1 = work c := rfl

/-! ### Home slices -/

/-- What changes what the slices keep alone changes nothing of the rest. -/
theorem work_of_noSlices {c c' : Chip} (h : noSlices c' = noSlices c) : work c' = work c := by
  show work (noSlices c') = work (noSlices c)
  rw [h]

/-- R126-R129: a write at a home slice that no requester's detector notes. -/
theorem sliceWrite_none_noSlices (c : Chip) (line pol : Nat) (full : Bool) : noSlices (c.sliceWrite none line pol full) = noSlices c := by
  unfold Chip.sliceWrite
  dsimp only
  split_ifs <;> simp only [stat_noSlices, stage_noSlices, sliceHit_noSlices, sliceFill_noSlices]

theorem sliceWrite_keeps (c : Chip) (requester : Option Nat) (line pol : Nat) (full : Bool) :
    noSlices (c.sliceWrite requester line pol full) = noSlices c := by
  cases requester with
  | none => exact sliceWrite_none_noSlices ..
  | some r => exact sliceWrite_noSlices ..

theorem tableTouch_noSlices (c : Chip) (off : Nat) : noSlices (c.tableTouch off) = noSlices c := by
  unfold Chip.tableTouch
  dsimp only
  split_ifs <;> simp only [stat_noSlices, sliceHit_noSlices, sliceFill_noSlices]

/-- R97: a walk of the translation tables changes what the slices keep alone. -/
theorem walkTouch_noSlices (c : Chip) (va table : Nat) (ls : List (Nat × Nat × Nat)) : noSlices (c.walkTouch va table ls) = noSlices c := by
  induction ls generalizing c table with
  | nil => rfl
  | cons l ls ih =>
    rw [Chip.walkTouch]
    split
    · exact tableTouch_noSlices ..
    · exact (ih _ _).trans (tableTouch_noSlices ..)

@[simp] theorem work_sliceWrite (c : Chip) (requester : Option Nat) (line pol : Nat) (full : Bool) :
    work (c.sliceWrite requester line pol full) = work c := work_of_noSlices (sliceWrite_keeps ..)

/-! ### Lines at their homes -/

@[simp] theorem work_homeWrite (c : Chip) (line : Nat) (mask : BitVec 64) (d : BitVec 512) (pois : Bool) (cid : Option DWord) :
    work (c.homeWrite line mask d pois cid) = work c := by
  unfold Chip.homeWrite
  dsimp only
  split
  · rfl
  · split
    · rfl
    · split
      · split
        · rfl
        · exact (work_emitUnit ..).trans rfl
      · rfl

@[simp] theorem work_writeBack (c : Chip) (core : Nat) (e : L1Line) : work (c.writeBack core e) = work c := by
  unfold Chip.writeBack
  dsimp only
  split
  · rfl
  · rw [work_homeWrite, work_sliceWrite]; rfl

@[simp] theorem work_invalidate (c : Chip) (line : Nat) (mask : BitVec 16) : work (c.invalidate line mask) = work c := by
  have h : c.invalidate line mask = { c with cores := c.cores.map (fun p => (p.1,
      if mask.getLsbD (p.1 / 32) then { p.2 with l1 := cleanLines line p.2.l1 } else p.2)) } := by
    unfold Chip.invalidate
    congr 2; funext p
    split <;> rfl
  rw [h]
  exact work_mapCores c _ (fun x => by split <;> rfl)

theorem work_filter (c : Chip) (l : List FilterEntry) : work { c with filter := l } = work c := rfl

@[simp] theorem work_filterFill (c : Chip) (core line : Nat) : work (c.filterFill core line) = work c := by
  unfold Chip.filterFill
  dsimp only
  split
  · exact work_filter ..
  · refine (work_filter _ _).trans ?_
    split
    · rfl
    · split
      · exact (work_invalidate ..).trans (work_filter ..)
      · rfl

@[simp] theorem work_l1Put (c : Chip) (core : Nat) (e : L1Line) : work (c.l1Put core e) = work c := work_setCore rfl

@[simp] theorem work_l1Room (c : Chip) (core line : Nat) : work (c.l1Room core line) = work c := by
  unfold Chip.l1Room
  dsimp only
  split
  · rfl
  · split
    · rfl
    · split
      · rfl
      · exact (work_setL1 ..).trans (work_writeBack ..)

@[simp] theorem work_l1For (c : Chip) (core line tag : Nat) : work (c.l1For core line tag) = work c := by
  unfold Chip.l1For
  split
  · rfl
  · exact work_l1Room ..

/-- R220: a read of a line changes nothing of the rest. -/
theorem work_lineRead {c c' : Chip} {core tag line : Nat} {need : BitVec 64} {priv : Bool} {pol : Nat} {d : BitVec 512} {p : Bool}
    (h : c.lineRead core tag line need priv pol = .ok d p c') : work c' = work c := by
  unfold Chip.lineRead at h
  dsimp only at h
  split at h
  · cases h; exact work_l1Put ..
  · split at h
    · cases h
    · split at h
      · cases h
      · split at h
        · cases h
        · split at h
          · cases h
          · rename_i c0 hc0
            obtain ⟨-, -, rfl⟩ := LineRead.ok.inj h
            rw [work_l1Put, work_filterFill, work_l1For]
            exact work_of_noSlices (sliceServe_noSlices hc0)

/-! ### Releases -/

@[simp] theorem work_ask (c : Chip) (pa : Nat) (kind : ReqKind) (who : Party) (op : Option Nat) (lane code tag cls bytes : Nat) (cid : DWord)
    (va : Nat) (pos : Pos) (priv flag : Bool) :
    work (c.ask pa kind who op lane code tag cls bytes cid va pos priv flag) = work c := rfl

@[simp] theorem work_recordRaces (c : Chip) {fresh : Chip → Chip × DWord} (hf : ∀ x, work (fresh x).1 = work x) (rs : List (Nat × Intent)) :
    work (c.recordRaces fresh rs) = work c := by
  unfold Chip.recordRaces
  split
  · rfl
  · exact (foldl_keeps work _ rs _ (fun x r _ h => (work_emit ..).trans h)).trans (hf c)

@[simp] theorem work_settle (c : Chip) (own : Owner) (core scope : Nat) (keep : List (Nat × BitVec 64)) (all : Bool) :
    work (c.settle own core scope keep all) = work c := by
  unfold Chip.settle
  exact Eq.trans rfl (foldl_keeps work _ _ c (fun x t _ h => (work_invalidate ..).trans h))

@[simp] theorem work_release (c : Chip) (core scope : Nat) {fresh : Chip → Chip × DWord} (hf : ∀ x, work (fresh x).1 = work x) (all : Bool) :
    work (c.release core scope fresh all).1 = work c := by
  unfold Chip.release
  split
  · rfl
  · dsimp only
    rw [work_settle, work_setL1]
    exact (foldl_keeps work _ _ _ (fun x e _ h => (work_writeBack ..).trans h)).trans (work_recordRaces c hf _)

@[simp] theorem work_releaseDray (c : Chip) (core scope : Nat) (keep : List (Nat × BitVec 64)) {fresh : Chip → Chip × DWord}
    (hf : ∀ x, work (fresh x).1 = work x) (all : Bool) : work (c.releaseDray core scope keep fresh all).1 = work c := by
  unfold Chip.releaseDray
  split
  · rfl
  · exact (work_settle ..).trans (work_recordRaces c hf _)

@[simp] theorem work_releaseBy (c : Chip) (e : Eng) (scope : Nat) (cid : Option DWord) : work (c.releaseBy e scope cid).1 = work c := by
  have hf (x : Chip) : work (match cid with | some id => (x, id) | none => x.nextCid e).1 = work x := by
    cases cid with
    | some id => rfl
    | none => exact work_nextCid x e
  cases e with
  | warp n k => exact work_release c n scope hf false
  | matrix n => exact work_release c n scope hf false
  | copy n => exact work_releaseDray c n scope _ hf false

/-- R223, R302: a release that completes changes nothing of the rest. -/
theorem work_releaseFor {c c' : Chip} {i : Issue} {op scope : Nat} {cid : Option DWord} {race : Option Nat}
    (h : c.releaseFor i op scope cid = .ok (c', race)) : work c' = work c := by
  unfold Chip.releaseFor at h
  dsimp only at h
  split at h
  · obtain rfl := congrArg Prod.fst (Except.ok.inj h)
    exact work_releaseBy ..
  · split at h
    · cases h
    · split at h
      · obtain rfl := congrArg Prod.fst (Except.ok.inj h)
        rw [work_takePeerRace, work_releaseBy, work_takeCid]
      · split at h <;> cases h

@[simp] theorem work_tellPeers (c : Chip) (own : Owner) (core : Nat) (who : Party) (op tag : Nat) (cid : DWord) (pos : Pos) (id : Option Nat) :
    work (c.tellPeers own core who op tag cid pos id) = work c := by
  unfold Chip.tellPeers
  exact (foldl_keeps work _ _ _ (fun x w _ h => (work_ask ..).trans h)).trans rfl

theorem coreRest_impl (k : Core) (v : Nat) : coreRest { k with impl := v } = coreRest k := rfl

@[simp] theorem work_implicit (c : Chip) (core : Nat) (cid : DWord) (who : Storer) : work (c.implicit core cid who).1 = work c := by
  unfold Chip.implicit
  refine (work_setCore (coreRest_impl _ _)).trans ?_
  rw [work_tellPeers, work_tellPeers, work_releaseDray _ _ _ _ (fun _ => rfl), work_release _ _ _ (fun _ => rfl)]

@[simp] theorem work_owe (c : Chip) (own : Owner) (dev : Nat) : work (c.owe own dev) = work c := by
  unfold Chip.owe
  split <;> rfl

@[simp] theorem work_intend (c : Chip) (own : Owner) (tag line : Nat) (mask dirty : BitVec 64) (cid : DWord) :
    work (c.intend own tag line mask dirty cid) = work c := by
  unfold Chip.intend
  dsimp only
  split_ifs <;> rfl

@[simp] theorem work_lineWrite (c : Chip) (core tag line : Nat) (mask : BitVec 64) (d : BitVec 512) (priv : Bool) (pol : Nat) (cid : DWord)
    (who : Storer) : work (c.lineWrite core tag line mask d priv pol cid who).1 = work c := by
  have hq : work (if c.quotaFull (.core core) core tag line then c.implicit core cid who else (c, none)).1 = work c := by
    split
    · exact work_implicit ..
    · rfl
  unfold Chip.lineWrite
  dsimp only
  split_ifs at hq ⊢ <;> simp

@[simp] theorem work_drayWrite (c : Chip) (core tag line : Nat) (mask : BitVec 64) (d : BitVec 512) (pois : Bool) (pol : Nat) (cid : DWord)
    (who : Storer) : work (c.drayWrite core tag line mask d pois pol cid who).1 = work c := by
  unfold Chip.drayWrite Chip.drayIntend
  dsimp only
  split_ifs <;> simp

@[simp] theorem work_flushTag (c : Chip) (tag n : Nat) : work (c.flushTag tag n) = work c := by
  unfold Chip.flushTag
  dsimp only
  rw [work_setL1]
  exact foldl_keeps work _ _ c (fun x e _ h => (work_writeBack ..).trans h)

/-! ### Translation -/

@[simp] theorem work_orEntry (c : Chip) (at_ bit : Nat) : work (c.orEntry at_ bit) = work c := by
  unfold Chip.orEntry
  split <;> rfl

@[simp] theorem work_claimFrame (c : Chip) (off tag : Nat) : work (c.claimFrame off tag) = work c := by
  unfold Chip.claimFrame
  dsimp only
  split <;> rfl

theorem coreRest_tlb (k : Core) (t : List TlbEntry) : coreRest { k with tlb := t } = coreRest k := rfl

/-- R95, R97: a walk entered in a translation cache. -/
theorem work_walked (c : Chip) (core va root at_ : Nat) (t : List TlbEntry) (k : Core) (hk : k = c.core core) :
    work (((c.walkTouch va root walkLevels).setCore core { k with tlb := t }).orEntry at_ 4) = work c := by
  have hw := work_of_noSlices (walkTouch_noSlices c va root walkLevels)
  rw [work_orEntry]
  generalize c.walkTouch va root walkLevels = c1 at hw
  have hcore : coreRest (c1.core core) = coreRest (c.core core) := congrArg (fun x : Chip × (Nat → Core) => x.2 core) hw
  exact (work_setCore ((coreRest_tlb k t).trans ((congrArg coreRest hk).trans hcore.symm))).trans hw

/-- R95-R100: a translation changes nothing of the rest. -/
theorem work_xlate {c c' : Chip} {core tag va pol pa : Nat} {a : Acc} (h : c.xlate core tag va a pol = .ok (pa, c')) : work c' = work c := by
  unfold Chip.xlate at h
  split at h
  · cases h
  · extract_lets k t found at h
    cases hfound : found with
    | error e => rw [hfound] at h; cases h
    | ok x =>
      obtain ⟨e, c1⟩ := x
      rw [hfound] at h
      have h1 : work c1 = work c := by
        simp only [found] at hfound
        split at hfound
        · obtain rfl := congrArg Prod.snd (Except.ok.inj hfound); rfl
        · split at hfound
          · cases hfound
          · split at hfound
            · cases hfound
            · obtain rfl := congrArg Prod.snd (Except.ok.inj hfound)
              exact work_walked c core va _ _ _ k rfl
      have h2 : work (if a.dirties then c1.orEntry e.entryAt 5 else c1) = work c := by
        split
        · exact (work_orEntry ..).trans h1
        · exact h1
      clear hfound
      dsimp only at h
      generalize (if a.dirties = true then c1.orEntry e.entryAt 5 else c1) = c2 at h h2
      split at h
      · cases h
      · split_ifs at h <;> obtain rfl := congrArg Prod.snd (Except.ok.inj h)
        · exact (work_claimFrame ..).trans h2
        · exact h2
        · exact h2

end Sys2Proof.Proofs
end

section
/-! PROOF. The machine at reset; memory as data (O56, O23): writes of device memory, byte by byte. -/

namespace Sys2Proof.Proofs

open Sys2Proof Sys2Proof.Machine Sys2Proof.Claims

/-- Settles O56: every field read off the reset state. -/
theorem resetState : Obligations.ResetState := by
  refine ⟨⟨rfl, rfl, rfl, rfl, rfl, rfl, by decide, ?_⟩, ?_⟩
  · decide
  · constructor <;> simp [State.reset, Life.reset]

/-- The bytes of a number, lowest first. -/
theorem bytesOf_getD (n v i : Nat) (h : i < n) : (bytesOf n v).getD i 0 = BitVec.ofNat 8 (v / 2 ^ (8 * i)) := by
  induction n generalizing v i with
  | zero => exact absurd h (Nat.not_lt_zero i)
  | succ n ih =>
    cases i with
    | zero => simp [bytesOf]
    | succ i =>
      rw [bytesOf, List.getD_cons_succ, ih _ _ (by omega), Nat.div_div_eq_div_mul, show 256 = 2 ^ 8 from rfl, ← pow_add]
      congr 3; omega

/-- R96: a write of `n` bytes puts them at their addresses and changes no other. -/
theorem aget_wrMem (c : Chip) (off n v a : Nat) :
    aget 0 (c.wrMem off n v).mem a = if off ≤ a ∧ a < off + n then BitVec.ofNat 8 (v / 2 ^ (8 * (a - off))) else aget 0 c.mem a := by
  rw [Chip.wrMem_mem, aget_aputN, bytesOf_length]
  exact ite_congr rfl (fun h => bytesOf_getD n v _ (by omega)) (fun _ => rfl)

/-- R126: a write at a home slice changes no byte. -/
theorem sliceWrite_mem (c : Chip) (requester : Option Nat) (line pol : Nat) (full : Bool) : (c.sliceWrite requester line pol full).mem = c.mem := by
  have h := congrArg Chip.mem (sliceWrite_keeps c requester line pol full)
  exact h

/-- R221: so does the write-back of a line keep memory canonical. -/
theorem wf_writeBack (c : Chip) (core : Nat) (e : L1Line) (h : Memory.wf c.mem = true) : Memory.wf (c.writeBack core e).mem = true := by
  unfold Chip.writeBack
  dsimp only
  split
  · exact h
  · refine wf_homeWrite _ _ _ _ _ _ ?_
    rw [sliceWrite_mem]
    exact h

/-- Settles O23: each write of device memory is a fold of writes of single bytes, which keep the form. -/
theorem memoryCanonical : Obligations.MemoryCanonical := fun c h =>
  ⟨fun off n v => wf_wrMem c off n v h, fun off tag => wf_claimFrame c off tag h, fun line mask d pois => wf_homeWrite c line mask d pois none h,
    fun core e => wf_writeBack c core e h, fun at_ bit => wf_orEntry c at_ bit h, fun off n v a => aget_wrMem c off n v a⟩

end Sys2Proof.Proofs
end

section
/-! PROOF. Requests of other devices (O48): an offset that memory does not have. -/

namespace Sys2Proof.Proofs

open Sys2Proof Sys2Proof.Machine Sys2Proof.Claims

/-- A running part of device 0 whose table at byte 0 holds one context, tag 0. -/
def oneContextPart : Chip := { Chip.reset with running := true, mem := [(0, 1)], priv := { PrivRegs.reset with gwdev := 0 } }

/-- A write of one byte at 2^64, an offset that the 42 bits of a packet's offset (R138) cannot hold. -/
def farWrite : Inbound := { src := 1, req := 1, tag := 0, gen := 0, off := 2 ^ 64, kind := .write [1] false, cid := 0 }

/-- The machine with that part. -/
def oneContextState : State := { State.reset with chip := oneContextPart }

theorem lineParts_farWrite : lineParts farWrite.off (reqBytes farWrite.kind) = [(0, 1)] := by decide

theorem served_farWrite : Served oneContextPart farWrite := by
  refine ⟨by decide, by decide +kernel, by decide, by rw [lineParts_farWrite]; decide, ?_⟩
  rw [lineParts_farWrite]
  intro p hp
  rcases List.mem_singleton.mp hp with rfl
  exact ⟨by decide, fun _ => ⟨by decide +kernel, by decide⟩, fun x hx => by cases hx⟩

theorem farWrite_misses : ((match exec (.inboundRequest farWrite) oneContextState with
    | .next t => aget 0 t.chip.mem (2 ^ 64)
    | _ => 0) : Byte) = 0 := by decide +kernel

/-- The write that the claim puts at 2^64, the model puts at 0. -/
theorem not_inboundRequests : ¬ InboundRequests := by
  intro h
  obtain ⟨t, q, ht, -, -, hb, -⟩ := (h oneContextState farWrite ⟨rfl, by decide⟩).2.2 [1] rfl served_farWrite (by decide) (by
    intro p hp
    change p ∈ lineParts farWrite.off (reqBytes farWrite.kind) at hp
    rw [lineParts_farWrite] at hp
    rcases List.mem_singleton.mp hp with rfl
    decide +kernel)
  have hmiss := farWrite_misses
  rw [ht] at hmiss
  exact absurd ((hb 0 1 rfl).symm.trans hmiss) (by decide)

/-- Refutes O48: `InboundRequests` takes any number as a request's offset; a device's memory has 2^42 bytes, and the model takes addresses modulo
2^64. The byte of `farWrite`, at 2^64, goes to 0. -/
theorem not_remoteRequests : ¬ Obligations.RemoteRequests := fun h => not_inboundRequests h.2

end Sys2Proof.Proofs
end

section
/-! PROOF. Errors of memories (O54): marks, poison lists, detectors. -/

namespace Sys2Proof.Proofs

open Sys2Proof Sys2Proof.Machine Sys2Proof.Claims

/-- R385, R386: a unit's event is recorded in the unit's buffer. -/
theorem emitUnit_recorded (c : Chip) (unit type : Nat) (payload : DWord) (h : type ≠ 0x10) :
    Recorded c (c.emitUnit unit type payload) ((0xC00 + unit) % 4096) (fun x => x.type = BitVec.ofNat 16 type ∧ x.payload = payload) := by
  refine recorded_mono (recorded_congr (emit_recorded (c.unitCid unit).1 _ type (c.unitCid unit).2 payload 0 h) rfl rfl) ?_
  exact fun x ⟨htype, _, hpayload⟩ => ⟨htype, hpayload⟩

theorem emitUnit_held (c : Chip) (unit type : Nat) (payload : DWord) (cid : Option DWord) : (c.emitUnit unit type payload cid).held = c.held := by
  obtain ⟨u, t, h⟩ := emitUnit_changes c unit type payload cid
  rw [h]

/-- R86: the tier of an offset. -/
theorem tierOf_devPa {off : Nat} (h : off < 2 ^ 64) : tierOf (devPa off) = if off < 2 ^ 40 then 0 else 1 := by
  unfold tierOf devPa
  split <;> omega

theorem offsetExists_lt {off : Nat} (h : offsetExists off = true) : off < 2 ^ 63 := by
  unfold offsetExists weightOffset at h
  simp only [Bool.or_eq_true, Bool.and_eq_true, decide_eq_true_eq] at h
  omega

/-- R118: a slice's poison list takes a line where it finds room; memory and marks stay. -/
theorem holdLine_keeps (c : Chip) (line : Nat) : (c.holdLine line).mem = c.mem ∧ (c.holdLine line).pois = c.pois := by
  unfold Chip.holdLine
  dsimp only
  split <;> exact ⟨rfl, rfl⟩

theorem holdLine_holds (c : Chip) (line : Nat) (h : (c.held.filter (fun x => x.slice == c.home line)).length < 16) :
    ∃ x ∈ (c.holdLine line).held, x.line = line := by
  unfold Chip.holdLine
  dsimp only
  split
  next hin =>
    have hany : c.held.any (fun x => x.line == line) = true := by simpa [Nat.not_le.2 h] using hin
    obtain ⟨x, hx, hline⟩ := List.any_eq_true.1 hany
    exact ⟨x, hx, eq_of_beq hline⟩
  next => exact ⟨_, List.mem_append_right _ (List.mem_singleton_self _), rfl⟩

/-- A line's mark set. -/
theorem aget_aput_iff_mark (m : AMap Bool) (n : Nat) :
    aget false (aput false m n true) n = true ∧ ∀ a, a ≠ n → aget false (aput false m n true) a = aget false m a :=
  ⟨aget_aput_same .., fun _ h => aget_aput_ne false m true h⟩

/-- R115, R118: an uncorrectable error of memory. -/
theorem memoryError (s : State) (off : Nat) (h : offsetExists off = true) : ∃ t, exec (.eccUncorrectable (.memory off)) s = .next t
    ∧ aget false t.chip.pois (off / 64 * 64) = true ∧ (∀ a, a ≠ off / 64 * 64 → aget false t.chip.pois a = aget false s.chip.pois a)
    ∧ t.chip.mem = s.chip.mem
    ∧ (off < 2 ^ 40 → t.chip.held = s.chip.held)
    ∧ (2 ^ 40 ≤ off → (s.chip.held.filter (fun h => h.slice == s.chip.home (2 ^ 64 + off / 64 * 64))).length < 16 →
        (∃ h ∈ t.chip.held, h.line = 2 ^ 64 + off / 64 * 64)) := by
  have hlt := offsetExists_lt h
  have htier := tierOf_devPa (off := off / 64 * 64) (by omega)
  refine ⟨_, rfl, ?_⟩
  simp only [h, Bool.not_true, Bool.false_eq_true, if_false, htier]
  obtain ⟨hset, hframe⟩ := aget_aput_iff_mark s.chip.pois (off / 64 * 64)
  by_cases hw : off < 2 ^ 40
  · simp only [show off / 64 * 64 < 2 ^ 40 by omega, if_true, zero_ne_one, if_false]
    exact ⟨hset, hframe, trivial, fun _ => trivial, fun h' => absurd hw (Nat.not_lt.2 h')⟩
  · simp only [show ¬ off / 64 * 64 < 2 ^ 40 by omega, if_false, if_true]
    have hpa : devPa (off / 64 * 64) = 2 ^ 64 + off / 64 * 64 := if_neg (by omega)
    obtain ⟨hmem, hpois⟩ := holdLine_keeps
      { s.chip with pois := aput false s.chip.pois (off / 64 * 64) true, mc := closeLine (devPa (off / 64 * 64)) s.chip.mc } (devPa (off / 64 * 64))
    rw [hmem, hpois]
    refine ⟨hset, hframe, rfl, fun h' => absurd h' hw, fun _ hroom => ?_⟩
    rw [← hpa] at hroom ⊢
    exact holdLine_holds _ _ hroom

/-- R118: 10 ms without a refill. -/
theorem weightHoldExpired (s : State) (line : Nat) (h : HeldLine) (hf : s.chip.held.find? (fun x => x.line == devPa line) = some h)
    (he : h.expired = false) (ht : h.since + 10000000 ≤ s.chip.time) :
    ∃ t, exec (.weightHoldExpire line) s = .next t ∧ (∀ x ∈ t.chip.held, x.line = h.line → x.expired = true)
      ∧ Recorded s.chip t.chip ((0xC40 + h.slice) % 4096) (fun x => x.type = 0x43#16 ∧ x.payload = BitVec.ofNat 64 (h.line % 2 ^ 64))
      ∧ t.chip.mem = s.chip.mem := by
  refine ⟨_, rfl, ?_⟩
  simp only [hf, he, Nat.not_lt.2 ht, decide_false, Bool.or_false, Bool.false_eq_true, if_false]
  refine ⟨fun x hx hline => ?_, ?_, Chip.emitUnit_mem ..⟩
  · rw [emitUnit_held] at hx
    obtain ⟨y, -, rfl⟩ := List.mem_map.1 hx
    by_cases hy : y.line = h.line
    · rw [if_pos hy]
    · rw [if_neg hy] at hline; exact absurd hline hy
  · rw [show 0xC40 + h.slice = 0xC00 + (64 + h.slice) by omega]
    exact recorded_congr (emitUnit_recorded _ (64 + h.slice) 0x43 (dw (h.line % 2 ^ 64)) (by decide)) rfl rfl

/-- Settles O54: each kind of error by the branch of its instruction. -/
theorem memoryErrors : Obligations.MemoryErrors := by
  intro s
  refine ⟨fun loc => ?_, memoryError s, fun cl b g hg => ?_, fun core line => ?_, weightHoldExpired s, fun req j e he hc => ?_⟩
  · cases loc <;> rfl
  · refine ⟨_, rfl, ?_⟩
    simp only [Nat.not_le.2 hg, if_false, bank_setBank, if_true]
    exact ⟨aget_aput_same .., trivial, rfl⟩
  · refine ⟨_, rfl, ?_, rfl⟩
    simp only [Chip.core_setCore, if_true]
  · show execStreamEntryExpire req j s = _
    unfold execStreamEntryExpire
    simp only [runChip_next, he, Nat.not_lt.2 hc, if_false]

end Sys2Proof.Proofs
end

section
/-! PROOF. Power-up and resets (O52): the steps of the sequence, the ports, what a reset leaves. -/

namespace Sys2Proof.Proofs

open Sys2Proof Sys2Proof.Machine Sys2Proof.Claims

/-! ### Maps -/

/-- What holds of the default and of every listed value holds of every value. -/
theorem aget_forall {α : Type} {p : α → Prop} {d : α} {m : AMap α} (hd : p d) (hm : ∀ x ∈ m, p x.2) (n : Nat) : p (aget d m n) := by
  induction m with
  | nil => exact hd
  | cons x r ih =>
    rw [aget]
    split
    · exact hm x (List.mem_cons_self ..)
    · exact ih fun y hy => hm y (List.mem_cons_of_mem _ hy)

/-- A map cut down to some of its keys. -/
theorem aget_filter_keys {α : Type} (d : α) (m : AMap α) (p : Nat → Bool) (k : Nat) :
    aget d (m.filter (fun x => p x.1)) k = if p k then aget d m k else d := by
  induction m with
  | nil => simp [aget]
  | cons x r ih =>
    rw [List.filter_cons, aget]
    by_cases hk : k = x.1
    · subst hk
      by_cases hx : p x.1 = true
      · rw [if_pos hx, aget, if_pos rfl, if_pos rfl, if_pos hx]
      · rw [if_neg hx, ih, if_neg hx, if_neg hx]
    · rw [if_neg hk, ← ih]
      split
      · rw [aget, if_neg hk]
      · rfl

theorem aget_below {α : Type} [DecidableEq α] {d : α} {m : AMap α} {lo n : Nat} (h : acanon d lo m = true) (hn : n < lo) : aget d m n = d := by
  induction m generalizing lo with
  | nil => rfl
  | cons x r ih =>
    simp only [acanon, Bool.and_eq_true, decide_eq_true_eq] at h
    obtain ⟨⟨hlo, -⟩, hr⟩ := h
    rw [aget, if_neg (by omega), ih hr (by omega)]

/-- A canonical map with its values changed and the defaults among them dropped. -/
theorem aget_map_drop {α : Type} [DecidableEq α] {d : α} (f : α → α) (hf : f d = d) {m : AMap α} {lo : Nat} (h : acanon d lo m = true) (n : Nat) :
    aget d ((m.map (fun x => (x.1, f x.2))).filter (fun x => x.2 != d)) n = f (aget d m n) := by
  induction m generalizing lo with
  | nil => exact hf.symm
  | cons x r ih =>
    simp only [acanon, Bool.and_eq_true, decide_eq_true_eq] at h
    obtain ⟨-, hr⟩ := h
    rw [List.map_cons, List.filter_cons, aget]
    by_cases hd : f x.2 = d
    · rw [if_neg (by simp [hd]), ih hr]
      by_cases hn : n = x.1
      · rw [if_pos hn, aget_below hr (by omega), hf, hd]
      · rw [if_neg hn]
    · rw [if_pos (by simpa using hd), aget, ih hr]
      exact (apply_ite f ..).symm

/-! ### The power-up sequence -/

theorem addError_getLast (l : Life) (time : DWord) (code unit : Nat) :
    ∃ e, (l.addError time code unit).errors.getLast? = some e ∧ e.code = code :=
  ⟨{ time := time, code := code, unit := unit }, List.getLast?_concat, rfl⟩

/-- R404, R405: a step that fails holds the part. -/
theorem hold_held (s : State) (step : Nat) (c : Chip) (l : Life) (hr : c.running = s.chip.running) (hm : c.mem = s.chip.mem) :
    Held s { s with chip := (hold step (c, l)).1, life := (hold step (c, l)).2 } step :=
  ⟨rfl, rfl, List.getLast?_concat, addError_getLast .., hr, hm⟩

/-- The state with which a port leaves its training. -/
def trained (bad : List Nat) (n : Nat) : Link := if bad.contains n then Link.zero else { Link.zero with width := 2, up := true }

theorem trained_up (bad : List Nat) (n : Nat) : (trained bad n).up = !bad.contains n := by
  unfold trained
  cases bad.contains n <;> rfl

theorem foldl_setLink (f : Nat → Link) (ns : List Nat) (c : Chip) :
    ∃ ls, ns.foldl (fun (x : Chip) n => x.setLink n (f n)) c = { c with links := ls }
      ∧ ∀ n, aget Link.zero ls n = if n ∈ ns then f n else c.link n := by
  induction ns generalizing c with
  | nil => exact ⟨c.links, rfl, fun n => (if_neg List.not_mem_nil).symm⟩
  | cons m ns ih =>
    obtain ⟨ls, hc, hl⟩ := ih (c.setLink m (f m))
    refine ⟨ls, hc, fun n => ?_⟩
    rw [hl, Chip.link, Chip.setLink, aget_aput, ← Chip.link]
    by_cases hn : n = m
    · subst hn; simp
    · simp [hn]

/-- R404, step 5: the ports trained, and nothing else changed. -/
theorem trainPorts_form (c : Chip) (bad : List Nat) :
    ∃ ls, c.trainPorts bad = { c with links := ls } ∧ ∀ n, n < 32 → (aget Link.zero ls n).up = !bad.contains n := by
  obtain ⟨ls, hc, hl⟩ := foldl_setLink (trained bad) (List.range 32) c
  exact ⟨ls, hc, fun n hn => by rw [hl, if_pos (List.mem_range.2 hn), trained_up]⟩

/-- R386, R387: a record stored at once, in a store that is not frozen. -/
theorem resetRecord_form (c : Chip) (cause : Nat) (h : c.trace.freeze = false) :
    ∃ u t, c.resetRecord cause = { c with unitSeq := u, trace := t } ∧ t.poweron = c.trace.poweron ∧ t.count = c.trace.count + 1
      ∧ t.resets = c.trace.resets ∧ t.cause = c.trace.cause := by
  unfold Chip.resetRecord Chip.storeRecord
  simp only [Chip.emitUnit, Chip.emit, Chip.emitAt, Chip.unitCid, Nat.reduceAdd, Nat.reduceMod, OfNat.one_ne_ofNat, decide_false, Bool.false_and,
    Bool.false_eq_true, if_false, aget_aput_same]
  obtain ⟨r, rs, hrs⟩ : ∃ r rs, (aget TraceBuf.zero c.trace.bufs 3076).recs ++ [_] = r :: rs := List.exists_cons_of_ne_nil (by simp)
  rw [hrs]
  unfold Trace.accept
  simp only [h, Bool.false_eq_true, if_false]
  exact ⟨_, _, rfl, rfl, rfl, rfl, rfl⟩

theorem imagesVerify_iff (r : PowerUp) : (acceptedImage r.own && acceptedImage r.main) = true ↔ ImagesVerify r := by
  simp [ImagesVerify, acceptedImage, and_assoc]

/-- R404, R406: what steps 1 and 2 come to. -/
theorem powerUpFirst_cases (s : State) (r : PowerUp) :
    let t : State := { s with chip := (powerUpFirst r s.chip s.life).1, life := (powerUpFirst r s.chip s.life).2 }
    (¬ ImagesVerify r → Held s t 1) ∧ (ImagesVerify r → r.lpddr = false → Held s t 2)
    ∧ (ImagesVerify r → r.lpddr = true → t.life = { s.life with state := 1 } ∧ t.chip.running = s.chip.running ∧ t.chip.mem = s.chip.mem
      ∧ (s.life.cause ≠ 1 → t.chip = s.chip) ∧ (s.life.cause = 1 → t.chip.trace.poweron = s.chip.now ∧ t.chip.trace.count = 1)) := by
  intro t
  refine ⟨fun hi => ?_, fun hi hl => ?_, fun hi hl => ?_⟩
  · have ht : powerUpFirst r s.chip s.life = hold 1 (s.chip, s.life) := by
      rw [← imagesVerify_iff, Bool.not_eq_true] at hi
      simp [powerUpFirst, hi]
    simp only [t, ht]
    exact hold_held s 1 _ _ rfl rfl
  · have ht : powerUpFirst r s.chip s.life = hold 2 (s.chip, s.life) := by
      rw [← imagesVerify_iff] at hi
      simp [powerUpFirst, hi, hl]
    simp only [t, ht]
    exact hold_held s 2 _ _ rfl rfl
  · rw [← imagesVerify_iff] at hi
    obtain ⟨u, tr, hc, hp, hcount, -, -⟩ := resetRecord_form
      { s.chip with trace := { Trace.reset with poweron := s.chip.now, bufs := s.chip.trace.bufs } } 1 rfl
    simp only [t, powerUpFirst, hi, hl, Bool.not_true, Bool.false_eq_true, if_false]
    by_cases hcause : s.life.cause = 1
    · rw [if_pos hcause, hc]
      exact ⟨trivial, rfl, rfl, fun h => absurd hcause h, fun _ => ⟨hp, hcount⟩⟩
    · rw [if_neg hcause]
      exact ⟨trivial, rfl, rfl, fun _ => rfl, fun h => absurd h hcause⟩

/-- R404, R410, R413: what steps 3 to 6 come to. -/
theorem powerUpRest_cases (s : State) (r : PowerUp) :
    let t : State := { s with chip := (powerUpRest r s.chip s.life).1, life := (powerUpRest r s.chip s.life).2 }
    (r.arrays = false → Held s t 3) ∧ (r.arrays = true → r.hbm = false → Held s t 4) ∧ (r.arrays = true → r.hbm = true → r.pcie = false → Held s t 5)
    ∧ (r.arrays = true → r.hbm = true → r.pcie = true → (s.life.selfTest r).nextFuse = none → Held s t 6)
    ∧ ∀ f, r.arrays = true → r.hbm = true → r.pcie = true → (s.life.selfTest r).nextFuse = some f →
      t.life = { s.life.selfTest r with state := 2 } ∧ t.chip.running = true ∧ t.chip.fuse = f
      ∧ (∀ n, n < 32 → (t.chip.link n).up = !r.badPorts.contains n) ∧ t.chip.mem = s.chip.mem := by
  obtain ⟨ls, hports, hup⟩ := trainPorts_form s.chip r.badPorts
  intro t
  refine ⟨fun ha => ?_, fun ha hh => ?_, fun ha hh hp => ?_, fun ha hh hp hf => ?_, fun f ha hh hp hf => ?_⟩
  · simp only [t, powerUpRest, ha, Bool.not_false, if_true]
    exact hold_held s 3 _ _ rfl rfl
  · simp only [t, powerUpRest, ha, hh, Bool.not_false, Bool.not_true, Bool.false_eq_true, if_false, if_true]
    exact hold_held s 4 _ _ rfl rfl
  · simp only [t, powerUpRest, ha, hh, hp, Bool.not_false, Bool.not_true, Bool.false_eq_true, if_false, if_true, hports]
    exact hold_held s 5 _ _ rfl rfl
  · simp only [t, powerUpRest, startPart, ha, hh, hp, hf, Bool.not_true, Bool.false_eq_true, if_false, hports]
    exact hold_held s 6 _ _ rfl rfl
  · simp only [t, powerUpRest, startPart, ha, hh, hp, hf, Bool.not_true, Bool.false_eq_true, if_false, hports]
    exact ⟨trivial, trivial, trivial, hup, trivial⟩

/-- R404: which steps the event takes. -/
theorem powerUp_next (s : State) (r : PowerUp) : exec (.powerUpSequence r) s =
    (if s.life.state = 0 then .next { s with chip := (powerUpFirst r s.chip s.life).1, life := (powerUpFirst r s.chip s.life).2 }
     else if s.life.state = 1 then .next { s with chip := (powerUpRest r s.chip s.life).1, life := (powerUpRest r s.chip s.life).2 }
     else .next s) := by
  show execPowerUpSequence r s = _
  unfold execPowerUpSequence runLife
  by_cases h0 : s.life.state = 0
  · simp only [if_pos h0]
  · by_cases h1 : s.life.state = 1
    · simp only [if_neg h0, if_pos h1]
    · simp only [if_neg h0, if_neg h1]

theorem powerUpSequence : PowerUpSequence := by
  intro s r
  refine ⟨fun h => ?_, fun h => ?_, fun h => ?_⟩
  · rw [powerUp_next, if_neg (by omega), if_neg (by omega)]
  · rw [powerUp_next, if_pos h]
    obtain ⟨h1, h2, hgo⟩ := powerUpFirst_cases s r
    exact ⟨fun hi => ⟨_, rfl, h1 hi⟩, fun hi hl => ⟨_, rfl, h2 hi hl⟩, fun hi hl => ⟨_, rfl, hgo hi hl⟩⟩
  · rw [powerUp_next, if_neg (by omega), if_pos h]
    obtain ⟨h3, h4, h5, h6, hgo⟩ := powerUpRest_cases s r
    exact ⟨fun ha => ⟨_, rfl, h3 ha⟩, fun ha hh => ⟨_, rfl, h4 ha hh⟩, fun ha hh hp => ⟨_, rfl, h5 ha hh hp⟩,
      fun ha hh hp hf => ⟨_, rfl, h6 ha hh hp hf⟩, fun f ha hh hp hf => ⟨_, rfl, hgo f ha hh hp hf⟩⟩

/-! ### Resets -/

/-- R386, R388: storing a record leaves the count of resets. -/
theorem storeRecord_resets (c : Chip) (source : Nat) : (c.storeRecord source).trace.resets = c.trace.resets := by
  unfold Chip.storeRecord
  dsimp only
  split
  · rfl
  · unfold Trace.accept
    split <;> rfl

theorem drainTrace_resets (c : Chip) : c.drainTrace.trace.resets = c.trace.resets :=
  foldl_keeps (fun x : Chip => x.trace.resets) _ _ c fun _ _ _ h =>
    (foldl_keeps (fun x : Chip => x.trace.resets) _ _ _ fun _ _ _ h' => (storeRecord_resets ..).trans h').trans h

/-- A core of which a reset has left the sequence values alone. -/
def seqsOnly (k : Core) : Core := { Core.zero with seqW := k.seqW, seqM := k.seqM, seqD := k.seqD }

/-- What a reset leaves of a chip, before its record. -/
def resetChip (c : Chip) (cause : Nat) : Chip :=
  { Chip.reset with
    time := c.time, cycle := c.cycle, cores := (c.cores.map (fun x => (x.1, seqsOnly x.2))).filter (fun x => x.2 != Core.zero),
    unitSeq := c.unitSeq, freeSeq := c.freeSeq, eccCount := c.eccCount,
    mem := c.mem.filter (fun x => 2 ^ 40 ≤ x.1), pois := c.pois.filter (fun x => 2 ^ 40 ≤ x.1), hostMem := c.hostMem,
    hostOut := c.hostOut, fabricOut := c.fabricOut,
    trace := { c.drainTrace.trace with
      resets := c.drainTrace.trace.resets + 1, cause := cause, headerAt := c.drainTrace.trace.count, freeze := false, win := 0, bufs := [] } }

theorem afterReset_eq (c : Chip) (cause : Nat) : c.afterReset cause = (resetChip c cause).resetRecord cause := rfl

theorem resetChip_noWarps (c : Chip) (cause n slot : Nat) : (resetChip c cause).warp n slot = none := by
  have h : ((resetChip c cause).core n).warps = [] := by
    refine aget_forall (p := fun k : Core => k.warps = []) rfl (fun x hx => ?_) n
    obtain ⟨y, -, rfl⟩ := List.mem_map.1 (List.mem_of_mem_filter hx)
    rfl
  rw [Chip.warp, h]; rfl

theorem resetChip_core {c : Chip} (h : acanon Core.zero 0 c.cores = true) (cause n : Nat) : (resetChip c cause).core n = seqsOnly (c.core n) :=
  aget_map_drop seqsOnly rfl h n

/-- R404, R407: a reset, whichever its cause. -/
theorem resetPart_leaves (s : State) (cause : Nat) :
    ∃ t, resetPart cause s = .next t ∧ t.life = { s.life with state := 0, step := 0, cause := cause, clock := 1400, dueFits := [] }
      ∧ t.chip.running = false ∧ t.chip.priv = PrivRegs.reset ∧ t.chip.gangs = [] ∧ t.chip.grids = [] ∧ (∀ n slot, t.chip.warp n slot = none)
      ∧ (∀ a, a < 2 ^ 40 → aget 0 t.chip.mem a = 0) ∧ (∀ a, 2 ^ 40 ≤ a → aget 0 t.chip.mem a = aget 0 s.chip.mem a)
      ∧ (∀ a, 2 ^ 40 ≤ a → aget false t.chip.pois a = aget false s.chip.pois a) ∧ t.chip.locked = false ∧ t.chip.offset = 0
      ∧ t.chip.time = s.chip.time ∧ t.chip.trace.resets = s.chip.trace.resets + 1 ∧ t.chip.trace.cause = cause
      ∧ (acanon Core.zero 0 s.chip.cores = true → ∀ n, (t.chip.core n).seqW = (s.chip.core n).seqW ∧ (t.chip.core n).seqM = (s.chip.core n).seqM
          ∧ (t.chip.core n).seqD = (s.chip.core n).seqD) := by
  obtain ⟨u, tr, hc, -, -, hresets, hcause⟩ := resetRecord_form (resetChip s.chip cause) cause rfl
  refine ⟨_, rfl, rfl, ?_⟩
  simp only [afterReset_eq, hc]
  refine ⟨rfl, rfl, rfl, rfl, fun n slot => resetChip_noWarps s.chip cause n slot, fun a ha => ?_, fun a ha => ?_, fun a ha => ?_, rfl, rfl, rfl,
    hresets.trans (congrArg (· + 1) (drainTrace_resets s.chip)), hcause, fun h n => ?_⟩
  · exact (aget_filter_keys 0 s.chip.mem (fun k => decide (2 ^ 40 ≤ k)) a).trans (if_neg (by simpa using ha))
  · exact (aget_filter_keys 0 s.chip.mem (fun k => decide (2 ^ 40 ≤ k)) a).trans (if_pos (by simpa using ha))
  · exact (aget_filter_keys false s.chip.pois (fun k => decide (2 ^ 40 ≤ k)) a).trans (if_pos (by simpa using ha))
  · have hn := resetChip_core h cause n
    have hW := congrArg Core.seqW hn
    have hM := congrArg Core.seqM hn
    have hD := congrArg Core.seqD hn
    exact ⟨hW, hM, hD⟩

theorem resets : Resets := by
  intro s k cause h
  simp only [List.mem_cons, Prod.mk.injEq, List.not_mem_nil, or_false] at h
  rcases h with ⟨rfl, rfl⟩ | ⟨rfl, rfl⟩ | ⟨rfl, rfl⟩ | ⟨rfl, rfl⟩ <;> exact resetPart_leaves s _

/-- Settles O52: the sequence by its two events, a reset by what it keeps. -/
theorem powerUpAndResets : Obligations.PowerUpAndResets := ⟨powerUpSequence, resets⟩

end Sys2Proof.Proofs
end

section
/-! PROOF. Translations and faults (O51): what an invalidation clears and flushes, records written late, faults settled. -/

namespace Sys2Proof.Proofs

open Sys2Proof Sys2Proof.Machine Sys2Proof.Claims

/-! ### Invalidations -/

/-- A map with its values changed by a function that keeps the default. -/
theorem aget_map_values {α : Type} {d : α} (f : α → α) (hf : f d = d) (m : AMap α) (n : Nat) :
    aget d (m.map (fun x => (x.1, f x.2))) n = f (aget d m n) := by
  induction m with
  | nil => exact hf.symm
  | cons x r ih =>
    rw [List.map_cons, aget, aget, ih]
    exact (apply_ite f ..).symm

/-- R102: the core that an invalidation leaves. -/
theorem invalidateXlate_core (c : Chip) (page tag n : Nat) : (c.invalidateXlate page tag).core n = (c.core n).clearXlate tag page :=
  aget_map_values (Core.clearXlate tag page) rfl c.cores n

theorem mem_clearXlate {k : Core} {tag : Nat} {page : BitVec 48} {e : TlbEntry} (h : e ∈ (k.clearXlate tag page.toNat).tlb) :
    e ∈ k.tlb ∧ (e.tag = tag → page ≠ BitVec.allOnes 48 ∧ e.page ≠ page.toNat * 2 ^ 16 / 2 ^ levelBit e.level) := by
  obtain ⟨hin, hkept⟩ := List.mem_filter.1 h
  refine ⟨hin, fun ht => ?_⟩
  simp only [ht, bne_self_eq_false, Bool.false_or, Bool.and_eq_true, bne_iff_ne] at hkept
  obtain ⟨hall, hpage⟩ := hkept
  exact ⟨fun h' => hall (by rw [h']; rfl), hpage⟩

/-- R102: the context of an invalidation is pending, with those that were. -/
theorem invalidateXlate_xpend (c : Chip) (page tag : Nat) :
    tag ∈ (c.invalidateXlate page tag).priv.xpend ∧ ∀ x ∈ c.priv.xpend, x ∈ (c.invalidateXlate page tag).priv.xpend := by
  unfold Chip.invalidateXlate
  dsimp only
  split
  next h => exact ⟨List.contains_iff_mem.1 h, fun _ hx => hx⟩
  next => exact ⟨List.mem_append_right _ (List.mem_singleton_self _), fun _ hx => List.mem_append_left _ hx⟩

/-- R102: the write-backs at its end change bytes alone. -/
theorem work_afterFlush (c : Chip) (tags : List Nat) : work (afterFlush c tags) = work c :=
  foldl_keeps work _ _ c fun _ _ _ h => (foldl_keeps work _ _ _ fun _ _ _ h' => (work_flushTag ..).trans h').trans h

theorem invalidationComplete_eq (s : State) : exec .invalidationComplete s = .next { s with
    chip := if s.chip.priv.xpend = [] || s.chip.remotes.any (fun r => s.chip.priv.xpend.any (fun t => r.through t)) then s.chip
      else { afterFlush s.chip s.chip.priv.xpend with priv := { (afterFlush s.chip s.chip.priv.xpend).priv with xpend := [] } } } := rfl

theorem invalidation : Invalidation := by
  intro s page tag
  refine ⟨fun hr => ?_, fun hne hnone => ?_, fun r hr x hx ht => ?_, fun he => ?_⟩
  · have ht : exec (.xinvWrite page tag) s = .next { s with chip := s.chip.invalidateXlate page.toNat tag.toNat } := by
      show execXinvWrite page tag s = _
      simp only [execXinvWrite, runPriv, runChip_next, hr, if_true]
    obtain ⟨htag, hpend⟩ := invalidateXlate_xpend s.chip page.toNat tag.toNat
    refine ⟨_, ht, htag, hpend, rfl, fun n e he => ?_, fun n slot => ?_, rfl⟩
    · rw [invalidateXlate_core] at he
      exact mem_clearXlate he
    · rw [Chip.warp, invalidateXlate_core]; rfl
  · have hany : s.chip.remotes.any (fun r => s.chip.priv.xpend.any (fun t => r.through t)) = false := by
      simp only [List.any_eq_false]
      intro r hr hx
      obtain ⟨x, hx, ht⟩ := List.any_eq_true.1 hx
      exact absurd ht (by simp [hnone r hr x hx])
    rw [invalidationComplete_eq, hany, if_neg (by simp [hne])]
    refine ⟨_, rfl, ?_, rfl, rfl⟩
    rw [work_priv (work_afterFlush s.chip s.chip.priv.xpend)]
  · have hany : s.chip.remotes.any (fun r => s.chip.priv.xpend.any (fun t => r.through t)) = true :=
      List.any_eq_true.2 ⟨r, hr, List.any_eq_true.2 ⟨x, hx, ht⟩⟩
    rw [invalidationComplete_eq, hany, if_pos (by simp)]
  · rw [invalidationComplete_eq, if_pos (by simp [he])]

/-! ### Records of faults -/

theorem recordWaiting_of_ring {c : Chip} (h : ∀ f ∈ c.faults, f.ring = true) (n : Nat) : recordWaiting n c = c := by
  cases n with
  | zero => rfl
  | succ n =>
    have hf : c.faults.find? (fun f => !f.ring) = none := List.find?_eq_none.2 fun f hm => by simp [h f hm]
    simp only [recordWaiting, hf]

/-- R112: a record for which the ring has room. -/
theorem writeFault_room {c : Chip} (f : PageFault) (h : c.priv.pfhead.toNat - c.priv.pfack.toNat < c.pfRingSize) :
    (c.writeFault f).priv.pfhead = c.priv.pfhead + 1 ∧ (c.writeFault f).hostOut = c.hostOut ++ [.msix 0]
    ∧ (c.writeFault f).faults = c.faults ++ [{ f with id := c.priv.pfhead.toNat % 2 ^ 32, ring := true }] := by
  unfold Chip.writeFault
  simp only [if_neg (Nat.not_le.2 h)]
  exact ⟨rfl, rfl, rfl⟩

theorem bitVec_add_one_ne (x : BitVec 64) : x + 1 ≠ x := by
  intro h
  exact absurd (BitVec.add_right_eq_self.1 h) (by decide)

/-- R112: the only fault that waits is recorded, where its party does not leave the cores. -/
theorem recordWaiting_one {c : Chip} {f : PageFault} (hw : c.faults.filter (fun x => !x.ring) = [f]) (hs : f.party.saves = false)
    (hroom : c.priv.pfhead.toNat - c.priv.pfack.toNat < c.pfRingSize) :
    (recordWaiting c.faults.length c).priv.pfhead = c.priv.pfhead + 1 ∧ (∀ x ∈ (recordWaiting c.faults.length c).faults, x.ring = true)
    ∧ (recordWaiting c.faults.length c).hostOut = c.hostOut ++ [.msix 0] := by
  have hfind : c.faults.find? (fun x => !x.ring) = some f := by rw [← List.head?_filter, hw]; rfl
  obtain ⟨n, hn⟩ : ∃ n, c.faults.length = n + 1 := Nat.exists_eq_succ_of_ne_zero fun h0 => by
    rw [List.length_eq_zero_iff.1 h0] at hw; cases hw
  obtain ⟨hhead, hout, hfaults⟩ := writeFault_room (c := { c with faults := c.faults.filter (fun x => x != f) }) f hroom
  have hring : ∀ x ∈ (({ c with faults := c.faults.filter (fun x => x != f) } : Chip).writeFault f).faults, x.ring = true := by
    rw [hfaults]
    intro x hx
    rcases List.mem_append.1 hx with hx | hx
    · obtain ⟨hin, hne⟩ := List.mem_filter.1 hx
      by_contra hr
      have hx' : x ∈ c.faults.filter (fun x => !x.ring) := List.mem_filter.2 ⟨hin, by simpa using hr⟩
      rw [hw] at hx'
      exact absurd (List.mem_singleton.1 hx') (by simpa using hne)
    · rw [List.mem_singleton.1 hx]
  have hone : recordWaiting c.faults.length c = ({ c with faults := c.faults.filter (fun x => x != f) } : Chip).writeFault f := by
    rw [hn, recordWaiting]
    simp only [hfind]
    rw [if_neg (by rw [hhead]; exact bitVec_add_one_ne _), if_neg (by simp [hs])]
    exact recordWaiting_of_ring hring n
  rw [hone]
  exact ⟨hhead, hring, hout⟩

theorem pfackWrite_eq (s : State) (v : BitVec 64) (hr : s.chip.running = true) :
    exec (.pfackWrite v) s = .next { s with chip := s.chip.ackFaults v } := by
  show execPfackWrite v s = _
  simp only [execPfackWrite, runPriv, runChip_next, hr, if_true]

/-! ### Faults settled -/

/-- The chip with SR.PFDONE written. -/
def withDone (c : Chip) (v : DWord) : Chip := { c with priv := { c.priv with pfdone := v } }

/-- The outcome of an event that leaves a chip. -/
def nextChip (s : State) (c : Chip) : Host.Outcome State Fault Refusal := .next { s with chip := c }

theorem pfdoneResolve_eq (s : State) (id : BitVec 32) (hr : s.chip.running = true) :
    exec (.pfdoneResolve id) s = nextChip s ((withDone s.chip (id.setWidth 64)).resolveFault id.toNat) := by
  show execPfdoneResolve id s = _
  simp only [execPfdoneResolve, runPriv, runChip_next, hr, if_true, nextChip, withDone]

theorem pfdoneFail_eq (s : State) (id : BitVec 32) (hr : s.chip.running = true) :
    exec (.pfdoneFail id) s = nextChip s ((withDone s.chip (BitVec.ofNat 64 (2 ^ 32 + id.toNat))).failFault id.toNat) := by
  show execPfdoneFail id s = _
  simp only [execPfdoneFail, runPriv, runChip_next, hr, if_true, nextChip, withDone, dw]

/-- R113: a fault of a party that leaves the cores, resolved. -/
theorem resolveFault_saves {c : Chip} {id : Nat} {f : PageFault} (hf : c.faults.find? (fun x => x.named id) = some f) (hs : f.party.saves = true) :
    c.resolveFault id =
      ({ c with faults := c.faults.map (fun x => if x.named id then { x with resolved := true } else x) } : Chip).settleFaults f.gang := by
  simp only [Chip.resolveFault, hf, hs, if_true]

/-- R113: and declared unresolvable. -/
theorem failFault_saves {c : Chip} {id : Nat} {f : PageFault} (hf : c.faults.find? (fun x => x.named id) = some f) (hs : f.party.saves = true) :
    c.failFault id =
      ({ c with faults := c.faults.map (fun x => if x.named id then { x with failed := true } else x) } : Chip).settleFaults f.gang := by
  simp only [Chip.failFault, hf, hs, if_true]

/-- R113: a gang that is off its cores, or leaving them, waits for its restore. -/
theorem settleFaults_off {c : Chip} {g : Nat} {k : Gang} (hk : c.gang g = some k) (hp : k.phase ≠ 0) : c.settleFaults g = c := by
  simp [Chip.settleFaults, hk, hp]

/-- R113: the one fault of a gang settled: it ends, delivered where it is unresolvable. -/
theorem deliverFaults_one {c : Chip} {f : PageFault} (hfs : c.faults = [f]) (hd : (f.failed || f.resolved) = true) (hs : f.party.saves = true) :
    c.deliverFaults f.gang (fun _ => true) = if f.failed then ({ c with faults := [] } : Chip).deliverFault f else { c with faults := [] } := by
  unfold Chip.deliverFaults
  cases hparty : f.party <;> simp only [hparty, Party.saves, Bool.false_eq_true] at hs
  all_goals
    simp only [hfs, List.filter_cons, List.filter_nil, hparty, beq_self_eq_true, Bool.true_and, hd, Bool.not_true, Bool.not_false, Bool.and_true,
      Bool.false_eq_true, if_false]
    cases f.failed <;> rfl

/-- R113: a gang on its cores whose one fault is settled. -/
theorem settleFaults_one {c : Chip} {f : PageFault} {k : Gang} (hfs : c.faults = [f]) (hk : c.gang f.gang = some k) (hp : k.phase = 0)
    (hd : (f.failed || f.resolved) = true) (hs : f.party.saves = true) :
    c.settleFaults f.gang = if f.failed then ({ c with faults := [] } : Chip).deliverFault f else { c with faults := [] } := by
  have hu : c.unsettled f.gang = false := by
    have hsettled : (!f.failed && !f.resolved) = false := by rw [← Bool.not_or, hd]; rfl
    simp only [Chip.unsettled, hfs, List.any_cons, List.any_nil, Bool.or_false, Bool.and_assoc, hsettled, Bool.and_false]
  rw [← deliverFaults_one hfs hd hs, Chip.settleFaults, hk, hu]
  simp only [Option.map_some, hp, decide_true, Option.getD_some, Bool.not_false, Bool.and_true, if_true]

/-- What a fault that an ID names is. -/
theorem named_of_find {c : Chip} {id : Nat} {f : PageFault} (hf : c.faults.find? (fun x => x.named id) = some f) :
    f.named id = true ∧ f.failed = false := by
  have hn : f.named id = true := List.find?_some (p := fun x : PageFault => x.named id) hf
  simp only [PageFault.named, Bool.and_eq_true, Bool.not_eq_true'] at hn
  obtain ⟨⟨⟨hring, hfail⟩, hres⟩, hid⟩ := hn
  exact ⟨by simp only [PageFault.named, hring, hfail, hres, hid]; rfl, hfail⟩

/-- R113: the one fault of a gang on its cores resolved: it is gone. -/
theorem resolveFault_alone {c : Chip} {id : Nat} {f : PageFault} {k : Gang} (hf : c.faults.find? (fun x => x.named id) = some f)
    (hfs : c.faults = [f]) (hs : f.party.saves = true) (hk : c.gang f.gang = some k) (hp : k.phase = 0) :
    c.resolveFault id = { c with faults := [] } := by
  obtain ⟨hnamed, hfail⟩ := named_of_find hf
  have hmap : c.faults.map (fun x => if x.named id then { x with resolved := true } else x) = [{ f with resolved := true }] := by
    rw [hfs, List.map_singleton, if_pos hnamed]
  rw [resolveFault_saves hf hs, hmap]
  refine (settleFaults_one (c := { c with faults := [{ f with resolved := true }] }) (f := { f with resolved := true }) rfl hk hp
    (Bool.or_true _) hs).trans ?_
  rw [if_neg (by simp [hfail])]

/-- R113: declared unresolvable: it is delivered. -/
theorem failFault_alone {c : Chip} {id : Nat} {f : PageFault} {k : Gang} (hf : c.faults.find? (fun x => x.named id) = some f)
    (hfs : c.faults = [f]) (hs : f.party.saves = true) (hk : c.gang f.gang = some k) (hp : k.phase = 0) :
    c.failFault id = ({ c with faults := [] } : Chip).deliverFault { f with failed := true } := by
  have hmap : c.faults.map (fun x => if x.named id then { x with failed := true } else x) = [{ f with failed := true }] := by
    rw [hfs, List.map_singleton, if_pos (named_of_find hf).1]
  rw [failFault_saves hf hs, hmap]
  exact (settleFaults_one (c := { c with faults := [{ f with failed := true }] }) (f := { f with failed := true }) rfl hk hp
    (Bool.true_or _) hs).trans (if_pos rfl)

/-- R113: TRANSLATION reason 2 in the lanes that met a fault. -/
theorem deliverFault_lanes {c : Chip} {f : PageFault} {n slot : Nat} {mask : BitVec 64} {w : Warp} (hparty : f.party = .lanes n slot mask)
    (hw : c.warp n slot = some w) :
    c.deliverFault f = c.trapEnter n slot
      { syn := 0x05000000 + (f.op * 65536 + 2) % 2 ^ 24, pos := (w.lane (lowLane (mask &&& w.live))).pos, posted := false, kind := 0,
        queue := 0, lane := f.lane, addr := f.addr.toNat, mask := mask, inner := 0, stopped := 0, cid := some f.cid } := by
  simp only [Chip.deliverFault, hparty, hw, syndrome, opReason, Nat.reducePow, Nat.reduceMul]

theorem faultRing : FaultRing := by
  intro s hr
  refine ⟨fun v => ⟨fun hlt => ?_, fun hle hring => ?_, fun f hle hw hs hroom => ?_⟩, fun id f hf => ⟨fun hs => ?_, fun k hs hk hp => ⟨?_, ?_⟩,
    fun k hfs hs hk hp => ?_, fun k n slot mask w hfs hparty hk hp hwarp => ?_⟩⟩
  · rw [pfackWrite_eq s v hr, Chip.ackFaults, if_pos hlt]
  · rw [pfackWrite_eq s v hr, Chip.ackFaults, if_neg (by omega),
      recordWaiting_of_ring (c := { s.chip with priv := { s.chip.priv with pfack := v } }) hring]
  · rw [pfackWrite_eq s v hr, Chip.ackFaults, if_neg (by omega)]
    exact ⟨_, rfl, recordWaiting_one (c := { s.chip with priv := { s.chip.priv with pfack := v } }) hw hs hroom⟩
  · rw [pfdoneResolve_eq s id hr, Chip.resolveFault]
    simp only [withDone, hf, hs, Bool.false_eq_true, if_false]
    rfl
  · rw [pfdoneResolve_eq s id hr]
    exact congrArg (nextChip s) ((resolveFault_saves (c := withDone s.chip (id.setWidth 64)) hf hs).trans (settleFaults_off hk hp))
  · rw [pfdoneFail_eq s id hr]
    exact congrArg (nextChip s) ((failFault_saves (c := withDone s.chip (BitVec.ofNat 64 (2 ^ 32 + id.toNat))) hf hs).trans (settleFaults_off hk hp))
  · rw [pfdoneResolve_eq s id hr]
    exact congrArg (nextChip s) (resolveFault_alone (c := withDone s.chip (id.setWidth 64)) hf hfs hs hk hp)
  · rw [pfdoneFail_eq s id hr, failFault_alone (c := withDone s.chip (BitVec.ofNat 64 (2 ^ 32 + id.toNat))) hf hfs (by rw [hparty]; rfl) hk hp]
    exact congrArg (nextChip s) (deliverFault_lanes (f := { f with failed := true }) hparty hwarp)

/-- Settles O51: the fields that an invalidation and its end touch, and the branches of the fault ring. -/
theorem translationControl : Obligations.TranslationControl := ⟨invalidation, faultRing⟩

end Sys2Proof.Proofs
end

section
/-! PROOF. Accesses of lanes (O17, O18): addresses, lines translated and read, what a load's operation brings. -/

namespace Sys2Proof.Proofs

open Sys2Proof Sys2Proof.Machine Sys2Proof.Claims

/-! ### What accesses of lines leave -/

theorem work_translateAll {i : Issue} {op core tag : Nat} {acc : Acc} {pol : Nat} {hs : List Hit} {ls : List Nat} {c c' : Chip}
    {pas : List (Nat × Nat)} (h : translateAll i op core tag acc pol hs ls c = .ok (pas, c')) : work c' = work c := by
  induction ls generalizing c pas with
  | nil => obtain rfl := congrArg Prod.snd (Except.ok.inj h); rfl
  | cons l ls ih =>
    rw [translateAll] at h
    split at h
    · cases h
    next hx =>
      split at h
      · cases h
      next hrest =>
        obtain rfl := congrArg Prod.snd (Except.ok.inj h)
        exact (ih hrest).trans (work_xlate hx)

theorem work_readLines {i : Issue} {op core tag : Nat} {priv : Bool} {pol : Nat} {hs : List Hit} {c0 : Chip} {pas : List (Nat × Nat)}
    {c c' : Chip} {ld : LineData} (h : readLines i op core tag priv pol hs c0 pas c = .ok (ld, c')) : work c' = work c := by
  induction pas generalizing c ld with
  | nil => obtain rfl := congrArg Prod.snd (Except.ok.inj h); rfl
  | cons p pas ih =>
    rw [readLines] at h
    split at h
    iterate 4 · cases h
    next hr =>
      split at h
      · cases h
      next hrest =>
        obtain rfl := congrArg Prod.snd (Except.ok.inj h)
        exact (ih hrest).trans (work_lineRead hr)

theorem work_gathered {i : Issue} {op core tag : Nat} {r : Rec} {hs : List Hit} {c c' : Chip} {ld : LineData}
    (h : Gathered i op core tag r hs c ld c') : work c' = work c := by
  obtain ⟨pas, c1, ht, hl⟩ := h
  exact (work_readLines hl).trans (work_translateAll ht)

/-- R155: a read of host memory noted. -/
theorem noteHost_keeps {α : Type} (p : Chip → α) (hp : ∀ (x : Chip) n rs, p { x with nextReq := n, remotes := rs } = p x) (c : Chip) (who : Party)
    (op code tag : Nat) (cid : DWord) (hs : List Hit) (pas : List (Nat × Nat)) : p (c.noteHost who op code tag cid hs pas) = p c :=
  foldl_keeps p _ _ c fun _ _ _ h => (hp ..).trans h

/-- R383: a causal ID drawn for an instruction. -/
theorem issueCid_keeps {α : Type} (p : Chip → α) (hd : ∀ (x : Chip) ds, p { x with drawn := ds } = p x)
    (hc : ∀ (x : Chip) n k, p (x.setCore n k) = p x) (c : Chip) (i : Issue) : p (c.issueCid i).1 = p c := by
  unfold Chip.issueCid
  split
  · exact hd ..
  · obtain ⟨a, b, d, h⟩ := nextCid_form c i.eng
    rw [h]; exact hc ..

/-- What an operation finds when it joins those in flight, and the bytes that it leaves. -/
def issueRest (c : Chip) : List Op × Nat × AMap Byte × AMap Byte × List Intent := (c.ops, c.nextOp, c.mem, c.hostMem, c.intents)

theorem issueRest_awaited (c : Chip) (i : Issue) (who : Party) (op code tag : Nat) (cid : DWord) (hs : List Hit) (pas : List (Nat × Nat)) :
    issueRest ((c.issueCid i).1.noteHost who op code tag cid hs pas) = issueRest c :=
  (noteHost_keeps issueRest (fun _ _ _ => rfl) ..).trans (issueCid_keeps issueRest (fun _ _ => rfl) (fun _ _ _ => rfl) c i)

theorem work_noteHost (c : Chip) (who : Party) (op code tag : Nat) (cid : DWord) (hs : List Hit) (pas : List (Nat × Nat)) :
    work (c.noteHost who op code tag cid hs pas) = work c := noteHost_keeps work (fun _ _ _ => rfl) ..

/-! ### Addresses -/

theorem inBounds_fault {a : LaneAddr} (h : inBounds a) : a.fault = none := by
  cases a with
  | oob => rfl
  | hit x => rfl
  | bad syn x => exact absurd h not_false

theorem srcX_val (x : Reg) (w : Warp) (l : Nat) : (srcX x).val w l = w.reg x.toNat l := by simp [Src.val, srcX, Src.codeIn, Warp.regs]

/-- R105: the addresses of lanes none of which traps. -/
theorem addrs_inBounds {p : Prep} (hb : p.bad = none) (i : Issue) {f : Nat → LaneAddr} {ls : List Nat} (h : ∀ l ∈ ls, inBounds (f l)) :
    p.addrs i f ls = .ok (ls.map (fun l => (l, (f l).addr?))) := by
  have hlow : p.lowest (fun l => (f l).fault) ls = none := by
    rw [Prep.lowest, hb]
    exact firstLane_none _ _ fun l hl => inBounds_fault (h l hl)
  simp only [Prep.addrs, hlow]

theorem hitsOf_addrs (n : Nat) (f : Nat → LaneAddr) (ls : List Nat) : hitsOf n (ls.map (fun l => (l, (f l).addr?))) = hitsIn f n ls := by
  rw [hitsOf, hitsIn, List.filterMap_map]
  congr 1; funext l
  rw [Function.comp]
  cases f l <;> rfl

theorem recFor_usable {i : Issue} {c : Chip} {p : Prep} {op : Nat} {q : BitVec 5} {write : Bool} (h : RecordUsable c i p.w q op write) :
    recFor i c p op q write = .ok (Rec.ofBits (aget 0 p.w.q q.toNat)) := by
  obtain ⟨hpend, hpois, hbad⟩ := h
  unfold recFor
  simp only [hpend, hpois, hbad, Bool.false_eq_true, if_false]

/-- The operands of an instruction of lanes that they let execute. -/
theorem prepLanes_of_ready {s : State} {i : Issue} {core slot : Nat} {w : Warp} {f : Form} (hi : Issuing s i core slot w) (hr : f.Ready s.chip i w) :
    ∃ p, prepLanes f i s.chip = .ok p ∧ p.bad = none ∧ p.act = f.active i w ∧ p.once = f.once ∧ p.w = w ∧ p.core = core ∧ p.slot = slot :=
  ⟨_, prepLanes_ready f s i core slot w hi hr, rfl, rfl, rfl, rfl, rfl, rfl⟩

/-- R105: the lanes that access, where some lane executes. -/
theorem parts_eq_takers {p : Prep} {f : Form} {i : Issue} (ha : p.act = f.active i p.w) (ho : p.once = f.once) (h : p.act ≠ 0) :
    p.parts = takers f i p.w := by
  rw [Prep.parts, takers, ho, if_neg h, ha]

/-! ### Loads -/

/-- What a load makes of a lane's access. -/
def laneGets (val : Nat → Nat → Nat) (ld : LineData) (n l : Nat) : LaneAddr → Nat × Bool
  | .hit a => (val l (ld.bytes a n), ld.pois { lane := 0, addr := a, n := n })
  | .oob => (0, false)
  | .bad _ _ => (0, false)

/-- R230: the element that a lane decodes from the bytes of a block. -/
def sxValue (sl : Slot) (l v : Nat) : Nat := convertTo sl.fb sl (sxElement sl.fa sl.sa (bytesOf (sxSize sl.fa) v) (l % 16))

theorem laneGets_brings (ld : LineData) (n l : Nat) (a : LaneAddr) : laneGets (fun _ v => v) ld n l a = brings ld n a := by cases a <;> rfl

/-- R42: an operation that joins those in flight once its reads are done. -/
theorem issueOp_awaited {s : State} {i : Issue} {core slot : Nat} {w : Warp} {c' : Chip} (hi : Issuing s i core slot w)
    (hwork : work c' = work s.chip) (o : Op) (who : Party) (op code tag : Nat) (cid : DWord) (hs : List Hit) (pas : List (Nat × Nat)) :
    let t := ((c'.issueCid i).1.noteHost who op code tag cid hs pas).issueOp i o
    (∃ g, t.ops = c'.ops ++ [{ o with id := c'.nextOp, eng := i.eng, mask := i.lanes, pos := i.pos, gang := g }])
      ∧ t.mem = c'.mem ∧ t.hostMem = c'.hostMem ∧ t.intents = c'.intents := by
  have hwarp : ((c'.issueCid i).1.noteHost who op code tag cid hs pas).warp core slot = some w := by
    rw [work_warp (work_noteHost ..), work_warp (work_issueCid ..), work_warp hwork]
    exact hi.warp
  have hrest := issueRest_awaited c' i who op code tag cid hs pas
  generalize (c'.issueCid i).1.noteHost who op code tag cid hs pas = c4 at hwarp hrest
  simp only [issueRest, Prod.mk.injEq] at hrest
  obtain ⟨hops, hnext, hmem, hhost, hint⟩ := hrest
  simp only [issueOp_warp hi.eng hwarp, Chip.setWarp_ops, Chip.setWarp_mem, Chip.setWarp_hostMem, Chip.setWarp_intents, inFlight, hops, hnext]
  exact ⟨⟨_, rfl⟩, hmem, hhost, hint⟩

/-- R42, R105, R107: a load that no lane's access stops. -/
theorem loadOp_issued {op : Nat} {flag : Option Nat} {d : Reg} {nr n : Nat} {q : BitVec 5} {x : Reg} {off : Int} {val : Nat → Nat → Nat} {p : Prep}
    {s : State} {i : Issue} {ld : LineData} {c' : Chip} (hi : Issuing s i p.core p.slot p.w) (hb : p.bad = none) (ha : p.act ≠ 0)
    (hr : RecordUsable s.chip i p.w q op false)
    (hin : ∀ l ∈ p.parts, inBounds ((Rec.ofBits (aget 0 p.w.q q.toNat)).addr op (p.w.reg x.toNat l) off n))
    (hg : Gathered i op p.core (s.chip.tagOf p.w.gang) (Rec.ofBits (aget 0 p.w.q q.toNat))
      (hitsIn (fun l => (Rec.ofBits (aget 0 p.w.q q.toNat)).addr op (p.w.reg x.toNat l) off n) n p.parts) s.chip ld c') :
    ∃ c2, loadOp op flag d nr q x off n val p i s.chip = .ok c2
      ∧ LoadIssued flag d nr p.once p.parts
        (fun l => laneGets val ld n l ((Rec.ofBits (aget 0 p.w.q q.toNat)).addr op (p.w.reg x.toNat l) off n)) c' { s with chip := c2 } := by
  have hwork := work_gathered hg
  obtain ⟨pas, c1, htrans, hread⟩ := hg
  unfold loadOp
  simp only [if_neg ha, recFor_usable hr, srcX_val, addrs_inBounds hb i hin, hitsOf_addrs, htrans, hread]
  refine ⟨_, rfl, ?_⟩
  obtain ⟨⟨gang, hops⟩, hmem, hhost, hint⟩ := issueOp_awaited hi hwork _ _ _ _ _ _ _ _
  refine ⟨_, hops, rfl, ?_⟩
  simp only [hmem, hhost, hint]
  cases p.once <;> simp only [Op.dest, Op.blank, List.flatMap_map, Bool.false_eq_true, if_false, if_true, and_true, true_and]
  all_goals
    congr 1; funext l
    cases (Rec.ofBits (aget 0 p.w.q q.toNat)).addr op (p.w.reg x.toNat l) off n <;> rfl

theorem loadResult : LoadResult := by
  intro g fsel sz fs d x q off off' s i core slot w ld c'
  dsimp only
  intro hi hflag
  refine ⟨fun hr ha hrec hin hg => ?_, fun hr ha hsx hfl hrec hin hg => ?_⟩
  · obtain ⟨p, hp, hbad, hact, honce, rfl, rfl, rfl⟩ := prepLanes_of_ready hi hr
    rw [← hact] at ha
    rw [← parts_eq_takers hact honce ha] at hin hg ⊢
    rw [← honce]
    obtain ⟨c2, hload, hout⟩ := loadOp_issued (flag := flagOf i.hdr fsel.toNat) (d := d) (nr := if sz = 3#2 then 2 else 1) (val := fun _ v => v)
      hi hbad ha hrec hin hg
    refine ⟨{ s with chip := c2 }, ?_, ?_⟩
    · show execLd g fsel sz d q x off s = _
      refine runIssue_ok hi.cur ?_
      simp only [withFlag, hflag, Bool.false_eq_true, if_false, hp]
      exact hload
    · simpa only [laneGets_brings] using hout
  · obtain ⟨p, hp, hbad, hact, -, rfl, rfl, rfl⟩ := prepLanes_of_ready hi hr
    rw [← hact] at ha hin hg ⊢
    obtain ⟨c2, hload, hout⟩ := loadOp_issued (flag := flagOf i.hdr fsel.toNat) (d := d) (nr := 1) (val := sxValue (s.chip.slot i.eng fs.toNat))
      (p := { p with once := false }) hi hbad ha hrec hin hg
    refine ⟨{ s with chip := c2 }, ?_, ?_⟩
    · show execLdsx g fsel fs d q x off' s = _
      refine runIssue_ok hi.cur ?_
      simp only [withFlag, hflag, Bool.false_eq_true, if_false, hp, hsx, hfl, Bool.and_true, Bool.not_true, Bool.and_false]
      exact hload
    · convert hout using 2 with l
      · rfl
      · cases (Rec.ofBits (aget 0 p.w.q q.toNat)).addr 0x83 (p.w.reg x.toNat l) off'.toInt (sxSize (s.chip.slot i.eng fs.toNat).fa) <;> rfl

theorem recordLoad : RecordLoad := by
  intro g fsel x qd q off s i core slot w ld c'
  dsimp only
  intro hi hflag hr ha hpend hrec hin hg
  obtain ⟨p, hp, hbad, hact, -, rfl, rfl, rfl⟩ := prepLanes_of_ready hi hr
  rw [← hact] at ha hin hg ⊢
  have hwork := work_gathered hg
  have hin' : ∀ l ∈ [lowLane p.act], inBounds ((Rec.ofBits (aget 0 p.w.q q.toNat)).addr 0x80 (p.w.reg x.toNat l) off.toInt 32) := by
    simpa only [List.mem_singleton, forall_eq] using hin
  have hg' : Gathered i 0x80 p.core (s.chip.tagOf p.w.gang) (Rec.ofBits (aget 0 p.w.q q.toNat)) (hitsIn
      (fun l => (Rec.ofBits (aget 0 p.w.q q.toNat)).addr 0x80 (p.w.reg x.toNat l) off.toInt 32) 32 [lowLane p.act]) s.chip ld c' := hg
  obtain ⟨pas, c1, htrans, hread⟩ := hg'
  show ∃ t o, execLdrec g fsel qd q x off s = .next t ∧ _
  unfold execLdrec runIssue
  simp only [hi.cur, withFlag, hflag, hp, hpend, Bool.false_eq_true, if_false, ha, recFor_usable hrec, srcX_val, addrs_inBounds hbad i hin',
    hitsOf_addrs, htrans, hread]
  obtain ⟨⟨gang, hops⟩, hmem, -, hint⟩ := issueOp_awaited hi hwork _ _ _ _ _ _ _ _
  refine ⟨_, _, rfl, hops, rfl, rfl, rfl, rfl, ?_, hmem, hint⟩
  cases haddr : (Rec.ofBits (aget 0 p.w.q q.toNat)).addr 0x80 (p.w.reg x.toNat (lowLane p.act)) off.toInt 32 <;>
    simp only [hitsIn, List.filterMap_cons, List.filterMap_nil, haddr] <;> rfl

/-- Settles O17: what `loadOp` gathers for each lane, and for LDREC's one. -/
theorem loads : Obligations.Loads := ⟨loadResult, recordLoad⟩

end Sys2Proof.Proofs
end

section
/-! PROOF. Stores and prefetches of lanes (O18): ST, the blocks of STSX, PRF. -/

namespace Sys2Proof.Proofs

open Sys2Proof Sys2Proof.Machine Sys2Proof.Claims

/-! ### What writes and prefetches of lines leave -/

theorem work_askRuns (rs : List (Nat × Nat)) (c : Chip) (pa d : Nat) (who : Party) (op : Option Nat) (lane code tag : Nat) (cid : DWord) (va : Nat) :
    work (rs.foldl (fun (x : Chip) r =>
      x.ask (pa + r.1) (.write (bytesOf r.2 (d / 2 ^ (8 * r.1))) false) who op lane code tag 2 r.2 cid va) c) = work c :=
  foldl_keeps work _ rs c fun _ _ _ h => (work_ask ..).trans h

@[simp] theorem work_writeLines (who : Party) (op core tag opId : Nat) (pos : Pos) (priv : Bool) (pol : Nat) (cid : DWord) (sts : List (Hit × Nat))
    (pas : List (Nat × Nat)) (c : Chip) : work (writeLines who op core tag opId pos priv pol cid sts pas c).1 = work c := by
  induction pas generalizing c with
  | nil => rfl
  | cons p pas ih =>
    rw [writeLines]
    refine (ih _).trans ?_
    split
    · exact (work_askRuns ..).trans (work_lineWrite ..)
    · exact work_lineWrite ..

theorem work_intendedBy (c : Chip) (slot : Nat) (cid : DWord) : work (c.intendedBy slot cid) = work c := rfl

theorem work_detected (c : Chip) (requester line : Nat) : work (c.detected requester line).2 = work c := rfl

theorem work_prefetchLines {i : Issue} {core tag opId : Nat} {cid : DWord} {r : Rec} {hs : List Hit} {c0 : Chip} {ls : List Nat} {c c' : Chip}
    {sent : Bool} (h : prefetchLines i core tag opId cid r hs c0 ls c = .ok (c', sent)) : work c' = work c := by
  induction ls generalizing c sent with
  | nil => obtain rfl := congrArg Prod.fst (Except.ok.inj h); rfl
  | cons va ls ih =>
    rw [prefetchLines] at h
    split at h
    · cases h
    · exact ih h
    next hx =>
      split at h
      next hr => exact (ih h).trans ((work_lineRead hr).trans (work_xlate hx))
      · exact (ih h).trans (work_xlate hx)
      · cases h
      · cases h
      · split at h
        · cases h
        next hrest =>
          obtain rfl := congrArg Prod.fst (Except.ok.inj h)
          exact (ih hrest).trans ((work_ask ..).trans ((work_detected ..).trans (work_xlate hx)))

/-! ### ST -/

/-- R107: a store whose lines translate. -/
theorem storeOp_translated {op : Nat} {flag : Option Nat} {r : Rec} {sts : List (Hit × Nat)} {p : Prep} {i : Issue} {c c1 : Chip} {hs : List Hit}
    {pas : List (Nat × Nat)} (hhs : sts.map (fun s => s.1) = hs)
    (ht : translateAll i op p.core (c.tagOf p.w.gang) .write r.pol hs (linesOf hs) c = .ok (pas, c1)) :
    let o := writeLines (partyOf i.eng i.lanes) op p.core (c.tagOf p.w.gang) c1.nextOp i.pos r.priv r.pol (c1.nextCid i.eng).2 sts pas
      (c1.nextCid i.eng).1
    ∃ long, storeOp op flag r sts p i c = .ok ((o.1.intendedBy p.slot (c1.nextCid i.eng).2).issueOp i
      { Op.blank op flag (c1.nextCid i.eng).2 with hold := o.1.opAsks c1.nextOp, race := o.2, long := long }) := by
  have hnext : (c1.nextCid i.eng).1.nextOp = c1.nextOp := work_nextOp (work_nextCid c1 i.eng)
  unfold storeOp
  simp only [hhs, ht, hnext]
  exact ⟨_, rfl⟩

/-- R107: what a store leaves of the rest. -/
theorem work_stored {op core tag pol : Nat} {acc : Acc} {hs : List Hit} {ls : List Nat} {pas : List (Nat × Nat)} {i : Issue} {c c1 : Chip}
    (ht : translateAll i op core tag acc pol hs ls c = .ok (pas, c1)) (who : Party) (id : Nat) (priv : Bool) (pol' : Nat) (cid cid' : DWord)
    (sts : List (Hit × Nat)) (slot : Nat) :
    work ((writeLines who op core tag id i.pos priv pol' cid sts pas (c1.nextCid i.eng).1).1.intendedBy slot cid') = work c :=
  (work_intendedBy ..).trans ((work_writeLines ..).trans ((work_nextCid ..).trans (work_translateAll ht)))

theorem map_fst_values (hs : List Hit) (v : Hit → Nat) : (hs.map (fun h => (h, v h))).map (fun s => s.1) = hs := by
  rw [List.map_map]
  exact List.map_id hs

theorem n_of_hitsIn {f : Nat → LaneAddr} {n : Nat} {ls : List Nat} {h : Hit} (hh : h ∈ hitsIn f n ls) : h.n = n ∧ h.lane ∈ ls := by
  obtain ⟨l, hl, hx⟩ := List.mem_filterMap.1 hh
  cases hf : f l <;> simp only [hf, Option.some.injEq, reduceCtorEq] at hx
  rw [← hx]; exact ⟨rfl, hl⟩

theorem storeResult : StoreResult := by
  intro g fsel sz d x q off s i core slot w pas c1
  dsimp only
  intro hi hflag hr ha hrec hin ht
  obtain ⟨p, hp, hbad, hact, honce, rfl, rfl, rfl⟩ := prepLanes_of_ready hi hr
  rw [← hact] at ha
  rw [← parts_eq_takers hact honce ha] at hin ht ⊢
  have hvals : (hitsIn (fun l => (Rec.ofBits (aget 0 p.w.q q.toNat)).addr 0x82 (p.w.reg x.toNat l) off.toInt (2 ^ sz.toNat)) (2 ^ sz.toNat)
        p.parts).map (fun h => (h, p.w.regs d.toNat h.lane (if sz = 3#2 then 2 else 1) % 2 ^ (8 * h.n))) = _ :=
    List.map_congr_left fun h hh => by rw [(n_of_hitsIn hh).1]
  obtain ⟨long, hstore⟩ := storeOp_translated (flag := flagOf i.hdr fsel.toNat)
    (map_fst_values _ fun h => p.w.regs d.toNat h.lane (if sz = 3#2 then 2 else 1) % 2 ^ (8 * 2 ^ sz.toNat)) ht
  refine ⟨long, ?_⟩
  show execSt g fsel sz d q x off s = _
  refine runIssue_ok hi.cur ?_
  simp only [withFlag, hflag, Bool.false_eq_true, if_false, hp, execStCore, szBytes, ha, recFor_usable hrec, srcX_val, addrs_inBounds hbad i hin,
    hitsOf_addrs, hvals]
  exact hstore

/-! ### STSX -/

/-- R231: the block of a group of lanes, from the checks of its values. -/
def sxBlock (sl : Slot) (cs : List LaneCheck) (l : Nat) : SxBlock × Flags :=
  toSX sl.fb sl.sb sl.rnd sl.sat ((List.range 16).map (fun j =>
    match checkedVal cs (l / 16 * 16 + j) with
    | some (v, _) => v
    | none => .fin false 0 0))

/-- R231: what stops a lane of STSX: its check, or, in the lowest lane of a group, its X and its address. -/
def sxFault (x : Reg) (w : Warp) (cs : List LaneCheck) (leads : List Nat) (at_ : Nat → LaneAddr) (l : Nat) : Option (Nat × Nat) :=
  match rangeIn 0x84 l cs with
  | some f => some f
  | none =>
    if !leads.contains l then none
    else if (srcX x).poisIn w l then some (poisonBy 0x84 ((srcX x).mark w l), (srcX x).mark w l) else (at_ l).fault

/-- The bytes that each access of STSX stores. -/
def sxStores (sl : Slot) (blocks : List (Nat × SxBlock × Flags)) (hs : List Hit) : List (Hit × Nat) :=
  hs.map (fun h => (h, match blocks.find? (fun b => b.1 == h.lane) with
    | some b => natOfBytes (b.2.1.bytes sl.fb)
    | none => 0))

/-- R231: the sticky bits of STSX, set once its operation has been issued. -/
def sxSticky (p : Prep) (fl : Flags) (r : Except Stop Chip) : Except Stop Chip :=
  match r with
  | .error e => .error e
  | .ok c1 =>
    match c1.warp p.core p.slot with
    | none => .ok c1
    | some w => .ok (c1.setWarp p.core p.slot (some (w.sticky fl)))

/-- R231: STSX, its operands prepared. -/
def sxWork (flag : Option Nat) (fs : Nat) (sl : Slot) (d : Reg) (q : BitVec 5) (x : Reg) (off : Int) (p : Prep) (i : Issue) (c : Chip) :
    Except Stop Chip :=
  if p.act = 0 then .ok (c.issueOp i (Op.blank 0x84 flag (c.nextCid i.eng).2))
  else if !(isFloat sl.fa && isSx sl.fb) then .error (p.atLow i (formatSyn 0x84 fs sl) 0)
  else
    let leads := groupLeads (lanesOf p.act)
    let cs : List LaneCheck := (lanesOf p.act).map (fun l => (l, boundCheck (c.bounds i.eng) sl (widen sl.fa (p.w.reg d.toNat l))))
    match recFor i c p 0x84 q true with
    | .error e => .error e
    | .ok r =>
      let at_ (l : Nat) : LaneAddr := r.addr 0x84 ((srcX x).val p.w l) off (sxSize sl.fb)
      match p.lowest (sxFault x p.w cs leads at_) (lanesOf p.act) with
      | some (l, syn, a) => .error (laneTrap i syn l a)
      | none =>
        let blocks := leads.map (fun l => (l, sxBlock sl cs l))
        sxSticky p (orFlags (blocks.map (fun b => b.2.2)) ||| checkFlags p.act cs)
          (storeOp 0x84 flag r (sxStores sl blocks (hitsOf (sxSize sl.fb) (leads.map (fun l => (l, (at_ l).addr?))))) p i c)

theorem execStsx_eq (g : Guard) (fsel : BitVec 2) (fs : BitVec 3) (d x : Reg) (q : BitVec 5) (off : BitVec 12) (s : State) :
    exec (.stsx g fsel fs d q x off) s = runIssue s (fun i c =>
      withFlag c i (flagOf i.hdr fsel.toNat) (
        if isU d.toNat then .error (laneTrap i (regSyn 0x84 0 d.toNat) (lowLane i.lanes) 0)
        else match prepLanes { op := 0x84, g := g, hq := false, d := none, ud := .rule, srcs := [{ code := d, field := 0, n := 1, ia := false }],
                               extra := [srcX x] } i c with
        | .error e => .error e
        | .ok p => sxWork (flagOf i.hdr fsel.toNat) fs.toNat (c.slot i.eng fs.toNat) d q x off.toInt p i c)) := rfl

/-- R81: checks that all pass stop no lane. -/
theorem rangeIn_passing {ls : List Nat} {chk : Nat → Checked} (hp : ∀ l ∈ ls, passes (chk l) = true) (op l : Nat) :
    rangeIn op l (laneChecks (fun k => [chk k]) ls) = none := by
  rw [rangeIn_laneChecks]
  split
  next hl => rw [firstRange_eq_none (by simpa using hp l hl)]; rfl
  next => rfl

/-- R231: no lane of STSX is stopped whose check passes, nor a group's lowest whose X carries no mark and whose address is in bounds. -/
theorem sxFault_none {x : Reg} {w : Warp} {chk : Nat → Checked} {ls leads : List Nat} {at_ : Nat → LaneAddr}
    (hp : ∀ l ∈ ls, passes (chk l) = true) (hx : ∀ l ∈ leads, (srcX x).poisIn w l = false) (hin : ∀ l ∈ leads, inBounds (at_ l)) (l : Nat) :
    sxFault x w (laneChecks (fun k => [chk k]) ls) leads at_ l = none := by
  rw [sxFault, rangeIn_passing hp]
  by_cases hl : l ∈ leads
  · simp [hl, hx l hl, inBounds_fault (hin l hl)]
  · simp [hl]

/-- R231: the block of a group whose checks pass: its lanes' values, +0 in place of those that do not execute. -/
theorem sxBlock_eq {sl : Slot} {act : BitVec 64} {chk : Nat → Checked} (hp : ∀ l ∈ lanesOf act, passes (chk l) = true) (l : Nat) :
    sxBlock sl (laneChecks (fun k => [chk k]) (lanesOf act)) l = toSX sl.fb sl.sb sl.rnd sl.sat (block act false (fun k => passed (chk k)) l) := by
  unfold sxBlock block
  congr 1
  refine List.map_congr_left fun j _ => ?_
  rw [checkedVal_laneChecks (lanesOf_nodup act) chk _ (hp _)]
  by_cases hk : l / 16 * 16 + j ∈ lanesOf act
  · rw [if_pos hk, if_pos (by simpa using hk)]; rfl
  · rw [if_neg hk, if_neg (by simpa using hk)]

theorem find?_keyed {β : Type} (f : Nat → β) {ls : List Nat} {k : Nat} (h : k ∈ ls) :
    (ls.map (fun l => (l, f l))).find? (fun b => b.1 == k) = some (k, f k) := by
  induction ls with
  | nil => cases h
  | cons l ls ih =>
    rw [List.map_cons, List.find?_cons]
    by_cases hl : l = k
    · subst hl; simp
    · simp only [beq_eq_false_iff_ne.2 hl]
      exact ih (List.mem_of_ne_of_mem (Ne.symm hl) h)

/-- R231: what each access stores: the block of its lane's group. -/
theorem sxStores_eq (sl : Slot) (blk : Nat → SxBlock × Flags) (f : Nat → LaneAddr) (n : Nat) (leads : List Nat) :
    sxStores sl (leads.map (fun l => (l, blk l))) (hitsIn f n leads)
      = (hitsIn f n leads).map (fun h => (h, natOfBytes ((blk h.lane).1.bytes sl.fb))) :=
  List.map_congr_left fun h hh => by rw [find?_keyed blk (n_of_hitsIn hh).2]

/-- The sticky bits of checks in lanes that all execute. -/
theorem checkFlags_executing (act : BitVec 64) (chk : Nat → Checked) :
    checkFlags act (laneChecks (fun k => [chk k]) (lanesOf act)) = orFlags ((lanesOf act).map (fun l => raised (chk l))) := by
  rw [checkFlags_laneChecks]
  congr 1
  exact List.map_congr_left fun l hl => by rw [if_pos ((mem_lanesOf _ _).1 hl)]; simp [orFlags]

theorem laneChecks_single (chk : Nat → Checked) (ls : List Nat) : laneChecks (fun k => [chk k]) ls = ls.map (fun l => (l, chk l)) :=
  (List.map_eq_flatMap ..).symm

/-- R231: STSX, no lane of which is stopped, is the store of its groups' blocks. -/
theorem sxWork_stores {flag : Option Nat} {fs : Nat} {sl : Slot} {d x : Reg} {q : BitVec 5} {off : Int} {p : Prep} {i : Issue} {c : Chip}
    (hbad : p.bad = none) (ha : p.act ≠ 0) (hfl : isFloat sl.fa = true) (hsx : isSx sl.fb = true) (hrec : RecordUsable c i p.w q 0x84 true) :
    let r := Rec.ofBits (aget 0 p.w.q q.toNat)
    let leads := groupLeads (lanesOf p.act)
    let chk (l : Nat) := boundCheck (c.bounds i.eng) sl (widen sl.fa (p.w.reg d.toNat l))
    let blk (l : Nat) := toSX sl.fb sl.sb sl.rnd sl.sat (block p.act false (fun k => passed (chk k)) l)
    let at_ (l : Nat) := r.addr 0x84 (p.w.reg x.toNat l) off (sxSize sl.fb)
    (∀ l ∈ leads, (srcX x).poisIn p.w l = false) → (∀ l ∈ lanesOf p.act, passes (chk l) = true) → (∀ l ∈ leads, inBounds (at_ l)) →
    sxWork flag fs sl d q x off p i c =
      sxSticky p (orFlags (leads.map (fun l => (blk l).2)) ||| orFlags ((lanesOf p.act).map (fun l => raised (chk l))))
        (storeOp 0x84 flag r ((hitsIn at_ (sxSize sl.fb) leads).map (fun h => (h, natOfBytes ((blk h.lane).1.bytes sl.fb)))) p i c) := by
  intro r leads chk blk at_ hx hpass hin
  have hlow : p.lowest (sxFault x p.w (laneChecks (fun k => [chk k]) (lanesOf p.act)) leads at_) (lanesOf p.act) = none := by
    rw [Prep.lowest, hbad]
    exact firstLane_none _ _ fun l _ => sxFault_none hpass hx hin l
  have hblk : leads.map (fun l => (l, sxBlock sl (laneChecks (fun k => [chk k]) (lanesOf p.act)) l)) = leads.map (fun l => (l, blk l)) :=
    List.map_congr_left fun l _ => by rw [sxBlock_eq hpass]
  unfold sxWork
  simp only [ha, if_false, hfl, hsx, Bool.and_self, Bool.not_true, Bool.false_eq_true, recFor_usable hrec, srcX_val, ← laneChecks_single]
  simp only [chk, at_, leads, r] at hlow hblk
  simp only [hlow, hblk, hitsOf_addrs, sxStores_eq, checkFlags_executing, List.map_map]
  rfl

/-- R231: the sticky bits of an operation's warp that has just passed. -/
theorem sxSticky_issued {p : Prep} {i : Issue} {c : Chip} (he : i.eng = .warp p.core p.slot) (hw : c.warp p.core p.slot = some p.w) (fl : Flags)
    (o : Op) : sxSticky p fl (.ok (c.issueOp i o)) =
      .ok ((c.issueOp i o).setWarp p.core p.slot (some ((warpIssued p.w i o.flag c.nextOp).sticky fl))) := by
  have h : (c.issueOp i o).warp p.core p.slot = some (warpIssued p.w i o.flag c.nextOp) := by rw [issueOp_warp he hw, Chip.warp_setWarp_same]
  simp only [sxSticky, h]

theorem blockStore : BlockStore := by
  intro g fsel fs d x q off s i core slot w pas c1
  dsimp only
  intro hi hflag hu hr hx ha hfl hsx hrec hpass hin ht
  obtain ⟨p, hp, hbad, hact, honce, rfl, rfl, rfl⟩ := prepLanes_of_ready hi hr
  rw [← hact] at ha hx hpass hin ht ⊢
  obtain ⟨long, hstore⟩ := storeOp_translated (flag := flagOf i.hdr fsel.toNat) (map_fst_values _ fun h => natOfBytes ((toSX
    (s.chip.slot i.eng fs.toNat).fb (s.chip.slot i.eng fs.toNat).sb (s.chip.slot i.eng fs.toNat).rnd (s.chip.slot i.eng fs.toNat).sat
    (block p.act false (fun k => passed (boundCheck (s.chip.bounds i.eng) (s.chip.slot i.eng fs.toNat)
      (widen (s.chip.slot i.eng fs.toNat).fa (p.w.reg d.toNat k)))) h.lane)).1.bytes (s.chip.slot i.eng fs.toNat).fb)) ht
  have hwork := sxWork_stores (flag := flagOf i.hdr fsel.toNat) (fs := fs.toNat) hbad ha hfl hsx hrec hx hpass hin
  have hdone := hwork.trans ((congrArg (sxSticky p _) hstore).trans
    (sxSticky_issued hi.eng ((work_warp (work_stored ht ..) ..).trans hi.warp) _ _))
  have hexec : exec (.stsx g fsel fs d q x off) s = _ := (execStsx_eq ..).trans (runIssue_ok hi.cur (Eq.trans (by
    simp only [withFlag, hflag, hu, Bool.false_eq_true, if_false, hp]) hdone))
  refine ⟨_, _, long, hexec, Chip.warp_setWarp_same .., rfl, ?_⟩
  exact (congrArg (p.w.fpstat ||| ·) (BitVec.or_comm _ _)).trans (BitVec.or_assoc ..).symm

/-! ### PRF -/

theorem prefetchResult : PrefetchResult := by
  intro g fsel sz q x off s i core slot w c2 sent
  dsimp only
  intro hi hflag hr hpend hmark hpre
  obtain ⟨p, hp, hbad, hact, honce, rfl, rfl, rfl⟩ := prepLanes_of_ready hi hr
  rw [← hact] at hmark hpre
  have hmark' : (p.act != 0 && aget false p.w.qp q.toNat) = false := by
    rcases hmark with h | h <;> simp [h]
  have hwork := (work_prefetchLines hpre).trans (work_nextCid s.chip i.eng)
  have hwarp : c2.warp p.core p.slot = some p.w := (work_warp hwork ..).trans hi.warp
  have hexec : exec (.prf g fsel sz q x off) s = nextChip s (c2.issueOp i
      { Op.blank 0x87 (flagOf i.hdr fsel.toNat) (s.chip.nextCid i.eng).2 with
        hold := sent, long := c2.prefetched (s.chip.nextCid i.eng).1 p.core }) := by
    show execPrf g fsel sz q x off s = _
    refine runIssue_ok hi.cur ?_
    simp only [withFlag, hflag, Bool.false_eq_true, if_false, hp, hpend, hmark', hbad, srcX_val, szBytes]
    generalize hgo : prefetchLines _ _ _ _ _ _ _ _ _ _ = go
    obtain rfl : go = .ok (c2, sent) := hgo.symm.trans hpre
    rfl
  rw [hexec, issueOp_warp hi.eng hwarp]
  refine ⟨_, _, _, rfl, congrArg (· ++ [_]) (work_ops hwork), rfl, rfl, rfl, rfl, rfl, rfl, Chip.warp_setWarp_same .., rfl, fun n k hne => ?_⟩
  rw [Chip.warp_setWarp, if_neg (fun h => hne (Prod.ext h.1 h.2))]
  exact work_warp hwork n k

/-- Settles O18: the stores by the lines that they write, PRF by what its lines leave. -/
theorem stores : Obligations.Stores := ⟨storeResult, blockStore, prefetchResult⟩

end Sys2Proof.Proofs
end

section
/-! PROOF. A copy sequencer's scalar accesses and its writes, TRIG (O35). -/

namespace Sys2Proof.Proofs

open Sys2Proof Sys2Proof.Machine Sys2Proof.Claims

/-! ### Instructions of a copy stream -/

/-- R46, R116: a copy-class instruction whose k registers let it execute. -/
theorem copyOp_ready {s : State} {i : Issue} {core : Nat} {reads writes : List (BitVec 5)} (hi : CopyIssuing s i core reads writes) (op : Nat)
    (f : Nat → Issue → Chip → Except Stop Chip) : copyOp op reads writes f i s.chip = f core i s.chip := by
  obtain ⟨-, he, hpend, hmark⟩ := hi
  have h1 : (reads ++ writes).any (fun r => s.chip.pendingK i.eng r.toNat) = false := by
    rw [List.any_eq_false]; intro r hr; simp [hpend r hr]
  have h2 : reads.any (fun r => aget false (s.chip.core core).dray.kp r.toNat) = false := by
    rw [List.any_eq_false]; intro r hr; simp [hmark r hr]
  rw [he] at h1
  simp only [copyOp, he, h1, h2, Bool.false_eq_true, if_false]

theorem dray_setDray (c : Chip) (n : Nat) (d : Dray) : ((c.setDray n d).core n).dray = d := by
  rw [Chip.setDray, Chip.core_setCore, if_pos rfl]

/-- R39, R40: a copy stream passes a word. -/
theorem advance_copy {i : Issue} {core : Nat} (he : i.eng = .copy core) (c : Chip) :
    c.advance i = c.setDray core { (c.core core).dray with s := moved (c.core core).dray.s (i.pos.after i.hdr) } := by
  simp only [Chip.advance, he, Chip.modStream, moved]

/-- R42, R44: an operation of a copy stream without a flag joins those in flight; the stream waits for it. -/
theorem issueOp_copy {i : Issue} {core : Nat} (he : i.eng = .copy core) (c : Chip) {o : Op} (hf : o.flag = none) :
    (c.issueOp i o).ops = c.ops ++ [inFlight c i o] ∧ (c.issueOp i o).mem = c.mem ∧ (c.issueOp i o).remotes = c.remotes := by
  rw [issueOp_passedBy]
  simp only [passedBy, hf, he, Chip.modStream, advance_copy he]
  exact ⟨rfl, rfl, rfl⟩

/-! ### Reads at a slice -/

/-- R126: whether a slice serves a read is no matter of the cores. -/
theorem sliceRead_setCore (c : Chip) (n : Nat) (k : Core) (requester line pol : Nat) :
    ((c.setCore n k).sliceRead requester line pol).isSome = (c.sliceRead requester line pol).isSome := by
  have h1 : (c.setCore n k).home = c.home := rfl
  have h2 : (c.setCore n k).present = c.present := rfl
  have h3 : (c.setCore n k).inStaging = c.inStaging := rfl
  have h4 : (c.setCore n k).traceFull = c.traceFull := rfl
  have h5 : (c.setCore n k).inputHeld = c.inputHeld := rfl
  have h6 : ((c.setCore n k).detected requester line).1 = (c.detected requester line).1 := rfl
  simp only [Chip.sliceRead, Chip.sliceServe, h1, h2, h3, h4, h5, h6]
  split_ifs <;> rfl

theorem sliceRead_nextCid (c : Chip) (e : Eng) (requester line pol : Nat) :
    ((c.nextCid e).1.sliceRead requester line pol).isSome = (c.sliceRead requester line pol).isSome := by
  obtain ⟨a, b, d, h⟩ := nextCid_form c e
  rw [h, sliceRead_setCore]

/-- R126: a read that a slice serves changes no byte. -/
theorem sliceRead_keeps {c c' : Chip} {requester line pol : Nat} (h : c.sliceRead requester line pol = some c') :
    work c' = work c ∧ c'.mem = c.mem := by
  have hs := sliceServe_noSlices h
  have hm := congrArg Chip.mem hs
  exact ⟨work_of_noSlices hs, hm⟩

/-! ### KLD and KST -/

theorem homeBytes_nextCid (c : Chip) (e : Eng) (line : Nat) : (c.nextCid e).1.homeBytes line = c.homeBytes line := by
  obtain ⟨a, b, d, h⟩ := nextCid_form c e
  rw [h]; rfl

theorem linePois_nextCid (c : Chip) (e : Eng) (line : Nat) : (c.nextCid e).1.linePois line = c.linePois line := by
  obtain ⟨a, b, d, h⟩ := nextCid_form c e
  rw [h]; rfl

/-- R143: a request to a peer is no request to the host. -/
theorem peerOf_ne_host (pa : Nat) : (peerOf pa).1 ≠ 2 ^ 22 := by
  unfold peerOf
  dsimp only
  omega

theorem opAsks_ask (c : Chip) (pa : Nat) (kind : ReqKind) (who : Party) (id lane code tag cls bytes : Nat) (cid : DWord) (va : Nat) (pos : Pos)
    (priv flag : Bool) : (c.ask pa kind who (some id) lane code tag cls bytes cid va pos priv flag).opAsks id = true :=
  List.any_eq_true.2 ⟨_, List.mem_append_right _ (List.mem_singleton_self _), by simpa using peerOf_ne_host pa⟩

/-- R143: a request that an operation asks of a peer. -/
theorem ask_remote (c : Chip) (pa : Nat) (kind : ReqKind) (who : Party) (id lane code tag cls bytes : Nat) (cid : DWord) (va : Nat) (pos : Pos)
    (priv flag : Bool) : ∃ r ∈ (c.ask pa kind who (some id) lane code tag cls bytes cid va pos priv flag).remotes,
      r.op = some id ∧ r.kind = kind ∧ r.dst = (peerOf pa).1 ∧ r.off = (peerOf pa).2 :=
  ⟨_, List.mem_append_right _ (List.mem_singleton_self _), rfl, rfl, rfl, rfl⟩

/-- The word that KLD and KST address. -/
def scalarAddr (c : Chip) (core : Nat) (kb : BitVec 5) (imm : BitVec 26) : Nat := (c.kreg core kb + imm.signExtend 64).toNat

/-- R186: what KLD leaves of its Dray: the word in its register, marked or not, and the next word. -/
def kldDray (d : Dray) (i : Issue) (ka : BitVec 5) (v : DWord) (bad : Bool) (m : Nat) : Dray :=
  { d with k := aput 0 d.k ka.toNat v, kp := aput false (aput false d.kp ka.toNat false) ka.toNat bad,
           from_ := if bad then aput 0 d.from_ ka.toNat m else d.from_, s := moved d.s (i.pos.after i.hdr) }

section
variable {ord : Bool} {scope : BitVec 3} {ka kb : BitVec 5} {imm : BitVec 26} {s : State} {i : Issue} {core pa : Nat} {c1 : Chip}

/-- R186: KLD of a word at its home in memory. -/
theorem kld_home (ha : scalarAddr s.chip core kb imm % 8 = 0) (hi : CopyIssuing s i core [kb] [ka])
    (hx : s.chip.xlate core (s.chip.tagOf (s.chip.gangOf i.eng)) (scalarAddr s.chip core kb imm) .read 0 = .ok (pa, c1)) (ht : tierOf pa < 2)
    (hheld : s.chip.held.any (fun h => h.line == lineOf pa && !h.expired) = false)
    (hmeets : s.chip.meetsDray core (lineOf pa) (BitVec.ofNat 64 (255 * 2 ^ (pa % 64))) = none)
    (hread : (c1.sliceRead core (lineOf pa) 0).isSome) :
    ∃ t m, exec (.kld ord scope ka kb imm) s = .next t
      ∧ (t.chip.core core).dray = kldDray (s.chip.core core).dray i ka (BitVec.ofNat 64 (eightOf (c1.homeBytes (lineOf pa)) (pa % 64)))
        (c1.linePois (lineOf pa) || s.chip.held.any (fun h => h.line == lineOf pa && h.expired)) m
      ∧ t.chip.mem = c1.mem ∧ t.chip.ops = s.chip.ops := by
  obtain ⟨c3, hc3⟩ := Option.isSome_iff_exists.1 ((sliceRead_nextCid c1 i.eng ..).trans hread)
  obtain ⟨hw3, hm3⟩ := sliceRead_keeps hc3
  have hw : work c3 = work s.chip := hw3.trans ((work_nextCid ..).trans (work_xlate hx))
  have hmem : c3.mem = c1.mem := hm3.trans (nextCid_mem c1 i.eng)
  obtain ⟨hcur, he, -⟩ := id hi
  simp only [scalarAddr] at ha hx
  have hacq (x : Chip) (n : Nat) : x.acquireBy i.eng n = x := by rw [he]; rfl
  have h2 : tierOf pa ≠ 2 := by omega
  have h3 : tierOf pa ≠ 3 := by omega
  have hrun : exec (.kld ord scope ka kb imm) s = _ := runIssue_ok hcur ((copyOp_ready hi 0xE7 _).trans (by
    simp only [ha, hx, h2, h3, hmeets, hheld, hc3, hacq, ne_eq, not_true, if_false, Bool.false_eq_true, ite_self]
    rfl))
  refine ⟨_, markAt (s.chip.kreg core kb + imm.signExtend 64).toNat (s.chip.afterHold (lineOf pa)), hrun, ?_⟩
  simp only [advance_copy he, dray_setDray, Chip.setK, work_dray hw, homeBytes_nextCid, linePois_nextCid, Chip.setDray_mem, Chip.setDray_ops, hmem,
    work_ops hw]
  exact ⟨rfl, trivial, trivial⟩

/-- R159, R186: KLD of a word of host memory: its operation brings it. -/
theorem kld_host (ha : scalarAddr s.chip core kb imm % 8 = 0) (hi : CopyIssuing s i core [kb] [ka])
    (hx : s.chip.xlate core (s.chip.tagOf (s.chip.gangOf i.eng)) (scalarAddr s.chip core kb imm) .read 0 = .ok (pa, c1)) (ht : tierOf pa = 2)
    (hheld : s.chip.held.any (fun h => h.line == lineOf pa && !h.expired) = false)
    (hmeets : s.chip.meetsDray core (lineOf pa) (BitVec.ofNat 64 (255 * 2 ^ (pa % 64))) = none) :
    ∃ t o, exec (.kld ord scope ka kb imm) s = .next t ∧ t.chip.ops = s.chip.ops ++ [o]
      ∧ o.kwrite = some (ka.toNat, BitVec.ofNat 64 (eightOf (c1.homeBytes (lineOf pa)) (pa % 64)), false)
      ∧ o.acq = (if ord then scope.toNat else 0) ∧ o.flag = none ∧ t.chip.mem = c1.mem := by
  have hw : work (c1.nextCid i.eng).1 = work s.chip := (work_nextCid ..).trans (work_xlate hx)
  obtain ⟨hcur, he, -⟩ := id hi
  simp only [scalarAddr] at ha hx
  have hrun : exec (.kld ord scope ka kb imm) s = _ := runIssue_ok hcur ((copyOp_ready hi 0xE7 _).trans (by
    simp only [ha, hx, ht, hmeets, hheld, ne_eq, not_true, if_false, if_true, Bool.false_eq_true]
    rfl))
  obtain ⟨hops, hmem, -⟩ := issueOp_copy he ((c1.nextCid i.eng).1.noteHostAt (.drayStream core) (some (c1.nextCid i.eng).1.nextOp) 0xE7 0
      (s.chip.tagOf (s.chip.gangOf i.eng)) (pa % 2 ^ 64) (c1.nextCid i.eng).2 i.pos)
    (o := { Op.blank 0xE7 none (c1.nextCid i.eng).2 with
      kwrite := some (ka.toNat, dw (eightOf ((c1.nextCid i.eng).1.homeBytes (lineOf pa)) (pa % 64)), false),
      acq := if ord then scope.toNat else 0 }) rfl
  refine ⟨_, _, hrun, hops.trans (congrArg (· ++ _) (work_ops hw)), ?_, rfl, rfl, hmem.trans (nextCid_mem ..)⟩
  rw [homeBytes_nextCid]; rfl

/-- R186: KLD of a word at a peer: an operation that waits for the reply. -/
theorem kld_peer (ha : scalarAddr s.chip core kb imm % 8 = 0) (hi : CopyIssuing s i core [kb] [ka])
    (hx : s.chip.xlate core (s.chip.tagOf (s.chip.gangOf i.eng)) (scalarAddr s.chip core kb imm) .read 0 = .ok (pa, c1)) (ht : tierOf pa = 3) :
    ∃ t o, exec (.kld ord scope ka kb imm) s = .next t ∧ t.chip.ops = s.chip.ops ++ [o] ∧ o.hold = true
      ∧ o.kwrite = some (ka.toNat, 0, false) ∧ o.acq = (if ord then scope.toNat else 0) ∧ o.flag = none
      ∧ ∃ r ∈ t.chip.remotes, r.op = some o.id ∧ r.kind = .read 8 ∧ r.dst = (peerOf pa).1 ∧ r.off = (peerOf pa).2 := by
  have hw : work (c1.nextCid i.eng).1 = work s.chip := (work_nextCid ..).trans (work_xlate hx)
  obtain ⟨hcur, he, -⟩ := id hi
  simp only [scalarAddr] at ha hx
  have hrun : exec (.kld ord scope ka kb imm) s = _ := runIssue_ok hcur ((copyOp_ready hi 0xE7 _).trans (by
    simp only [ha, hx, ht, ne_eq, not_true, if_false, if_true]
    rfl))
  obtain ⟨hops, -, hrem⟩ := issueOp_copy he ((c1.nextCid i.eng).1.ask pa (.read 8) (.drayStream core) (some (c1.nextCid i.eng).1.nextOp) 0 0xE7
      (s.chip.tagOf (s.chip.gangOf i.eng)) 2 8 (c1.nextCid i.eng).2 ((s.chip.kreg core kb + imm.signExtend 64).toNat / 64 * 64) i.pos)
    (o := { Op.blank 0xE7 none (c1.nextCid i.eng).2 with
      kwrite := some (ka.toNat, 0, false), acq := if ord then scope.toNat else 0, hold := true }) rfl
  refine ⟨_, _, hrun, hops.trans (congrArg (· ++ _) (work_ops hw)), rfl, rfl, rfl, rfl, ?_⟩
  obtain ⟨r, hr, hop, hkind, hdst, hoff⟩ := ask_remote ..
  exact ⟨r, (congrArg (r ∈ ·) hrem).mpr hr, hop, hkind, hdst, hoff⟩

/-- R186: what KST writes, once its release is done: its own register. -/
theorem kst_source {c3 : Chip} {race : Option Nat} {tag a : Nat} (hx : s.chip.xlate core tag a .write 0 = .ok (pa, c1))
    (hrel : (if ord then (c1.issueCid i).1.releaseFor i 0xE8 scope.toNat (some (c1.issueCid i).2) else .ok ((c1.issueCid i).1, none))
      = .ok (c3, race)) :
    c3.kreg core ka = s.chip.kreg core ka := by
  have hw : work c3 = work s.chip := by
    refine Eq.trans ?_ ((work_issueCid c1 i).trans (work_xlate hx))
    cases ord with
    | false =>
      simp only [Bool.false_eq_true, if_false, Except.ok.injEq, Prod.mk.injEq] at hrel
      rw [← hrel.1]
    | true =>
      rw [if_pos rfl] at hrel
      exact work_releaseFor hrel
  exact congrArg (fun d : Dray => aget 0 d.k ka.toNat) (work_dray hw core)

/-- R305: the write of KST at a home, with what an implicit release has found. -/
def kstWrite (c3 : Chip) (i : Issue) (core tag pa : Nat) (v : DWord) (cid : DWord) : Chip × Option Nat :=
  c3.drayWrite core tag (lineOf pa) (BitVec.ofNat 64 (255 * 2 ^ (pa % 64))) (BitVec.ofNat 512 (v.toNat * 2 ^ (8 * (pa % 64)))) false 0 cid
    { who := .drayStream core, op := 0xE8, tag := tag, pos := i.pos, id := some c3.nextOp }

/-- R186, R304: KST at its own part, awaited where its quota's implicit release has asked a peer. -/
theorem kst_home {c3 : Chip} {race : Option Nat} (ha : scalarAddr s.chip core kb imm % 8 = 0) (hi : CopyIssuing s i core [ka, kb] [])
    (hx : s.chip.xlate core (s.chip.tagOf (s.chip.gangOf i.eng)) (scalarAddr s.chip core kb imm) .write 0 = .ok (pa, c1))
    (hrel : (if ord then (c1.issueCid i).1.releaseFor i 0xE8 scope.toNat (some (c1.issueCid i).2) else .ok ((c1.issueCid i).1, none))
      = .ok (c3, race))
    (ht : tierOf pa < 3) :
    let o := kstWrite c3 i core (s.chip.tagOf (s.chip.gangOf i.eng)) pa (s.chip.kreg core ka) (c1.issueCid i).2
    (o.1.opAsks o.1.nextOp = false → exec (.kst ord scope ka kb imm) s = nextChip s ((o.1.advance i).raceAfter (race.or o.2) i 0xE8))
    ∧ (o.1.opAsks o.1.nextOp = true → exec (.kst ord scope ka kb imm) s = nextChip s (o.1.issueOp i { Op.blank 0xE8 none (c1.issueCid i).2 with
        hold := true, race := race.or o.2 })) := by
  have hka := kst_source (ka := ka) hx hrel
  have h3 : tierOf pa ≠ 3 := by omega
  simp only [scalarAddr, kstWrite] at ha hx ⊢
  refine ⟨fun hasks => runIssue_ok hi.1 ((copyOp_ready hi 0xE8 _).trans ?_), fun hasks => runIssue_ok hi.1 ((copyOp_ready hi 0xE8 _).trans ?_)⟩
  · simp only [ha, hx, hrel, hka, h3, hasks, ne_eq, not_true, if_false, Bool.false_eq_true]
  · simp only [ha, hx, hrel, hka, h3, hasks, ne_eq, not_true, if_false, if_true]

/-- R186: KST at a peer: the write is sent and awaited. -/
theorem kst_peer {c3 : Chip} {race : Option Nat} (ha : scalarAddr s.chip core kb imm % 8 = 0) (hi : CopyIssuing s i core [ka, kb] [])
    (hx : s.chip.xlate core (s.chip.tagOf (s.chip.gangOf i.eng)) (scalarAddr s.chip core kb imm) .write 0 = .ok (pa, c1))
    (hrel : (if ord then (c1.issueCid i).1.releaseFor i 0xE8 scope.toNat (some (c1.issueCid i).2) else .ok ((c1.issueCid i).1, none))
      = .ok (c3, race))
    (ht : tierOf pa = 3) :
    let tag := s.chip.tagOf (s.chip.gangOf i.eng)
    let o := kstWrite c3 i core tag pa (s.chip.kreg core ka) (c1.issueCid i).2
    exec (.kst ord scope ka kb imm) s = nextChip s ((o.1.ask pa (.write (bytesOf 8 (s.chip.kreg core ka).toNat) false) (.drayStream core)
      (some o.1.nextOp) 0 0xE8 tag 2 8 (c1.issueCid i).2 (scalarAddr s.chip core kb imm / 64 * 64) i.pos false ord).issueOp i
      { Op.blank 0xE8 none (c1.issueCid i).2 with hold := true, race := race.or o.2 }) := by
  have hka := kst_source (ka := ka) hx hrel
  simp only [scalarAddr, kstWrite] at ha hx ⊢
  refine runIssue_ok hi.1 ((copyOp_ready hi 0xE8 _).trans ?_)
  have hnext (c : Chip) (kind : ReqKind) (who : Party) (op : Option Nat) (tag : Nat) (cid : DWord) (va : Nat) :
      (c.ask pa kind who op 0 0xE8 tag 2 8 cid va i.pos false ord).nextOp = c.nextOp := rfl
  simp only [ha, hx, hrel, hka, ht, ne_eq, not_true, if_false, if_true, hnext, opAsks_ask]

end

theorem unheld_of_all {held : List HeldLine} {line : Nat} (h : held.all (fun h => h.line != line || h.expired) = true) :
    held.any (fun h => h.line == line && !h.expired) = false := by
  rw [List.any_eq_false]
  intro x hx
  simpa [imp_iff_not_or] using List.all_eq_true.1 h x hx

/-- R186: the k registers after KLD. -/
theorem kldDray_k {d d' : Dray} {i : Issue} {ka : BitVec 5} {v : DWord} {bad : Bool} {m : Nat} (h : d' = kldDray d i ka v bad m) (r : BitVec 5) :
    aget 0 d'.k r.toNat = if r = ka then v else aget 0 d.k r.toNat := by
  subst h
  simp only [kldDray, aget_aput, BitVec.toNat_inj]

theorem scalarMemory : ScalarMemory := by
  intro ord scope ka kb imm s i core pa c1
  dsimp only
  refine ⟨fun ha => ⟨fun hi => ?_, fun hi => ?_⟩, fun ha hi hx => ⟨fun ht hheld hmeets => ⟨fun ht hread => ?_, fun ht => ?_⟩, fun ht => ?_⟩,
    fun ha hi hx c3 race hrel => ⟨fun ht hasks => ?_, fun ht hasks => ?_, fun ht => ?_⟩⟩
  · exact exec_trapped (F := copyOp 0xE7 [kb] [ka] _) rfl hi.1 ((copyOp_ready hi 0xE7 _).trans (if_pos ha))
  · exact exec_trapped (F := copyOp 0xE8 [ka, kb] [] _) rfl hi.1 ((copyOp_ready hi 0xE8 _).trans (if_pos ha))
  · obtain ⟨t, m, hexec, hdray, hmem, hops⟩ := kld_home ha hi hx ht (unheld_of_all hheld) hmeets hread
    refine ⟨t, hexec, ?_, fun r hr => ?_, ?_, congrArg (fun d : Dray => d.s.pos) hdray, hmem, hops⟩
    · exact (kldDray_k hdray ka).trans (if_pos rfl)
    · exact (kldDray_k hdray r).trans (if_neg hr)
    · rw [hdray]; exact aget_aput_same ..
  · exact kld_host ha hi hx ht (unheld_of_all hheld) hmeets
  · exact kld_peer ha hi hx ht
  · exact (kst_home ha hi hx hrel ht).1 hasks
  · exact (kst_home ha hi hx hrel ht).2 hasks
  · exact kst_peer ha hi hx hrel ht

end Sys2Proof.Proofs
end

section
/-! PROOF. A Dray's writes, the successors of a grid, TRIG (O35). -/

namespace Sys2Proof.Proofs

open Sys2Proof Sys2Proof.Machine Sys2Proof.Claims

/-! ### Intents -/

/-- R300: the intent that an owner holds once it has registered bytes of a line. -/
def Registered (c : Chip) (own : Owner) (tag line : Nat) (mask : BitVec 64) (cid : DWord) : Prop :=
  ∃ t ∈ c.intents, t.owner = own ∧ t.tag = tag ∧ t.line = line ∧ t.mask &&& mask = mask ∧ t.cover = none ∧ t.cid = cid

theorem or_and_right_self (a b : BitVec 64) : (a ||| b) &&& b = b := by
  ext k
  simp only [BitVec.getElem_and, BitVec.getElem_or]
  cases a[k] <;> cases b[k] <;> rfl

/-- R300, R305: an intent is widened, registered afresh, or added. -/
theorem intend_registered (c : Chip) (own : Owner) (tag line : Nat) (mask : BitVec 64) (cid : DWord) :
    Registered (c.intend own tag line mask mask cid) own tag line mask cid := by
  unfold Chip.intend
  dsimp only
  split_ifs with hopen hany
  · obtain ⟨t, ht, hm⟩ := List.any_eq_true.1 hopen
    obtain ⟨hmine, hcov⟩ := Bool.and_eq_true_iff.1 hm
    have hnone : t.cover = none := Option.isNone_iff_eq_none.1 hcov
    refine ⟨{ t with mask := t.mask ||| mask, cid := cid }, List.mem_map.2 ⟨t, List.mem_filter.2 ⟨ht, ?_⟩, if_pos hmine⟩, ?_⟩
    · simp [hnone]
    · obtain ⟨⟨ho, hg⟩, hl⟩ : (t.owner = own ∧ t.tag = tag) ∧ t.line = line := by simpa using hmine
      exact ⟨ho, hg, hl, or_and_right_self .., hnone, rfl⟩
  · obtain ⟨t, ht, hmine⟩ := List.any_eq_true.1 hany
    refine ⟨{ t with mask := mask, cover := none, cid := cid }, List.mem_map.2 ⟨t, ht, if_pos hmine⟩, ?_⟩
    obtain ⟨⟨ho, hg⟩, hl⟩ : (t.owner = own ∧ t.tag = tag) ∧ t.line = line := by simpa using hmine
    exact ⟨ho, hg, hl, BitVec.and_self, rfl, rfl⟩
  · exact ⟨_, List.mem_append_right _ (List.mem_singleton_self _), rfl, rfl, rfl, BitVec.and_self, rfl, rfl⟩

/-- R300: the intents of other owners stay as they are. -/
theorem intend_others {c : Chip} {own : Owner} {t : Intent} (ht : t ∈ c.intents) (ho : t.owner ≠ own) (tag line : Nat) (mask dirty : BitVec 64)
    (cid : DWord) : t ∈ (c.intend own tag line mask dirty cid).intents := by
  have hbeq : (t.owner == own) = false := beq_false_of_ne ho
  unfold Chip.intend
  dsimp only
  split_ifs
  · exact List.mem_map.2 ⟨t, List.mem_filter.2 ⟨ht, by simp [hbeq]⟩, by simp [hbeq]⟩
  · exact List.mem_map.2 ⟨t, ht, by simp [hbeq]⟩
  · exact List.mem_append_left _ ht

theorem intend_form (c : Chip) (own : Owner) (tag line : Nat) (mask dirty : BitVec 64) (cid : DWord) :
    ∃ ts, c.intend own tag line mask dirty cid = { c with intents := ts } := by
  unfold Chip.intend
  dsimp only
  split_ifs
  · exact ⟨_, rfl⟩
  · exact ⟨_, rfl⟩
  · exact ⟨_, rfl⟩

/-! ### A write of a line's bytes at its home -/

/-- R126: a write at a slice moves no byte, no intent and no ring. -/
theorem sliceWrite_home (c : Chip) (requester : Option Nat) (line pol : Nat) (full : Bool) :
    (c.sliceWrite requester line pol full).mem = c.mem ∧ (c.sliceWrite requester line pol full).intents = c.intents
      ∧ (c.sliceWrite requester line pol full).rings = c.rings := by
  have h := sliceWrite_keeps c requester line pol full
  have hmem := congrArg Chip.mem h
  have hint := congrArg Chip.intents h
  have hrings := congrArg Chip.rings h
  exact ⟨hmem, hint, hrings⟩

theorem ringAt_rings {c c' : Chip} (h : c'.rings = c.rings) (line : Nat) : c'.ringAt line = c.ringAt line := by
  simp only [Chip.ringAt, h]

theorem homeWrite_intents {c : Chip} {line : Nat} (ht : tierOf line < 2) (hring : c.ringAt line = none) (mask : BitVec 64) (d : BitVec 512)
    (pois : Bool) (cid : Option DWord) : (c.homeWrite line mask d pois cid).intents = c.intents := by
  unfold Chip.homeWrite
  dsimp only
  by_cases hmask : mask = 0
  · rw [if_pos hmask]
  · rw [if_neg hmask, if_neg (by omega), hring]

/-- R96: the bytes of device memory after a write of a line. -/
theorem homeWrite_byte {c : Chip} {line : Nat} (ht : tierOf line < 2) (hring : c.ringAt line = none) (mask : BitVec 64) (d : BitVec 512) (pois : Bool)
    (cid : Option DWord) (a : Nat) : aget 0 (c.homeWrite line mask d pois cid).mem a
      = if line % 2 ^ 64 ≤ a ∧ a < line % 2 ^ 64 + 64 ∧ mask.getLsbD (a - line % 2 ^ 64) = true then lineByte d (a - line % 2 ^ 64)
        else aget 0 c.mem a := by
  unfold Chip.homeWrite
  dsimp only
  by_cases hmask : mask = 0
  · simp [hmask]
  · rw [if_neg hmask, if_neg (by omega), hring]
    exact aget_writeMasked ..

/-- R305, R300, R115: a Dray's write with its quota free. -/
theorem drayWriteResult : DrayWriteResult := by
  intro c core tag line mask d pois pol cid who ht hring hquota
  obtain ⟨ts, hform⟩ := intend_form c (.dray core) tag line mask mask cid
  have hregistered := intend_registered c (.dray core) tag line mask cid
  have hothers := fun t (hin : t ∈ c.intents) (ho : t.owner ≠ .dray core) => intend_others hin ho tag line mask mask cid
  have htier : tierOf line ≠ 3 := by omega
  have hint : c.drayIntend core tag line mask cid who = (c.intend (.dray core) tag line mask mask cid, none) := by
    simp only [Chip.drayIntend, hquota, htier, Bool.false_eq_true, if_false]
  simp only [Chip.drayWrite, hint, htier, if_false]
  obtain ⟨hmem, hintents, hrings⟩ := sliceWrite_home (c.intend (.dray core) tag line mask mask cid) (some (drayRequester core)) line pol
    (mask == BitVec.allOnes 64)
  have hmem' := hmem.trans (congrArg Chip.mem hform)
  have hrings' := hrings.trans (congrArg Chip.rings hform)
  have hring' := (ringAt_rings hrings' line).trans hring
  have hbyte := homeWrite_byte ht hring' mask d pois (some cid)
  have hints' := (homeWrite_intents ht hring' mask d pois (some cid)).trans hintents
  refine ⟨trivial, fun k hk hm => ?_, fun a ha => ?_, ?_, ?_⟩
  · rw [hbyte, if_pos ⟨by omega, by omega, by rwa [Nat.add_sub_cancel_left]⟩, Nat.add_sub_cancel_left]
  · rw [hbyte, hmem', if_neg]
    rintro ⟨h1, h2, h3⟩
    exact ha (a - line % 2 ^ 64) (by omega) h3 (by omega)
  · rw [hints']; exact hregistered
  · rw [hints']; exact hothers

/-! ### The counters of a task's successors -/

/-- R343: an address of 0 names no counter. -/
theorem decFrom_skip {c : Chip} {grid : Nat} {gr : Grid} (hg : c.grid grid = some gr) (id : DWord) (tag n : Nat) (r : List (Nat × DWord)) :
    c.decFrom grid id tag ((n, 0) :: r) = (c.setGrid grid { gr with dec := some (n + 1, id) }).decFrom grid id tag r := by
  simp only [Chip.decFrom, if_true, hg]

/-- R315, R343: a decrement that completes, and those after it. -/
theorem decFrom_step {c c1 : Chip} {grid : Nat} {gr : Grid} {id : DWord} {tag : Nat} {a : DWord} (ha : a ≠ 0)
    (hd : c.counterDec grid id tag a.toNat false = .ok c1) (hg : c1.grid grid = some gr) (n : Nat) (r : List (Nat × DWord)) :
    c.decFrom grid id tag ((n, a) :: r) = (c1.setGrid grid { gr with dec := some (n + 1, id) }).decFrom grid id tag r := by
  simp only [Chip.decFrom, if_neg ha, hd, hg]

/-- R343: the decrements asked for have all been made: the grid is as before but for them. -/
def DecsMade (grid : Nat) (gr : Grid) (m : AMap Byte) (p : Chip × Option CStop) : Prop :=
  ∃ x d, p = (x, none) ∧ x.grid grid = some { gr with dec := d } ∧ x.mem = m

theorem decFrom_nil (c : Chip) (grid : Nat) (gr : Grid) (d : Option (Nat × DWord)) (id : DWord) (tag : Nat) :
    DecsMade grid gr c.mem ((c.setGrid grid { gr with dec := d }).decFrom grid id tag []) :=
  ⟨_, d, rfl, Chip.grid_setGrid_same .., rfl⟩

/-- R343: with the last decrement none is under way. -/
theorem successors_done {c : Chip} {grid n : Nat} {gr : Grid} {id : DWord} {m : AMap Byte} (hg : c.grid grid = some gr) (hdec : gr.dec = some (n, id))
    (hrun : DecsMade grid gr m (c.decFrom grid id gr.task.tag ([(0, gr.task.succ0), (1, gr.task.succ1)].drop n))) :
    ∃ t, c.successors grid = (t, none) ∧ t.grid grid = some { gr with dec := none } ∧ t.mem = m := by
  obtain ⟨x, d, hx, hgx, hm⟩ := hrun
  refine ⟨x.setGrid grid { gr with dec := none }, ?_, Chip.grid_setGrid_same .., hm⟩
  simp only [Chip.successors, hg, hdec, hx, hgx]

/-- R315, R343: the decrements of a grid's successors. -/
theorem successorSteps : SuccessorSteps := by
  refine ⟨fun c grid hnone => ?_, fun c grid gr id hg hdec h0 h1 => successors_done hg hdec ?_,
    fun c grid gr id n c1 hg hdec hlast hne hd hg1 => successors_done hg hdec ?_⟩
  · unfold Chip.successors
    cases hg : c.grid grid with
    | none => rfl
    | some gr => simp only [hnone gr hg]
  · rw [List.drop_zero, h0, h1, decFrom_skip hg, decFrom_skip (Chip.grid_setGrid_same ..)]
    exact decFrom_nil (c.setGrid ..) ..
  · rcases hlast with ⟨rfl, h1⟩ | rfl
    · rw [if_pos rfl] at hne hd
      rw [List.drop_zero, h1, decFrom_step hne hd hg1, decFrom_skip (Chip.grid_setGrid_same ..)]
      exact decFrom_nil (c1.setGrid ..) ..
    · rw [if_neg one_ne_zero] at hne hd
      rw [List.drop_succ_cons, List.drop_zero, decFrom_step hne hd hg1]
      exact decFrom_nil ..

theorem successors_idle {c : Chip} {grid : Nat} {gr : Grid} (hg : c.grid grid = some gr) (hdec : gr.dec = none) :
    c.successors grid = (c, none) := by
  simp only [Chip.successors, hg, hdec]

/-! ### TRIG -/

/-- R315, R316: TRIG releases at device scope. -/
theorem triggerResult : TriggerResult := by
  intro g fsel s i core slot w gr k
  dsimp only
  intro hi hr hflag hgang hgrid
  have hprep : prep { op := 0x92, g := g, hq := false, d := none, ud := .rule, srcs := [] } i s.chip
      = .ok ((ctlForm 0x92 g none .rule []).prepared i core slot w) := prep_ready _ s i core slot w hi hr
  have hfree : ¬s.chip.flagFull i.eng (flagOf i.hdr fsel.toNat) = true := by rw [hflag]; exact Bool.false_ne_true
  have hk : exec (.trig g fsel) s = execTrig g fsel s := rfl
  unfold execTrig at hk
  refine ⟨fun hact => hk.trans (runIssue_ok hi.1 ?_), fun hact hno => hk.trans (runIssue_trap hi.1 ?_),
    fun hact hyes htrig hdec hsame => hk.trans (runIssue_ok hi.1 ?_),
    fun c3 hact hyes htrig hsucc => hk.trans (runIssue_ok hi.1 ?_)⟩
  · refine (if_neg hfree).trans ?_
    simp only [hprep, Form.prepared, hact, if_true]
  · refine (if_neg hfree).trans ?_
    simp only [hprep, Form.prepared, hact, if_false, hgrid, hgang, hno, Bool.not_false, if_true]
    rfl
  · refine (if_neg hfree).trans ?_
    simp only [hprep, Form.prepared, hact, if_false, hgrid, hgang, hyes, Bool.not_true, Bool.false_eq_true, htrig, if_true,
      successors_idle hsame hdec]
  · refine (if_neg hfree).trans ?_
    simp only [hprep, Form.prepared, hact, if_false, hgrid, hgang, hyes, Bool.not_true, Bool.false_eq_true, htrig, hsucc]

/-- Settles O35: KLD and KST at each tier, a Dray's write byte by byte, TRIG by the state of its task, the decrements one after the other. -/
theorem scalarMemoryAndTrigger : Obligations.ScalarMemoryAndTrigger := ⟨scalarMemory, drayWriteResult, triggerResult, successorSteps⟩

end Sys2Proof.Proofs
end

section
/-! PROOF. A gang saved: its releases and its warps (O41). -/

namespace Sys2Proof.Proofs

open Sys2Proof Sys2Proof.Machine Sys2Proof.Claims

/-! ### What a release leaves of dirty bytes and of intents -/

/-- No byte that an L1 holds is dirty. -/
def Clean (c : Chip) (n : Nat) : Prop := ∀ e ∈ (c.core n).l1, e.dirty = 0

/-- R223, R302: no L1 that was clean has become dirty, and every intent was one of the same writer. -/
structure Tidied (c c' : Chip) : Prop where
  clean : ∀ n, Clean c n → Clean c' n
  intents : ∀ t ∈ c'.intents, ∃ u ∈ c.intents, u.owner = t.owner ∧ u.slot = t.slot

theorem Tidied.trans {a b c : Chip} (h : Tidied a b) (h' : Tidied b c) : Tidied a c := by
  refine ⟨fun n hn => h'.clean n (h.clean n hn), fun t ht => ?_⟩
  obtain ⟨u, hu, ho, hs⟩ := h'.intents t ht
  obtain ⟨v, hv, ho', hs'⟩ := h.intents u hu
  exact ⟨v, hv, ho'.trans ho, hs'.trans hs⟩

/-- What changes neither a core nor an intent. -/
theorem tidied_of_eq {c c' : Chip} (hc : c'.cores = c.cores) (hi : c'.intents = c.intents) : Tidied c c' := by
  refine ⟨fun n hn => ?_, fun t ht => ⟨t, hi ▸ ht, rfl, rfl⟩⟩
  unfold Clean Chip.core at hn ⊢
  rwa [hc]

theorem tidied_refl (c : Chip) : Tidied c c := tidied_of_eq rfl rfl

theorem tidied_foldl {α : Type} (f : Chip → α → Chip) (hf : ∀ x a, Tidied x (f x a)) (l : List α) (c : Chip) : Tidied c (l.foldl f c) :=
  List.foldlRecOn (motive := Tidied c) l f (tidied_refl c) (fun x hx a _ => hx.trans (hf x a))

theorem emit_coresIntents (c : Chip) (source type : Nat) (cid payload : DWord) (extra : Nat) :
    (c.emit source type cid payload extra).cores = c.cores ∧ (c.emit source type cid payload extra).intents = c.intents := by
  obtain ⟨t, h⟩ := emit_trace c source type cid payload extra
  rw [h]; exact ⟨rfl, rfl⟩

theorem emitUnit_coresIntents (c : Chip) (unit type : Nat) (payload : DWord) (cid : Option DWord) :
    (c.emitUnit unit type payload cid).cores = c.cores ∧ (c.emitUnit unit type payload cid).intents = c.intents := by
  cases cid with
  | some id => exact emit_coresIntents ..
  | none => exact emit_coresIntents (c.unitCid unit).1 ..

theorem tidied_recordRaces (c : Chip) (rs : List (Nat × Intent)) : Tidied c (c.recordRaces (fun x => x.unitCid 0) rs) := by
  unfold Chip.recordRaces
  split
  · exact tidied_refl c
  · refine Tidied.trans (tidied_of_eq rfl rfl : Tidied c (c.unitCid 0).1) (tidied_foldl _ (fun x r => ?_) rs _)
    obtain ⟨hcores, hintents⟩ := emit_coresIntents x (0xC00 + 64 + x.home r.1) 0x40 (c.unitCid 0).2 r.2.cid 0
    exact tidied_of_eq hcores hintents

theorem homeWrite_coresIntents (c : Chip) (line : Nat) (mask : BitVec 64) (d : BitVec 512) (pois : Bool) (cid : Option DWord) :
    (c.homeWrite line mask d pois cid).cores = c.cores ∧ (c.homeWrite line mask d pois cid).intents = c.intents := by
  unfold Chip.homeWrite
  dsimp only
  split
  · exact ⟨rfl, rfl⟩
  · split
    · exact ⟨rfl, rfl⟩
    · split
      · split
        · exact ⟨rfl, rfl⟩
        · exact emitUnit_coresIntents ..
      · exact ⟨rfl, rfl⟩

theorem tidied_writeBack (c : Chip) (core : Nat) (e : L1Line) : Tidied c (c.writeBack core e) := by
  have hmap : Tidied c { c with intents := c.intents.map (fun (t : Intent) =>
      if t.line == e.line && t.tag == e.tag && t.owner == .core core then { t with mask := t.mask ||| e.dirty } else t) } := by
    refine ⟨fun n hn => hn, fun t ht => ?_⟩
    obtain ⟨u, hu, rfl⟩ := List.mem_map.1 ht
    exact ⟨u, hu, by split <;> rfl, by split <;> rfl⟩
  unfold Chip.writeBack
  dsimp only
  split
  · exact hmap
  · refine hmap.trans ?_
    generalize ({ c with intents := c.intents.map _ } : Chip) = c1
    have hs := sliceWrite_keeps c1 none e.line e.pol (e.dirty == BitVec.allOnes 64)
    have hsc := congrArg Chip.cores hs
    obtain ⟨-, hsi, -⟩ := sliceWrite_home c1 none e.line e.pol (e.dirty == BitVec.allOnes 64)
    obtain ⟨hc, hi⟩ := homeWrite_coresIntents (c1.sliceWrite none e.line e.pol (e.dirty == BitVec.allOnes 64)) e.line e.dirty e.data e.pois none
    exact tidied_of_eq (hc.trans hsc) (hi.trans hsi)

/-- A relation of every listed value to the one that takes its place holds of the values at each key. -/
theorem aget_map_rel {α : Type} (R : α → α → Prop) {d : α} (hd : R d d) {f : Nat × α → Nat × α} (hf : ∀ x, (f x).1 = x.1 ∧ R x.2 (f x).2)
    (m : AMap α) (n : Nat) : R (aget d m n) (aget d (m.map f) n) := by
  induction m with
  | nil => exact hd
  | cons x r ih =>
    obtain ⟨hkey, hval⟩ := hf x
    simp only [List.map_cons, aget, hkey]
    split
    · exact hval
    · exact ih

theorem cleanLines_clean {l : List L1Line} (h : ∀ e ∈ l, e.dirty = 0) (line : Nat) : ∀ e ∈ cleanLines line l, e.dirty = 0 := by
  intro e he
  obtain ⟨x, hx, rfl⟩ := List.mem_map.1 (List.mem_filter.1 he).1
  split
  · exact h x hx
  · exact h x hx

/-- R302: the invalidation of clean bytes. -/
theorem tidied_invalidate (c : Chip) (line : Nat) (mask : BitVec 16) : Tidied c (c.invalidate line mask) := by
  refine ⟨fun n => ?_, fun t ht => ⟨t, ht, rfl, rfl⟩⟩
  refine aget_map_rel (fun a b : Core => (∀ e ∈ a.l1, e.dirty = 0) → ∀ e ∈ b.l1, e.dirty = 0) id (fun x => ?_) c.cores n
  split
  · exact ⟨rfl, fun h => cleanLines_clean h line⟩
  · exact ⟨rfl, id⟩

/-- R300: what a release leaves of an intent is its writer's. -/
theorem released_writer {t u : Intent} {ends : Bool} {scope : Nat} {keep : BitVec 64} (h : u ∈ t.released ends scope keep) :
    t.owner = u.owner ∧ t.slot = u.slot := by
  simp only [Intent.released, List.mem_append] at h
  rcases h with h | h <;> split at h
  · cases h
  · obtain rfl := List.mem_singleton.1 h; exact ⟨rfl, rfl⟩
  · cases h
  · obtain rfl := List.mem_singleton.1 h; exact ⟨rfl, rfl⟩

theorem tidied_settle (c : Chip) (own : Owner) (core scope : Nat) (keep : List (Nat × BitVec 64)) (all : Bool) :
    Tidied c (c.settle own core scope keep all) := by
  unfold Chip.settle
  dsimp only
  refine Tidied.trans (tidied_foldl _ (fun x t => tidied_invalidate ..) _ c) ⟨fun n hn => hn, fun t ht => ?_⟩
  obtain ⟨u, hu, htu⟩ := List.mem_flatMap.1 ht
  refine ⟨u, hu, ?_⟩
  split at htu
  · exact released_writer htu
  · obtain rfl := List.mem_singleton.1 htu
    exact ⟨rfl, rfl⟩

/-- R223: every dirty byte of an L1 becomes clean. -/
theorem tidied_washed {c c1 : Chip} (h : Tidied c c1) (core : Nat) :
    let c' := c1.setCore core { c1.core core with l1 := (c1.core core).l1.map (fun e => { e with dirty := 0 }) }
    Tidied c c' ∧ Clean c' core := by
  have hclean : Clean (c1.setCore core { c1.core core with l1 := (c1.core core).l1.map (fun e => { e with dirty := 0 }) }) core := by
    intro e he
    rw [Chip.core_setCore, if_pos rfl] at he
    obtain ⟨x, -, rfl⟩ := List.mem_map.1 he
    rfl
  refine ⟨h.trans ⟨fun n hn => ?_, fun t ht => ⟨t, ht, rfl, rfl⟩⟩, hclean⟩
  by_cases hcore : n = core
  · exact hcore ▸ hclean
  · unfold Clean at hn ⊢
    rwa [Chip.core_setCore, if_neg hcore]

theorem tidied_settled {c c1 : Chip} {core : Nat} (h : Tidied c c1 ∧ Clean c1 core) (own : Owner) (scope : Nat) (keep : List (Nat × BitVec 64))
    (all : Bool) : Tidied c (c1.settle own core scope keep all) ∧ Clean (c1.settle own core scope keep all) core :=
  ⟨h.1.trans (tidied_settle ..), (tidied_settle ..).clean core h.2⟩

/-- R223, R302: a release leaves its own core's L1 clean. -/
theorem release_tidied (c : Chip) (core : Nat) :
    Tidied c (c.release core 5 (fun x => x.unitCid 0)).1 ∧ Clean (c.release core 5 (fun x => x.unitCid 0)).1 core := by
  have hdone rs := (tidied_recordRaces c rs).trans (tidied_foldl _ (fun x e => tidied_writeBack x core e) (c.core core).dirtyLines _)
  unfold Chip.release
  dsimp only
  rw [if_neg (by decide)]
  exact tidied_settled (tidied_washed (hdone _) core) ..

/-! ### One core of a gang saved -/

/-- The chip after a core's release at device scope. -/
def savedRelease (c : Chip) (n : Nat) : Chip := (c.release n 5 (fun x => x.unitCid 0)).1

/-- R110: the warps of a gang that a core gives up. -/
def coreWarps (c : Chip) (g n : Nat) : List (Nat × Nat × Warp) := (c.warpsOf g).filter (fun w => w.1 == n)

/-- R317: the lowest live warp among them. -/
def lowWarp (ws : List (Nat × Nat × Warp)) : Option Nat := (ws.find? (fun w => w.2.2.live != 0)).map (fun w => w.2.1)

/-- R317: the slot whose warp has an overlap that the release has found. -/
def raceSlot (c : Chip) (n : Nat) (ws : List (Nat × Nat × Warp)) : Option Nat → Option Nat
  | none => lowWarp ws
  | some s => if (c.warp n s).isSome then some s else lowWarp ws

theorem warp_savedRelease (c : Chip) (n m slot : Nat) : (savedRelease c n).warp m slot = c.warp m slot :=
  work_warp (work_release c n 5 (fun _ => rfl) false) m slot

theorem saveCore_frame (g : Nat) (x : Chip × Frame) (n : Nat) :
    let ws := coreWarps (savedRelease x.1 n) g n
    (saveCore g x n).2.warps = x.2.warps ++ ws
      ∧ (saveCore g x n).2.races
        = x.2.races ++ (x.1.saveOverlaps n).filterMap (fun r => (raceSlot x.1 n ws r.2).map (fun s => (n, s, saveRace r.1))) := by
  refine ⟨rfl, congrArg (x.2.races ++ ·) (congrFun (congrArg List.filterMap (funext fun r => ?_)) _)⟩
  cases r.2 <;> rfl

theorem leaveQueues_keeps (c : Chip) (n : Nat) (p : Prop) [Decidable p] :
    let c1 := if p then (List.range 8).foldl (fun (y : Chip) q => (y.leaveHansoms { core := n, q := q }).leaveWaits { core := n, q := q }) c else c
    c1.cores = c.cores ∧ c1.intents = c.intents := by
  dsimp only
  split
  · exact Prod.mk.inj (foldl_keeps (fun x : Chip => (x.cores, x.intents)) _ _ c (fun x q _ h => h))
  · exact ⟨rfl, rfl⟩

theorem saveCore_chip (g : Nat) (x : Chip × Frame) (n : Nat) :
    (saveCore g x n).1.intents = (savedRelease x.1 n).intents
      ∧ ∀ m, ((saveCore g x n).1.core m).l1 = ((savedRelease x.1 n).core m).l1
        ∧ ((saveCore g x n).1.core m).warps = if m = n then
            ((savedRelease x.1 n).core m).warps.filter (fun q => ((q.2).map (fun w => w.gang != g)).getD false)
          else ((savedRelease x.1 n).core m).warps := by
  obtain ⟨hcores, hintents⟩ := leaveQueues_keeps (savedRelease x.1 n) n
    (((savedRelease x.1 n).core n).dray.s.st ≠ 0 ∧ ((savedRelease x.1 n).core n).dray.s.gang = g)
  refine ⟨hintents, fun m => ?_⟩
  have hcore := congrArg (fun l => aget Core.zero l m) hcores
  by_cases h : m = n
  · subst m
    unfold saveCore
    dsimp only
    rw [Chip.core_setCore, if_pos rfl, if_pos rfl]
    exact ⟨rfl, rfl⟩
  · unfold saveCore
    dsimp only
    rw [Chip.core_setCore, if_neg h, if_neg h]
    exact ⟨congrArg Core.l1 hcore, congrArg Core.warps hcore⟩

/-! ### The invariant of a save -/

theorem mem_warpsOf {c : Chip} {n slot g : Nat} {w : Warp} (hw : c.warp n slot = some w) (hg : w.gang = g) : (n, slot, w) ∈ c.warpsOf g := by
  have hslot : (slot, some w) ∈ (c.core n).warps := mem_of_aget hw (by simp)
  have hcore : (n, c.core n) ∈ c.cores := mem_of_aget rfl (by
    intro hzero
    rw [hzero] at hslot
    cases hslot)
  refine List.mem_flatMap.2 ⟨_, hcore, List.mem_filterMap.2 ⟨_, hslot, ?_⟩⟩
  simp [hg]

theorem mem_coreWarps {c : Chip} {n slot g : Nat} {w : Warp} (hw : c.warp n slot = some w) (hg : w.gang = g) : (n, slot, w) ∈ coreWarps c g n :=
  List.mem_filter.2 ⟨mem_warpsOf hw hg, beq_self_eq_true n⟩

/-- R110, R302, R317: a save whose cores in `done` have been saved: their warps of the gang stand in the frame, and every overlap found is that of a
warp which does. -/
structure Saved (s : Chip) (g : Nat) (done : List Nat) (x : Chip × Frame) : Prop where
  apart : ∀ n ∉ done, ∀ slot, x.1.warp n slot = s.warp n slot
  left : ∀ n ∈ done, ∀ slot w, x.1.warp n slot = some w → w.gang ≠ g
  clean : ∀ n ∈ done, Clean x.1 n
  framed : ∀ n ∈ done, ∀ slot w, s.warp n slot = some w → w.gang = g → (n, slot, w) ∈ x.2.warps
  intents : ∀ t ∈ x.1.intents, ∃ u ∈ s.intents, u.owner = t.owner ∧ u.slot = t.slot
  owned : ∀ r ∈ x.2.races, x.2.owns r = true

/-- R317: an overlap's warp is the one whose store it was, or the lowest live one of those that leave. -/
theorem raceSlot_saved {c : Chip} {n g : Nat} {o : Option Nat} {sl : Nat} (h : raceSlot c n (coreWarps (savedRelease c n) g n) o = some sl)
    (hg : ∀ s w, o = some s → c.warp n s = some w → w.gang = g) : ∃ w, (n, sl, w) ∈ coreWarps (savedRelease c n) g n := by
  have hlow (hl : lowWarp (coreWarps (savedRelease c n) g n) = some sl) : ∃ w, (n, sl, w) ∈ coreWarps (savedRelease c n) g n := by
    obtain ⟨⟨m, s, w⟩, hfind, hs⟩ := Option.map_eq_some_iff.1 hl
    have hmem := List.mem_of_find?_eq_some hfind
    obtain rfl : m = n := by simpa using (List.mem_filter.1 hmem).2
    exact ⟨w, hs ▸ hmem⟩
  cases o with
  | none => exact hlow h
  | some s =>
    rw [raceSlot] at h
    split at h
    · next hsome =>
      obtain ⟨w, hw⟩ := Option.isSome_iff_exists.1 hsome
      obtain rfl := Option.some.inj h
      exact ⟨w, mem_coreWarps ((warp_savedRelease c n n s).trans hw) (hg s w rfl hw)⟩
    · exact hlow h

/-- R317: an overlap that a release finds names the slot of an intent of its core. -/
theorem saveOverlaps_slot {c : Chip} {n : Nat} {r : Nat × Option Nat} (h : r ∈ c.saveOverlaps n) {s : Nat} (hs : r.2 = some s) :
    ∃ t ∈ c.intents, t.owner = .core n ∧ t.slot = some s := by
  obtain ⟨e, -, rfl⟩ := List.mem_map.1 h
  obtain ⟨t, hfind, ht⟩ := Option.bind_eq_some_iff.1 hs
  have hp := List.find?_some hfind
  simp only [Bool.and_eq_true, beq_iff_eq] at hp
  exact ⟨t, List.mem_of_find?_eq_some hfind, hp.1.1, ht⟩

theorem saveOverlaps_clean {c : Chip} {n : Nat} (h : Clean c n) : c.saveOverlaps n = [] := by
  have hnone : (c.core n).dirtyLines = [] := List.filter_eq_nil_iff.2 (fun e he => by simp [h e he])
  simp only [Chip.saveOverlaps, hnone, List.filter_nil, List.map_nil]

/-- What a frame owns it owns with more warps in it. -/
theorem owns_append {f f' : Frame} {ws : List (Nat × Nat × Warp)} (hf : f'.warps = f.warps ++ ws) {r : Nat × Nat × Posted} (h : f.owns r = true) :
    f'.owns r = true := by
  rw [Frame.owns, hf, List.any_append, Bool.or_eq_true]
  exact Or.inl h

theorem owns_of_mem {f : Frame} {n sl : Nat} {w : Warp} (h : (n, sl, w) ∈ f.warps) (p : Posted) : f.owns (n, sl, p) = true :=
  List.any_eq_true.2 ⟨_, h, by simp⟩

theorem aget_filter_some {α : Type} {m : AMap (Option α)} {p : Nat × Option α → Bool} {slot : Nat} {w : α}
    (h : aget none (m.filter p) slot = some w) : p (slot, some w) = true :=
  (List.mem_filter.1 (mem_of_aget h (by simp))).2

/-- R110: a core saved. -/
theorem saved_step {s : Chip} {g : Nat} {done : List Nat} {x : Chip × Frame} (h : Saved s g done x) (n : Nat)
    (hint : ∀ u ∈ s.intents, u.owner = .core n → ∀ sl w, u.slot = some sl → s.warp n sl = some w → w.gang = g) :
    Saved s g (n :: done) (saveCore g x n) := by
  obtain ⟨hints, hcore⟩ := saveCore_chip g x n
  obtain ⟨hwarps, hraces⟩ := saveCore_frame g x n
  obtain ⟨htidy, hcleaned⟩ := release_tidied x.1 n
  have hother {m : Nat} (hm : m ≠ n) (slot : Nat) : (saveCore g x n).1.warp m slot = x.1.warp m slot := by
    refine Eq.trans ?_ (warp_savedRelease x.1 n m slot)
    exact congrArg (fun l => aget none l slot) ((hcore m).2.trans (if_neg hm))
  have hgone (slot : Nat) (w : Warp) (hw : (saveCore g x n).1.warp n slot = some w) : w.gang ≠ g := by
    have hw' : aget none (((savedRelease x.1 n).core n).warps.filter (fun q => ((q.2).map (fun w => w.gang != g)).getD false)) slot = some w :=
      (congrArg (fun l => aget none l slot) ((hcore n).2.trans (if_pos rfl))).symm.trans hw
    simpa using aget_filter_some hw'
  have hclean (m : Nat) (hm : Clean (savedRelease x.1 n) m) : Clean (saveCore g x n).1 m := by
    unfold Clean
    rwa [(hcore m).1]
  refine ⟨fun m hm slot => ?_, fun m hm => ?_, fun m hm => ?_, fun m hm slot w hw hg => ?_, fun t ht => ?_, fun r hr => ?_⟩
  · obtain ⟨hne, hnot⟩ := not_or.1 (fun hor => hm (List.mem_cons.2 hor))
    exact (hother hne slot).trans (h.apart m hnot slot)
  · by_cases hmn : m = n
    · exact hmn ▸ hgone
    · intro slot w hw
      exact h.left m ((List.mem_cons.1 hm).resolve_left hmn) slot w ((hother hmn slot).symm.trans hw)
  · rcases List.mem_cons.1 hm with rfl | hm
    · exact hclean m hcleaned
    · exact hclean m (htidy.clean m (h.clean m hm))
  · rw [hwarps, List.mem_append]
    by_cases hdone : m ∈ done
    · exact Or.inl (h.framed m hdone slot w hw hg)
    · obtain rfl := (List.mem_cons.1 hm).resolve_right hdone
      exact Or.inr (mem_coreWarps ((warp_savedRelease x.1 m m slot).trans ((h.apart m hdone slot).trans hw)) hg)
  · obtain ⟨u, hu, ho, hs⟩ := htidy.intents t (hints ▸ ht)
    obtain ⟨v, hv, ho', hs'⟩ := h.intents u hu
    exact ⟨v, hv, ho'.trans ho, hs'.trans hs⟩
  · rw [hraces, List.mem_append] at hr
    rcases hr with hr | hr
    · exact owns_append hwarps (h.owned r hr)
    · by_cases hdone : n ∈ done
      · rw [saveOverlaps_clean (h.clean n hdone)] at hr
        cases hr
      · obtain ⟨o, ho, hor⟩ := List.mem_filterMap.1 hr
        obtain ⟨sl, hsl, rfl⟩ := Option.map_eq_some_iff.1 hor
        obtain ⟨w, hw⟩ := raceSlot_saved hsl (fun s' w' hs' hw' => by
          obtain ⟨t, ht, hown, hslot⟩ := saveOverlaps_slot ho hs'
          obtain ⟨u, hu, huo, hus⟩ := h.intents t ht
          exact hint u hu (huo.trans hown) s' w' (hus.trans hslot) ((h.apart n hdone s').symm.trans hw'))
        exact owns_of_mem (hwarps ▸ List.mem_append_right _ hw) _

/-- R110: every core of a gang saved. -/
theorem saved_cores {s : Chip} {g : Nat} (cores : List Nat) {done : List Nat} {x : Chip × Frame} (h : Saved s g done x)
    (hint : ∀ n ∈ cores, ∀ u ∈ s.intents, u.owner = .core n → ∀ sl w, u.slot = some sl → s.warp n sl = some w → w.gang = g) :
    Saved s g (cores.reverse ++ done) (cores.foldl (saveCore g) x) := by
  induction cores generalizing done x with
  | nil => exact h
  | cons n ns ih =>
    rw [List.reverse_cons, List.append_assoc]
    exact ih (saved_step h n (hint n (List.mem_cons_self ..))) (fun m hm => hint m (List.mem_cons_of_mem _ hm))

/-- A gang as its save begins: reads of its code are forgotten, and its frame is empty. -/
def saveBegin (c : Chip) (g : Nat) (k : Gang) : Chip × Frame :=
  ({ c with remotes := c.remotes.filter (fun r => !(c.remoteGang r == some g && r.codeRead)), cleared := c.cleared.filter (fun r => r.gang != g) },
    { warps := [], mats := [], drays := [], races := [], count := c.framesFor k })

/-- Every core of a gang saved. -/
def saveCores (c : Chip) (g : Nat) (k : Gang) : Chip × Frame := k.cores.foldl (saveCore g) (saveBegin c g k)

/-- R302, R317: the frame of a gang that is out keeps the overlaps of its own warps. -/
def savedFrame (f : Frame) : Frame := { f with races := f.races.filter f.owns }

/-- The gang out, its frame with the overlaps of its warps. -/
def saveEnd (x : Chip × Frame) (g : Nat) (k : Gang) : Chip :=
  ({ x.1 with resvFrames := x.1.resvFrames - k.reserved } : Chip).setGang g { k with
    phase := 2, frame := some (savedFrame x.2), reserved := 0 }

theorem saved_begin (c : Chip) (g : Nat) (k : Gang) : Saved c g [] (saveBegin c g k) where
  apart _ _ _ := rfl
  left _ h := absurd h List.not_mem_nil
  clean _ h := absurd h List.not_mem_nil
  framed _ h := absurd h List.not_mem_nil
  intents t ht := ⟨t, ht, rfl, rfl⟩
  owned _ h := absurd h List.not_mem_nil

/-- R302, R317: a save that finds no overlap of another gang's warp. -/
theorem exec_gangSave {s : State} {g : Nat} {k : Gang} (hk : s.chip.gang g = some k) (hready : s.chip.saveReady g k = true)
    (howned : ∀ r ∈ (saveCores s.chip g k).2.races, (saveCores s.chip g k).2.owns r = true) :
    exec (.gangSaveComplete g) s = nextChip s ((saveEnd (saveCores s.chip g k) g k).settleGrid k.grid) := by
  have hnone : (saveCores s.chip g k).2.races.filter (fun r => !(saveCores s.chip g k).2.owns r) = [] :=
    List.filter_eq_nil_iff.2 (fun r hr => by simp [howned r hr])
  change execGangSaveComplete g s = _
  unfold execGangSaveComplete
  refine (runChip_next s _).trans (congrArg (nextChip s) ?_)
  simp only [hk, hready, Bool.not_true, Bool.false_eq_true, if_false]
  exact congrArg (fun l : List (Nat × Nat × Posted) => (l.foldl (fun (y : Chip) r => y.postTrap r.1 r.2.1 { r.2.2 with from_ := y.cycle + 1 })
    (saveEnd (saveCores s.chip g k) g k)).settleGrid k.grid) hnone

/-- R110, R302: GANG_SAVE_COMPLETE of a gang whose engines have stopped. -/
theorem gangSaved {s : State} {g : Nat} {k : Gang} (hk : s.chip.gang g = some k) (hready : s.chip.saveReady g k = true)
    (hint : ∀ n ∈ k.cores, ∀ u ∈ s.chip.intents, u.owner = .core n → ∀ sl w, u.slot = some sl → s.chip.warp n sl = some w → w.gang = g) :
    ∃ t f, exec (.gangSaveComplete g) s = .next t ∧ t.chip.gang g = some { k with phase := 2, frame := some f, reserved := 0 }
      ∧ (∀ n ∈ k.cores, ∀ slot w, s.chip.warp n slot = some w → w.gang = g → (n, slot, w) ∈ f.warps)
      ∧ (∀ n ∈ k.cores, ∀ slot w, t.chip.warp n slot = some w → w.gang ≠ g) := by
  have hsaved := saved_cores k.cores (saved_begin s.chip g k) hint
  have hdone (n : Nat) (hn : n ∈ k.cores) : n ∈ k.cores.reverse ++ [] := List.mem_append_left _ (List.mem_reverse.2 hn)
  obtain ⟨hgangs, hcores, -⟩ := settleGrid_keeps (saveEnd (saveCores s.chip g k) g k) k.grid
  refine ⟨_, savedFrame _, exec_gangSave hk hready hsaved.owned, ?_, fun n hn => hsaved.framed n (hdone n hn), fun n hn slot w hw => ?_⟩
  · exact (congrArg (fun m => aget none m g) hgangs).trans (Chip.gang_setGang_same ..)
  · refine hsaved.left n (hdone n hn) slot w (Eq.trans ?_ hw)
    exact (congrArg (fun m => aget none (aget Core.zero m n).warps slot) hcores).symm

end Sys2Proof.Proofs
end

section
/-! PROOF. A gang restored to its cores (O41). -/

namespace Sys2Proof.Proofs

open Sys2Proof Sys2Proof.Machine Sys2Proof.Claims

/-! ### What a gang's way back leaves as it was -/

/-- Memory, the cycle and the faults recorded. -/
def memTimeFaults (c : Chip) : AMap Byte × Nat × List PageFault := (c.mem, c.cycle, c.faults)

theorem memTimeFaults_acquire (c : Chip) (n scope : Nat) : memTimeFaults (c.acquire n scope) = memTimeFaults c := by
  unfold Chip.acquire
  split
  · rfl
  · rfl

/-- R113, R291: the gang's sequencers and Drays, before its warps. -/
def seqsBack (c : Chip) (k : Gang) (f : Frame) (kn : Kernel) : Chip :=
  let c1 := k.cores.foldl (fun (x : Chip) n => x.acquire n 5) c
  let own := kn.matrix ≠ 0 ∨ kn.copy ≠ 0
  let c2 := k.groups.foldl (fun (x : Chip) gr => if own ∧ gr.retired = false then (x.setMat gr.core Mat.zero).setDray gr.core Dray.zero else x) c1
  let c3 := f.mats.foldl (fun (x : Chip) m => x.setMat m.1 { m.2 with post := m.2.post.map (fun (p : PairPost) => { p with at_ := c.cycle }) }) c2
  f.drays.foldl (fun (x : Chip) d => x.setDray d.1 d.2) c3

theorem memTimeFaults_seqsBack (c : Chip) (k : Gang) (f : Frame) (kn : Kernel) : memTimeFaults (seqsBack c k f kn) = memTimeFaults c := by
  unfold seqsBack
  dsimp only
  refine (foldl_keeps memTimeFaults _ f.drays _ ?_).trans ((foldl_keeps memTimeFaults _ f.mats _ ?_).trans
    ((foldl_keeps memTimeFaults _ k.groups _ ?_).trans (foldl_keeps memTimeFaults _ k.cores c ?_)))
  · exact fun x d _ h => h
  · exact fun x m _ h => h
  · intro x gr _ h
    split
    · exact h
    · exact h
  · exact fun x n _ h => (memTimeFaults_acquire x n 5).trans h

/-! ### Warps back in their slots -/

theorem rejoin_same (c : Chip) (x : Nat × Nat × Warp) :
    (c.rejoin x).warp x.1 x.2.1 = some { x.2.2 with active := x.2.2.handler || c.ordinaryCount x.1 < 8, joined := c.cycle } :=
  Chip.warp_setWarp_same ..

theorem rejoin_other (c : Chip) (x : Nat × Nat × Warp) {n slot : Nat} (h : (x.1, x.2.1) ≠ (n, slot)) : (c.rejoin x).warp n slot = c.warp n slot := by
  rw [Chip.rejoin, Chip.warp_setWarp, if_neg]
  rintro ⟨rfl, rfl⟩
  exact h rfl

theorem rejoins_memTimeFaults (l : List (Nat × Nat × Warp)) (c : Chip) : memTimeFaults (l.foldl Chip.rejoin c) = memTimeFaults c :=
  foldl_keeps memTimeFaults _ l c (fun _ _ _ h => h)

theorem rejoins_other {l : List (Nat × Nat × Warp)} {n slot : Nat} (h : (n, slot) ∉ l.map (fun x => (x.1, x.2.1))) (c : Chip) :
    (l.foldl Chip.rejoin c).warp n slot = c.warp n slot :=
  foldl_keeps (fun c : Chip => c.warp n slot) _ l c
    (fun x a ha hx => (rejoin_other x a (fun heq => h (List.mem_map.2 ⟨a, ha, heq⟩))).trans hx)

/-- R113: each warp stands in its slot again. -/
theorem rejoins_warp {l : List (Nat × Nat × Warp)} (hkeys : (l.map (fun x => (x.1, x.2.1))).Nodup) {n slot : Nat} {w : Warp}
    (h : (n, slot, w) ∈ l) (c : Chip) : ∃ a, (l.foldl Chip.rejoin c).warp n slot = some { w with active := a, joined := c.cycle } := by
  induction l generalizing c with
  | nil => cases h
  | cons x xs ih =>
    obtain ⟨hfresh, hrest⟩ := List.nodup_cons.1 hkeys
    rcases List.mem_cons.1 h with rfl | h
    · exact ⟨_, (rejoins_other hfresh _).trans (rejoin_same ..)⟩
    · exact ih hrest h (c.rejoin x)

/-! ### GANG_RESTORE -/

/-- R113: a gang without a fault recorded has none delivered. -/
theorem deliverFaults_none {c : Chip} {g : Nat} (h : ∀ p ∈ c.faults, p.gang ≠ g) (sel : PageFault → Bool) :
    ∃ ps, c.deliverFaults g sel = { c with faults := ps } := by
  have hnone (keep : PageFault → Bool) : c.faults.filter (fun p => p.gang == g && p.failed && !keep p) = [] :=
    List.filter_eq_nil_iff.2 (fun p hp => by simp [h p hp])
  unfold Chip.deliverFaults
  dsimp only
  rw [hnone]
  exact ⟨_, rfl⟩

/-- R113: GANG_RESTORE of a gang for which its cores have room. -/
theorem exec_gangRestore {s : State} {g : Nat} {k : Gang} {f : Frame} {kn : Kernel} (hk : s.chip.gang g = some k)
    (hkn : s.chip.kernelOf g = some kn) (hf : k.frame = some f) (hrest : s.chip.restorable g k = true) (hroom : s.chip.roomPending k.grid = false)
    (hfit : s.chip.restoreRoom k f kn = true) (hraces : f.races = []) :
    exec (.gangRestore g) s = nextChip s ((s.chip.putBack g k f kn).deliverFaults g (fun _ => true)) := by
  change execGangRestore g s = _
  unfold execGangRestore
  refine (runChip_next s _).trans (congrArg (nextChip s) ?_)
  simp only [hk, hkn, hf, hrest, hroom, hfit, hraces, Bool.not_true, Bool.or_false, Bool.false_eq_true, if_false, List.foldl_nil]

theorem putBack_keeps (c : Chip) (g : Nat) (k : Gang) (f : Frame) (kn : Kernel) :
    memTimeFaults (c.putBack g k f kn) = memTimeFaults c
      ∧ (c.putBack g k f kn).gang g = some { k with phase := 0, frame := none, whyPage := false, restored := c.cycle }
      ∧ (c.putBack g k f kn).cores = (f.warps.foldl Chip.rejoin (seqsBack c k f kn)).cores :=
  ⟨(rejoins_memTimeFaults ..).trans (memTimeFaults_seqsBack ..), Chip.gang_setGang_same .., rfl⟩

/-- Settles O41: the invariant of a save core by core, and at a restore the warps put back one after the other into slots of their own. -/
theorem saveAndRestore : Obligations.SaveAndRestore := by
  intro s g k hk
  refine ⟨gangSaved hk, fun f kn hkn hf hrest hroom hfit hraces hfaults hkeys => ?_⟩
  obtain ⟨hkeep, hgang, hcores⟩ := putBack_keeps s.chip g k f kn
  obtain ⟨hmem, hcf⟩ := Prod.mk.inj hkeep
  obtain ⟨-, hfs⟩ := Prod.mk.inj hcf
  obtain ⟨ps, hps⟩ := deliverFaults_none (hfs ▸ hfaults : ∀ p ∈ (s.chip.putBack g k f kn).faults, p.gang ≠ g) (fun _ => true)
  refine ⟨_, exec_gangRestore hk hkn hf hrest hroom hfit hraces, ?_, fun n slot w hw => ?_, ?_⟩
  · exact (congrArg (fun c : Chip => c.gang g) hps).trans hgang
  · obtain ⟨a, ha⟩ := rejoins_warp hkeys hw (seqsBack s.chip k f kn)
    obtain ⟨-, hseq⟩ := Prod.mk.inj (memTimeFaults_seqsBack s.chip k f kn)
    refine ⟨a, Eq.trans ?_ (ha.trans (by rw [(Prod.mk.inj hseq).1]))⟩
    exact congrArg (fun l => aget none (aget Core.zero l n).warps slot) ((congrArg Chip.cores hps).trans hcores)
  · exact (congrArg Chip.mem hps).trans hmem

end Sys2Proof.Proofs
end

section
/-! PROOF. The queues of a Dray (O36, O37): what reads a queue or its run after an update, and what updates of cores leave as it was. -/

namespace Sys2Proof.Proofs

open Sys2Proof Sys2Proof.Machine Sys2Proof.Claims

/-! ### Queues -/

/-- The chip without its cores. -/
def besideCores (c : Chip) : Chip := { c with cores := [] }

/-- What updates of cores that concern no Dray leave: every queue, and all beside the cores. -/
def queuesAndRest (c : Chip) : (Nat → Nat → Queue) × Chip := (c.queue, besideCores c)

@[simp] theorem queue_setQueue (c : Chip) (core q : Nat) (k : Queue) : (c.setQueue core q k).queue core q = k := by
  simp [Chip.queue, Chip.setQueue, Chip.setDray]

@[simp] theorem besideCores_setQueue (c : Chip) (core q : Nat) (k : Queue) : besideCores (c.setQueue core q k) = besideCores c := rfl

/-- R160: a queue that changes leaves its core's barriers, and the stream of its Dray. -/
theorem core_setQueue (c : Chip) (core q : Nat) (k : Queue) (n : Nat) :
    ((c.setQueue core q k).core n).bars = (c.core n).bars ∧ ((c.setQueue core q k).core n).dray.s = (c.core n).dray.s := by
  unfold Chip.setQueue Chip.setDray
  rw [Chip.core_setCore]
  split
  · subst n; exact ⟨rfl, rfl⟩
  · exact ⟨rfl, rfl⟩

theorem drayTag_setQueue (c : Chip) (core q : Nat) (k : Queue) (n : Nat) : (c.setQueue core q k).drayTag n = c.drayTag n :=
  congrArg (fun x : Stream => c.tagOf x.gang) (core_setQueue c core q k n).2

theorem queue_of_dray {c c' : Chip} (h : ∀ n, (c'.core n).dray.queues = (c.core n).dray.queues) : c'.queue = c.queue := by
  funext n q
  simp only [Chip.queue, h]

/-- A core set to one whose Dray holds the same queues. -/
theorem queuesAndRest_setCore {c : Chip} {n : Nat} {k : Core} (h : k.dray.queues = (c.core n).dray.queues) :
    queuesAndRest (c.setCore n k) = queuesAndRest c := by
  refine Prod.ext (queue_of_dray fun m => ?_) rfl
  rw [Chip.core_setCore]
  split
  · subst m; exact h
  · rfl

@[simp] theorem queuesAndRest_setBar (c : Chip) (n slot : Nat) (b : Barrier) : queuesAndRest (c.setBar (.core n slot) b) = queuesAndRest c :=
  queuesAndRest_setCore rfl

theorem queue_of_rest {c c' : Chip} (h : queuesAndRest c' = queuesAndRest c) (core q : Nat) : c'.queue core q = c.queue core q :=
  congrFun (congrFun (congrArg Prod.fst h) core) q

theorem mem_of_rest {c c' : Chip} (h : queuesAndRest c' = queuesAndRest c) : c'.mem = c.mem :=
  congrArg (fun x : (Nat → Nat → Queue) × Chip => x.2.mem) h

theorem bar_setBar_same (c : Chip) (n slot : Nat) (b : Barrier) : (c.setBar (.core n slot) b).bar (.core n slot) = b := by
  simp [Chip.bar, Chip.setBar]

theorem bar_of_core {c c' : Chip} {n : Nat} (h : (c'.core n).bars = (c.core n).bars) (slot : Nat) :
    c'.bar (.core n slot) = c.bar (.core n slot) := by
  simp only [Chip.bar, h]

/-! ### Runs -/

/-- The run of a queue, changed. -/
theorem modRun_running {c : Chip} {core q : Nat} {r : Run} (h : (c.queue core q).run = some r) (f : Run → Run) :
    c.modRun { core := core, q := q } f = c.setQueue core q { c.queue core q with run := some (f r), prog := (f r).p } := by
  simp only [Chip.modRun, h]

theorem run_modRun {c : Chip} {core q : Nat} {r : Run} (h : (c.queue core q).run = some r) (f : Run → Run) :
    ((c.modRun { core := core, q := q } f).queue core q).run = some (f r) := by
  rw [modRun_running h, queue_setQueue]

theorem prog_modRun {c : Chip} {core q : Nat} {r : Run} (h : (c.queue core q).run = some r) (f : Run → Run) :
    ((c.modRun { core := core, q := q } f).queue core q).prog = (f r).p := by
  rw [modRun_running h, queue_setQueue]

@[simp] theorem besideCores_modRun (c : Chip) (l : Lane8) (f : Run → Run) : besideCores (c.modRun l f) = besideCores c := by
  unfold Chip.modRun
  dsimp only
  split
  · rfl
  · rfl

theorem bars_modRun (c : Chip) (l : Lane8) (f : Run → Run) (n : Nat) : ((c.modRun l f).core n).bars = (c.core n).bars := by
  unfold Chip.modRun
  dsimp only
  split
  · rfl
  · exact (core_setQueue ..).1

@[simp] theorem mem_modRun (c : Chip) (l : Lane8) (f : Run → Run) : (c.modRun l f).mem = c.mem := by
  have h := congrArg Chip.mem (besideCores_modRun c l f)
  exact h

@[simp] theorem mem_setQueue (c : Chip) (core q : Nat) (k : Queue) : (c.setQueue core q k).mem = c.mem := rfl

/-- R165: a run that is to end. -/
theorem run_endEarly {c : Chip} {core q : Nat} {r : Run} (h : (c.queue core q).run = some r) (st detail : Nat) :
    ((c.endEarly { core := core, q := q } st detail).queue core q).run = some { r with ending := some (st, detail, 0) } := run_modRun h _

@[simp] theorem besideCores_endEarly (c : Chip) (l : Lane8) (st detail : Nat) : besideCores (c.endEarly l st detail) = besideCores c :=
  besideCores_modRun ..

@[simp] theorem mem_endEarly (c : Chip) (l : Lane8) (st detail : Nat) : (c.endEarly l st detail).mem = c.mem := mem_modRun ..

theorem runOf_running {c : Chip} {core q : Nat} {k : Cmd} {r : Run} (h : Running c core q k r) :
    c.runOf { core := core, q := q } = some (k, r) := by
  obtain ⟨ks, hcmds, hrun⟩ := h
  simp only [Chip.runOf, hcmds, hrun]

/-! ### A Dray that is on, a queue without reads of host memory -/

/-- R173: the gang of the Dray is on its cores. -/
theorem drayOn_of {c : Chip} {core : Nat} (h : DrayOn c core) (q : Option Nat) : c.drayOn core q = true := by
  obtain ⟨hst, g, hg, hphase⟩ := h
  simp [Chip.drayOn, hg, hst, hphase]

theorem drayPhase_of {c : Chip} {core : Nat} (h : DrayOn c core) : c.drayPhase core = 0 := by
  obtain ⟨-, g, hg, hphase⟩ := h
  simp [Chip.drayPhase, hg, hphase]

/-- R155: with no read of host memory under way none has completed. -/
theorem hostDone_quiet {c : Chip} {core q : Nat} (h : HostQuiet c core q) : c.hostDone { core := core, q := q } = c := by
  have hnone : c.remotes.any (fun r => r.who == Party.drayQueue core q && r.dst == 2 ^ 22) = false := by
    simpa [HostQuiet] using h
  simp only [Chip.hostDone, hnone, Bool.false_eq_true, if_false]

end Sys2Proof.Proofs
end

section
/-! PROOF. Bytes of a copy granted, landed and retired (O37). -/

namespace Sys2Proof.Proofs

open Sys2Proof Sys2Proof.Machine Sys2Proof.Claims

/-! ### Waits for a grant -/

/-- What a queue's wait record leaves: the run of the queue, every core's barriers, all beside the cores. -/
def runBarsRest (core q : Nat) (c : Chip) : Option Run × (Nat → AMap Barrier) × Chip :=
  ((c.queue core q).run, fun n => (c.core n).bars, besideCores c)

theorem runBarsRest_setQueue {c : Chip} {core q : Nat} {k : Queue} (h : k.run = (c.queue core q).run) :
    runBarsRest core q (c.setQueue core q k) = runBarsRest core q c := by
  refine Prod.ext ?_ (Prod.ext (funext fun n => (core_setQueue c core q k n).1) rfl)
  show ((c.setQueue core q k).queue core q).run = _
  rw [queue_setQueue]; exact h

theorem runBarsRest_grantWait (c : Chip) (core q : Nat) (k : Cmd) (n b : Nat) :
    runBarsRest core q (c.grantWait { core := core, q := q } k n b) = runBarsRest core q c := by
  unfold Chip.grantWait
  dsimp only
  split
  · split
    · rfl
    · exact runBarsRest_setQueue rfl
  · exact runBarsRest_setQueue rfl

/-- R392: the wait record of a queue that waits for a grant is in state 5. -/
theorem grantWait_state (c : Chip) (l : Lane8) (k : Cmd) (n b : Nat) :
    ((c.grantWait l k n b).queue l.core l.q).wait.map (fun w => w.state) = some 5 := by
  unfold Chip.grantWait
  dsimp only
  split
  · next w hw =>
    split
    · next h => rw [hw]; simp_all
    · rw [queue_setQueue]; rfl
  · rw [queue_setQueue]; rfl

theorem runBarsRest_endWait (c : Chip) (core q : Nat) : runBarsRest core q (c.endWait { core := core, q := q }) = runBarsRest core q c :=
  runBarsRest_setQueue rfl

/-! ### Grants -/

/-- R131: a target to which the next `n` bytes fetched have been granted. -/
def grantedTarget (k : Cmd) (r : Run) (x : Target) (n : Nat) : Target :=
  { x with sent := x.sent + n,
           flight := x.flight ++ (r.fetched.take n).zipIdx.map (fun p => (bankOffset k r (x.sent + p.2), p.1.1, p.1.2)) }

/-- R131: a run of one target after a grant of `n` bytes; short of a grant it stands in STATE 4. -/
def grantedRun (c : Chip) (k : Cmd) (r : Run) (x : Target) (n : Nat) : Run :=
  { r with targets := [grantedTarget k r x n], fetched := r.fetched.drop n, via := r.via.filter (fun v => !c.viaOver v),
           p := max r.p ((x.sent + n) / r.esize),
           state := if r.state = 1 || r.state = 4 then (if n < r.fetched.length then 4 else 1) else r.state }

theorem grantedTarget_flight {k : Cmd} {r : Run} {x : Target} {n : Nat} (hn : n ≤ r.fetched.length) :
    (grantedTarget k r x n).flight.length = x.flight.length + n
      ∧ ∀ j < n, ((grantedTarget k r x n).flight.getD (x.flight.length + j) (0, 0, false)).2 = r.fetched.getD j (0, false) := by
  refine ⟨by simp [grantedTarget, hn], fun j hj => ?_⟩
  have hjl : j < r.fetched.length := by omega
  simp [grantedTarget, List.getD_eq_getElem?_getD, hj, hjl]

/-- R131: a barrier whose Turntable has granted `n` more bytes. -/
def grantedBar (c : Chip) (x : Target) (n : Nat) : Barrier :=
  { c.bar (.core x.core x.barrier) with granted := (c.bar (.core x.core x.barrier)).granted + n }

/-- R131: the grant of a command's one target. -/
theorem grantAll_single (c : Chip) (k : Cmd) (r : Run) (x : Target) {n : Nat}
    (hn : n = min r.fetched.length (c.bar (.core x.core x.barrier)).room) :
    grantAll k r x.sent false [x] c = (c.setBar (.core x.core x.barrier) (grantedBar c x n), [grantedTarget k r x n],
      if n < r.fetched.length then some (grantedTarget k r x n) else none) := by
  simp [grantAll, Chip.grantTarget, Run.wanted, grantedTarget, grantedBar, hn]

/-- The chip after a grant of `n` bytes to a command's one target, its wait record left as it was. -/
def grantedChip (c : Chip) (core q : Nat) (k : Cmd) (r : Run) (x : Target) (n : Nat) : Chip :=
  ((c.setBar (.core x.core x.barrier) (grantedBar c x n)).setQueue core q
    { c.queue core q with run := some (grantedRun c k r x n), prog := (grantedRun c k r x n).p }).freeHansoms { core := core, q := q } (x.sent + n)

/-- R131: what TURNTABLE_GRANT does for a command of one target that is no DMCAST. -/
theorem exec_turntableGrant {s : State} {core q n : Nat} {k : Cmd} {r : Run} {x : Target} (hon : DrayOn s.chip core)
    (hrun : Running s.chip core q k r) (ht : r.targets = [x]) (hf : r.fetched ≠ []) (hb : r.begun = true) (hop : k.op ≠ 0xD9)
    (hq : HostQuiet s.chip core q) (hn : n = min r.fetched.length (s.chip.bar (.core x.core x.barrier)).room) :
    exec (.turntableGrant core q) s = nextChip s (if n < r.fetched.length
      then (grantedChip s.chip core q k r x n).grantWait { core := core, q := q } k x.core x.barrier
      else (grantedChip s.chip core q k r x n).endWait { core := core, q := q }) := by
  change execTurntableGrant core q s = _
  unfold execTurntableGrant
  refine (runChip_next s _).trans (congrArg (nextChip s) ?_)
  obtain ⟨ks, -, hr⟩ := id hrun
  have hsent : r.sentAll = x.sent := by simp [Run.sentAll, ht, leastOf]
  have hnext : (leastOf ([grantedTarget k r x n].map (fun t => t.sent))).getD 0 = x.sent + n := rfl
  have hkept : ((s.chip.setBar (.core x.core x.barrier) (grantedBar s.chip x n)).queue core q) = s.chip.queue core q :=
    queue_of_rest (queuesAndRest_setBar ..) core q
  have hgo : (r.targets = [] || r.fetched = [] || !r.begun || (s.chip.core core).dray.s.st = 0 || 1 < s.chip.drayPhase core) = false := by
    simp [ht, hf, hb, hon.1, drayPhase_of hon]
  simp only [hostDone_quiet hq, runOf_running hrun]
  rw [if_neg (by rw [hgo]; exact Bool.false_ne_true)]
  simp only [hop, if_false, drayOn_of hon, Bool.not_true, hsent, ht, grantAll_single _ k r x hn, Nat.lt_irrefl]
  rw [modRun_running (hkept ▸ hr), hkept]
  by_cases hshort : n < r.fetched.length
  · simp only [hshort, if_true, hnext, Nat.add_sub_cancel_left, grantedChip, grantedRun, Option.isSome_some]
    rfl
  · simp only [hshort, if_false, hnext, Nat.add_sub_cancel_left, grantedChip, grantedRun, Option.isSome_none, Bool.false_eq_true]

/-- R131: the run, the barrier and the bytes after a grant. -/
theorem grantedChip_state (c : Chip) (core q : Nat) (k : Cmd) (r : Run) (x : Target) (n : Nat) :
    ((grantedChip c core q k r x n).queue core q).run = some (grantedRun c k r x n)
      ∧ (grantedChip c core q k r x n).bar (.core x.core x.barrier) = grantedBar c x n
      ∧ (grantedChip c core q k r x n).mem = c.mem ∧ (grantedChip c core q k r x n).clusters = c.clusters := by
  have hrun := congrArg Queue.run (queue_setQueue (c.setBar (.core x.core x.barrier) (grantedBar c x n)) core q
    { c.queue core q with run := some (grantedRun c k r x n), prog := (grantedRun c k r x n).p })
  have hbars := (core_setQueue (c.setBar (.core x.core x.barrier) (grantedBar c x n)) core q
    { c.queue core q with run := some (grantedRun c k r x n), prog := (grantedRun c k r x n).p } x.core).1
  exact ⟨hrun, (bar_of_core hbars x.barrier).trans (bar_setBar_same ..), rfl, rfl⟩

/-- What a wait record leaves, in its parts. -/
theorem of_runBarsRest {c c' : Chip} {core q : Nat} (h : runBarsRest core q c' = runBarsRest core q c) :
    (c'.queue core q).run = (c.queue core q).run ∧ (∀ n slot, c'.bar (.core n slot) = c.bar (.core n slot)) ∧ besideCores c' = besideCores c := by
  obtain ⟨hrun, hrest⟩ := Prod.mk.inj h
  obtain ⟨hbars, hbeside⟩ := Prod.mk.inj hrest
  exact ⟨hrun, fun n => bar_of_core (congrFun hbars n), hbeside⟩

/-! ### Landings -/

theorem bar_wake (c : Chip) (on : DWord) (n slot : Nat) : (c.wake on).bar (.core n slot) = c.bar (.core n slot) := by
  have hbars : ((c.wake on).core n).bars = (c.core n).bars :=
    aget_map_keeps Core.zero c.cores (fun p => p.2.wake on) Core.bars (fun _ => rfl) n
  exact bar_of_core hbars slot

theorem queue_wake (c : Chip) (on : DWord) : (c.wake on).queue = c.queue :=
  queue_of_dray (fun n => aget_map_keeps Core.zero c.cores (fun p => p.2.wake on) (fun k => k.dray.queues) (fun _ => rfl) n)

theorem check_checked (b : Barrier) : b.check.1 = checked b := by
  simp only [Barrier.check, checked, Bool.and_eq_true, decide_eq_true_eq, and_assoc]
  split <;> rfl

/-- R207: an object written and its phase checked: the object, the queues, memory and the clusters after it. -/
theorem putBar_state (c : Chip) (n slot : Nat) (b : Barrier) :
    (c.putBar (.core n slot) b).bar (.core n slot) = checked b ∧ (c.putBar (.core n slot) b).queue = c.queue
      ∧ (c.putBar (.core n slot) b).mem = c.mem ∧ (c.putBar (.core n slot) b).clusters = c.clusters := by
  have hbar := (bar_setBar_same c n slot b.check.1).trans (check_checked b)
  have hqueue := congrArg Prod.fst (queuesAndRest_setBar c n slot b.check.1)
  unfold Chip.putBar
  dsimp only
  split
  · exact ⟨(bar_wake ..).trans hbar, (queue_wake ..).trans hqueue, rfl, rfl⟩
  · exact ⟨hbar, hqueue, rfl, rfl⟩

theorem aget_putBytes_of_forall_ne (bytes : List (Nat × Byte)) (m : AMap Byte) (a : Nat) (h : ∀ p ∈ bytes, p.1 ≠ a) :
    aget 0 (putBytes m bytes) a = aget 0 m a := by
  induction bytes generalizing m with
  | nil => rfl
  | cons p bytes ih =>
    rw [List.forall_mem_cons] at h
    rw [putBytes, ih _ h.2, aget_aput_ne 0 m p.2 (Ne.symm h.1)]

/-- R198: of the bytes that land at one offset the last stays. -/
theorem aget_putBytes_last (bytes : List (Nat × Byte)) (m : AMap Byte) {j : Nat} {a : Nat} {b : Byte} (hj : bytes[j]? = some (a, b))
    (hlast : ∀ i p, j < i → bytes[i]? = some p → p.1 ≠ a) : aget 0 (putBytes m bytes) a = b := by
  induction bytes generalizing m j with
  | nil => simp at hj
  | cons p bytes ih =>
    cases j with
    | zero =>
      obtain rfl : p = (a, b) := by simpa using hj
      rw [putBytes, aget_putBytes_of_forall_ne _ _ _ fun y hy => ?_, aget_aput_same]
      obtain ⟨i, hi⟩ := List.mem_iff_getElem?.1 hy
      exact hlast (i + 1) y (by omega) (by simpa using hi)
    | succ j =>
      exact ih _ (by simpa using hj) fun i y hi hy => hlast (i + 1) y (by omega) (by simpa using hy)

/-- R198: the bank after bytes in flight have landed in it. -/
def landedBank (b : Bank) (flight : List (Nat × Byte × Bool)) : Bank :=
  b.write (flight.map (fun x => (x.1, x.2.1))) ((flight.filter (fun x => x.2.2)).map (fun x => x.1 / 64)).eraseDups

theorem landedBank_byte (b : Bank) (flight : List (Nat × Byte × Bool)) {j : Nat} (hj : j < flight.length)
    (hlast : ∀ m, j < m → m < flight.length → (flight.getD m (0, 0, false)).1 ≠ (flight.getD j (0, 0, false)).1) :
    aget 0 (landedBank b flight).data (flight.getD j (0, 0, false)).1 = (flight.getD j (0, 0, false)).2.1 := by
  refine aget_putBytes_last (j := j) _ b.data (by simp [hj]) fun i p hi hp => ?_
  have hlen : i < flight.length := by
    have := (List.getElem?_eq_some_iff.1 hp).1
    simpa using this
  obtain rfl : ((flight[i]).1, (flight[i]).2.1) = p := by simpa [hlen] using hp
  simpa [hlen] using hlast i hi hlen

/-- R198: bytes that land where a bank of the same gang is attached. -/
theorem landBytes_attached {c : Chip} {gang b : Nat} {x : Target} (hb : c.bankAt x.core x.slot = some b)
    (hg : (c.bank (clusterOf x.core) b).gang = some gang) (cid : DWord) :
    c.landBytes gang x cid = (c.setBank (clusterOf x.core) b (landedBank (c.bank (clusterOf x.core) b) x.flight)).putBar (.core x.core x.barrier)
      { c.bar (.core x.core x.barrier) with
        lbytes := (c.bar (.core x.core x.barrier)).lbytes + BitVec.ofNat 32 x.flight.length,
        granted := (c.bar (.core x.core x.barrier)).granted - x.flight.length } := by
  simp [Chip.landBytes, hb, hg]
  rfl

/-- R194: an entry marked as over leaves the barriers, the queues, and all beside the cores. -/
theorem scoreDone_keeps (c : Chip) (l : Lane8) (core : Nat) :
    queuesAndRest (c.scoreDone l core) = queuesAndRest c ∧ ∀ n, ((c.scoreDone l core).core n).bars = (c.core n).bars := by
  refine ⟨queuesAndRest_setCore rfl, fun n => ?_⟩
  unfold Chip.scoreDone
  rw [Chip.core_setCore]
  split
  · subst n; rfl
  · rfl

/-- R198: what BYTE_LAND does for a command of one target with bytes in flight. -/
theorem exec_byteLand {s : State} {core q : Nat} {k : Cmd} {r : Run} {x : Target} (hrun : Running s.chip core q k r) (ht : r.targets = [x])
    (hf : x.flight ≠ []) :
    let c1 := (s.chip.landBytes (s.chip.core core).dray.s.gang x k.cid).modRun { core := core, q := q } (fun y => { y with
      targets := [{ x with landed := x.landed + x.flight.length, flight := [] }] })
    exec (.byteLand core q) s
      = nextChip s (if r.count * r.esize ≤ x.landed + x.flight.length then c1.scoreDone { core := core, q := q } x.core else c1) := by
  change execByteLand core q s = _
  unfold execByteLand
  refine (runChip_next s _).trans (congrArg (nextChip s) ?_)
  simp only [runOf_running hrun, ht, landFirst, hf, if_false]

/-! ### The obligation -/

/-- R131: bytes are granted as far as their barrier is armed. -/
theorem grantsAsArmed {s : State} {core q : Nat} {k : Cmd} {r : Run} {x : Target} (hon : DrayOn s.chip core)
    (hrun : Running s.chip core q k r) (ht : r.targets = [x]) (hf : r.fetched ≠ []) (hb : r.begun = true) (hop : k.op ≠ 0xD9)
    (hq : HostQuiet s.chip core q) :
    let b := s.chip.bar (.core x.core x.barrier)
    let n := min r.fetched.length (b.xbytes.toNat - b.lbytes.toNat - b.granted)
    ∃ t r', exec (.turntableGrant core q) s = .next t ∧ runIn t core q = some r'
      ∧ t.chip.bar (.core x.core x.barrier) = { b with granted := b.granted + n } ∧ r'.fetched = r.fetched.drop n
      ∧ r'.p = max r.p ((x.sent + n) / r.esize)
      ∧ (∃ y, r'.targets = [y] ∧ y.sent = x.sent + n ∧ y.landed = x.landed ∧ y.flight.length = x.flight.length + n
          ∧ ∀ j < n, (y.flight.getD (x.flight.length + j) (0, 0, false)).2 = r.fetched.getD j (0, false))
      ∧ (r.state = 1 ∨ r.state = 4 → (r'.state = 4 ↔ n < r.fetched.length)) ∧ t.chip.mem = s.chip.mem ∧ t.chip.clusters = s.chip.clusters := by
  intro b n
  have hn : n = min r.fetched.length (s.chip.bar (.core x.core x.barrier)).room := rfl
  have hexec := exec_turntableGrant hon hrun ht hf hb hop hq hn
  obtain ⟨hlen, hbytes⟩ := grantedTarget_flight (k := k) (x := x) (hn ▸ Nat.min_le_left .. : n ≤ r.fetched.length)
  have hstate : r.state = 1 ∨ r.state = 4 → ((grantedRun s.chip k r x n).state = 4 ↔ n < r.fetched.length) := fun h => by
    simp only [grantedRun, decide_eq_true_eq, Bool.or_eq_true, h, if_true]
    split <;> simp_all
  obtain ⟨c', hc', hkeep⟩ : ∃ c', exec (.turntableGrant core q) s = nextChip s c'
      ∧ runBarsRest core q c' = runBarsRest core q (grantedChip s.chip core q k r x n) := by
    refine ⟨_, hexec, ?_⟩
    split
    · exact runBarsRest_grantWait ..
    · exact runBarsRest_endWait ..
  obtain ⟨hrun', hbar, hmem, hclusters⟩ := grantedChip_state s.chip core q k r x n
  obtain ⟨hrunEq, hbarEq, hbeside⟩ := of_runBarsRest hkeep
  have hmem' : c'.mem = s.chip.mem := (congrArg Chip.mem hbeside).trans hmem
  have hclusters' : c'.clusters = s.chip.clusters := (congrArg Chip.clusters hbeside).trans hclusters
  exact ⟨_, _, hc', hrunEq.trans hrun', (hbarEq ..).trans hbar, rfl, rfl, ⟨_, rfl, rfl, rfl, hlen, hbytes⟩, hstate, hmem', hclusters'⟩

/-- R198: bytes in flight land in the bank attached at the target's slot and count on the barrier. -/
theorem landsAttached {s : State} {core q : Nat} {k : Cmd} {r : Run} {x : Target} {b : Nat} (hrun : Running s.chip core q k r)
    (ht : r.targets = [x]) (hf : x.flight ≠ []) (hb : s.chip.bankAt x.core x.slot = some b)
    (hg : (s.chip.bank (x.core / 128) b).gang = some (s.chip.core core).dray.s.gang) :
    let old := s.chip.bar (.core x.core x.barrier)
    ∃ t, exec (.byteLand core q) s = .next t
      ∧ (∃ r', runIn t core q = some r' ∧ r'.targets = [{ x with landed := x.landed + x.flight.length, flight := [] }] ∧ r'.p = r.p)
      ∧ t.chip.bar (.core x.core x.barrier)
          = checked { old with lbytes := old.lbytes + BitVec.ofNat 32 x.flight.length, granted := old.granted - x.flight.length }
      ∧ (∀ j < x.flight.length, (∀ m, j < m → m < x.flight.length → (x.flight.getD m (0, 0, false)).1 ≠ (x.flight.getD j (0, 0, false)).1) →
          aget 0 (t.chip.bank (x.core / 128) b).data (x.flight.getD j (0, 0, false)).1 = (x.flight.getD j (0, 0, false)).2.1)
      ∧ t.chip.mem = s.chip.mem := by
  intro old
  obtain ⟨ks, -, hr⟩ := id hrun
  have hexec := exec_byteLand hrun ht hf
  rw [landBytes_attached hb hg] at hexec
  set banked := s.chip.setBank (clusterOf x.core) b (landedBank (s.chip.bank (clusterOf x.core) b) x.flight)
  set new : Barrier := { old with lbytes := old.lbytes + BitVec.ofNat 32 x.flight.length, granted := old.granted - x.flight.length }
  obtain ⟨hbar, hqueue, hmem, hclusters⟩ := putBar_state banked x.core x.barrier new
  have hrun' : ((banked.putBar (.core x.core x.barrier) new).queue core q).run = some r := by rw [hqueue]; exact hr
  obtain ⟨c', hc', hkeep, hbars⟩ : ∃ c', exec (.byteLand core q) s = nextChip s c'
      ∧ queuesAndRest c' = queuesAndRest ((banked.putBar (.core x.core x.barrier) new).modRun { core := core, q := q } (fun y => { y with
          targets := [{ x with landed := x.landed + x.flight.length, flight := [] }] }))
      ∧ (c'.core x.core).bars = ((banked.putBar (.core x.core x.barrier) new).core x.core).bars := by
    refine ⟨_, hexec, ?_⟩
    split
    · exact ⟨(scoreDone_keeps ..).1, ((scoreDone_keeps ..).2 _).trans (bars_modRun ..)⟩
    · exact ⟨rfl, bars_modRun ..⟩
  have hrest := (congrArg Prod.snd hkeep).trans (besideCores_modRun ..)
  have hclusters' : c'.clusters = banked.clusters := (congrArg Chip.clusters hrest).trans hclusters
  refine ⟨_, hc', ⟨_, (congrArg Queue.run (queue_of_rest hkeep core q)).trans (run_modRun hrun' _), rfl, rfl⟩, (bar_of_core hbars _).trans hbar,
    fun j hj hlast => ?_, (congrArg Chip.mem hrest).trans hmem⟩
  have hbank : c'.bank (x.core / 128) b = landedBank (s.chip.bank (clusterOf x.core) b) x.flight := by
    have h : c'.bank (clusterOf x.core) b = banked.bank (clusterOf x.core) b := by
      simp only [Chip.bank, Chip.cluster, hclusters']
    exact h.trans ((bank_setBank ..).trans (if_pos rfl))
  show aget 0 (c'.bank (x.core / 128) b).data _ = _
  rw [hbank]
  exact landedBank_byte _ _ hj hlast

/-- R194: an entry that is over leaves its scoreboard. -/
theorem retiresEntry {s : State} {core n : Nat} {e : ScoreEntry} (he : (s.chip.core core).score[n]? = some e) (hd : e.done = true) :
    ∃ t, exec (.scoreboardRetire core n) s = .next t ∧ { t with chip := { t.chip with cores := s.chip.cores } } = s
      ∧ ∀ m, t.chip.core m = if m = core then { s.chip.core core with score := (s.chip.core core).score.eraseIdx n } else s.chip.core m := by
  have hexec : exec (.scoreboardRetire core n) s
      = nextChip s (s.chip.setCore core { s.chip.core core with score := (s.chip.core core).score.eraseIdx n }) := by
    change execScoreboardRetire core n s = _
    simp only [execScoreboardRetire, runChip_next, he, hd, if_true, nextChip]
  exact ⟨_, hexec, rfl, fun m => Chip.core_setCore ..⟩

/-- R132: an entry closes after 2,800 cycles. -/
theorem closesEntry (s : State) (line : Nat) :
    exec (.multicastEntryClose line) s = .next { s with
      chip := { s.chip with mc := s.chip.mc.map (fun (e : McEntry) =>
        if e.line = line ∧ e.opened + 2800 ≤ s.chip.cycle then { e with closed := true } else e) } } := by
  change execMulticastEntryClose line s = _
  simp only [execMulticastEntryClose, runChip_next, Bool.and_eq_true, beq_iff_eq, decide_eq_true_eq]
  rfl

/-- Settles O37: a grant and a landing by what they leave of barrier, run and bank; the two ends of entries by their one update. -/
theorem copyDelivery : Obligations.CopyDelivery :=
  ⟨fun _ _ _ _ _ _ hon hrun ht hf hb hop hq => grantsAsArmed hon hrun ht hf hb hop hq,
   fun _ _ _ _ _ _ _ hrun ht hf hb hg => landsAttached hrun ht hf hb hg,
   fun _ _ _ _ he hd => retiresEntry he hd, closesEntry⟩

end Sys2Proof.Proofs
end

section
/-! PROOF. The start of a copy command, its maps, its targets (O36). -/

namespace Sys2Proof.Proofs

open Sys2Proof Sys2Proof.Machine Sys2Proof.Claims

/-! ### The first try of a command -/

/-- R161: what DRAY_COMMAND_START does with a command that has not been tried, once its run stands in its queue. -/
def firstTry (c : Chip) (l : Lane8) (k : Cmd) : Except Nat Chip :=
  if k.cancelled then .ok ((c.modRun l (fun x => { x with p := 0, upto := 0 })).endEarly l 1 0)
  else match k.badAddress with
    | some a => .ok (c.modRun l (fun x => { x with ending := some (4, 5 * 2 ^ 16 + 1, a) }))
    | none =>
      if k.op = 0xDE then c.startProxy l k (Run.fresh k)
      else if k.op = 0xDD then c.startColl l k (Run.fresh k)
      else c.startMaps l k (Run.fresh k)

/-- R163: a Dray's acquire drops nothing. -/
theorem triedIn_eq (c : Chip) (core q : Nat) (k : Cmd) :
    triedIn c core q k = c.setQueue core q { c.queue core q with run := some (Run.fresh k), prog := k.prog } := by
  simp only [triedIn, Chip.acquireBy, ite_self]

theorem run_triedIn (c : Chip) (core q : Nat) (k : Cmd) : ((triedIn c core q k).queue core q).run = some (Run.fresh k) := by
  rw [triedIn_eq, queue_setQueue]

@[simp] theorem besideCores_triedIn (c : Chip) (core q : Nat) (k : Cmd) : besideCores (triedIn c core q k) = besideCores c := by
  rw [triedIn_eq, besideCores_setQueue]

@[simp] theorem mem_triedIn (c : Chip) (core q : Nat) (k : Cmd) : (triedIn c core q k).mem = c.mem := by
  rw [triedIn_eq, mem_setQueue]

@[simp] theorem drayTag_triedIn (c : Chip) (core q : Nat) (k : Cmd) (n : Nat) : (triedIn c core q k).drayTag n = c.drayTag n := by
  rw [triedIn_eq, drayTag_setQueue]

/-- R161, R173: the head of a queue is tried for the first time. -/
theorem exec_firstTry {s : State} {core q : Nat} {k : Cmd} (h : Waiting s.chip core q k) :
    exec (.drayCommandStart core q) s = runChipE s (fun c => firstTry (triedIn c core q k) { core := core, q := q } k) := by
  obtain ⟨hon, ⟨ks, hcmds⟩, hrun, hquiet⟩ := h
  have hquiet' : HostQuiet (triedIn s.chip core q k) core q := by
    have hremotes := congrArg Chip.remotes (besideCores_triedIn s.chip core q k)
    intro x hx
    exact hquiet x (hremotes ▸ hx)
  have htry : s.chip.tryStart { core := core, q := q } (fun x l k r => x.startColl l k r) = firstTry (triedIn s.chip core q k) { core := core, q := q } k := by
    have hdone := hostDone_quiet hquiet'
    have hfresh : ¬((Run.fresh k).begun || (Run.fresh k).ending.isSome || (Run.fresh k).state = 2 || (Run.fresh k).state = 3) = true := by
      simp [Run.fresh]
    rw [triedIn_eq] at hdone ⊢
    unfold Chip.tryStart
    dsimp only
    split
    · next hnil => rw [hcmds] at hnil; cases hnil
    · next k' ks' hcons =>
      obtain rfl : k = k' := (List.cons.inj (hcmds.symm.trans hcons)).1
      simp only [hrun, Option.getD_none, if_neg hfresh, Chip.acquireBy, ite_self]
      rw [show (Run.fresh k).p = k.prog from rfl, hdone]
      unfold firstTry
      cases k.badAddress <;> rfl
  change execDrayCommandStart core q s = _
  simp only [execDrayCommandStart, runChipE, drayOn_of hon, if_true, htry]

/-- The state after a first try that completes. -/
theorem exec_start {s : State} {core q : Nat} {k : Cmd} {c' : Chip} (h : Waiting s.chip core q k)
    (htry : firstTry (triedIn s.chip core q k) { core := core, q := q } k = .ok c') :
    exec (.drayCommandStart core q) s = .next { s with chip := c' } :=
  (exec_firstTry h).trans (runChipE_ok htry)

/-! ### Maps -/

/-- R175: the addresses that a command names. -/
theorem badAddress_eq (k : Cmd) :
    k.badAddress = (if k.op ∈ [0xD9, 0xDA, 0xDD, 0xDE] then [k.ka.toNat] else [k.ka.toNat, k.kb.toNat]).find? (fun a => !canonical a) := by
  simp only [Cmd.badAddress, List.mem_cons, List.not_mem_nil, or_false]

theorem badAddress_none {k : Cmd}
    (h : (if k.op ∈ [0xD9, 0xDA, 0xDD, 0xDE] then [k.ka.toNat] else [k.ka.toNat, k.kb.toNat]).all canonical = true) : k.badAddress = none := by
  rw [badAddress_eq, List.find?_eq_none]
  intro a ha
  rw [List.all_eq_true.1 h a ha]
  exact Bool.false_ne_true

/-- R168, R175: the first try of a command with maps and canonical addresses. -/
theorem firstTry_maps {k : Cmd} (hc : k.cancelled = false) (ha : k.badAddress = none) (hop : k.op ∈ [0xD8, 0xD9, 0xDA, 0xDB, 0xDC]) (c : Chip)
    (l : Lane8) : firstTry c l k = c.startMaps l k (Run.fresh k) := by
  have h1 : k.op ≠ 0xDE := by rintro h; simp [h] at hop
  have h2 : k.op ≠ 0xDD := by rintro h; simp [h] at hop
  simp only [firstTry, hc, ha, h1, h2, Bool.false_eq_true, if_false]

/-- R175: a command with an address that is not canonical is to end FAULT. -/
theorem firstTry_badAddress {k : Cmd} {a : Nat} (hc : k.cancelled = false) (ha : k.badAddress = some a) (c : Chip) (l : Lane8) :
    firstTry c l k = .ok (c.modRun l (fun x => { x with ending := some (4, 5 * 2 ^ 16 + 1, a) })) := by
  simp only [firstTry, hc, ha, Bool.false_eq_true, if_false]

theorem leastOf_eq_none {l : List Nat} (h : leastOf l = none) : l = [] := by
  cases l with
  | nil => rfl
  | cons n l =>
    rw [leastOf] at h
    split at h <;> cases h

theorem leastOf_least {l : List Nat} {n : Nat} (h : leastOf l = some n) : n ∈ l ∧ ∀ m ∈ l, n ≤ m := by
  induction l generalizing n with
  | nil => cases h
  | cons a l ih =>
    rw [leastOf] at h
    split at h
    · next hnone =>
      obtain rfl := Option.some.inj h
      simp [leastOf_eq_none hnone]
    · next b hb =>
      obtain rfl := Option.some.inj h
      obtain ⟨hmem, hle⟩ := ih hb
      refine ⟨?_, List.forall_mem_cons.2 ⟨Nat.min_le_left .., fun m hm => (Nat.min_le_right ..).trans (hle m hm)⟩⟩
      rcases Nat.le_total a b with hab | hab
      · simp [Nat.min_eq_left hab]
      · simp [Nat.min_eq_right hab, hmem]

/-- The least number of a list. -/
theorem leastOf_eq_some {l : List Nat} {n : Nat} (hn : n ∈ l) (hle : ∀ m ∈ l, n ≤ m) : leastOf l = some n := by
  cases hleast : leastOf l with
  | none => rw [leastOf_eq_none hleast] at hn; cases hn
  | some b =>
    obtain ⟨hb, hble⟩ := leastOf_least hleast
    rw [Nat.le_antisymm (hble n hn) (hle b hb)]

/-- R170: a map that is not at a multiple of 64 is not read. -/
theorem startMaps_misaligned {k : Cmd} (h : (mapsOf k).1.getD 0 % 64 ≠ 0 ∨ (mapsOf k).2.getD 0 % 64 ≠ 0) (c : Chip) (l : Lane8) :
    c.startMaps l k (Run.fresh k) = .ok (c.endEarly l 5 0x101) := by
  have hbad : ((mapsOf k).1.getD 0 % 64 != 0 || (mapsOf k).2.getD 0 % 64 != 0) = true := by simpa using h
  have hfresh : ¬(Run.fresh k).state = 4 := by simp [Run.fresh]
  simp only [mapsOf] at hbad
  simp only [Chip.startMaps, if_neg hfresh, hbad, if_true]

/-- R168, R170: maps that have been read are checked: the least reason ends the command, else its targets are allocated. -/
theorem startMaps_read {c c1 : Chip} {l : Lane8} {k : Cmd} {sb db : Option (List Byte)} (h1 : (mapsOf k).1.getD 0 % 64 = 0)
    (h2 : (mapsOf k).2.getD 0 % 64 = 0) (hread : MapsRead c l k c1 sb db) :
    c.startMaps l k (Run.fresh k) = .ok ((leastOf (mapReasons c1 k sb db)).elim (c1.startTargets l k (sb.map TMap.ofBytes) (db.map TMap.ofBytes))
      (fun why => c1.endEarly l 5 why)) := by
  obtain ⟨h, h', hs, hstop, hd, hstop', rfl, -⟩ := hread
  have hfresh : ¬(Run.fresh k).state = 4 := by simp [Run.fresh]
  unfold Chip.startMaps
  extract_lets tag sa da h0 rd
  have hsa : sa.getD 0 % 64 = 0 := h1
  have hda : da.getD 0 % 64 = 0 := h2
  have hgood : ¬(sa.getD 0 % 64 != 0 || da.getD 0 % 64 != 0) = true := by simp [hsa, hda]
  rw [if_neg hfresh, if_neg hgood]
  have hrd (a : Option Nat) (x : Haul) (hx : x.stop = none) : rd a x = mapRead l k tag a x := by
    cases a with
    | none => rfl
    | some a =>
      simp only [rd, mapRead, hx, Option.isSome_none, Bool.false_eq_true, if_false]
      rfl
  have hsrc : rd sa h0 = (h, sb) := (hrd sa h0 rfl).trans hs
  have hdst : rd da h = (h', db) := (hrd da h hstop).trans hd
  simp only [hsrc, hdst, hstop']
  cases leastOf (mapReasons h'.c k sb db) <;> rfl

/-! ### Targets -/

/-- R167, R168: the run of a command that begins, its targets allocated. -/
def begunRun (k : Cmd) (src dst : Option TMap) : Run :=
  { Run.fresh k with
    begun := true, src := src, dst := dst, count := ((src.or dst).map TMap.count).getD 0,
    targets := (cmdTargets k dst).zipIdx.map (targetAt k (((src.or dst).map (fun m => m.esize)).getD 1)),
    ending := if k.op = 0xD9 ∧ cmdTargets k dst = [] then some (0, 0, 0) else none }

/-- R167: a command begins in its queue. -/
def beginRun (c : Chip) (l : Lane8) (k : Cmd) (src dst : Option TMap) : Chip :=
  c.modRun l (fun y => { begunRun k src dst with
    p := y.p, upto := y.upto, fetched := y.fetched, fault := y.fault, wrote := y.wrote, via := y.via, coll := y.coll,
    ending := if k.op = 0xD9 ∧ cmdTargets k dst = [] then some (0, 0, 0) else y.ending })

theorem run_beginRun {c : Chip} {core q : Nat} {k : Cmd} (h : (c.queue core q).run = some (Run.fresh k)) (src dst : Option TMap) :
    ((beginRun c { core := core, q := q } k src dst).queue core q).run = some (begunRun k src dst) := run_modRun h _

/-- R194: the scoreboard entry that a command takes at a target, and its place among the byte sources of the target's barrier. -/
def takeTarget (l : Lane8) (e : Nat × Nat × Nat → ScoreEntry) (remote : Bool) (x : Chip) (t : Nat × Nat × Nat) : Chip :=
  let x1 := x.setCore t.1 { x.core t.1 with score := (x.core t.1).score ++ [e t] }
  x1.setBar (.core t.1 t.2.2) ((x1.bar (.core t.1 t.2.2)).register l remote)

/-- R194: the entry of a command's target. -/
def targetEntry (c : Chip) (l : Lane8) (k : Cmd) (src dst : Option TMap) (t : Nat × Nat × Nat) : ScoreEntry :=
  { gang := (c.core l.core).dray.s.gang, core := l.core, queue := l.q, slot := t.2.1, lo := (cmdRange k src dst).1, hi := (cmdRange k src dst).2,
    done := false }

/-- R194: a command whose targets have no room stands among those that wait at the Turntable. -/
def awaitRoom (c : Chip) (l : Lane8) (cl : Nat) : Chip :=
  if c.scoreWaits.contains (l.place cl) then c else { c with scoreWaits := c.scoreWaits ++ [l.place cl] }

/-- R194: whether a command must wait: another has waited longer at the Turntable of its targets, or one of their scoreboards is full. -/
def mustAwait (c : Chip) (l : Lane8) (ts : List (Nat × Nat × Nat)) : Bool :=
  c.laterAt l (clusterOf ((ts.map (fun t => t.1)).headD 0)) || ts.any (fun t => 16 ≤ ((c.core t.1).score).length)

/-- R194: targets are taken all at once or not at all. -/
theorem allocTargets_eq (c : Chip) (l : Lane8) (k : Cmd) (src dst : Option TMap) (ts : List (Nat × Nat × Nat)) :
    c.allocTargets l k src dst ts
      = if mustAwait c l ts then (awaitRoom c l (clusterOf ((ts.map (fun t => t.1)).headD 0)), false)
        else ((ts.foldl (takeTarget l (targetEntry c l k src dst) (c.fromPeer l.core (c.drayTag l.core) src)) c).leaveWaits l, true) := rfl

theorem takeTarget_keeps (l : Lane8) (e : Nat × Nat × Nat → ScoreEntry) (remote : Bool) (x : Chip) (t : Nat × Nat × Nat) :
    queuesAndRest (takeTarget l e remote x t) = queuesAndRest x :=
  (queuesAndRest_setBar ..).trans (queuesAndRest_setCore rfl)

/-- R194, R205: a target taken: its core's scoreboard and its barrier. -/
theorem takeTarget_state (l : Lane8) (e : Nat × Nat × Nat → ScoreEntry) (remote : Bool) (x : Chip) (t : Nat × Nat × Nat) :
    ((takeTarget l e remote x t).core t.1).score = (x.core t.1).score ++ [e t]
      ∧ (takeTarget l e remote x t).bar (.core t.1 t.2.2) = (x.bar (.core t.1 t.2.2)).register l remote := by
  have hbars : ((x.setCore t.1 { x.core t.1 with score := (x.core t.1).score ++ [e t] }).core t.1).bars = (x.core t.1).bars := by
    rw [Chip.core_setCore_same]
  refine ⟨by simp [takeTarget, Chip.setBar], (bar_setBar_same ..).trans ?_⟩
  rw [bar_of_core hbars]

/-- R194: an allocation, whether it takes or waits, leaves every queue and memory as they were. -/
theorem allocTargets_keeps {c c2 : Chip} {l : Lane8} {k : Cmd} {src dst : Option TMap} {ts : List (Nat × Nat × Nat)} {ok : Bool}
    (h : c.allocTargets l k src dst ts = (c2, ok)) : c2.queue = c.queue ∧ c2.mem = c.mem := by
  rw [allocTargets_eq] at h
  split at h
  · obtain rfl := (Prod.mk.inj h).1
    unfold awaitRoom
    split
    · exact ⟨rfl, rfl⟩
    · exact ⟨rfl, rfl⟩
  · obtain rfl := (Prod.mk.inj h).1
    have hfold := foldl_keeps queuesAndRest (takeTarget l (targetEntry c l k src dst) (c.fromPeer l.core (c.drayTag l.core) src)) ts c
      (fun x t _ h => (takeTarget_keeps ..).trans h)
    have hmem := mem_of_rest hfold
    exact ⟨congrArg Prod.fst hfold, hmem⟩

/-- R167: a command without bank targets begins at once. -/
theorem startTargets_memory {k : Cmd} {dst : Option TMap} (ht : cmdTargets k dst = []) (c : Chip) (l : Lane8) (src : Option TMap) :
    c.startTargets l k src dst = beginRun c l k src dst := by
  simp only [Chip.startTargets, beginRun, begunRun, ht]
  rfl

/-- R194: a bank-bound command begins once its targets are allocated. -/
theorem startTargets_allocated {c c2 : Chip} {core q : Nat} {k : Cmd} {src dst : Option TMap} (hrun : (c.queue core q).run = some (Run.fresh k))
    (ht : cmdTargets k dst ≠ []) (ha : c.allocTargets { core := core, q := q } k src dst (cmdTargets k dst) = (c2, true)) :
    ((c.startTargets { core := core, q := q } k src dst).queue core q).run = some (begunRun k src dst)
      ∧ (c.startTargets { core := core, q := q } k src dst).mem = c.mem := by
  obtain ⟨x, xs, hts⟩ := List.exists_cons_of_ne_nil ht
  obtain ⟨hqueue, hmem⟩ := allocTargets_keeps ha
  have hbegun := run_beginRun ((congrArg Queue.run (congrFun (congrFun hqueue core) q)).trans hrun) src dst
  have hstart : c.startTargets { core := core, q := q } k src dst
      = (beginRun c2 { core := core, q := q } k src dst).endWait { core := core, q := q } := by
    rw [hts] at ha
    simp only [Chip.startTargets, beginRun, begunRun, hts, ha, if_true]
    rfl
  obtain ⟨hkeep, -, -⟩ := of_runBarsRest (runBarsRest_endWait (beginRun c2 { core := core, q := q } k src dst) core q)
  rw [hstart]
  exact ⟨hkeep.trans hbegun, (mem_modRun ..).trans hmem⟩

/-- R194: a bank-bound command whose targets have no room waits in STATE 4. -/
theorem startTargets_waits {c c2 : Chip} {core q : Nat} {k : Cmd} {src dst : Option TMap} (hrun : (c.queue core q).run = some (Run.fresh k))
    (ht : cmdTargets k dst ≠ []) (ha : c.allocTargets { core := core, q := q } k src dst (cmdTargets k dst) = (c2, false)) :
    ((c.startTargets { core := core, q := q } k src dst).queue core q).run = some { Run.fresh k with state := 4, src := src, dst := dst }
      ∧ ((c.startTargets { core := core, q := q } k src dst).queue core q).wait.map (fun w => w.state) = some 5
      ∧ (c.startTargets { core := core, q := q } k src dst).mem = c.mem := by
  obtain ⟨x, xs, hts⟩ := List.exists_cons_of_ne_nil ht
  obtain ⟨hqueue, hmem⟩ := allocTargets_keeps ha
  have hrun2 := (congrArg Queue.run (congrFun (congrFun hqueue core) q)).trans hrun
  have hstart : c.startTargets { core := core, q := q } k src dst = (c2.modRun { core := core, q := q } (fun y => { y with
      state := 4, src := src, dst := dst, got := [] })).grantWait { core := core, q := q } k x.1 x.2.2 := by
    rw [hts] at ha
    simp only [Chip.startTargets, hts, ha, Bool.false_eq_true, if_false]
  obtain ⟨hkeep, -, hrest⟩ := of_runBarsRest (runBarsRest_grantWait (c2.modRun { core := core, q := q } (fun y => { y with
    state := 4, src := src, dst := dst, got := [] })) core q k x.1 x.2.2)
  have hmem' := (congrArg Chip.mem hrest).trans ((mem_modRun ..).trans hmem)
  rw [hstart]
  exact ⟨hkeep.trans (run_modRun hrun2 _), grantWait_state .., hmem'⟩

/-- R194: a command that waits is listed at its Turntable. -/
theorem awaitRoom_state (c : Chip) (l : Lane8) (cl : Nat) : (awaitRoom c l cl).cores = c.cores ∧ l.place cl ∈ (awaitRoom c l cl).scoreWaits := by
  unfold awaitRoom
  split
  · next h => exact ⟨rfl, by simpa using h⟩
  · exact ⟨rfl, List.mem_append_right _ (List.mem_singleton_self _)⟩

/-- R194: a command that has its targets waits at no Turntable. -/
theorem place_notMem_leaveWaits (c : Chip) (l : Lane8) (cl : Nat) : l.place cl ∉ (c.leaveWaits l).scoreWaits := by
  simp [Chip.leaveWaits, Lane8.place]

/-- R194, R205: the targets of a command taken, or waited for in the order of arrival. -/
theorem targetAllocation : TargetAllocation := by
  refine ⟨fun c l k src dst x hlater hroom => ?_, fun c l k src dst x xs hwait => ?_⟩
  · have hgo : ¬mustAwait c l [x] = true := by simp [mustAwait, hlater, hroom]
    obtain ⟨hscore, hbar⟩ := takeTarget_state l (targetEntry c l k src dst) (c.fromPeer l.core (c.drayTag l.core) src) c x
    have hmem := mem_of_rest (takeTarget_keeps l (targetEntry c l k src dst) (c.fromPeer l.core (c.drayTag l.core) src) c x)
    dsimp only
    rw [allocTargets_eq, if_neg hgo]
    exact ⟨rfl, hscore, hbar, place_notMem_leaveWaits _ l (clusterOf x.1), hmem⟩
  · have hgo : mustAwait c l (x :: xs) = true := by
      rw [mustAwait, Bool.or_eq_true, List.any_eq_true]
      simpa using hwait
    dsimp only
    rw [allocTargets_eq, if_pos hgo]
    obtain ⟨hcores, hplace⟩ := awaitRoom_state c l (clusterOf x.1)
    exact ⟨rfl, hcores, hplace⟩

/-! ### Starts -/

/-- R163, R168: the run of a command whose maps have been read. -/
theorem run_mapsRead {c c1 : Chip} {core q : Nat} {k : Cmd} {sb db : Option (List Byte)} (h : MapsRead c { core := core, q := q } k c1 sb db) :
    (c1.queue core q).run = some (Run.fresh k) := by
  obtain ⟨_, _, _, _, _, _, _, hrun⟩ := h
  exact hrun

/-- R168, R170: the first try of a command whose maps are read. -/
theorem firstTry_read {k : Cmd} {c c1 : Chip} {l : Lane8} {sb db : Option (List Byte)} (hc : k.cancelled = false) (ha : k.badAddress = none)
    (hop : k.op ∈ [0xD8, 0xD9, 0xDA, 0xDB, 0xDC]) (h1 : (mapsOf k).1.getD 0 % 64 = 0) (h2 : (mapsOf k).2.getD 0 % 64 = 0)
    (hread : MapsRead c l k c1 sb db) :
    (∀ n, n ∈ mapReasons c1 k sb db → (∀ m ∈ mapReasons c1 k sb db, n ≤ m) → firstTry c l k = .ok (c1.endEarly l 5 n))
      ∧ (mapReasons c1 k sb db = [] → firstTry c l k = .ok (c1.startTargets l k (sb.map TMap.ofBytes) (db.map TMap.ofBytes))) := by
  rw [firstTry_maps hc ha hop, startMaps_read h1 h2 hread]
  refine ⟨fun n hn hle => ?_, fun hnone => ?_⟩
  · rw [leastOf_eq_some hn hle]; rfl
  · rw [hnone]; rfl

/-- R161, R168, R170, R175: the head of a queue starts. -/
theorem commandStart : CommandStart := by
  intro s core q k
  dsimp only
  intro h
  have hfresh := run_triedIn s.chip core q k
  refine ⟨fun hc => ?_, fun a hc ha => ?_, fun hc hall hop hbad => ?_, fun c1 sb db hc hall hop h1 h2 hread => ?_⟩
  · exact ⟨_, _, exec_start h (if_pos hc), run_endEarly (run_modRun hfresh _) 1 0, rfl, rfl, by simp⟩
  · have htry := firstTry_badAddress hc ((badAddress_eq k).trans ha) (triedIn s.chip core q k) { core := core, q := q }
    exact ⟨_, _, exec_start h htry, run_modRun hfresh _, rfl, by simp⟩
  · have htry := (firstTry_maps hc (badAddress_none hall) hop ..).trans (startMaps_misaligned hbad (triedIn s.chip core q k) { core := core, q := q })
    exact ⟨_, _, exec_start h htry, run_endEarly hfresh 5 0x101, rfl, by simp⟩
  · have hrun := run_mapsRead hread
    obtain ⟨hreason, hgood⟩ := firstTry_read hc (badAddress_none hall) hop h1 h2 hread
    refine ⟨fun n hn hle => ?_, fun hnone ht => ?_, fun c2 hnone ht ha => ?_, fun c2 hnone ht ha => ?_⟩
    · exact ⟨_, _, exec_start h (hreason n hn hle), run_endEarly hrun 5 n, rfl, rfl, mem_endEarly ..⟩
    · have htry := (hgood hnone).trans (congrArg Except.ok (startTargets_memory ht ..))
      have hend : (begunRun k (sb.map TMap.ofBytes) (db.map TMap.ofBytes)).ending = if k.op = 0xD9 then some (0, 0, 0) else none := by
        simp only [begunRun, ht, and_true]
      exact ⟨_, _, exec_start h htry, run_beginRun hrun _ _, ⟨rfl, rfl, rfl, rfl, rfl, rfl, rfl, rfl⟩, hend, mem_modRun ..⟩
    · obtain ⟨hbegun, hmem⟩ := startTargets_allocated hrun ht ha
      have hend : (begunRun k (sb.map TMap.ofBytes) (db.map TMap.ofBytes)).ending = none := if_neg fun hop => ht hop.2
      exact ⟨_, _, exec_start h (hgood hnone), hbegun, ⟨rfl, rfl, rfl, rfl, rfl, rfl, rfl, rfl⟩, hend, hmem⟩
    · obtain ⟨hstate, hwait, hmem⟩ := startTargets_waits hrun ht ha
      exact ⟨_, _, exec_start h (hgood hnone), hstate, rfl, rfl, rfl, rfl, rfl, hmem, hwait⟩

end Sys2Proof.Proofs
end

section
/-! PROOF. The start of a DPROXY and of a DCOLL (O36). -/

namespace Sys2Proof.Proofs

open Sys2Proof Sys2Proof.Machine Sys2Proof.Claims

theorem badAddress_single {k : Cmd} (hop : k.op ∈ [0xDD, 0xDE]) (ha : canonical k.ka.toNat = true) : k.badAddress = none := by
  have hmem : k.op ∈ [0xD9, 0xDA, 0xDD, 0xDE] := List.mem_cons_of_mem _ (List.mem_cons_of_mem _ hop)
  exact badAddress_none (by simp [hmem, ha])

theorem proxies_endEarly (c : Chip) (l : Lane8) (st detail : Nat) : (c.endEarly l st detail).proxies = c.proxies := by
  have h := congrArg Chip.proxies (besideCores_endEarly c l st detail)
  exact h

/-! ### DPROXY -/

theorem firstTry_proxy {k : Cmd} (hc : k.cancelled = false) (hop : k.op = 0xDE) (ha : canonical k.ka.toNat = true) (c : Chip) (l : Lane8) :
    firstTry c l k = c.startProxy l k (Run.fresh k) := by
  have hbad : k.badAddress = none := badAddress_single (by simp [hop]) ha
  simp only [firstTry, hc, hbad, hop, Bool.false_eq_true, if_false, if_true]

theorem startProxy_misaligned {k : Cmd} (h : k.ka.toNat % 64 ≠ 0) (c : Chip) (l : Lane8) (r : Run) :
    c.startProxy l k r = .ok (c.endEarly l 5 0x101) := if_pos h

/-- R182: a shadow queue that is off. -/
theorem startProxy_off {c : Chip} {k : Cmd} (h : k.ka.toNat % 64 = 0) (hen : (aget Proxy.zero c.proxies (k.imm % 64)).en = false) (l : Lane8)
    (r : Run) : c.startProxy l k r = .ok (c.endEarly l 5 0x10A) := by
  simp only [Chip.startProxy, h, hen, ne_eq, not_true, if_false, Bool.not_false, if_true]

/-- R182: the entry read goes into the shadow queue. -/
theorem startProxy_read {c : Chip} {k : Cmd} {l : Lane8} {r : Run} {h : Haul} {bs : List MByte} (ha : k.ka.toNat % 64 = 0)
    (hen : (aget Proxy.zero c.proxies (k.imm % 64)).en = true)
    (hread : drayRead l k r.got (c.drayTag l.core) 0 k.ka.toNat 64 { c := c, elem := r.p, seen := [], stop := none } = (h, bs))
    (hstop : h.stop = none) :
    c.startProxy l k r = .ok (h.c.proxyPush l k (BitVec.ofNat 512 (natOfBytes (bs.map (fun b => b.1))))) := by
  simp only [Chip.startProxy, ha, hen, hread, hstop, ne_eq, not_true, if_false, Bool.not_true, Bool.false_eq_true]

/-- R182: the chip with an entry more in a shadow queue. -/
def pushed (c : Chip) (n : Nat) (entry : BitVec 512) : Chip :=
  { c with proxies := aput Proxy.zero c.proxies n { aget Proxy.zero c.proxies n with
      entries := (aget Proxy.zero c.proxies n).entries ++ [(c.time, entry)] } }

/-- R182: an entry for a shadow queue that has failed, that is full, and that has room. -/
theorem proxyPush_state {c : Chip} {core q : Nat} {r : Run} (hrun : (c.queue core q).run = some r) (k : Cmd) (entry : BitVec 512) :
    let p := aget Proxy.zero c.proxies (k.imm % 64)
    let o := c.proxyPush { core := core, q := q } k entry
    let p' := aget Proxy.zero o.proxies (k.imm % 64)
    (p.err = true → (o.queue core q).run = some { r with ending := some (2, p.why, 0) } ∧ p' = p)
      ∧ (p.err = false → 256 ≤ p.entries.length → (o.queue core q).run = some { r with state := 5 } ∧ p' = p)
      ∧ (p.err = false → p.entries.length < 256 → (o.queue core q).run = some { r with begun := true, ending := some (0, 0, 0) }
          ∧ p' = { p with entries := p.entries ++ [(c.time, entry)] }) := by
  intro p o p'
  have hmod (x : Chip) (f : Run → Run) : (x.modRun { core := core, q := q } f).proxies = x.proxies := by
    have h := congrArg Chip.proxies (besideCores_modRun x { core := core, q := q } f)
    exact h
  refine ⟨fun herr => ?_, fun herr hfull => ?_, fun herr hroom => ?_⟩
  · have ho : o = c.endEarly { core := core, q := q } 2 p.why := if_pos herr
    simp only [p', ho]
    exact ⟨run_endEarly hrun 2 _, congrArg (fun m => aget Proxy.zero m (k.imm % 64)) (proxies_endEarly ..)⟩
  · have ho : o = c.modRun { core := core, q := q } (fun r => { r with state := 5 }) :=
      (if_neg (by rw [herr]; exact Bool.false_ne_true)).trans (if_pos hfull)
    simp only [p', ho]
    exact ⟨run_modRun hrun _, congrArg (fun m => aget Proxy.zero m (k.imm % 64)) (hmod ..)⟩
  · have ho : o = (pushed c (k.imm % 64) entry).modRun { core := core, q := q } (fun r => { r with begun := true, ending := some (0, 0, 0) }) :=
      (if_neg (by rw [herr]; exact Bool.false_ne_true)).trans (if_neg (Nat.not_le.2 hroom))
    simp only [p', ho]
    refine ⟨run_modRun (c := pushed c (k.imm % 64) entry) hrun _, ?_⟩
    rw [hmod]
    exact aget_aput_same ..

/-! ### DCOLL -/

theorem firstTry_coll {k : Cmd} (hc : k.cancelled = false) (hop : k.op = 0xDD) (ha : canonical k.ka.toNat = true) (c : Chip) (l : Lane8) :
    firstTry c l k = c.startColl l k (Run.fresh k) := by
  have hbad : k.badAddress = none := badAddress_single (by simp [hop]) ha
  have hne : ¬k.op = 0xDE := by simp [hop]
  simp only [firstTry, hc, hbad, if_neg hne, if_pos hop, Bool.false_eq_true, if_false]

theorem startColl_misaligned {k : Cmd} (h : k.ka.toNat % 64 ≠ 0) (c : Chip) (l : Lane8) (r : Run) :
    c.startColl l k r = .ok (c.endEarly l 5 0x101) := if_pos h

section
variable {c : Chip} {l : Lane8} {k : Cmd} {h : Haul} {bs : List Byte}

/-- R170, R181: a bad descriptor. -/
theorem startColl_bad {why : Nat} (ha : k.ka.toNat % 64 = 0)
    (hread : readMap l k [] (c.drayTag l.core) k.ka.toNat 64 { c := c, elem := k.prog, seen := [], stop := none } = (h, bs)) (hstop : h.stop = none)
    (hbad : (Desc.ofBytes bs).bad bs = some why) : c.startColl l k (Run.fresh k) = .ok (h.c.endEarly l 5 why) := by
  have hread' : readMap l k (Run.fresh k).got (c.drayTag l.core) k.ka.toNat 64 { c := c, elem := (Run.fresh k).p, seen := [], stop := none } = (h, bs) :=
    hread
  rw [Chip.startColl, if_neg (not_not.2 ha)]
  -- named, so that the kernel compares their calls and does not evaluate them
  obtain ⟨bad, hb⟩ : ∃ f, f = Desc.bad := ⟨_, rfl⟩
  obtain ⟨rd, hr⟩ : ∃ f, f = readMap := ⟨_, rfl⟩
  obtain ⟨dr, hdr⟩ : ∃ f, f = drayRead := ⟨_, rfl⟩
  rw [← hb] at hbad ⊢
  rw [← hr] at hread' ⊢
  rw [← hdr]
  simp only [hread', hstop, hbad]

/-- R181, R396: a rank whose deadline counts, its ranks and source still to be read. -/
def toldChip (c : Chip) (l : Lane8) (k : Cmd) (d : Desc) : Chip := c.modRun l (fun x => { x with coll := some (d.run k []) })

theorem toldChip_eq {core q : Nat} (hrun : (c.queue core q).run = some (Run.fresh k)) (d : Desc) :
    c.modRun { core := core, q := q } (fun x => { x with coll := some { d.run k [] with passed := (x.coll.map (fun y => y.passed)).getD false } })
      = toldChip c { core := core, q := q } k d := by
  rw [toldChip, modRun_running hrun, modRun_running hrun]
  rfl

/-- R181: a good descriptor whose ranks name this device, and whose source is read: the rank joins. -/
theorem startColl_joins {core q : Nat} {h1 h2 : Haul} {rb : List Byte} {sb : List MByte} (ha : k.ka.toNat % 64 = 0)
    (hread : readMap { core := core, q := q } k [] (c.drayTag core) k.ka.toNat 64 { c := c, elem := k.prog, seen := [], stop := none } = (h, bs))
    (hstop : h.stop = none) (hrun : (h.c.queue core q).run = some (Run.fresh k)) {d : Desc} (hd : Desc.ofBytes bs = d) (hgood : d.bad bs = none)
    (hranks : readMap { core := core, q := q } k [] (c.drayTag core) d.ranks (4 * d.p) { h with c := toldChip h.c { core := core, q := q } k d }
      = (h1, rb)) (hstop1 : h1.stop = none) {devs : List Nat}
    (hdevs : (List.range d.p).map (fun i => fieldOf rb (4 * i) 4 % 2 ^ 22) = devs) (hself : devs.getD d.rank 0 = h1.c.priv.gwdev.toNat)
    (hsame : ∀ x, h1.c.coll (dw d.id) = some x → x.bad = false ∧ x.desc = d.pack)
    (halign : contribBytes d.pack d.rank ≠ 0 → d.src % fmtBytes d.fmt = 0)
    (hsrc : drayRead { core := core, q := q } k [] (c.drayTag core) 0 d.src (contribBytes d.pack d.rank) h1 = (h2, sb)) (hstop2 : h2.stop = none) :
    c.startColl { core := core, q := q } k (Run.fresh k) = .ok (h2.c.joinColl { core := core, q := q } k d devs sb) := by
  have htold := toldChip_eq hrun d
  have hread' : readMap { core := core, q := q } k (Run.fresh k).got (c.drayTag core) k.ka.toNat 64
    { c := c, elem := (Run.fresh k).p, seen := [], stop := none } = (h, bs) := hread
  have hranks' : readMap { core := core, q := q } k (Run.fresh k).got (c.drayTag core) d.ranks (4 * d.p)
    { h with c := toldChip h.c { core := core, q := q } k d, stop := none } = (h1, rb) := hstop ▸ hranks
  have hsrc' : drayRead { core := core, q := q } k (Run.fresh k).got (c.drayTag core) 0 d.src (contribBytes d.pack d.rank) h1 = (h2, sb) := hsrc
  have hsrc_bad : ¬(contribBytes d.pack d.rank ≠ 0 ∧ d.src % fmtBytes d.fmt ≠ 0) := fun hn => hn.2 (halign hn.1)
  have hself' : ¬(devs.getD d.rank 0 != h1.c.priv.gwdev.toNat) = true := by rw [hself]; simp
  rw [Chip.startColl, if_neg (not_not.2 ha)]
  -- named, so that the kernel compares their calls and does not evaluate them
  obtain ⟨bad, hb⟩ : ∃ f, f = Desc.bad := ⟨_, rfl⟩
  obtain ⟨rd, hr⟩ : ∃ f, f = readMap := ⟨_, rfl⟩
  obtain ⟨dr, hdr⟩ : ∃ f, f = drayRead := ⟨_, rfl⟩
  rw [← hb] at hgood ⊢
  rw [← hr] at hread' hranks' ⊢
  rw [← hdr] at hsrc' ⊢
  simp only [hread', hstop, hd, hgood, htold, hranks', hstop1, hdevs, if_neg hself', if_neg hsrc_bad, hsrc', hstop2]
  refine if_neg fun hdiff => ?_
  split at hdiff
  · cases hdiff
  · next x hx =>
    obtain ⟨hxbad, hxdesc⟩ := hsame x hx
    simp [hxbad, hxdesc] at hdiff

end

/-- The chip without the requests to peers that it has outstanding. -/
def offFabric (c : Chip) : Chip := { c with remotes := [], pieces := [], nextReq := 0 }

/-- R148: a contribution that leaves for a device is requests to it, and nothing else. -/
theorem offFabric_sendContribution (c : Chip) (l : Lane8) (k : Cmd) (id : DWord) (rank desc : Nat) (bs : List MByte) (dev : Nat) :
    offFabric (c.sendContribution l k id rank desc bs dev) = offFabric c := by
  unfold Chip.sendContribution
  exact foldl_keeps offFabric _ _ c fun _ _ _ h => h

/-- R148, R181: what a rank of a collective that is not known here sends and holds when it joins. -/
def contributed (c : Chip) (l : Lane8) (k : Cmd) (d : Desc) (devs : List Nat) (bs : List MByte) : Chip :=
  ((devs.eraseDups).filter (fun x => x != c.priv.gwdev.toNat)).foldl (fun (x : Chip) dev => x.sendContribution l k (dw d.id) d.rank d.pack bs dev)
    (c.contribute (dw d.id) d.rank d.pack 0 bs)

theorem offFabric_contributed {c : Chip} {d : Desc} (h : c.coll (dw d.id) = none) (l : Lane8) (k : Cmd) (devs : List Nat) (bs : List MByte) :
    offFabric (contributed c l k d devs bs)
      = offFabric { c with colls := c.colls ++ [{ id := dw d.id, desc := d.pack, bad := false, got := [(d.rank, bs)], ready := [] }] } := by
  unfold contributed
  refine (foldl_keeps offFabric _ _ _ fun x dev _ h => (offFabric_sendContribution ..).trans h).trans ?_
  simp only [Chip.contribute, h]

theorem queue_of_offFabric {c c' : Chip} (h : offFabric c' = offFabric c) (core q : Nat) : c'.queue core q = c.queue core q := by
  have hcores := congrArg Chip.cores h
  exact congrArg (fun m => aget Queue.zero (aget Core.zero m core).dray.queues q) hcores

/-- R181: the run of a rank that joins. -/
def joinedRun (k : Cmd) (d : Desc) (devs : List Nat) (x : Run) : Run :=
  { x with begun := true, state := 6, count := resultCount d.pack,
           coll := some { d.run k devs with passed := (x.coll.map (fun y => y.passed)).getD false } }

/-- R181, R392: a rank that has joined waits in STATE 6 for its result, and its contribution stands here. -/
theorem joinColl_state {c : Chip} {core q : Nat} {k : Cmd} {d : Desc} (hrun : (c.queue core q).run = some { Run.fresh k with coll := some (d.run k []) })
    (hnew : c.coll (dw d.id) = none) (devs : List Nat) (bs : List MByte) :
    let o := c.joinColl { core := core, q := q } k d devs bs
    (o.queue core q).run = some { Run.fresh k with begun := true, state := 6, count := resultCount d.pack, coll := some (d.run k devs) }
      ∧ (o.queue core q).wait.map (fun w => (w.on, w.state)) = some (dw d.id, 4)
      ∧ (∃ y ∈ o.colls, y.id = dw d.id ∧ y.desc = d.pack ∧ y.bad = false ∧ y.got = [(d.rank, bs)]) ∧ o.mem = c.mem := by
  intro o
  have hoff := offFabric_contributed hnew { core := core, q := q } k devs bs
  have hrun1 : ((contributed c { core := core, q := q } k d devs bs).queue core q).run = some { Run.fresh k with coll := some (d.run k []) } :=
    (congrArg Queue.run (queue_of_offFabric hoff core q)).trans hrun
  have hjoin := run_modRun hrun1 (joinedRun k d devs)
  have hrest := besideCores_modRun (contributed c { core := core, q := q } k d devs bs) { core := core, q := q } (joinedRun k d devs)
  have hcolls0 := congrArg Chip.colls hoff
  have hmem0 := congrArg Chip.mem hoff
  have hcolls : o.colls = _ := (congrArg Chip.colls hrest).trans hcolls0
  have hmem := congrArg Chip.mem hrest
  have hmine := List.mem_append_right c.colls (List.mem_singleton_self
    ({ id := dw d.id, desc := d.pack, bad := false, got := [(d.rank, bs)], ready := [] } : Coll))
  refine ⟨?_, ?_, ⟨_, Eq.mp (congrArg (_ ∈ ·) hcolls.symm) hmine, rfl, rfl, rfl, rfl⟩, Eq.trans hmem hmem0⟩
  · exact (congrArg Queue.run (queue_setQueue ..)).trans hjoin
  · exact congrArg (fun x : Queue => x.wait.map (fun w => (w.on, w.state))) (queue_setQueue ..)

/-! ### Starts -/

/-- R182: the head of a queue that is a DPROXY starts. -/
theorem proxyStarts {s : State} {core q : Nat} {k : Cmd} (hw : Waiting s.chip core q k) (hc : k.cancelled = false)
    (ha : canonical k.ka.toNat = true) (hop : k.op = 0xDE) (h64 : k.ka.toNat % 64 = 0) :
    let l : Lane8 := { core := core, q := q }
    let p (c : Chip) : Proxy := aget Proxy.zero c.proxies (k.imm % 64)
    let starts (P : Chip → Run → Prop) : Prop := ∃ t r, exec (.drayCommandStart core q) s = .next t ∧ runIn t core q = some r ∧ P t.chip r
    ((p s.chip).en = false → starts (fun _ r => r.ending = some (5, 0x10A, 0)))
    ∧ ∀ h bs, (p s.chip).en = true →
      drayRead l k [] (s.chip.drayTag core) 0 k.ka.toNat 64 { c := triedIn s.chip core q k, elem := k.prog, seen := [], stop := none } = (h, bs) →
      h.stop = none → runIn { s with chip := h.c } core q = some (Run.fresh k) →
      ((p h.c).err = true → starts (fun c r => r.ending = some (2, (p h.c).why, 0) ∧ p c = p h.c))
      ∧ ((p h.c).err = false → 256 ≤ (p h.c).entries.length → starts (fun c r => r.state = 5 ∧ r.ending = none ∧ p c = p h.c))
      ∧ ((p h.c).err = false → (p h.c).entries.length < 256 → starts (fun c r => r.ending = some (0, 0, 0)
          ∧ p c = { p h.c with entries := (p h.c).entries ++ [(h.c.time, BitVec.ofNat 512 (natOfBytes (bs.map (fun b => b.1))))] })) := by
  intro l p starts
  have hproxies : (triedIn s.chip core q k).proxies = s.chip.proxies := by
    have h := congrArg Chip.proxies (besideCores_triedIn s.chip core q k)
    exact h
  have htry := firstTry_proxy hc hop ha (triedIn s.chip core q k) l
  refine ⟨fun hen => ?_, fun h bs hen hread hstop hrun => ?_⟩
  · have hoff := startProxy_off h64 (by rw [hproxies]; exact hen) l (Run.fresh k)
    exact ⟨_, _, exec_start hw (htry.trans hoff), run_endEarly (run_triedIn ..) 5 0x10A, rfl⟩
  · have hpush := startProxy_read (r := Run.fresh k) h64 (by rw [hproxies]; exact hen) (by rw [drayTag_triedIn]; exact hread) hstop
    obtain ⟨herr, hfull, hroom⟩ := proxyPush_state (c := h.c) hrun k (BitVec.ofNat 512 (natOfBytes (bs.map (fun b => b.1))))
    refine ⟨fun he => ?_, fun he hn => ?_, fun he hn => ?_⟩
    · obtain ⟨hr, hp⟩ := herr he
      exact ⟨_, _, exec_start hw (htry.trans hpush), hr, rfl, hp⟩
    · obtain ⟨hr, hp⟩ := hfull he hn
      exact ⟨_, _, exec_start hw (htry.trans hpush), hr, rfl, rfl, hp⟩
    · obtain ⟨hr, hp⟩ := hroom he hn
      exact ⟨_, _, exec_start hw (htry.trans hpush), hr, rfl, hp⟩

/-- R181, R182: a DCOLL joins its collective, a DPROXY's entry goes into its shadow queue. -/
theorem otherStarts : OtherStarts := by
  intro s core q k l tag h0 starts hw hc ha
  have hfresh := run_triedIn s.chip core q k
  have htag := drayTag_triedIn s.chip core q k core
  refine ⟨fun hop h64 => ?_, fun h bs hop h64 hread hstop hrun => ?_, fun hop h64 => proxyStarts hw hc ha hop h64⟩
  · have htry : firstTry (triedIn s.chip core q k) l k = .ok ((triedIn s.chip core q k).endEarly l 5 0x101) := by
      rcases List.mem_cons.1 hop with hop | hop
      · exact (firstTry_coll hc hop ha ..).trans (startColl_misaligned h64 ..)
      · exact (firstTry_proxy hc (List.mem_singleton.1 hop) ha ..).trans (startProxy_misaligned h64 ..)
    exact ⟨_, _, exec_start hw htry, run_endEarly hfresh 5 0x101, rfl⟩
  · have htry := firstTry_coll hc hop ha (triedIn s.chip core q k) l
    have hread' : readMap l k [] ((triedIn s.chip core q k).drayTag core) k.ka.toNat 64 h0 = (h, bs) := by rw [htag]; exact hread
    intro d
    have hd : Desc.ofBytes bs = d := rfl
    clear_value d
    refine ⟨fun why hbad => ?_, ?_⟩
    · exact ⟨_, _, exec_start hw (htry.trans (startColl_bad h64 hread' hstop (hd ▸ hbad))), run_endEarly hrun 5 why, rfl, mem_endEarly ..⟩
    · intro h1 rb h2 sb hgood told devs n hranks hstop1 hself hsame halign hsrc hstop2 hrun2 hnew
      have hranks' : readMap l k [] ((triedIn s.chip core q k).drayTag core) d.ranks (4 * d.p) { h with c := told } = (h1, rb) := by
        rw [htag]; exact hranks
      have hsrc' : drayRead l k [] ((triedIn s.chip core q k).drayTag core) 0 d.src n h1 = (h2, sb) := by rw [htag]; exact hsrc
      have hdevs : (List.range d.p).map (fun i => fieldOf rb (4 * i) 4 % 2 ^ 22) = devs := rfl
      clear_value devs
      have hstart := startColl_joins h64 hread' hstop hrun hd hgood hranks' hstop1 hdevs hself hsame halign hsrc' hstop2
      have hexec : exec (.drayCommandStart core q) s = .next { s with chip := h2.c.joinColl l k d devs sb } := exec_start hw (htry.trans hstart)
      obtain ⟨hr, hwait, hcolls, hmem⟩ := joinColl_state (c := h2.c) hrun2 hnew devs sb
      exact ⟨_, _, hexec, hr, rfl, rfl, rfl, rfl, rfl, hwait, hcolls, hmem⟩

end Sys2Proof.Proofs
end

section
/-! PROOF. O36: the walks of a command, to memory and to banks. -/

namespace Sys2Proof.Proofs

open Sys2Proof Sys2Proof.Machine Sys2Proof.Claims

/-! ### Contexts of a Hansom -/

/-- The chip without the contexts of its Hansoms. -/
def offHansoms (c : Chip) : Chip := { c with hansoms := [] }

theorem offHansoms_takeHansom (c : Chip) (l : Lane8) (line : Nat) : offHansoms (c.takeHansom l line).1 = offHansoms c := by
  unfold Chip.takeHansom
  dsimp only
  split <;> split <;> rfl

theorem offHansoms_takeHansoms (l : Lane8) (lines : List Nat) (c : Chip) : offHansoms (c.takeHansoms l lines).1 = offHansoms c := by
  induction lines generalizing c with
  | nil => rfl
  | cons line lines ih => exact (ih _).trans (offHansoms_takeHansom c l line)

theorem queue_walkOver (c : Chip) (l : Lane8) (upto : Option Nat) (core q : Nat) : (c.walkOver l upto).queue core q = c.queue core q := by
  cases upto <;> rfl

theorem mem_walkOver (c : Chip) (l : Lane8) (upto : Option Nat) : (c.walkOver l upto).mem = c.mem := by
  cases upto <;> rfl

/-- R130: a walk's gang is that of its Dray, in the chip that it reads too. -/
theorem drayTag_walkingIn {c c1 : Chip} {l : Lane8} {k : Cmd} {r : Run} (h : WalkingIn c l k r c1) (n : Nat) : c1.drayTag n = c.drayTag n := by
  rcases h with ⟨-, -, rfl⟩ | ⟨-, m, -, htake⟩
  · rfl
  · have hoff := offHansoms_takeHansoms l (c.homesOf l.core (c.drayTag l.core) m.pol (lineParts (m.at r.fetchedTo) m.esize)) c
    rw [htake] at hoff
    have htag := congrArg (fun x : Chip => x.drayTag n) hoff
    exact htag

/-- R130: a walk that needs no context or holds all of its contexts goes on. -/
theorem withHansom_walkingIn {c c1 : Chip} {l : Lane8} {k : Cmd} {r : Run} (h : WalkingIn c l k r c1) (go : Chip → Except Nat Chip) :
    c.withHansom l k r go = go c1 := by
  unfold Chip.withHansom
  rcases h with ⟨h8, h9, rfl⟩ | ⟨hop, m, hsrc, htake⟩
  · rw [if_neg (not_or.2 ⟨h8, h9⟩)]
  · simp only [if_pos hop, hsrc, htake, if_true]

/-! ### A walk that writes memory -/

/-- R167: progress moves to where the writes stand, once nothing that it counts on is unanswered. -/
theorem settleProgress_state {c : Chip} {core q : Nat} {r : Run} (hrun : (c.queue core q).run = some r) (hprog : (c.queue core q).prog = r.p)
    (ht : r.targets = []) :
    let o := c.settleProgress { core := core, q := q }
    let p := if c.queueOwes { core := core, q := q } then r.p else max r.p r.upto
    (o.queue core q).run = some { r with p := p } ∧ (o.queue core q).prog = p ∧ o.mem = c.mem := by
  intro o p
  by_cases howes : c.queueOwes { core := core, q := q } = true
  · have ho : o = c := if_pos howes
    have hp : p = r.p := if_pos howes
    rw [ho, hp]
    exact ⟨hrun, hprog, rfl⟩
  · have ho : o = c.modRun { core := core, q := q } _ := if_neg howes
    have hp : p = max r.p r.upto := if_neg howes
    rw [ho, run_modRun hrun, prog_modRun hrun, hp, if_pos ht]
    exact ⟨rfl, rfl, mem_modRun ..⟩

@[simp] theorem queueOwes_modRun (c : Chip) (l l' : Lane8) (f : Run → Run) : (c.modRun l f).queueOwes l' = c.queueOwes l' := by
  have howes := congrArg (fun x : Chip => x.queueOwes l') (besideCores_modRun c l f)
  exact howes

/-- R130, R304: the run after a walk that wrote the pieces `ws` of lines up to element `n`. -/
def wroteRun (n : Nat) (ws : List LineW) (x : Run) : Run :=
  { x with upto := n, got := [], wrote := ws.foldl (fun y w => addWrote y w.line w.mask) x.wrote }

/-- R130, R304: a walk that nothing stops and no race disturbs. -/
theorem memoryWalk_ok {c : Chip} {l : Lane8} {k : Cmd} {r : Run} {h : Haul} {n : Nat} {ws : List LineW}
    (hwalk : walkElems l k r (c.drayTag l.core) r.upto 8192 r.upto [] { c := c, elem := r.upto, seen := [], stop := none } = (h, n, ws))
    (hstop : h.stop = none) (hrace : (flushLines l k (c.drayTag l.core) ((r.dst.map (fun m => m.pol)).getD 0) ws h.c).2 = none) :
    c.memoryWalk l k r
      = .ok ((((flushLines l k (c.drayTag l.core) ((r.dst.map (fun m => m.pol)).getD 0) ws h.c).1.modRun l (wroteRun n ws)).settleProgress l).walkOver l none) := by
  have hfuel : walkFuel = 8192 := rfl
  unfold Chip.memoryWalk
  rw [hfuel]
  simp only [hwalk, hstop, hrace]
  rfl

/-- R130, R167: what a walk that writes memory leaves. -/
theorem memoryWalk_state {c : Chip} {core q n : Nat} {r : Run} (hrun : (c.queue core q).run = some r) (ht : r.targets = []) (ws : List LineW) :
    let l : Lane8 := { core := core, q := q }
    let o := ((c.modRun l (wroteRun n ws)).settleProgress l).walkOver l none
    let p := if c.queueOwes l then r.p else max r.p n
    (o.queue core q).run = some { wroteRun n ws r with p := p } ∧ o.mem = c.mem ∧ (o.queue core q).prog = p := by
  intro l o p
  obtain ⟨hrun', hprog, hmem⟩ := settleProgress_state (run_modRun hrun (wroteRun n ws)) (prog_modRun hrun (wroteRun n ws)) ht
  rw [queueOwes_modRun] at hrun' hprog
  refine ⟨?_, (mem_walkOver ..).trans (hmem.trans (mem_modRun ..)), ?_⟩
  · exact (congrArg Queue.run (queue_walkOver ..)).trans hrun'
  · exact (congrArg Queue.prog (queue_walkOver ..)).trans hprog

/-! ### A walk whose bytes are for banks -/

/-- R130, R131: the run after a walk that fetched `bs`, part of it at the peers `via`. -/
def fetchedRun (bs : List MByte) (via : List (Nat × Nat)) (x : Run) : Run :=
  { x with fetched := x.fetched ++ bs, got := [], via := via ++ x.via }

/-- R205: the targets' barriers as a walk that reads at a peer leaves them. -/
def shownFrom (l : Lane8) (r : Run) (c : Chip) : Chip :=
  if c.remotes.any (fun q => q.who == .drayQueue l.core l.q && q.dst != 2 ^ 22) then
    r.targets.foldl (fun (x : Chip) t => x.setBar (.core t.core t.barrier) ((x.bar (.core t.core t.barrier)).fromPeer l)) c
  else c

theorem queuesAndRest_shownFrom (l : Lane8) (r : Run) (c : Chip) : queuesAndRest (shownFrom l r c) = queuesAndRest c := by
  unfold shownFrom
  split
  · exact foldl_keeps queuesAndRest _ _ _ fun x t _ h => (queuesAndRest_setBar ..).trans h
  · rfl

/-- R130, R131: a walk that nothing stops. -/
theorem bankWalk_ok {c : Chip} {l : Lane8} {k : Cmd} {r : Run} {h : Haul} {bs : List MByte}
    (hfetch : fetchElems l k r (c.drayTag l.core) r.fetchedTo 8192 r.fetchedTo
      { c := c, elem := r.fetchedTo, seen := [], stop := none, multi := k.op = 0xD9 } = (h, bs)) (hstop : h.stop = none) :
    let bs' := bs.drop (r.fetchedByte - r.fetchedTo * r.esize)
    c.bankWalk l k r = .ok ((shownFrom l r (h.c.modRun l (fetchedRun bs' h.via))).walkOver l
      (if bs' = [] then none else some (r.fetchedByte + bs'.length))) := by
  have hfuel : walkFuel = 8192 := rfl
  unfold Chip.bankWalk
  rw [hfuel]
  simp only [hfetch, hstop]
  rfl

/-- R130: what a walk whose bytes are for banks leaves. -/
theorem bankWalk_state {c : Chip} {core q : Nat} {r : Run} (hrun : (c.queue core q).run = some r) (bs : List MByte) (via : List (Nat × Nat))
    (upto : Option Nat) :
    let l : Lane8 := { core := core, q := q }
    let o := (shownFrom l r (c.modRun l (fetchedRun bs via))).walkOver l upto
    (o.queue core q).run = some (fetchedRun bs via r) ∧ o.mem = c.mem := by
  intro l o
  have hrest := queuesAndRest_shownFrom l r (c.modRun l (fetchedRun bs via))
  refine ⟨?_, (mem_walkOver ..).trans ((mem_of_rest hrest).trans (mem_modRun ..))⟩
  rw [queue_walkOver, queue_of_rest hrest]
  exact run_modRun hrun _

/-! ### Walks -/

/-- R130, R167: HANSOM_WALK_START on a queue whose command may walk. -/
theorem exec_hansomWalkStart {s : State} {core q : Nat} {k : Cmd} {r : Run} {c1 c' : Chip} (hon : DrayOn s.chip core)
    (hrun : Running s.chip core q k r) (hcan : r.canWalk = true) (hquiet : HostQuiet s.chip core q)
    (hin : WalkingIn s.chip { core := core, q := q } k r c1) (hop : k.op ∉ [0xD9, 0xDD, 0xDE])
    (howes : r.targets = [] → s.chip.queueOwes { core := core, q := q } = false)
    (hwalk : (if r.targets = [] then c1.memoryWalk { core := core, q := q } k r else c1.bankWalk { core := core, q := q } k r) = .ok c') :
    exec (.hansomWalkStart core q) s = .next { s with chip := c' } := by
  change execHansomWalkStart core q s = _
  refine runChipE_ok ?_
  simp only [hostDone_quiet hquiet, runOf_running hrun, hcan, drayOn_of hon]
  rw [if_neg, withHansom_walkingIn hin]
  · exact hwalk
  · simp only [List.mem_cons, List.not_mem_nil, or_false, not_or] at hop
    obtain ⟨h9, hd, he⟩ := hop
    by_cases ht : r.targets = []
    · simp [h9, hd, he, ht, howes ht]
    · simp [h9, hd, he, ht]

/-- R132: MULTICAST_READ on a queue whose DMCAST may walk. -/
theorem exec_multicastRead {s : State} {core q : Nat} {k : Cmd} {r : Run} {c1 c' : Chip} (hon : DrayOn s.chip core)
    (hrun : Running s.chip core q k r) (hcan : r.canWalk = true) (hquiet : HostQuiet s.chip core q)
    (hin : WalkingIn s.chip { core := core, q := q } k r c1) (hop : k.op = 0xD9)
    (hwalk : c1.bankWalk { core := core, q := q } k r = .ok c') :
    exec (.multicastRead core q) s = .next { s with chip := c' } := by
  change execMulticastRead core q s = _
  refine runChipE_ok ?_
  simp only [hostDone_quiet hquiet, runOf_running hrun, hcan, drayOn_of hon]
  rw [if_neg (by simp [hop]), withHansom_walkingIn hin]
  exact hwalk

/-- R130, R132: a walk of a bank-bound command, by HANSOM_WALK_START or for a DMCAST by MULTICAST_READ. -/
theorem exec_bankWalk {s : State} {core q : Nat} {k : Cmd} {r : Run} {c1 c' : Chip} {x : Instr} (hon : DrayOn s.chip core)
    (hrun : Running s.chip core q k r) (hcan : r.canWalk = true) (hquiet : HostQuiet s.chip core q)
    (hin : WalkingIn s.chip { core := core, q := q } k r c1) (ht : r.targets ≠ [])
    (hx : (x = .multicastRead core q ∧ k.op = 0xD9) ∨ (x = .hansomWalkStart core q ∧ k.op ∉ [0xD9, 0xDD, 0xDE]))
    (hwalk : c1.bankWalk { core := core, q := q } k r = .ok c') : exec x s = .next { s with chip := c' } := by
  rcases hx with ⟨rfl, hop⟩ | ⟨rfl, hop⟩
  · exact exec_multicastRead hon hrun hcan hquiet hin hop hwalk
  · exact exec_hansomWalkStart hon hrun hcan hquiet hin hop (fun h => absurd h ht) ((if_neg ht).trans hwalk)

/-- R130, R167: a command's walk writes its lines to memory, or leaves its bytes to wait for a grant. -/
theorem commandWalks : CommandWalks := by
  intro s core q k r c1 l tag haul hon hrun hcan hquiet hin
  have htag : c1.drayTag l.core = tag := drayTag_walkingIn hin core
  refine ⟨?_, ?_⟩
  · intro h n ws hop ht howes hwalk hstop o hrace hafter
    have hto : r.fetchedTo = r.upto := if_pos ht
    have hmulti : decide (k.op = 0xD9) = false := decide_eq_false fun h => hop (h ▸ List.mem_cons_self)
    have hhaul : haul = { c := c1, elem := r.upto, seen := [], stop := none } := by simp only [haul, hto, hmulti]
    rw [hhaul, ← htag] at hwalk
    have hok := memoryWalk_ok hwalk hstop (htag ▸ hrace)
    rw [htag] at hok
    obtain ⟨hrun', hmem, hprog⟩ := memoryWalk_state (n := n) hafter ht ws
    exact ⟨_, _, exec_hansomWalkStart hon hrun hcan hquiet hin hop (fun _ => howes) ((if_pos ht).trans hok), hrun', rfl, rfl, rfl, rfl, rfl,
      hmem, hprog⟩
  · intro x h bs hx ht hfetch hstop hafter
    rw [← htag] at hfetch
    have hafterwards := bankWalk_state hafter (bs.drop (r.fetchedByte - r.fetchedTo * r.esize)) h.via
    exact ⟨_, _, exec_bankWalk hon hrun hcan hquiet hin ht hx (bankWalk_ok hfetch hstop), (hafterwards _).1, rfl, rfl, rfl, rfl, (hafterwards _).2⟩

/-- Settles O36, part by part: a start, the allocation of targets, the starts of the other commands, and the walks. -/
theorem commandProgress : Obligations.CommandProgress := ⟨commandStart, targetAllocation, otherStarts, commandWalks⟩

end Sys2Proof.Proofs
end

section
/-! PROOF. Fabric links (O46): a flit received, the replay of what stands unacknowledged, a link that goes down, a link trained. Flows that move to
another port change of a link its numbering and its replay buffer alone. -/

namespace Sys2Proof.Proofs

open Sys2Proof Sys2Proof.Machine Sys2Proof.Claims

/-! ### What packets sent again leave -/

theorem link_setLink (c : Chip) (n m : Nat) (l : Link) : (c.setLink n l).link m = if m = n then l else c.link m := by
  simp [Chip.link, Chip.setLink, aget_aput]

@[simp] theorem link_setLink_same (c : Chip) (n : Nat) (l : Link) : (c.setLink n l).link n = l := by simp [link_setLink]

/-- R136, R147: what sending changes of no link, beside memory: everything but its numbering and its replay buffer. -/
def steadyLinks (c : Chip) : (Nat → Link) × AMap Byte := (fun n => { c.link n with sendSeq := 0, buffer := [] }, c.mem)

theorem steadyLinks_onLink (c : Chip) (p : OutPacket) : steadyLinks (c.onLink p) = steadyLinks c := by
  unfold Chip.onLink
  split
  · rfl
  · rename_i n _
    dsimp only
    split
    · rfl
    · refine Prod.ext (funext fun m => ?_) rfl
      show { Chip.link (c.setLink n _) m with sendSeq := 0, buffer := [] } = _
      rw [link_setLink]
      split
      · subst m; rfl
      · rfl

theorem steadyLinks_resend (c : Chip) (k : Nat) (f : OutFlow) (pick : OutPacket → Bool) : steadyLinks (c.resend k f pick) = steadyLinks c :=
  (foldl_keeps steadyLinks _ _ _ fun x p _ h => (steadyLinks_onLink x p).trans h).trans rfl

/-- R137: flows that move leave of every link all but its numbering and its replay buffer. -/
theorem steadyLinks_reroute (c : Chip) : steadyLinks c.reroute = steadyLinks c :=
  foldl_keeps steadyLinks _ _ _ fun x p _ h => by
    split
    · exact h
    · split
      · exact h
      · exact (steadyLinks_resend ..).trans h

/-- R136, R147: of a link set before flows move: its state, its width and its counts, and memory. -/
theorem reroute_setLink (c : Chip) (port : Nat) (l : Link) :
    ∃ q b, ((c.setLink port l).reroute.link port) = { l with sendSeq := q, buffer := b } ∧ (c.setLink port l).reroute.mem = c.mem := by
  have h := steadyLinks_reroute (c.setLink port l)
  have hlink := congrFun (congrArg Prod.fst h) port
  dsimp only [steadyLinks] at hlink
  rw [link_setLink_same] at hlink
  generalize hx : (c.setLink port l).reroute.link port = x at hlink
  refine ⟨x.sendSeq, x.buffer, ?_, congrArg Prod.snd h⟩
  cases x; cases l; simpa using hlink

/-- R136, R147: a link that goes down trains again; its downs are counted, its replays stand. -/
theorem linkDown_down (c : Chip) (port : Nat) :
    ((c.linkDown port).link port).up = false ∧ ((c.linkDown port).link port).training = true
    ∧ ((c.linkDown port).link port).downs = (c.link port).downs + 1 ∧ ((c.linkDown port).link port).replays = (c.link port).replays
    ∧ (c.linkDown port).mem = c.mem := by
  obtain ⟨q, b, hlink, hmem⟩ := reroute_setLink c port { c.link port with
    up := false, width := 0, canonical := false, downs := (c.link port).downs + 1, buffer := [], training := true }
  simp only [Chip.linkDown, hlink, hmem, and_self]

/-! ### The steps of a link -/

section
variable {s : State} {port : Nat} (hr : s.chip.running = true)
include hr

/-- R136: a good flit acknowledges. -/
theorem flitReceive_good {f : Flit} (hup : (s.chip.link port).up = true) (hf : f.good = true) :
    exec (.flitReceive port f) s = .next { s with chip := s.chip.setLink port { s.chip.link port with
      buffer := (s.chip.link port).buffer.filter (fun x => f.ack ≤ x.1),
      recvSeq := if f.seq = (s.chip.link port).recvSeq then (s.chip.link port).recvSeq + 1 else (s.chip.link port).recvSeq } } := by
  show execFlitReceive port f s = _
  simp [execFlitReceive, runChip, hr, hup, hf]

omit hr in
/-- R136: a flit that fails its check, or that a link which is down brings, is discarded. -/
theorem flitReceive_discarded {f : Flit} (h : f.good = false ∨ (s.chip.link port).up = false) : exec (.flitReceive port f) s = .next s := by
  have hg : (!s.chip.running || !(s.chip.link port).up || !f.good) = true := by
    obtain h | h := h <;> simp [h]
  show execFlitReceive port f s = _
  simp only [execFlitReceive, runChip, hg, if_true]

/-- R136: a link all of whose unacknowledged flits are sent again at a time. -/
def replayed (l : Link) (now : Nat) : Link :=
  { l with replays := l.replays + l.buffer.length, buffer := l.buffer.map (fun y => (y.1, now, y.2.2 + 1)) }

/-- R136: what stands unacknowledged for 2 us is sent again; a flit's sixteenth replay takes the link down. -/
theorem flitReplayTimeout_replays {x : Nat × Nat × Nat} {xs : List (Nat × Nat × Nat)} (hup : (s.chip.link port).up = true)
    (hb : (s.chip.link port).buffer = x :: xs) (ht : x.2.1 + 2000 ≤ s.chip.time) :
    exec (.flitReplayTimeout port) s = .next { s with
      chip := if (replayed (s.chip.link port) s.chip.time).buffer.any (fun y => 16 ≤ y.2.2)
        then (s.chip.setLink port (replayed (s.chip.link port) s.chip.time)).linkDown port
        else s.chip.setLink port (replayed (s.chip.link port) s.chip.time) } := by
  have hg : (!s.chip.running || !(s.chip.link port).up || decide (s.chip.time < x.2.1 + 2000)) = false := by
    simp [hr, hup, ht]
  show execFlitReplayTimeout port s = _
  simp only [execFlitReplayTimeout, runChip]
  split
  · rename_i hnil
    cases hnil.symm.trans hb
  · rename_i y ys hy
    obtain ⟨rfl, -⟩ := List.cons.inj (hy.symm.trans hb)
    simp only [hg, Bool.false_eq_true, if_false]
    rfl

/-- R136, R147: a link that its training has brought up. -/
def broughtUp (l : Link) (width : BitVec 2) : Link :=
  { l with up := true, width := width.toNat, sendSeq := 0, recvSeq := 0, buffer := [], training := false }

/-- R136, R137: a link that is down is trained with four lanes or two, or stays down. -/
theorem linkRetrain_trains {width : BitVec 2} (hp : port < 32) (hup : (s.chip.link port).up = false) :
    exec (.linkRetrain port width) s = .next { s with
      chip := if width = 1#2 ∨ width = 2#2 then (s.chip.setLink port (broughtUp (s.chip.link port) width)).reroute
        else s.chip.setLink port { s.chip.link port with training := false } } := by
  show execLinkRetrain port width s = _
  simp [execLinkRetrain, runChip, hr, hup, Nat.not_le.2 hp, broughtUp]

end

/-- Settles O46: flits, their replay, and the training of a link. -/
theorem linkSteps : Obligations.LinkSteps := by
  intro s port hr l
  refine ⟨fun f hup hf => flitReceive_good hr hup hf, fun f h => flitReceive_discarded h, fun x xs hup hb ht => ?_, fun width hp hup => ?_⟩
  · have hexec := flitReplayTimeout_replays hr hup hb ht
    have hany : (replayed l s.chip.time).buffer.any (fun y => 16 ≤ y.2.2) = l.buffer.any (fun y => 16 ≤ y.2.2 + 1) := List.any_map
    refine ⟨fun hfew => ?_, fun hmany => ?_⟩
    · have hno : l.buffer.any (fun y => 16 ≤ y.2.2 + 1) = false :=
        List.any_eq_false.2 fun y hy => by have := hfew y hy; simp; omega
      rwa [hany, hno, if_neg Bool.false_ne_true] at hexec
    · obtain ⟨y, hy, hy16⟩ := hmany
      have hyes : l.buffer.any (fun y => 16 ≤ y.2.2 + 1) = true := List.any_eq_true.2 ⟨y, hy, decide_eq_true hy16⟩
      rw [hany, if_pos hyes] at hexec
      obtain ⟨hdown, htrain, hdowns, hreplays, hmem⟩ := linkDown_down (s.chip.setLink port (replayed l s.chip.time)) port
      rw [link_setLink_same] at hdowns hreplays
      exact ⟨_, hexec, hdown, htrain, hdowns, hreplays, hmem⟩
  · have hexec := linkRetrain_trains (width := width) hr hp hup
    refine ⟨fun hw => ?_, fun hw => ?_⟩
    · rw [if_pos hw] at hexec
      obtain ⟨q, b, hlink, hmem⟩ := reroute_setLink s.chip port (broughtUp l width)
      exact ⟨_, hexec, congrArg Link.up hlink, congrArg Link.width hlink, (congrArg Link.downs hlink :), (congrArg Link.replays hlink :), hmem⟩
    · rw [if_neg (by rcases hw with rfl | rfl <;> decide)] at hexec
      exact hexec

end Sys2Proof.Proofs
end

section
/-! PROOF. Flows (O47): packets delivered in order, held ahead of a gap, acknowledged again, sent again; what the answer of a peer brings its
initiator. -/

namespace Sys2Proof.Proofs

open Sys2Proof Sys2Proof.Machine Sys2Proof.Claims

/-! ### What lines leave of the requests outstanding -/

theorem remotes_homeWrite (c : Chip) (line : Nat) (mask : BitVec 64) (d : BitVec 512) (pois : Bool) (cid : Option DWord) :
    (c.homeWrite line mask d pois cid).remotes = c.remotes := by
  unfold Chip.homeWrite
  dsimp only
  split
  · rfl
  · split
    · rfl
    · split
      · split
        · rfl
        · obtain ⟨u, t, h⟩ := emitUnit_changes _ 0 0x28 _ cid
          rw [h]; rfl
      · rfl

theorem remotes_writeBack (c : Chip) (core : Nat) (e : L1Line) : (c.writeBack core e).remotes = c.remotes := by
  unfold Chip.writeBack
  dsimp only
  split
  · rfl
  · rw [remotes_homeWrite]
    exact (congrArg Chip.remotes (sliceWrite_keeps _ none e.line e.pol (e.dirty == BitVec.allOnes 64)) :)

theorem remotes_filterFill (c : Chip) (core line : Nat) : (c.filterFill core line).remotes = c.remotes := by
  unfold Chip.filterFill
  dsimp only
  split
  · rfl
  · split
    · rfl
    · split <;> rfl

theorem remotes_l1For (c : Chip) (core line tag : Nat) : (c.l1For core line tag).remotes = c.remotes := by
  unfold Chip.l1For
  split
  · rfl
  · unfold Chip.l1Room
    dsimp only
    split
    · rfl
    · split
      · rfl
      · split
        · rfl
        · exact remotes_writeBack ..

/-- What neither memory's accesses nor requests have changed. -/
def AtRest (c c' : Chip) : Prop := work c' = work c ∧ c'.remotes = c.remotes

theorem atRest_refl (c : Chip) : AtRest c c := ⟨rfl, rfl⟩

theorem AtRest.trans {a b c : Chip} (h : AtRest a b) (h' : AtRest b c) : AtRest a c := ⟨h'.1.trans h.1, h'.2.trans h.2⟩

/-- R222: a line that has come fills an L1. -/
theorem atRest_fillLine (c : Chip) (core tag line : Nat) (d : BitVec 512) (pois priv : Bool) (pol : Nat) :
    AtRest c (c.fillLine core tag line d pois priv pol) :=
  ⟨(work_l1Put ..).trans ((work_filterFill ..).trans (work_l1For ..)), (remotes_filterFill ..).trans (remotes_l1For ..)⟩

theorem atRest_l1Late (c : Chip) (core tag line : Nat) (mask : BitVec 64) (d : BitVec 512) : AtRest c (c.l1Late core tag line mask d) := by
  unfold Chip.l1Late
  split
  · exact atRest_refl c
  · exact ⟨work_l1Put .., rfl⟩

theorem atRest_orEntry (c : Chip) (at_ bit : Nat) : AtRest c (c.orEntry at_ bit) := by
  refine ⟨work_orEntry .., ?_⟩
  unfold Chip.orEntry
  split <;> rfl

theorem atRest_dirtied (c : Chip) (core tag va : Nat) (m : BitVec 64) : AtRest c (c.dirtied core tag va m) := by
  unfold Chip.dirtied
  split
  · exact atRest_refl c
  · split
    · exact atRest_orEntry ..
    · split
      · exact atRest_refl c
      · split
        · exact atRest_refl c
        · exact atRest_orEntry ..

theorem atRest_fillPeer (c : Chip) (r : Remote) (bs : List Byte) (marked : Bool) : AtRest c (c.fillPeer r bs marked) := by
  unfold Chip.fillPeer
  extract_lets fill
  have hfill (core : Nat) : AtRest c (fill core) := by
    dsimp only [fill]
    split
    · exact atRest_fillLine ..
    · exact atRest_refl c
  split
  · exact hfill _
  · exact hfill _
  · exact hfill _
  · exact atRest_refl c
  · exact atRest_refl c
  · exact atRest_refl c

theorem atRest_peerAtomic (c : Chip) (r : Remote) (old : Nat) : AtRest c (c.peerAtomic r old) := by
  have hset (core : Nat) : AtRest c (if old = 0 then c.dirtied core r.tag r.va 1 else c) := by
    split
    · exact atRest_dirtied ..
    · exact atRest_refl c
  unfold Chip.peerAtomic
  dsimp only
  split
  · exact atRest_l1Late ..
  · exact iteInduction (fun _ => (atRest_l1Late ..).trans (atRest_dirtied ..)) fun _ => atRest_l1Late ..
  · exact hset _
  · exact hset _
  · exact hset _
  · exact atRest_refl c

/-! ### An answer -/

/-- R143: what the answer to an operation's request leaves before the operation has it. -/
def answerTaken (c : Chip) (r : Remote) (bs : List Byte) (marked : Bool) : Chip :=
  ((c.dropRemote r.id).fillPeer r bs marked).peerAtomic r (natOfBytes bs)

theorem atRest_answerTaken (c : Chip) (r : Remote) (bs : List Byte) (marked : Bool) :
    AtRest (c.dropRemote r.id) (answerTaken c r bs marked) := (atRest_fillPeer ..).trans (atRest_peerAtomic ..)

/-- R143: a read but of a whole line, a write and an arrival bring the initiator's device nothing but their answer. -/
theorem answerTaken_plain {r : Remote} (hk : (∃ n, n ≠ 64 ∧ r.kind = .read n) ∨ (∃ bs m, r.kind = .write bs m) ∨ ∃ x y z, r.kind = .arrive x y z)
    (c : Chip) (bs : List Byte) (marked : Bool) : answerTaken c r bs marked = c.dropRemote r.id := by
  have hline : r.kind ≠ .read 64 ∧ r.kind ≠ .prefetch := by
    obtain ⟨n, hn, h⟩ | ⟨_, _, h⟩ | ⟨_, _, _, h⟩ := hk <;> simp [h]
    exact hn
  have hfill (x : Chip) : x.fillPeer r bs marked = x := by
    unfold Chip.fillPeer
    cases r.who <;> simp [hline.1, hline.2]
  have hatomic (x : Chip) : x.peerAtomic r (natOfBytes bs) = x := by
    unfold Chip.peerAtomic
    obtain ⟨n, -, h⟩ | ⟨_, _, h⟩ | ⟨_, _, _, h⟩ := hk <;> cases r.who <;> simp [h]
  rw [answerTaken, hfill, hatomic]

theorem answered_id (o : Op) (r : Remote) (v : Nat) (marked : Bool) : (o.answered r v marked).id = o.id := by
  unfold Op.answered
  split <;> rfl

theorem noOps_unhold (c : Chip) (id : Nat) : noOps (c.unhold id) = noOps c := by
  unfold Chip.unhold
  split <;> rfl

/-- R43: an operation that waits no longer keeps what it will write. -/
theorem unhold_ops (c : Chip) (id : Nat) {o : Op} (ho : o ∈ c.ops) (hid : o.id = id) :
    ∃ o' ∈ (c.unhold id).ops, o'.id = id ∧ o'.writes = o.writes := by
  unfold Chip.unhold
  split
  · exact ⟨o, ho, hid, rfl⟩
  · exact ⟨{ o with hold := false }, List.mem_map.2 ⟨o, ho, if_pos hid⟩, hid, rfl⟩

/-- R143: an answer to an operation's request: the request leaves, and the operation has the answer. -/
theorem completeRemote_answers {c : Chip} {r : Remote} {id : Nat} (hid : r.op = some id) (hrel : isRelease r.kind = false) (bs : List Byte)
    (marked : Bool) :
    noOps (c.completeRemote r bs marked) = noOps (answerTaken c r bs marked)
    ∧ ∀ o ∈ c.ops, o.id = id → ∃ o' ∈ (c.completeRemote r bs marked).ops, o'.id = id ∧ o'.writes = (o.answered r (natOfBytes bs) marked).writes := by
  have hops : (answerTaken c r bs marked).ops = c.ops := (work_ops (atRest_answerTaken c r bs marked).1).trans rfl
  have heq : c.completeRemote r bs marked
      = ((answerTaken c r bs marked).modOp id (fun o => o.answered r (natOfBytes bs) marked)).unhold id := by
    unfold Chip.completeRemote
    simp only [hid, hrel, Bool.false_eq_true, if_false]
    rfl
  rw [heq]
  refine ⟨(noOps_unhold ..).trans rfl, fun o ho hoid => ?_⟩
  refine unhold_ops _ id (o := o.answered r (natOfBytes bs) marked) ?_ ((answered_id ..).trans hoid)
  exact List.mem_map.2 ⟨o, hops ▸ ho, if_pos hoid⟩

end Sys2Proof.Proofs
end

section
/-! PROOF. Flow order (O47): the packets of a flow as they come, the answer they bring, and what is sent again. -/

namespace Sys2Proof.Proofs

open Sys2Proof Sys2Proof.Machine Sys2Proof.Claims

/-! ### Flows -/

theorem inFlow_setIn (c : Chip) (k : Nat) (f : InFlow) : (c.setIn k f).inFlow k = f := aget_aput_same ..

theorem outFlow_setOut (c : Chip) (k : Nat) (f : OutFlow) : (c.setOut k f).outFlow k = f := aget_aput_same ..

/-- A chip without what a packet given to a link changes: links, and what leaves on them. -/
def offLinks (c : Chip) : Chip := { c with links := [], fabricOut := [] }

theorem offLinks_onLink (c : Chip) (p : OutPacket) : offLinks (c.onLink p) = offLinks c := by
  unfold Chip.onLink
  split
  · rfl
  · dsimp only
    split <;> rfl

/-- R138: a bare acknowledgement changes links alone. -/
theorem offLinks_sendAck (c : Chip) (dst cls tag : Nat) (cid : DWord) : offLinks (c.sendAck dst cls tag cid) = offLinks c := offLinks_onLink ..

/-- R138: what stays unacknowledged is ahead of the acknowledgement. -/
theorem takeAck_unacked {c : Chip} {k : Nat} {ack : BitVec 32} {q : OutPacket} (h : q ∈ ((c.takeAck k ack).outFlow k).unacked) :
    ∃ n, q.seq = some n ∧ 2 ^ 31 ≤ (ack - n).toNat := by
  rw [Chip.takeAck, outFlow_setOut] at h
  have hq := (List.mem_filter.1 h).2
  cases hn : q.seq with
  | none => simp [hn] at hq
  | some n => exact ⟨n, rfl, by simpa [hn] using hq⟩

/-- R138: no packet is held ahead of a gap. -/
theorem drain_none {c : Chip} {k : Nat} (h : (c.inFlow k).ahead = []) (n : Nat) : Chip.drain k n c = c := by
  cases n with
  | zero => rfl
  | succ n => simp only [Chip.drain, h, List.find?_nil]

/-! ### Packets delivered -/

/-- R138: how far a packet is ahead of the next one of its flow, modulo 2^32. -/
def ahead (c : Chip) (p : Packet) : Nat := (p.seq - (c.inFlow (flowKey p.src.toNat p.cls)).next).toNat

/-- R138, R139: a packet, whose acknowledgement has been taken, in its flow: delivered with what follows it, held, or dropped. -/
def placed (c : Chip) (p : Packet) : Chip :=
  let k := flowKey p.src.toNat p.cls
  let f := c.inFlow k
  if ahead c p = 0 then Chip.drain k 257 ((c.setIn k { f with next := f.next + 1 }).effect p)
  else if ahead c p ≤ 256 && !f.ahead.any (fun x => x.seq == p.seq) then c.setIn k { f with ahead := f.ahead ++ [p] }
  else c

section
variable {s : State} {p : Packet} (hj : Joined s)
include hj

/-- R138: a bare acknowledgement is taken. -/
theorem packetDeliver_ack {cls : Nat} (hb : p.body = .ack cls) :
    exec (.packetDeliver p) s = .next { s with chip := s.chip.takeAck (flowKey p.src.toNat cls) p.ack } := by
  show execPacketDeliver p s = _
  simp [execPacketDeliver, runChip, hj.1, hj.2, hb]

/-- R138: any other packet is placed in its flow, and acknowledged where it is the next one or has been delivered. -/
theorem packetDeliver_packet (hb : ∀ cls, p.body ≠ .ack cls) :
    exec (.packetDeliver p) s = .next { s with
      chip := let c := s.chip.takeAck (flowKey p.src.toNat p.cls) p.ack
              if ahead c p = 0 || 2 ^ 31 ≤ ahead c p then (placed c p).sendAck p.src.toNat p.cls p.tag.toNat p.cid else placed c p } := by
  show execPacketDeliver p s = _
  simp only [execPacketDeliver, runChip, hj.1, hj.2, Bool.not_true, decide_false, Bool.or_self, Bool.false_eq_true, if_false]
  rfl

/-- R138: a packet ahead of a gap, by 256 at most, is held. -/
theorem packetDeliver_holds (hb : ∀ cls, p.body ≠ .ack cls) {c : Chip} (hc : s.chip.takeAck (flowKey p.src.toNat p.cls) p.ack = c)
    (h0 : 0 < ahead c p) (h256 : ahead c p ≤ 256) (hnew : ∀ x ∈ (c.inFlow (flowKey p.src.toNat p.cls)).ahead, x.seq ≠ p.seq) :
    exec (.packetDeliver p) s = .next { s with chip := c.setIn (flowKey p.src.toNat p.cls) { c.inFlow (flowKey p.src.toNat p.cls) with
      ahead := (c.inFlow (flowKey p.src.toNat p.cls)).ahead ++ [p] } } := by
  have hany : (c.inFlow (flowKey p.src.toNat p.cls)).ahead.any (fun x => x.seq == p.seq) = false :=
    List.any_eq_false.2 fun x hx => by simpa using hnew x hx
  rw [packetDeliver_packet hj hb, hc]
  simp [placed, hany, Nat.ne_of_gt h0, h256, show ¬ 2147483648 ≤ ahead c p by omega]

/-- R138: a packet that has been delivered is acknowledged again. -/
theorem packetDeliver_repeats (hb : ∀ cls, p.body ≠ .ack cls) {c : Chip} (hc : s.chip.takeAck (flowKey p.src.toNat p.cls) p.ack = c)
    (h : 2 ^ 31 ≤ ahead c p) :
    exec (.packetDeliver p) s = .next { s with chip := c.sendAck p.src.toNat p.cls p.tag.toNat p.cid } := by
  rw [packetDeliver_packet hj hb, hc]
  simp [placed, show ahead c p ≠ 0 by omega, show 2147483648 ≤ ahead c p from h, show ¬ ahead c p ≤ 256 by omega]

/-- R138: the next packet of a flow takes effect, with those held behind it, and is acknowledged. -/
theorem packetDeliver_next (hb : ∀ cls, p.body ≠ .ack cls) {c : Chip} (hc : s.chip.takeAck (flowKey p.src.toNat p.cls) p.ack = c)
    (h : ahead c p = 0) :
    exec (.packetDeliver p) s = .next { s with chip := (placed c p).sendAck p.src.toNat p.cls p.tag.toNat p.cid } := by
  rw [packetDeliver_packet hj hb, hc]
  simp [h]

end

/-- R142: a packet without a delivered-by time is not late. -/
theorem lateCheck_none {p : Packet} (h : p.byNs = 0) (c : Chip) : c.lateCheck p = c := if_pos (by simp [h])

/-- R138, R143: the effect of an answer to an outstanding request that comes with no delivered-by time: its bytes count, and the request is done. -/
theorem effect_reply {c : Chip} {p : Packet} {req : Nat} {bs : List Byte} {marked : Bool} {r : Remote} (hbody : p.body = .reply req bs marked)
    (hlate : p.byNs = 0) (hans : c.answeredBy p req = some r) :
    c.effect p = (c.setIn (flowKey p.src.toNat p.cls) { c.inFlow (flowKey p.src.toNat p.cls) with
      bytes := (c.inFlow (flowKey p.src.toNat p.cls)).bytes + bs.length }).completeRemote r bs marked := by
  have hans' (k : Nat) (f : InFlow) : (c.setIn k f).answeredBy p req = some r := hans
  simp only [Chip.effect, lateCheck_none hlate, hbody, hans', packetPayload, Bool.false_eq_true, if_false]

/-- R143: what an answer to an operation's request leaves of the flow that has brought it, of requests, operations and memory. -/
structure Answered (c x : Chip) (r : Remote) (id : Nat) (bs : List Byte) (marked : Bool) : Prop where
  inFlows : x.inFlows = c.inFlows
  gone : ∀ q ∈ x.remotes, q.id ≠ r.id
  ops : ∀ o ∈ c.ops, o.id = id → ∃ o' ∈ x.ops, o'.id = id ∧ o'.writes = (o.answered r (natOfBytes bs) marked).writes
  mem : ((∃ n, n ≠ 64 ∧ r.kind = .read n) ∨ (∃ bs m, r.kind = .write bs m) ∨ ∃ x y z, r.kind = .arrive x y z) → x.mem = c.mem

theorem completeRemote_answered {r : Remote} {id : Nat} (hid : r.op = some id) (hrel : isRelease r.kind = false) (c : Chip) (bs : List Byte)
    (marked : Bool) : Answered c (c.completeRemote r bs marked) r id bs marked := by
  obtain ⟨hrest, hops⟩ := completeRemote_answers (c := c) hid hrel bs marked
  obtain ⟨hwork, hremotes⟩ := atRest_answerTaken c r bs marked
  have hin : (answerTaken c r bs marked).inFlows = c.inFlows := (congrArg (fun x : Chip × (Nat → Core) => x.1.inFlows) hwork :)
  have hleft : (c.completeRemote r bs marked).remotes = c.remotes.filter (fun x => x.id != r.id) := (congrArg Chip.remotes hrest :).trans hremotes
  refine ⟨(congrArg Chip.inFlows hrest :).trans hin, fun q hq => ?_, hops, fun hplain => ?_⟩
  · rw [hleft] at hq
    simpa using (List.mem_filter.1 hq).2
  · rw [answerTaken_plain hplain] at hrest
    exact (congrArg Chip.mem hrest :)

/-- What a packet given to a link changes no answer depends on. -/
theorem Answered.offLinks {c x y : Chip} {r : Remote} {id : Nat} {bs : List Byte} {marked : Bool} (h : Answered c x r id bs marked)
    (hy : offLinks y = offLinks x) : Answered c y r id bs marked := by
  have hin := (congrArg Chip.inFlows hy :)
  have hremotes := (congrArg Chip.remotes hy :)
  have hops := (congrArg Chip.ops hy :)
  have hmem := (congrArg Chip.mem hy :)
  dsimp only [Proofs.offLinks] at hin hremotes hops hmem
  exact ⟨hin.trans h.inFlows, hremotes ▸ h.gone, hops ▸ h.ops, fun hk => hmem.trans (h.mem hk)⟩

/-- R138, R143: the answer to an operation's request, next in its flow with nothing held behind it. -/
theorem placed_reply {c : Chip} {p : Packet} {req : Nat} {bs : List Byte} {marked : Bool} {r : Remote} {id : Nat}
    (hbody : p.body = .reply req bs marked) (hnext : ahead c p = 0) (hlate : p.byNs = 0)
    (hahead : (c.inFlow (flowKey p.src.toNat p.cls)).ahead = []) (hans : c.answeredBy p req = some r) (hid : r.op = some id)
    (hrel : isRelease r.kind = false) :
    ∃ c1, Answered c1 (placed c p) r id bs marked ∧ (c1.inFlow (flowKey p.src.toNat p.cls)).next = (c.inFlow (flowKey p.src.toNat p.cls)).next + 1
      ∧ c1.ops = c.ops ∧ c1.mem = c.mem := by
  set k := flowKey p.src.toNat p.cls with hk
  -- the chip as the answer finds it: its flow has gone on by one packet
  set f : InFlow := { c.inFlow k with next := (c.inFlow k).next + 1 } with hf
  set c1 := (c.setIn k f).setIn k { f with bytes := f.bytes + bs.length } with hc1
  have heffect : (c.setIn k f).effect p = c1.completeRemote r bs marked := by
    rw [effect_reply hbody hlate (show (c.setIn k f).answeredBy p req = some r from hans), ← hk, inFlow_setIn]
  have hanswered := completeRemote_answered hid hrel c1 bs marked
  have hin : (c1.completeRemote r bs marked).inFlow k = { f with bytes := f.bytes + bs.length } := by
    rw [Chip.inFlow, hanswered.inFlows]
    exact inFlow_setIn ..
  have hplaced : placed c p = c1.completeRemote r bs marked := by
    rw [placed, if_pos hnext, ← hk, heffect]
    exact drain_none (by rw [hin]; exact hahead) 257
  exact ⟨c1, hplaced ▸ hanswered, congrArg InFlow.next (inFlow_setIn ..), rfl, rfl⟩

/-! ### Packets sent again -/

/-- R138: the packets of a flow that are sent again, with the time of it. -/
def sentAgain (c : Chip) (pick : OutPacket → Bool) (q : OutPacket) : OutPacket := if pick q then { q with sentAt := c.time } else q

theorem resend_outFlow (c : Chip) (k : Nat) (f : OutFlow) (pick : OutPacket → Bool) :
    ((c.resend k f pick).outFlow k).unacked = f.unacked.map (sentAgain c pick) ∧ ((c.resend k f pick).outFlow k).next = f.next
    ∧ (c.resend k f pick).mem = c.mem := by
  have hoff : offLinks (c.resend k f pick) = offLinks (c.setOut k { f with
      port := (c.flowPort (k / 4)).getD f.port, unacked := f.unacked.map (sentAgain c pick) }) :=
    foldl_keeps offLinks _ _ _ fun x p _ h => (offLinks_onLink x p).trans h
  have hflow : (c.resend k f pick).outFlow k = { f with port := (c.flowPort (k / 4)).getD f.port, unacked := f.unacked.map (sentAgain c pick) } :=
    (congrArg (fun x : Chip => aget OutFlow.zero x.outFlows k) hoff).trans (outFlow_setOut ..)
  exact ⟨congrArg OutFlow.unacked hflow, (congrArg OutFlow.next hflow :), (congrArg Chip.mem hoff :)⟩

/-- R138: packets of a flow that have been unacknowledged for 50 us leave again under their numbers. -/
theorem packetResendTimeout_resends {s : State} {dst cls : Nat} (hr : s.chip.running = true)
    (hlate : ∃ q ∈ (s.chip.outFlow (flowKey dst cls)).unacked, q.sentAt + 50000 ≤ s.chip.time) :
    exec (.packetResendTimeout dst cls) s = .next { s with
      chip := s.chip.resend (flowKey dst cls) (s.chip.outFlow (flowKey dst cls)) (fun q => q.sentAt + 50000 ≤ s.chip.time) } := by
  have hany : (s.chip.outFlow (flowKey dst cls)).unacked.any (fun q => q.sentAt + 50000 ≤ s.chip.time) = true := by simpa using hlate
  show execPacketResendTimeout dst cls s = _
  simp only [execPacketResendTimeout, runChip, hr, hany, Bool.and_self, if_true]

/-- R138, R139: packets are delivered in order, held, acknowledged again, and sent again. -/
theorem flowDelivery : FlowDelivery := by
  intro s p hj k f c d
  refine ⟨fun q hq => takeAck_unacked hq, fun cls hb => packetDeliver_ack hj hb, fun hb h0 h256 hnew => packetDeliver_holds hj hb rfl h0 h256 hnew,
    fun hb h => packetDeliver_repeats hj hb rfl h, fun req bs marked r id hbody hd hlate hahead hans hid hrel => ?_, fun dst cls => ?_⟩
  · have hexec := packetDeliver_next hj (fun cls h => by rw [hbody] at h; cases h) (c := c) rfl hd
    obtain ⟨c1, hplaced, hnext, hops, hmem⟩ := placed_reply (c := c) hbody hd hlate hahead hans hid hrel
    have hsent := hplaced.offLinks (offLinks_sendAck (placed c p) p.src.toNat p.cls p.tag.toNat p.cid)
    refine ⟨_, hexec, ?_, hsent.gone, fun o ho => hsent.ops o (hops ▸ ho), fun hk => (hsent.mem hk).trans hmem⟩
    exact (congrArg (fun m => (aget InFlow.zero m k).next) hsent.inFlows).trans hnext
  · intro g late hlate
    obtain ⟨hun, hnext, hmem⟩ := resend_outFlow s.chip (flowKey dst cls) g (fun q => q.sentAt + 50000 ≤ s.chip.time)
    refine ⟨_, packetResendTimeout_resends hj.1 hlate, ?_, fun q hq => ?_, hnext, hmem⟩
    · rw [hun, List.map_map]
      refine List.map_congr_left fun q _ => ?_
      simp only [Function.comp_apply, sentAgain]
      split <;> rfl
    · rw [hun] at hq
      obtain ⟨q, -, rfl⟩ := List.mem_map.1 hq
      simp only [late, sentAgain]
      split
      · simp
      · rename_i h
        simpa using h

end Sys2Proof.Proofs
end

section
/-! PROOF. Admission (O47): a piece that fits is admitted and its packets join their flow, one that does not gets its hint, and a hint lapses. -/

namespace Sys2Proof.Proofs

open Sys2Proof Sys2Proof.Machine Sys2Proof.Claims

/-! ### Packets that join a flow -/

/-- A chip without what sending packets changes: links, what leaves on them, and outbound flows. -/
def offFlows (c : Chip) : Chip := { c with links := [], fabricOut := [], outFlows := [] }

theorem offFlows_onLink (c : Chip) (p : OutPacket) : offFlows (c.onLink p) = offFlows c :=
  (congrArg (fun x : Chip => { x with outFlows := [] }) (offLinks_onLink c p) :)

theorem offFlows_send (c : Chip) (dst cls tag byNs : Nat) (cid : DWord) (m : FabricMsg) : offFlows (c.send dst cls tag byNs cid m) = offFlows c := by
  unfold Chip.send
  dsimp only
  rw [offFlows_onLink]
  rfl

/-- R138: a packet sent waits for its acknowledgement at the end of its flow. -/
theorem send_unacked (c : Chip) (dst cls tag byNs : Nat) (cid : DWord) (m : FabricMsg) :
    ((c.send dst cls tag byNs cid m).outFlow (flowKey dst cls)).unacked.length = (c.outFlow (flowKey dst cls)).unacked.length + 1 := by
  have hjoin (x : Chip) (f : OutFlow) (p : OutPacket) : ((x.setOut (flowKey dst cls) f).onLink p).outFlow (flowKey dst cls) = f :=
    (congrArg (fun x : Chip => aget OutFlow.zero x.outFlows (flowKey dst cls)) (offLinks_onLink ..)).trans (outFlow_setOut ..)
  unfold Chip.send
  dsimp only
  rw [hjoin]
  simp

/-- R138, R139: the packets of a request sent in a flow. -/
def sendAll (ms : List FabricMsg) (dst cls tag byNs : Nat) (cid : DWord) (c : Chip) : Chip :=
  ms.foldl (fun (x : Chip) m => x.send dst cls tag byNs cid m) c

theorem offFlows_sendAll (ms : List FabricMsg) (dst cls tag byNs : Nat) (cid : DWord) (c : Chip) :
    offFlows (sendAll ms dst cls tag byNs cid c) = offFlows c :=
  foldl_keeps offFlows _ _ _ fun x m _ h => (offFlows_send x dst cls tag byNs cid m).trans h

theorem sendAll_unacked (ms : List FabricMsg) (dst cls tag byNs : Nat) (cid : DWord) (c : Chip) :
    ((sendAll ms dst cls tag byNs cid c).outFlow (flowKey dst cls)).unacked.length
      = (c.outFlow (flowKey dst cls)).unacked.length + ms.length := by
  induction ms generalizing c with
  | nil => rfl
  | cons m ms ih =>
    rw [sendAll, List.foldl_cons, ← sendAll, ih, send_unacked, List.length_cons]
    omega

/-! ### A piece offered -/

/-- The chip with the pieces of a number changed. -/
def modPiece (c : Chip) (id : Nat) (f : Piece → Piece) : Chip :=
  { c with pieces := c.pieces.map (fun x => if x.id = id then f x else x) }

/-- R141: a piece refused at a port until its hint has elapsed. -/
def hintedFor (c : Chip) (id us : Nat) : Chip := modPiece c id (fun x => { x with hintAt := some (c.time + 1000 * us) })

/-- R141, R142: a piece admitted at a port with its delivered-by time, which its request takes. -/
def admittedAt (c : Chip) (id n due : Nat) (r : Remote) : Chip :=
  { modPiece c id (fun x => { x with port := n, admitted := some due }) with
    remotes := c.remotes.map (fun x => if x.id = r.id then { x with byNs := due } else x) }

/-- R140, R141: what a port must carry of a class with a piece, and what the class's allowance holds at its rate. -/
def needed (c : Chip) (p : Piece) (n : Nat) : Nat := c.backlog n p.cls + p.bytes

/-- R142: the delivered-by time of a piece that a port admits. -/
def dueAt (c : Chip) (p : Piece) (n : Nat) : Nat := c.time + allowance p.cls + (p.bytes * 256 + rate c p n - 1) / rate c p n

/-- R141: the microseconds in which a class's rate carries what does not fit, rounded up. -/
def lackingUs (c : Chip) (p : Piece) (n : Nat) : Nat :=
  ((needed c p n * 256 - rate c p n * allowance p.cls) + rate c p n * 1000 - 1) / (rate c p n * 1000)

section
variable {s : State} {p : Piece} {r : Remote} (hr : s.chip.running = true) (hp : s.chip.pieces.find? (fun x => x.id == p.id) = some p)
  (hq : s.chip.remotes.find? (fun x => x.id == p.req) = some r) (ha : p.admitted = none) (hh : p.hintAt = none)
include hr hp hq ha hh

/-- R137: to an unreachable destination a request ends. -/
theorem pieceOffer_unreachable (hport : s.chip.flowPort p.dst = none) :
    exec (.pieceOffer p.id) s = .next { s with chip := s.chip.failRemote r 4 } := by
  show execPieceOffer p.id s = _
  simp [execPieceOffer, runChip, hr, hp, hq, ha, hh, hport]

/-- R141, R142: a piece offered to the port of its destination. -/
theorem pieceOffer_port {n : Nat} (hport : s.chip.flowPort p.dst = some n) :
    exec (.pieceOffer p.id) s = .next { s with
      chip := if rate s.chip p n = 0 then hintedFor s.chip p.id 4095
      else if needed s.chip p n ≤ rate s.chip p n * allowance p.cls / 256 then
        sendAll (packetsOf (r.id + 1) r.off r.kind r.flag) p.dst p.cls r.tag (dueAt s.chip p n) r.cid (admittedAt s.chip p.id n (dueAt s.chip p n) r)
      else hintedFor s.chip p.id (min 4095 (max 1 (lackingUs s.chip p n))) } := by
  have hg : (!s.chip.running || p.admitted.isSome || p.hintAt.isSome) = false := by simp [hr, ha, hh]
  show execPieceOffer p.id s = _
  simp only [execPieceOffer, runChip, hp, hq, hg, hport, Bool.false_eq_true, if_false]
  rfl

end

/-- R141, R142: what the admission of a piece leaves. -/
theorem admitted_sent (c : Chip) (id n due : Nat) (r : Remote) (ms : List FabricMsg) (dst cls tag : Nat) (cid : DWord) :
    (∀ x ∈ (sendAll ms dst cls tag due cid (admittedAt c id n due r)).pieces, x.id = id → x.admitted = some due ∧ x.port = n)
    ∧ (∀ x ∈ (sendAll ms dst cls tag due cid (admittedAt c id n due r)).remotes, x.id = r.id → x.byNs = due)
    ∧ ((sendAll ms dst cls tag due cid (admittedAt c id n due r)).outFlow (flowKey dst cls)).unacked.length
      = (c.outFlow (flowKey dst cls)).unacked.length + ms.length
    ∧ (sendAll ms dst cls tag due cid (admittedAt c id n due r)).mem = c.mem := by
  have hoff := offFlows_sendAll ms dst cls tag due cid (admittedAt c id n due r)
  have hpieces := (congrArg Chip.pieces hoff :)
  have hremotes := (congrArg Chip.remotes hoff :)
  dsimp only [offFlows] at hpieces hremotes
  refine ⟨fun x hx hid => ?_, fun x hx hid => ?_, sendAll_unacked .., (congrArg Chip.mem hoff :)⟩
  · rw [hpieces] at hx
    obtain ⟨y, -, rfl⟩ := List.mem_map.1 hx
    split at hid
    · rename_i hy; rw [if_pos hy]; exact ⟨rfl, rfl⟩
    · rename_i hy; exact absurd hid hy
  · rw [hremotes] at hx
    obtain ⟨y, -, rfl⟩ := List.mem_map.1 hx
    split at hid
    · rename_i hy; rw [if_pos hy]
    · rename_i hy; exact absurd hid hy

/-- R141: a hint: the whole units of a rate that cover what is lacking, at least 1 and at most 4,095. -/
theorem hint_bounds {lack unit : Nat} (hu : 0 < unit) :
    let us := min 4095 (max 1 ((lack + unit - 1) / unit))
    us = min 4095 (max 1 us) ∧ (us < 4095 → lack ≤ us * unit) ∧ (1 < us → (us - 1) * unit < lack) := by
  intro us
  have hup : lack ≤ (lack + unit - 1) / unit * unit := by
    have := Nat.lt_div_mul_add hu (a := lack + unit - 1)
    omega
  have hdown : (lack + unit - 1) / unit * unit ≤ lack + unit - 1 := Nat.div_mul_le_self ..
  refine ⟨by omega, fun h => ?_, fun h => ?_⟩
  · have hle : (lack + unit - 1) / unit ≤ us := by omega
    exact hup.trans (Nat.mul_le_mul_right unit hle)
  · have hle : us ≤ (lack + unit - 1) / unit := by omega
    have hmul := Nat.mul_le_mul_right unit hle
    rw [Nat.sub_mul, Nat.one_mul]
    have hone : unit ≤ us * unit := Nat.le_mul_of_pos_left unit (by omega)
    omega

/-- R141: a hint that has elapsed lapses, and no other. -/
def lapse (now : Nat) (x : Piece) : Piece :=
  match x.hintAt with
  | some t => if t ≤ now then { x with hintAt := none } else x
  | none => x

theorem lapse_keeps (now : Nat) (x : Piece) :
    ((lapse now x).id, (lapse now x).req, (lapse now x).admitted) = (x.id, x.req, x.admitted) := by
  unfold lapse
  split
  · split <;> rfl
  · rfl

theorem lapse_hint {now h : Nat} {x : Piece} (hx : (lapse now x).hintAt = some h) : now < h := by
  unfold lapse at hx
  split at hx
  · rename_i t ht
    split at hx
    · cases hx
    · rename_i hlt
      rw [ht] at hx
      cases hx
      exact Nat.lt_of_not_le hlt
  · rename_i hnone
    rw [hnone] at hx
    cases hx

theorem admissionHintExpiry_lapses {s : State} (hr : s.chip.running = true) (id : Nat) :
    exec (.admissionHintExpiry id) s = .next { s with chip := modPiece s.chip id (lapse s.chip.time) } := by
  show execAdmissionHintExpiry id s = _
  have hg : ¬ (!s.chip.running) = true := by simp [hr]
  unfold execAdmissionHintExpiry runChip
  dsimp only
  rw [if_neg hg]
  rfl

/-- R137, R141, R142: pieces are admitted, refused with a hint, or end; hints lapse. -/
theorem admission : Admission := by
  refine ⟨fun s p r hr hp hq ha hh => ⟨fun hport => pieceOffer_unreachable hr hp hq ha hh hport, fun n hport => ?_⟩, fun s id hr => ?_⟩
  · intro sr need fits due hinted
    have hexec := pieceOffer_port hr hp hq ha hh hport
    refine ⟨fun ⟨hsr, hfit⟩ => ?_, fun hsr => ?_, fun hsr hfit => ?_⟩
    · change needed s.chip p n ≤ rate s.chip p n * allowance p.cls / 256 at hfit
      rw [if_neg hsr, if_pos hfit] at hexec
      obtain ⟨hpieces, hremotes, hun, hmem⟩ := admitted_sent s.chip p.id n due r (packetsOf (r.id + 1) r.off r.kind r.flag) p.dst p.cls r.tag r.cid
      exact ⟨_, hexec, hpieces, hremotes, hun, hmem⟩
    · rw [if_pos hsr] at hexec
      exact hexec
    · have hover : ¬ needed s.chip p n ≤ rate s.chip p n * allowance p.cls / 256 := fun h => hfit ⟨hsr, h⟩
      rw [if_neg hsr, if_neg hover] at hexec
      exact ⟨_, hint_bounds (by have := Nat.pos_of_ne_zero hsr; omega), hexec⟩
  · refine ⟨_, admissionHintExpiry_lapses hr id, rfl, ?_, fun x hx hid h hhint => ?_⟩
    · show List.map _ (List.map _ _) = _
      rw [List.map_map]
      refine List.map_congr_left fun x _ => ?_
      simp only [Function.comp_apply]
      split
      · exact lapse_keeps ..
      · rfl
    · obtain ⟨y, -, rfl⟩ := List.mem_map.1 hx
      split at hhint
      · exact lapse_hint hhint
      · rename_i hy; rw [if_neg hy] at hid; exact absurd hid hy

/-- Settles O47: flows in order, and admission. -/
theorem flowsAndAdmission : Obligations.FlowsAndAdmission := ⟨flowDelivery, admission⟩

end Sys2Proof.Proofs
end

section
/-! PROOF. Task rings (O50): a counted write of TAIL, the consumption of the head slot, and SKIP. -/

namespace Sys2Proof.Proofs

open Sys2Proof Sys2Proof.Machine Sys2Proof.Claims

/-! ### HEADSH -/

theorem ring_setRing (c : Chip) (n : Nat) (k : Ring) : (c.setRing n k).ring n = k := aget_aput_same ..

theorem and_not_of_and_eq_zero {w : Nat} {a b : BitVec w} (h : a &&& b = 0) : a &&& ~~~b = a := by
  refine BitVec.eq_of_getLsbD_eq fun i hi => ?_
  have hbit : (a &&& b).getLsbD i = false := by rw [h]; exact BitVec.getLsbD_zero
  rw [BitVec.getLsbD_and] at hbit
  rw [BitVec.getLsbD_and, BitVec.getLsbD_not]
  cases ha : a.getLsbD i
  · rfl
  · rw [ha, Bool.true_and] at hbit
    rw [hbit, decide_eq_true hi]
    rfl

/-- R351: a write of a line that leaves a ring's TAIL alone writes its bytes whether the line is a ring's or not, and records nothing. -/
theorem homeWrite_offTail (c : Chip) {line : Nat} {mask : BitVec 64} (d : BitVec 512) (hm : mask &&& 0xFF0000#64 = 0) :
    (c.homeWrite line mask d false).mem = (Chip.homeWrite { c with rings := [] } line mask d false).mem
    ∧ (c.homeWrite line mask d false).trace = c.trace := by
  have hkeep : mask &&& ~~~0xFF0000#64 = mask := and_not_of_and_eq_zero hm
  have hnone : Chip.ringAt { c with rings := [] } line = none := by
    unfold Chip.ringAt
    split <;> rfl
  unfold Chip.homeWrite
  split
  · exact ⟨rfl, rfl⟩
  · dsimp only
    rw [hnone, hkeep, hm]
    split
    · exact ⟨rfl, rfl⟩
    · split
      · exact ⟨rfl, rfl⟩
      · exact ⟨rfl, rfl⟩

/-- R350: HEADSH of a control block written. -/
theorem headWrite_stores (c : Chip) {cb : Nat} (v : Nat) (hal : cb % 64 = 0) (hex : offsetExists cb = true) :
    (c.unitWrite (cb + 8) 8 v).trace = c.trace
    ∧ ∀ a, aget 0 (c.unitWrite (cb + 8) 8 v).mem a = aget 0 (aputN 0 c.mem (cb + 8) (bytesOf 8 v)) a := by
  have hlt := offsetExists_lt hex
  have hplace : (cb + 8) % 64 = 8 := by omega
  obtain ⟨hmem, htrace⟩ := homeWrite_offTail c (line := lineOf (cb + 8)) (mask := BitVec.ofNat 64 ((2 ^ 8 - 1) * 2 ^ ((cb + 8) % 64)))
    (BitVec.ofNat 512 (v % 2 ^ (8 * 8) * 2 ^ (8 * ((cb + 8) % 64)))) (by rw [hplace]; decide)
  have hfree := (unitWrite_stores { c with rings := [] } (pa := cb + 8) (n := 8) (v := v) (by omega)
    (by rw [tierOf_lineOf, tierOf]; omega) (by unfold Chip.ringAt; split <;> rfl)).2
  refine ⟨htrace, fun a => ?_⟩
  rw [show (cb + 8) % 2 ^ 64 = cb + 8 by omega] at hfree
  exact (congrArg (aget 0 · a) hmem).trans (hfree a)

/-- R352, R353: a slot passed has its number written to HEADSH; nothing is recorded. -/
theorem passSlot_stores (c : Chip) (n : Nat) {cb : Nat} (h : Nat) (hal : cb % 64 = 0) (hex : offsetExists cb = true) :
    (c.passSlot n cb h).trace = c.trace
    ∧ ∀ a, aget 0 (c.passSlot n cb h).mem a = aget 0 (aputN 0 c.mem (cb + 8) (bytesOf 8 (h + 1))) a := by
  have hwrite := headWrite_stores c (h + 1) hal hex
  unfold Chip.passSlot
  generalize c.unitWrite (cb + 8) 8 (h + 1) = x at hwrite
  exact hwrite

/-! ### The doorbell -/

/-- R351: a counted write of TAIL raises it and wakes the ring. -/
theorem ringDoorbell_raises {s : State} {n : Nat} {val : BitVec 64} (hr : s.chip.running = true) (hn : n < 64)
    (hv : s.chip.ringTail (s.chip.ring n) < val.toNat) :
    ∃ t, exec (.ringDoorbell n val) s = .next t ∧ Stored s t ((s.chip.ring n).cb + 16) (bytesOf 8 val.toNat) ∧ (t.chip.ring n).awake = true := by
  refine ⟨{ s with chip := s.chip.tailWrite n val.toNat }, ?_, ?_, ?_⟩
  · show execRingDoorbell n val s = _
    simp [execRingDoorbell, runChip, hr, Nat.not_le.2 hn]
  · refine stored_of_aputN fun a => ?_
    unfold Chip.tailWrite
    dsimp only
    rw [if_neg (Nat.not_le.2 hv)]
    rfl
  · unfold Chip.tailWrite
    dsimp only
    rw [if_neg (Nat.not_le.2 hv)]
    exact congrArg Ring.awake (ring_setRing ..)

/-- R351: a counted write that does not raise TAIL is counted as stale. -/
theorem ringDoorbell_stale {s : State} {n : Nat} {val : BitVec 64} (hr : s.chip.running = true) (hn : n < 64)
    (hv : val.toNat ≤ s.chip.ringTail (s.chip.ring n)) :
    exec (.ringDoorbell n val) s = .next { s with
      chip := s.chip.setRing n { s.chip.ring n with stale := (s.chip.ring n).stale + 1, awake := true } } := by
  show execRingDoorbell n val s = _
  simp only [execRingDoorbell, runChip, hr, Nat.not_le.2 hn, Chip.tailWrite, hv, Bool.not_true, decide_false, Bool.or_self, Bool.false_eq_true,
    if_false, if_true]
  rfl

/-! ### The head slot -/

/-- R352: the slot in progress of a ring is finished, whatever EN is. -/
theorem ringConsume_inProgress {s : State} {n : Nat} {sl : RingSlot} (hr : s.chip.running = true) (hsl : (s.chip.ring n).slot = some sl) :
    exec (.ringConsume n) s = runChipE s (fun c => c.finishSlot n sl) := by
  show execRingConsume n s = _
  simp only [execRingConsume, runChipE, hsl, hr, if_true]

theorem finishSlot_passes {c c1 : Chip} {n : Nat} {sl : RingSlot}
    (h : c.counterDec (2 ^ 32 + n) sl.cid sl.tag ((sl.rec_ + 0x30) % 2 ^ 64) true = .ok c1) : c.finishSlot n sl = .ok (c1.passSlot n sl.cb sl.head) := by
  simp only [Chip.finishSlot, h]

theorem finishSlot_waits {c : Chip} {n : Nat} {sl : RingSlot} {st : CStop}
    (h : c.counterDec (2 ^ 32 + n) sl.cid sl.tag ((sl.rec_ + 0x30) % 2 ^ 64) true = .error st) : c.finishSlot n sl = c.coachStop st := by
  simp only [Chip.finishSlot, h]

/-- R352, R353: the bytes of a slot that must be zero, with the alignment of its RECORD. -/
def badSlot (c : Chip) (slot : Nat) : Bool := (agetN 0 c.mem (slot + 16) 48).any (fun b => b != 0) || c.rdMem (slot + 8) 8 % 64 != 0

section
variable {s : State} {n : Nat} (hs : Serving s.chip n)
include hs

/-- R352: a ring that is served. -/
theorem ringConsume_serves : exec (.ringConsume n) s = runChipE s (fun c => c.serveRing n) := by
  obtain ⟨hr, hen, hstate, hpoll, -, -, hslot⟩ := hs
  have hidle : (!s.chip.running || !(s.chip.ring n).en || decide ((s.chip.ring n).state = 3)
      || (decide ((s.chip.ring n).state = 2) && !(s.chip.ring n).awake)) = false := by
    simp only [hr, hen, hstate, Bool.not_true, decide_false, Bool.or_self, Bool.false_or]
    by_cases h2 : (s.chip.ring n).state = 2
    · simp [hpoll h2]
    · simp [h2]
  show execRingConsume n s = _
  simp only [execRingConsume, runChipE, hslot]
  simp only [hidle, Bool.false_eq_true, if_false]

/-- R352: a ring whose head slot has not been filled is idle. -/
theorem serveRing_empty (ht : s.chip.ringTail (s.chip.ring n) ≤ s.chip.ringHead (s.chip.ring n)) :
    s.chip.serveRing n = .ok (s.chip.setRing n { s.chip.ring n with state := 0, awake := false }) := by
  obtain ⟨-, -, -, -, hcb, hsl, -⟩ := hs
  simp only [Chip.serveRing, hcb, hsl, ht, Bool.not_true, Bool.or_self, Bool.false_eq_true, if_false, if_true]

variable (ht : s.chip.ringHead (s.chip.ring n) < s.chip.ringTail (s.chip.ring n))
include ht

/-- R352: an unpublished head slot is waited for. -/
theorem serveRing_unpublished
    (hst : s.chip.rdMem ((s.chip.ring n).slotAt (s.chip.ringHead (s.chip.ring n))) 8 < s.chip.ringHead (s.chip.ring n) + 1) :
    s.chip.serveRing n = .ok (s.chip.setRing n { s.chip.ring n with state := 2, awake := false, polled := s.chip.time }) := by
  obtain ⟨-, -, -, -, hcb, hsl, -⟩ := hs
  simp only [Chip.serveRing, hcb, hsl, Nat.not_le.2 ht, hst, Bool.not_true, Bool.or_self, Bool.false_eq_true, if_false, if_true]

/-- R352: an over-written head slot stops the ring. -/
theorem serveRing_overwritten
    (hst : s.chip.ringHead (s.chip.ring n) + 1 < s.chip.rdMem ((s.chip.ring n).slotAt (s.chip.ringHead (s.chip.ring n))) 8) :
    s.chip.serveRing n = .ok ((s.chip.setRing n { s.chip.ring n with state := 3, awake := false }).emitUnit 0 0x29
      (ringWord n (s.chip.ringHead (s.chip.ring n)))) := by
  obtain ⟨-, -, -, -, hcb, hsl, -⟩ := hs
  simp only [Chip.serveRing, hcb, hsl, Nat.not_le.2 ht, hst, Nat.lt_asymm hst, Bool.not_true, Bool.or_self, Bool.false_eq_true, if_false, if_true]

/-- R352, R353: a published head slot is passed where it is bad, and is in progress where it is not. -/
theorem serveRing_published
    (hst : s.chip.rdMem ((s.chip.ring n).slotAt (s.chip.ringHead (s.chip.ring n))) 8 = s.chip.ringHead (s.chip.ring n) + 1) :
    let k := s.chip.ring n
    let h := s.chip.ringHead k
    let sl : RingSlot := { cb := k.cb, head := h, rec_ := s.chip.rdMem (k.slotAt h + 8) 8, tag := k.tag, cid := (s.chip.unitCid 0).2 }
    s.chip.serveRing n = if badSlot s.chip (k.slotAt h) then .ok ((s.chip.emitUnit 0 0x2A (ringWord n h)).passSlot n k.cb h)
      else ((s.chip.unitCid 0).1.setRing n { k with state := 1, slot := some sl }).finishSlot n sl := by
  obtain ⟨-, -, -, -, hcb, hsl, -⟩ := hs
  simp only [Chip.serveRing, hcb, hsl, Nat.not_le.2 ht, hst, Nat.lt_irrefl, Bool.not_true, Bool.or_self, Bool.false_eq_true, if_false]
  rfl

end

/-- R350, R352: the over-written slot of a ring served, with its event. -/
theorem ringConsume_stops {s : State} {n : Nat} (hs : Serving s.chip n)
    (ht : s.chip.ringHead (s.chip.ring n) < s.chip.ringTail (s.chip.ring n))
    (hst : s.chip.ringHead (s.chip.ring n) + 1 < s.chip.rdMem ((s.chip.ring n).slotAt (s.chip.ringHead (s.chip.ring n))) 8) :
    ∃ t, exec (.ringConsume n) s = .next t ∧ t.chip.ring n = { s.chip.ring n with state := 3, awake := false }
      ∧ Recorded s.chip t.chip 0xC00 (fun x => x.type = 0x29#16) ∧ t.chip.mem = s.chip.mem := by
  generalize hk : ({ s.chip.ring n with state := 3, awake := false } : Ring) = k
  have hserve := serveRing_overwritten hs ht hst
  rw [hk] at hserve
  obtain ⟨u, tr, hem⟩ := emitUnit_changes (s.chip.setRing n k) 0 0x29 (ringWord n (s.chip.ringHead (s.chip.ring n))) none
  refine ⟨_, (ringConsume_serves hs).trans (runChipE_ok hserve), ?_, ?_, ?_⟩
  · rw [hem]; exact ring_setRing ..
  · exact recorded_mono (recorded_congr (emitUnit_recorded (s.chip.setRing n k) 0 0x29 _ (by decide)) rfl rfl) fun x hx => hx.1
  · rw [hem]; rfl

/-- R352, R353: the bad slot of a ring served is passed, with its event. -/
theorem ringConsume_passesBad {s : State} {n : Nat} (hs : Serving s.chip n)
    (ht : s.chip.ringHead (s.chip.ring n) < s.chip.ringTail (s.chip.ring n))
    (hst : s.chip.rdMem ((s.chip.ring n).slotAt (s.chip.ringHead (s.chip.ring n))) 8 = s.chip.ringHead (s.chip.ring n) + 1)
    (hbad : badSlot s.chip ((s.chip.ring n).slotAt (s.chip.ringHead (s.chip.ring n))) = true) (hal : (s.chip.ring n).cb % 64 = 0) :
    ∃ t, exec (.ringConsume n) s = .next t ∧ Stored s t ((s.chip.ring n).cb + 8) (bytesOf 8 (s.chip.ringHead (s.chip.ring n) + 1))
      ∧ Recorded s.chip t.chip 0xC00 (fun x => x.type = 0x2A#16) := by
  have hserve := (serveRing_published hs ht hst).trans (if_pos hbad)
  obtain ⟨-, -, -, -, hcb, -, -⟩ := id hs
  have hrec := emitUnit_recorded s.chip 0 0x2A (ringWord n (s.chip.ringHead (s.chip.ring n))) (by decide)
  obtain ⟨u, tr, hem⟩ := emitUnit_changes s.chip 0 0x2A (ringWord n (s.chip.ringHead (s.chip.ring n))) none
  obtain ⟨htrace, hmem⟩ := passSlot_stores (s.chip.emitUnit 0 0x2A (ringWord n (s.chip.ringHead (s.chip.ring n)))) n
    (s.chip.ringHead (s.chip.ring n)) hal hcb
  refine ⟨_, (ringConsume_serves hs).trans (runChipE_ok hserve), stored_of_aputN fun a => ?_, ?_⟩
  · rw [hmem, hem]
  · exact recorded_mono (recorded_congr hrec rfl htrace) fun x hx => hx.1

/-! ### Polls and SKIP -/

/-- R352: the wait for an unpublished stamp ends after 1 us. -/
theorem stampPoll_wakes {s : State} {n : Nat} (hr : s.chip.running = true) (hen : (s.chip.ring n).en = true) (h2 : (s.chip.ring n).state = 2)
    (haw : (s.chip.ring n).awake = false) (ht : (s.chip.ring n).polled + 1000 ≤ s.chip.time) :
    exec (.stampPoll n) s = .next { s with chip := s.chip.setRing n { s.chip.ring n with awake := true } } := by
  have hg : (!s.chip.running || !(s.chip.ring n).en || decide ((s.chip.ring n).state ≠ 2) || (s.chip.ring n).awake
      || decide (s.chip.time < (s.chip.ring n).polled + stampPeriod)) = false := by
    rw [decide_eq_false (Nat.not_lt.2 ht : ¬ s.chip.time < (s.chip.ring n).polled + stampPeriod)]
    simp [hr, hen, h2, haw]
  show execStampPoll n s = _
  simp only [execStampPoll, runChip, hg, Bool.false_eq_true, if_false]
  rfl

/-- R353: SKIP passes the head slot of the selected ring, wakes it, and clears STATE 3. -/
theorem ringctlSkip_passes {s : State} {n : Nat} (hr : s.chip.running = true) (hn : s.chip.priv.ringsel.toNat = n)
    (hal : (s.chip.ring n).cb % 64 = 0) (hex : offsetExists (s.chip.ring n).cb = true) :
    ∃ t, exec .ringctlSkip s = .next t ∧ Stored s t ((s.chip.ring n).cb + 8) (bytesOf 8 (s.chip.ringHead (s.chip.ring n) + 1))
      ∧ (t.chip.ring n).state = 0 ∧ (t.chip.ring n).awake = true ∧ Recorded s.chip t.chip 0xC00 (fun x => x.type = 0x2B#16) := by
  obtain ⟨htrace, hmem⟩ := headWrite_stores (s.chip.coachDrop (2 ^ 32 + n)) (s.chip.ringHead (s.chip.ring n) + 1) hal hex
  generalize hx : (s.chip.coachDrop (2 ^ 32 + n)).unitWrite ((s.chip.ring n).cb + 8) 8 (s.chip.ringHead (s.chip.ring n) + 1) = x at htrace hmem
  have hrec := emitUnit_recorded x 0 0x2B (ringWord n (s.chip.ringHead (s.chip.ring n))) (by decide)
  obtain ⟨u, tr, hem⟩ := emitUnit_changes x 0 0x2B (ringWord n (s.chip.ringHead (s.chip.ring n))) none
  refine ⟨{ s with chip := s.chip.skipSlot n }, ?_, stored_of_aputN fun a => ?_, ?_, ?_, ?_⟩
  · show execRingctlSkip s = _
    simp only [execRingctlSkip, runChip, hr, if_true, hn]
  · unfold Chip.skipSlot
    dsimp only
    rw [hx, hem]
    exact hmem a
  · exact congrArg Ring.state (ring_setRing ..)
  · exact congrArg Ring.awake (ring_setRing ..)
  · unfold Chip.skipSlot
    dsimp only
    rw [hx]
    exact recorded_mono (recorded_congr hrec htrace.symm rfl) fun y hy => hy.1

/-- R350-R353: doorbells, the head slot of a ring, polls and SKIP. -/
theorem ringSteps : RingSteps := by
  intro s n k h slot stamp bad
  refine ⟨fun val hr hn => ⟨fun hv => ringDoorbell_raises hr hn hv, fun hv => ringDoorbell_stale hr hn hv⟩, fun hs => ⟨fun ht => ?_, fun ht hst => ?_,
    fun ht hst => ringConsume_stops hs ht hst, fun ht hst hbad hal => ringConsume_passesBad hs ht hst hbad hal, fun ht hst hbad => ?_⟩,
    fun sl c hr hsl hdec => ?_, fun hr hen h2 haw ht => stampPoll_wakes hr hen h2 haw ht, fun hr hn hal hex => ringctlSkip_passes hr hn hal hex⟩
  · exact (ringConsume_serves hs).trans (runChipE_ok (serveRing_empty hs ht))
  · exact (ringConsume_serves hs).trans (runChipE_ok (serveRing_unpublished hs ht hst))
  · intro sl o
    have hserve := (serveRing_published hs ht hst).trans (if_neg (by rw [show badSlot _ _ = false from hbad]; decide))
    refine ⟨fun c ho => ?_, fun st c ho hc => ?_⟩
    · exact (ringConsume_serves hs).trans (runChipE_ok (hserve.trans (finishSlot_passes ho)))
    · exact (ringConsume_serves hs).trans (runChipE_ok (hserve.trans ((finishSlot_waits ho).trans hc)))
  · exact (ringConsume_inProgress hr hsl).trans (runChipE_ok (finishSlot_passes hdec))

/-! ### Shadow queues -/

theorem proxy_setProxy (c : Chip) (n : Nat) (p : Proxy) : (c.setProxy n p).proxy n = p := aget_aput_same ..

/-- R151, R354: a shadow queue with a batch that reserves its slots. -/
def reserving (c : Chip) (n : Nat) : Proxy :=
  { c.proxy n with
    batch := some { count := min (min batchFull (2 ^ (c.proxy n).log2)) (c.proxy n).entries.length, stage := 0, ticket := 0, cid := (c.unitCid 2).2 } }

/-- R151, R354: a batch begun has a request for its slots on its way. -/
theorem batchBegun_startBatch (s : State) (n : Nat) : BatchBegun s { s with chip := s.chip.startBatch n } n := by
  have hproxy : (s.chip.startBatch n).proxy n = reserving s.chip n := proxy_setProxy (s.chip.unitCid 2).1 n (reserving s.chip n)
  refine ⟨⟨_, (congrArg Proxy.batch hproxy :), rfl, rfl⟩, (congrArg Proxy.entries hproxy :), ⟨_, rfl, rfl, rfl, rfl⟩, rfl⟩

section
variable {s : State} {n : Nat} (hr : s.chip.running = true)
include hr

/-- R151: a batch begins with 64 entries. -/
theorem mailBatchSend_begins (hidle : (s.chip.proxy n).idle = true) (hfull : 64 ≤ (s.chip.proxy n).entries.length) :
    exec (.mailBatchSend n) s = .next { s with chip := s.chip.startBatch n } := by
  have hg : (s.chip.running && (s.chip.proxy n).idle && decide (batchFull ≤ (s.chip.proxy n).entries.length)) = true := by
    rw [hr, hidle, decide_eq_true (show batchFull ≤ _ from hfull)]; rfl
  show execMailBatchSend n s = _
  simp only [execMailBatchSend, runChip, hg, if_true]

omit hr in
theorem mailBatchSend_waits (hfew : (s.chip.proxy n).entries.length < 64) : exec (.mailBatchSend n) s = .next s := by
  have hg : (s.chip.running && (s.chip.proxy n).idle && decide (batchFull ≤ (s.chip.proxy n).entries.length)) = false := by
    rw [decide_eq_false (Nat.not_le.2 (show _ < batchFull from hfew)), Bool.and_false]
  show execMailBatchSend n s = _
  simp only [execMailBatchSend, runChip, hg, Bool.false_eq_true, if_false]

/-- R151: a batch begins 2 us after the oldest entry. -/
theorem mailBatchTimeout_begins {e : Nat × BitVec 512} {es : List (Nat × BitVec 512)} (hidle : (s.chip.proxy n).idle = true)
    (he : (s.chip.proxy n).entries = e :: es) (ht : e.1 + 2000 ≤ s.chip.time) :
    exec (.mailBatchTimeout n) s = .next { s with chip := s.chip.startBatch n } := by
  have hfirst : (((s.chip.proxy n).entries.head?).map (fun e => e.1)).getD 0 = e.1 := by rw [he]; rfl
  have hg : (s.chip.running && (s.chip.proxy n).idle && decide (e.1 + batchWait ≤ s.chip.time)) = true := by
    rw [hr, hidle, decide_eq_true (show e.1 + batchWait ≤ s.chip.time from ht)]; rfl
  show execMailBatchTimeout n s = _
  simp only [execMailBatchTimeout, runChip, hfirst, hg, if_true]

/-- R152, R354: the write of ERR clears an error with the entries, and nothing else. -/
theorem pqcfgErrClear_clears (hn : s.chip.priv.pqsel.toNat = n) :
    exec .pqcfgErrClear s = .next { s with
      chip := if (s.chip.proxy n).err then s.chip.setProxy n { s.chip.proxy n with err := false, why := 0, entries := [] } else s.chip } := by
  show execPqcfgErrClear s = _
  simp only [execPqcfgErrClear, runChip, hr, if_true, hn]
  rfl

end

/-- R151, R152, R354: batches of shadow queues, and their errors. -/
theorem mailBatches : MailBatches := by
  intro s n hr p
  refine ⟨fun hidle hfull => ⟨_, mailBatchSend_begins hr hidle hfull, batchBegun_startBatch s n⟩, fun hfew => mailBatchSend_waits hfew,
    fun e es hidle he ht => ⟨_, mailBatchTimeout_begins hr hidle he ht, batchBegun_startBatch s n⟩, fun hn herr => ?_, fun hn herr => ?_⟩
  · exact (pqcfgErrClear_clears hr hn).trans (by rw [if_pos herr])
  · exact (pqcfgErrClear_clears hr hn).trans (by rw [show (s.chip.proxy n).err = false from herr]; rfl)

/-- Settles O50: task rings, and the batches of proxy queues. -/
theorem ringsAndMail : Obligations.RingsAndMail := ⟨ringSteps, mailBatches⟩

end Sys2Proof.Proofs
end

section
/-! PROOF. The end of a kill, and relaunches (O42): what a killed gang gives up, its record and its kill's; a relaunched gang's banks. -/

namespace Sys2Proof.Proofs

open Sys2Proof Sys2Proof.Machine Sys2Proof.Claims

/-! ### What a killed gang gives up -/

/-- R377: the records of gangs, grids and kills, and what peers intend to write. -/
def ledger (c : Chip) : AMap (Option Gang) × AMap (Option Grid) × List Kill × List Intent := (c.gangs, c.grids, c.kills, c.intents)

theorem apart_ledger : Apart ledger where
  warp _ _ _ _ := rfl
  win _ _ _ _ := rfl
  mat _ _ _ := rfl
  bank _ _ _ _ := rfl
  races _ _ _ _ := rfl
  lists _ _ _ := rfl

theorem ledger_clearRun (c : Chip) (l : Lane8) (run : Option Run) : ledger (c.clearRun l run) = ledger c := by
  cases run with
  | none => rfl
  | some r => exact foldl_keeps ledger _ _ _ fun _ _ _ h => h

theorem ledger_clearQueue (c : Chip) (g : Nat) (l : Lane8) : ledger (c.clearQueue g l) = ledger c := by
  have h := ledger_clearRun c l (c.queue l.core l.q).run
  unfold Chip.clearQueue
  generalize c.clearRun l (c.queue l.core l.q).run = x at h
  exact h

theorem ledger_clearFrame (c : Chip) (f : Option Frame) : ledger (c.clearFrame f) = ledger c := by
  cases f with
  | none => rfl
  | some x =>
    exact foldl_keeps ledger _ _ _ fun y d _ hy => (foldl_keeps ledger _ _ _ fun z q _ hz => (ledger_clearRun ..).trans hz).trans hy

/-- R215, R377: a group that is given up, killed or not. -/
theorem ledger_clearCore (c : Chip) (g : Nat) (killed : Bool) (gr : Group) : ledger (c.clearCore g killed gr) = ledger c := by
  unfold Chip.clearCore
  extract_lets own c0 mine c1 bars wins c2 c3 k c4
  have h0 : ledger c0 = ledger c := by
    dsimp only [c0]
    split
    · exact foldl_keeps ledger _ _ _ fun x q _ h => (ledger_clearQueue x g _).trans h
    · rfl
  have h1 : ledger c1 = ledger c0 := (apart_ledger.races _ _ _ _).trans (foldl_keeps ledger _ _ _ fun _ _ _ h => h)
  have h2 : ledger c2 = ledger c1 := by
    dsimp only [c2]
    split
    · exact foldl_keeps ledger _ _ _ fun _ _ _ h => h
    · rfl
  have h3 : ledger c3 = ledger c2 := foldl_keeps ledger _ _ _ fun _ _ _ h => h
  have h4 : ledger c4 = ledger c3 := by
    dsimp only [c4]
    split <;> rfl
  have hc : ledger c4 = ledger c := h4.trans (h3.trans (h2.trans (h1.trans h0)))
  split
  · exact hc
  · exact hc

/-- R18, R377: a gang that is given up, killed or not. -/
theorem ledger_freeGang (c : Chip) (g : Nat) (k : Gang) (killed : Bool) : ledger (c.freeGang g k killed) = ledger c := by
  unfold Chip.freeGang
  extract_lets c1 mine c2 c3
  have h1 : ledger c1 = ledger c := foldl_keeps ledger _ _ _ fun x gr _ h => (ledger_clearCore x g killed gr).trans h
  have h2 : ledger c2 = ledger c1 := foldl_keeps ledger _ _ _ fun _ _ _ h => h
  have h3 : ledger c3 = ledger c2 := returnBanks_keeps apart_ledger c2 g k.cluster
  have hc : ledger c3 = ledger c := h3.trans (h2.trans h1)
  clear_value c3
  exact hc

/-! ### The end of a kill -/

/-- R377: whether a request is a gang's. -/
def ofGang (c : Chip) (g : Nat) (r : Remote) : Bool := c.remoteGang r == some g

/-- R379: whether a gang is killed with its context. -/
def withContext (c : Chip) (g : Nat) : Bool := c.kills.any (fun x => x.gang == g && x.ctx.isSome)

/-- R377: the chip without what a killed gang had asked of peers and without the frames that it had reserved. -/
def withoutRequests (c : Chip) (g : Nat) (k : Gang) : Chip :=
  { c with
    remotes := c.remotes.filter (fun r => !ofGang c g r),
    pieces := c.pieces.filter (fun p => !((c.remotes.filter (ofGang c g)).map (fun r => r.id)).contains p.req),
    resvFrames := c.resvFrames - k.reserved }

/-- R377: the chip without the intents of a killed gang's cores, what those hold dirty written back. -/
def withoutIntents (c : Chip) (g : Nat) (k : Gang) : Chip :=
  (k.cores.foldl (fun (x : Chip) n => x.flushTag (c.tagOf g) n) (withoutRequests c g k)).dropIntents (c.tagOf g) k.cores (withContext c g)

/-- R377: the chip without anything of a killed gang. -/
def withoutGang (c : Chip) (g : Nat) (k : Gang) : Chip := ((withoutIntents c g k).clearFrame k.frame).freeGang g k true

/-- R378: whether a killed gang is relaunched, its kill's context aside. -/
def relaunched (c : Chip) (g : Nat) (k : Gang) (ctx : Bool) : Bool :=
  ((c.gridOf g).map (fun gr => gr.task.flags.getLsbD 0)).getD false && !k.noRelaunch && decide (k.kills ≤ 16) && !ctx

/-- R378: the record of a gang whose kill is over. -/
def goneGang (k : Gang) (again : Bool) : Gang :=
  { k with phase := if again then 4 else 5, out := false, frame := none, reserved := 0, childSlots := [] }

/-- R378, R379: a gang's kill is over: the gang awaits its relaunch, or its grid has failed. -/
def gangGone (c : Chip) (g : Nat) (k : Gang) (again : Bool) : Chip :=
  let c4 := (c.setGang g (goneGang k again)).endKill g
  if again then c4 else match c4.grid k.grid with
    | none => c4
    | some gr => c4.setGrid k.grid { gr with fail := some (gr.fail.getD k.cause) }

/-- R377-R379: a killed gang's last marker is back. -/
theorem killMarkersDone_ends {s : State} {g : Nat} {k : Gang} (hk : s.chip.gang g = some k) (hp : k.phase = 3)
    (hdone : ∀ r ∈ s.chip.remotes, s.chip.remoteGang r = some g → s.chip.requested r = false) :
    exec (.killMarkersDone g) s = .next { s with
      chip := (gangGone (withoutGang s.chip g k) g k (relaunched (withoutGang s.chip g k) g k (withContext s.chip g))).settleGrid k.grid } := by
  show execKillMarkersDone g s = _
  unfold execKillMarkersDone runChip
  simp -zeta only [hk]
  extract_lets mine gone tag c1 ctx c2 c3 again c4 c5
  have hwait : (decide (k.phase ≠ 3) || s.chip.remotes.any (fun r => mine r && s.chip.requested r)) = false := by
    rw [decide_eq_false (not_not.2 hp), Bool.false_or]
    exact List.any_eq_false.2 fun r hr => by simpa [mine] using hdone r hr
  rw [if_neg (Bool.eq_false_iff.1 hwait)]
  have hfree : c3 = withoutGang s.chip g k := rfl
  clear_value c3
  rw [← hfree]
  rfl

/-- R377: the intents that are left of a context are not those of a killed gang's cores and Drays. -/
theorem withoutIntents_intents (c : Chip) (g : Nat) (k : Gang) {x : Intent} (hx : x ∈ (withoutIntents c g k).intents) (ht : x.tag = c.tagOf g)
    {n : Nat} (hn : n ∈ k.cores) : x.owner ≠ .core n ∧ x.owner ≠ .dray n := by
  have hkept := (List.mem_filter.1 hx).2
  rw [ht, beq_self_eq_true, Bool.true_and] at hkept
  constructor <;> intro ho <;> simp [ho, hn] at hkept

/-- R377: a killed gang that is given up leaves the records of gangs, grids and kills. -/
theorem withoutIntents_records (c : Chip) (g : Nat) (k : Gang) :
    (withoutIntents c g k).gangs = c.gangs ∧ (withoutIntents c g k).grids = c.grids := by
  have hwork : work (k.cores.foldl (fun (x : Chip) n => x.flushTag (c.tagOf g) n) (withoutRequests c g k)) = work (withoutRequests c g k) :=
    foldl_keeps work _ _ _ fun x n _ h => (work_flushTag ..).trans h
  have hrest := (congrArg Prod.fst hwork :)
  exact ⟨(congrArg Chip.gangs hrest :), (congrArg Chip.grids hrest :)⟩

/-- R377: what a killed gang that is given up leaves. -/
theorem withoutGang_leaves (c : Chip) (g : Nat) (k : Gang) :
    (withoutGang c g k).gangs = c.gangs ∧ (withoutGang c g k).grids = c.grids
    ∧ (∀ x ∈ (withoutGang c g k).intents, x.tag = c.tagOf g → ∀ n ∈ k.cores, x.owner ≠ .core n ∧ x.owner ≠ .dray n)
    ∧ ∀ b, b < 64 → ((withoutGang c g k).bank k.cluster b).gang ≠ some g := by
  have hledger : ledger (withoutGang c g k) = ledger (withoutIntents c g k) := (ledger_freeGang ..).trans (ledger_clearFrame ..)
  have hbank (b : Nat) (hb : b < 64) : ((withoutGang c g k).bank k.cluster b).gang ≠ some g := freeGang_bank _ g k true hb
  obtain ⟨hgangs, hgrids⟩ := withoutIntents_records c g k
  generalize withoutGang c g k = x at hledger hbank
  obtain ⟨hg, hgr, -, hint⟩ : x.gangs = (withoutIntents c g k).gangs ∧ x.grids = (withoutIntents c g k).grids
      ∧ x.kills = (withoutIntents c g k).kills ∧ x.intents = (withoutIntents c g k).intents := by simpa [ledger] using hledger
  exact ⟨hg.trans hgangs, hgr.trans hgrids, fun y hy ht n hn => withoutIntents_intents c g k (hint ▸ hy) ht hn, hbank⟩

theorem settleGrid_records (c : Chip) (grid : Nat) : (c.settleGrid grid).kills = c.kills ∧ (c.settleGrid grid).intents = c.intents := by
  unfold Chip.settleGrid
  split
  · exact ⟨rfl, rfl⟩
  · dsimp only
    split
    · exact ⟨rfl, rfl⟩
    · split
      · exact ⟨rfl, rfl⟩
      · split
        · rename_i gr _ _ _ _
          obtain ⟨u, t, h⟩ := emitUnit_changes
            (c.setGrid grid { gr with phase := 2, aged := c.time, front := some c.time, room := none }) 0 0x21 gr.recAddr none
          rw [h]
          exact ⟨rfl, rfl⟩
        · exact ⟨rfl, rfl⟩

/-- R378, R379: the end of a kill, in the records; it changes no intent and no bank. -/
theorem gangGone_settled (c : Chip) (g : Nat) (k : Gang) (again : Bool) (grid : Nat) :
    ((gangGone c g k again).settleGrid grid).gang g = some (goneGang k again)
    ∧ (∀ x ∈ ((gangGone c g k again).settleGrid grid).kills, x.gang ≠ g)
    ∧ ((gangGone c g k again).settleGrid grid).intents = c.intents
    ∧ ((gangGone c g k again).settleGrid grid).clusters = c.clusters := by
  obtain ⟨hgangs, -, hclusters, -⟩ := settleGrid_keeps (gangGone c g k again) grid
  obtain ⟨hkills, hintents⟩ := settleGrid_records (gangGone c g k again) grid
  have hgone : (gangGone c g k again).gangs = (c.setGang g (goneGang k again)).gangs
      ∧ (gangGone c g k again).kills = c.kills.filter (fun x => x.gang != g)
      ∧ (gangGone c g k again).intents = c.intents ∧ (gangGone c g k again).clusters = c.clusters := by
    unfold gangGone
    dsimp only
    split
    · exact ⟨rfl, rfl, rfl, rfl⟩
    · split <;> exact ⟨rfl, rfl, rfl, rfl⟩
  obtain ⟨hgg, hgk, hgi, hgc⟩ := hgone
  refine ⟨?_, fun x hx => ?_, hintents.trans hgi, hclusters.trans hgc⟩
  · rw [Chip.gang, hgangs, hgg]
    exact Chip.gang_setGang_same ..
  · rw [hkills, hgk] at hx
    simpa using (List.mem_filter.1 hx).2

/-- R378, R379: the kill of a gang leaves its context where no kill of the gang names one. -/
theorem withContext_eq_false {c : Chip} {g : Nat} : withContext c g = false ↔ ∀ x ∈ c.kills, x.gang = g → x.ctx = none := by
  simp [withContext, List.any_eq_false, Option.isSome_iff_ne_none]

/-- R378: whether a killed gang is relaunched. -/
theorem relaunched_iff {c c' : Chip} {g : Nat} {k : Gang} {gr : Grid} (hk : c'.gang g = some k) (hgr : c'.grid k.grid = some gr) :
    relaunched c' g k (withContext c g) = true ↔ Relaunches c g k gr := by
  have hgrid : c'.gridOf g = some gr := by simp [Chip.gridOf, hk, hgr]
  simp only [relaunched, Relaunches, hgrid, ← withContext_eq_false]
  simp [and_assoc]

/-! ### Relaunches -/

/-- R378: a bank zeroed that is the gang's. -/
def zeroBank (g cl : Nat) (x : Chip) (b : Nat) : Chip :=
  if (x.bank cl b).gang = some g then x.setBank cl b { x.bank cl b with data := [], pois := [] } else x

theorem zeroBanks_eq (c : Chip) (g cl : Nat) : c.zeroBanks g cl = (List.range 64).foldl (zeroBank g cl) c := by
  unfold Chip.zeroBanks
  generalize List.range 64 = bs
  rfl

/-- R378: banks zeroed change clusters alone. -/
theorem zeroBanks_keeps (c : Chip) (g cl : Nat) : { c.zeroBanks g cl with clusters := [] } = { c with clusters := [] } := by
  rw [zeroBanks_eq]
  refine foldl_keeps (fun x : Chip => { x with clusters := [] }) _ _ _ fun x b _ h => ?_
  unfold zeroBank
  split
  · exact h
  · exact h

/-- R378: a bank is the gang's and, where it was empty or has been listed, is empty. -/
theorem zeroBank_foldl (g cl : Nat) (bs : List Nat) (c : Chip) (n : Nat) (hg : (c.bank cl n).gang = some g)
    (h : n ∈ bs ∨ (c.bank cl n).data = [] ∧ (c.bank cl n).pois = []) :
    ((bs.foldl (zeroBank g cl) c).bank cl n).data = [] ∧ ((bs.foldl (zeroBank g cl) c).bank cl n).pois = [] := by
  induction bs generalizing c with
  | nil => exact h.resolve_left List.not_mem_nil
  | cons b bs ih =>
    rw [List.foldl_cons]
    by_cases hn : n = b
    · subst hn
      have hzero : (zeroBank g cl c n).bank cl n = { c.bank cl n with data := [], pois := [] } := by
        rw [zeroBank, if_pos hg, bank_setBank, if_pos rfl]
      exact ih _ (by rw [hzero]; exact hg) (.inr (by rw [hzero]; exact ⟨rfl, rfl⟩))
    · have hsame : (zeroBank g cl c b).bank cl n = c.bank cl n := by
        unfold zeroBank
        split
        · rw [bank_setBank, if_neg hn]
        · rfl
      exact ih _ (hsame ▸ hg) (hsame ▸ h.imp_left fun hm => (List.mem_cons.1 hm).resolve_left hn)

/-- R346, R378: a relaunched gang has a place. -/
theorem gangRelaunch_places {s : State} {g : Nat} {k : Gang} {gr : Grid} {c1 : Chip} (hk : s.chip.gang g = some k)
    (hgr : s.chip.grid k.grid = some gr) (hp : k.phase = 4) (hp1 : gr.phase = 1) (hroom : s.chip.roomPending k.grid = false)
    (hplace : s.chip.placeIn g { k with refused := 0 } gr k.cluster = some c1) :
    exec (.gangRelaunch g) s = .next { s with chip := (c1.zeroBanks g k.cluster).setGrid k.grid { gr with relaunches := gr.relaunches + 1 } } := by
  have hready : (decide (k.phase ≠ 4) || decide (gr.phase ≠ 1) || s.chip.roomPending k.grid) = false := by simp [hp, hp1, hroom]
  show execGangRelaunch g s = _
  simp only [execGangRelaunch, runChip, hk, hgr, hready, hplace, Bool.false_eq_true, if_false]

/-- R377, R378: kills end, and gangs are relaunched. -/
theorem killAndRelaunch : KillAndRelaunch := by
  intro s g k gr hk hgr
  refine ⟨fun hp hdone => ?_, fun c1 hp hp1 hroom hplace => ?_⟩
  · have hexec := killMarkersDone_ends hk hp hdone
    obtain ⟨hgangs, hgrids, hintents, hbanks⟩ := withoutGang_leaves s.chip g k
    have hagain : relaunched (withoutGang s.chip g k) g k (withContext s.chip g) = true ↔ Relaunches s.chip g k gr :=
      relaunched_iff ((congrArg (aget none · g) hgangs).trans hk) ((congrArg (aget none · k.grid) hgrids).trans hgr)
    have htag : s.chip.tagOf g = gr.task.tag := by simp [Chip.tagOf, Chip.gridOf, hk, hgr]
    generalize withoutGang s.chip g k = c at hexec hintents hbanks hagain
    generalize relaunched c g k (withContext s.chip g) = again at hexec hagain
    obtain ⟨hgang, hkills, hint, hcl⟩ := gangGone_settled c g k again k.grid
    refine ⟨_, _, hexec, hgang, fun h => if_pos (hagain.2 h), fun h => if_neg (mt hagain.1 h), hkills, fun x hx ht => ?_, fun b hb => ?_⟩
    · exact hintents x (hint ▸ hx) (ht.trans htag.symm)
    · rw [Chip.bank, Chip.cluster, hcl]
      exact hbanks b hb
  · have hkeeps := zeroBanks_keeps c1 g k.cluster
    have hzero (b : Nat) (hb : b < 64) (hbg : (c1.bank k.cluster b).gang = some g) :=
      zeroBank_foldl g k.cluster (List.range 64) c1 b hbg (.inl (List.mem_range.2 hb))
    rw [← zeroBanks_eq] at hzero
    refine ⟨_, gangRelaunch_places hk hgr hp hp1 hroom hplace, ?_⟩
    generalize c1.zeroBanks g k.cluster = x at hkeeps hzero
    exact ⟨Chip.grid_setGrid_same .., (congrArg Chip.gangs hkeeps :), (congrArg Chip.cores hkeeps :), (congrArg Chip.mem hkeeps :), hzero⟩

end Sys2Proof.Proofs
end

section
/-! PROOF. Context kills and privileged snapshots (O42): each gang of a killed context once, in the order of their numbers. -/

namespace Sys2Proof.Proofs

open Sys2Proof Sys2Proof.Machine Sys2Proof.Claims

/-! ### What kills leave -/

/-- R377, R379: what the kills of some gangs leave: the other gangs, memory and tag generations; no operation begins. -/
structure KillsOnly (gs : List Nat) (c c' : Chip) : Prop where
  others : ∀ h, h ∉ gs → c'.gang h = c.gang h
  ops : ∀ o ∈ c'.ops, o ∈ c.ops
  mem : c'.mem = c.mem
  gens : c'.gens = c.gens

theorem killsOnly_refl (c : Chip) : KillsOnly [] c c := ⟨fun _ _ => rfl, fun _ h => h, rfl, rfl⟩

theorem KillsOnly.trans {gs hs : List Nat} {a b c : Chip} (h : KillsOnly gs a b) (h' : KillsOnly hs b c) : KillsOnly (gs ++ hs) a c where
  others x hx := by
    rw [List.mem_append, not_or] at hx
    exact (h'.others x hx.2).trans (h.others x hx.1)
  ops o ho := h.ops o (h'.ops o ho)
  mem := h'.mem.trans h.mem
  gens := h'.gens.trans h.gens

theorem killsOnly_setGang (c : Chip) (g : Nat) (k : Gang) : KillsOnly [g] c (c.setGang g k) where
  others h hh := by rw [Chip.gang_setGang, if_neg (by simpa using hh)]
  ops _ ho := ho
  mem := rfl
  gens := rfl

/-- R377: a kill advances no tag generation. -/
theorem killOne_gens (c : Chip) (g cause : Nat) (ctx : Option Nat) (noRelaunch : Bool) (id : DWord) :
    (c.killOne g cause ctx noRelaunch (some id)).gens = c.gens := by
  cases hk : c.gang g with
  | none =>
    unfold Chip.killOne
    rw [hk]
  | some k =>
    by_cases hp : k.phase = 3 ∨ k.phase = 4 ∨ k.phase = 5
    · obtain h | ⟨k', h⟩ := killOne_held (cause := cause) (ctx := ctx) (noRelaunch := noRelaunch) (cid := some id) hk hp
      · rw [h]
      · rw [h]; rfl
    · obtain ⟨h3, h4, h5⟩ : k.phase ≠ 3 ∧ k.phase ≠ 4 ∧ k.phase ≠ 5 := by tauto
      unfold Chip.killOne
      rw [hk]
      simp -zeta only [if_neg h5, if_neg h4, if_neg h3]
      extract_lets c1 c2 cl c3 c4 what
      have h2 : c2.gens = c1.gens := foldl_keeps Chip.gens _ _ _ fun x gr _ hx => by
        refine Eq.trans ?_ hx
        dsimp only
        split <;> split <;> rfl
      have hgens : c4.gens = c.gens := h2
      clear_value c4
      obtain ⟨t, ht⟩ := emit_trace c4 0xC00 0x12 id what 0
      rw [ht]
      exact hgens

theorem killsOnly_killOne (c : Chip) (g cause : Nat) (ctx : Option Nat) (noRelaunch : Bool) (id : DWord) :
    KillsOnly [g] c (c.killOne g cause ctx noRelaunch (some id)) := by
  obtain ⟨hothers, hops, hmem⟩ := killOne_frame c g cause ctx noRelaunch (some id)
  exact ⟨fun h hh => hothers h (by simpa using hh), hops, hmem, killOne_gens ..⟩

/-! ### A gang of a killed context -/

section
variable (tag : Nat) (id : DWord)

/-- R379: the kill of one gang of a context. -/
theorem killsOnly_killContextGang (c : Chip) (x : Nat × Gang) : KillsOnly [x.1] c (c.killContextGang tag id x) := by
  have hmod (f : Gang → Gang) : KillsOnly [x.1] c (c.modGang x.1 f) := by
    unfold Chip.modGang
    split
    · exact ⟨fun _ _ => rfl, fun _ h => h, rfl, rfl⟩
    · exact killsOnly_setGang ..
  unfold Chip.killContextGang
  split
  · exact killsOnly_killOne ..
  · split
    · obtain ⟨hothers, hops, hmem, hgens⟩ := hmod (fun k => { k with noRelaunch := true, cause := 0 })
      exact ⟨hothers, hops, hmem, hgens⟩
    · split
      · obtain ⟨hothers, hops, hmem, hgens⟩ := killsOnly_setGang c x.1 { x.2 with phase := 5, cause := 0 }
        dsimp only
        split <;> exact ⟨hothers, hops, hmem, hgens⟩
      · exact ⟨fun _ _ => rfl, fun _ h => h, rfl, rfl⟩

/-- R377, R379: a gang of the context that is not being killed stops with its operations, and is not relaunched. -/
theorem killContextGang_stops {c : Chip} {g : Nat} {k : Gang} (hk : c.gang g = some k) (hp : k.phase < 3) :
    (∃ k', (c.killContextGang tag id (g, k)).gang g = some k' ∧ k'.phase = 3 ∧ k'.noRelaunch = true)
    ∧ ∀ o ∈ (c.killContextGang tag id (g, k)).ops, o.gang ≠ g := by
  obtain ⟨hgangs, hops, -⟩ := killOne_kills (cause := 0) (ctx := some tag) (noRelaunch := true) (cid := some id) hk (by omega) (by omega) (by omega)
  rw [Chip.killContextGang, if_pos hp]
  refine ⟨⟨killedGang k 0 true, ?_, rfl, Bool.or_true _⟩, fun o ho => ?_⟩
  · rw [Chip.gang, hgangs, aget_aput_same]
  · rw [hops] at ho
    simpa using (List.mem_filter.1 ho).2

/-- R379: a gang of the context that is being killed already has status code 0, and is not relaunched. -/
theorem killContextGang_killed {c : Chip} {g : Nat} {k : Gang} (hk : c.gang g = some k) (hp : k.phase = 3) :
    (c.killContextGang tag id (g, k)).gang g = some { k with noRelaunch := true, cause := 0 } := by
  rw [Chip.killContextGang, if_neg (by simp [hp]), if_pos hp]
  unfold Chip.modGang
  rw [hk]
  exact Chip.gang_setGang_same ..

/-! ### All gangs of a killed context -/

/-- R379: the kill of listed gangs, one after another. -/
def killAll (xs : List (Nat × Gang)) (c : Chip) : Chip := xs.foldl (Chip.killContextGang tag id) c

theorem killsOnly_killAll (xs : List (Nat × Gang)) (c : Chip) : KillsOnly (xs.map Prod.fst) c (killAll tag id xs c) := by
  induction xs generalizing c with
  | nil => exact killsOnly_refl c
  | cons x xs ih => exact (killsOnly_killContextGang tag id c x).trans (ih _)

/-- R379: of gangs listed once each, one has what its own kill gives it. -/
theorem killAll_at {xs : List (Nat × Gang)} (hxs : xs.Pairwise (fun a b => a.1 ≠ b.1)) {g : Nat} {k : Gang} (hm : (g, k) ∈ xs) {c : Chip}
    (hk : c.gang g = some k) :
    ∃ d : Chip, d.gang g = some k ∧ (killAll tag id xs c).gang g = (d.killContextGang tag id (g, k)).gang g
      ∧ ∀ o ∈ (killAll tag id xs c).ops, o ∈ (d.killContextGang tag id (g, k)).ops := by
  obtain ⟨before, after, rfl⟩ := List.append_of_mem hm
  obtain ⟨-, hafter, hbefore⟩ := List.pairwise_append.1 hxs
  have hnot : g ∉ before.map Prod.fst := fun hg => by
    obtain ⟨x, hx, hxg⟩ := List.mem_map.1 hg
    exact hbefore x hx (g, k) (List.mem_cons_self ..) hxg
  have hnot' : g ∉ after.map Prod.fst := fun hg => by
    obtain ⟨x, hx, hxg⟩ := List.mem_map.1 hg
    exact (List.pairwise_cons.1 hafter).1 x hx hxg.symm
  have hlater := killsOnly_killAll tag id after ((killAll tag id before c).killContextGang tag id (g, k))
  rw [killAll, List.foldl_append, List.foldl_cons]
  exact ⟨killAll tag id before c, ((killsOnly_killAll tag id before c).others g hnot).trans hk, hlater.others g hnot', hlater.ops⟩

end

/-- The keys of a canonical map rise. -/
theorem acanon_rising {α : Type} [DecidableEq α] {d : α} {m : AMap α} {lo : Nat} (h : acanon d lo m = true) :
    (∀ x ∈ m, lo ≤ x.1) ∧ m.Pairwise (fun a b => a.1 < b.1) := by
  induction m generalizing lo with
  | nil => exact ⟨fun _ hx => absurd hx List.not_mem_nil, .nil⟩
  | cons p r ih =>
    simp only [acanon, Bool.and_eq_true, decide_eq_true_eq] at h
    obtain ⟨⟨hlo, -⟩, hr⟩ := h
    obtain ⟨hge, hrise⟩ := ih hr
    refine ⟨fun x hx => ?_, List.pairwise_cons.2 ⟨fun x hx => hge x hx, hrise⟩⟩
    obtain rfl | hx := List.mem_cons.1 hx
    · exact hlo
    · have := hge x hx
      omega

/-- Each gang is listed once. -/
theorem gangList_once {c : Chip} (h : acanon none 0 c.gangs = true) : c.gangList.Pairwise (fun a b => a.1 ≠ b.1) := by
  refine (acanon_rising h).2.filterMap _ fun a b hab x hx y hy => ?_
  obtain ⟨k, -, rfl⟩ := Option.map_eq_some_iff.1 hx
  obtain ⟨k', -, rfl⟩ := Option.map_eq_some_iff.1 hy
  exact Nat.ne_of_lt hab

theorem mem_gangList {c : Chip} {g : Nat} {k : Gang} (hk : c.gang g = some k) : (g, k) ∈ c.gangList :=
  List.mem_filterMap.2 ⟨(g, some k), mem_of_aget hk (by simp), rfl⟩

/-! ### The kill of a context -/

/-- R379: the gangs of a context. -/
def contextGangs (c : Chip) (tag : Nat) : List (Nat × Gang) := c.gangList.filter (fun x => c.tagOf x.1 == tag)

/-- R146: the chip with a context's tag generation advanced, the kill's causal ID taken. -/
def advanced (c : Chip) (tag : Nat) : Chip :=
  (Chip.unitCid { c with gens := aput 0 c.gens tag (aget 0 c.gens tag + 1), priv := { c.priv with kill := BitVec.ofNat 16 tag } } 0).1

/-- R379: the chip with the gangs of a context killed. -/
def contextKilled (c : Chip) (tag : Nat) : Chip := killAll tag (c.unitCid 0).2 (contextGangs c tag) (advanced c tag)

/-- R379: a cluster without the entries of a context in its queues. -/
def emptied (tag : Nat) (k : Cluster) : Cluster := { k with hwq := k.hwq.filter (fun q => q.2.owner != tag) }

/-- R379: the kill of a context, once its gangs have been killed: its queues are emptied, and it counts at once where none of them is left. -/
theorem killContext_empties (c : Chip) (tag : Nat) :
    ∃ p, c.killContext tag = { contextKilled c tag with
      clusters := (contextKilled c tag).clusters.map (fun x => (x.1, emptied tag x.2)), priv := p } := by
  have hparts : c.killContext tag =
      let c2 : Chip := { contextKilled c tag with clusters := (contextKilled c tag).clusters.map (fun x => (x.1, emptied tag x.2)) }
      if c2.kills.any (fun k => k.ctx == some tag) then c2 else { c2 with priv := { c2.priv with killCount := c2.priv.killCount + 1 } } := rfl
  rw [hparts]
  dsimp only
  generalize contextKilled c tag = x
  split
  · exact ⟨x.priv, rfl⟩
  · exact ⟨_, rfl⟩

/-- R379: the queues of a cluster without a context's entries. -/
theorem emptied_hwq (m : AMap Cluster) (tag cl : Nat) :
    ∀ q ∈ (aget Cluster.zero (m.map (fun x => (x.1, emptied tag x.2))) cl).hwq, q.2.owner ≠ tag := by
  rw [aget_map_values (emptied tag) rfl]
  intro q hq
  simpa using (List.mem_filter.1 hq).2

/-- R146, R377, R379, R395: a context is killed; a privileged snapshot is taken. -/
theorem contextKill : ContextKill := by
  intro s hr
  refine ⟨fun tag hcanon => ?_, fun val => ?_⟩
  · obtain ⟨p, hkill⟩ := killContext_empties s.chip tag.toNat
    have hframe : KillsOnly ((contextGangs s.chip tag.toNat).map Prod.fst) (advanced s.chip tag.toNat) (contextKilled s.chip tag.toNat) :=
      killsOnly_killAll ..
    have honce : (contextGangs s.chip tag.toNat).Pairwise (fun a b => a.1 ≠ b.1) := (gangList_once hcanon).filter _
    have hat {g : Nat} {k : Gang} (hk : s.chip.gang g = some k) (ht : s.chip.tagOf g = tag.toNat) :=
      killAll_at tag.toNat (s.chip.unitCid 0).2 honce (List.mem_filter.2 ⟨mem_gangList hk, by simp [ht]⟩) (c := advanced s.chip tag.toNat) hk
    refine ⟨{ s with chip := s.chip.killContext tag.toNat }, ?_, ?_⟩
    · show execKillWrite tag s = _
      unfold execKillWrite runPriv runChip
      dsimp only
      rw [if_pos hr]
    · rw [hkill]
      refine ⟨?_, fun g k hk ht hp => ?_, fun g k hk ht hp => ?_, fun g ht => ?_, fun cl => emptied_hwq _ _ cl, hframe.mem⟩
      · exact (congrArg (aget 0 · tag.toNat) hframe.gens).trans (aget_aput_same ..)
      · obtain ⟨d, hd, hgang, hops⟩ := hat hk ht
        obtain ⟨⟨k', hk', hp', hno⟩, hnone⟩ := killContextGang_stops tag.toNat (s.chip.unitCid 0).2 hd hp
        exact ⟨k', hgang.trans hk', hp', hno, fun o ho => hnone o (hops o ho)⟩
      · obtain ⟨d, hd, hgang, -⟩ := hat hk ht
        exact ⟨{ k with noRelaunch := true, cause := 0 }, hgang.trans (killContextGang_killed tag.toNat (s.chip.unitCid 0).2 hd hp), hp, rfl, rfl⟩
      · refine hframe.others g fun hg => ?_
        obtain ⟨x, hx, rfl⟩ := List.mem_map.1 hg
        exact ht (by simpa using (List.mem_filter.1 hx).2)
  · show execPwselWrite val s = _
    unfold execPwselWrite runPriv runChip
    dsimp only
    rw [if_pos hr]
    rfl

/-- Settles O42: kills and relaunches of gangs, the kill of a context, and privileged snapshots. -/
theorem killsAndRelaunches : Obligations.KillsAndRelaunches := ⟨killAndRelaunch, contextKill⟩

end Sys2Proof.Proofs
end

section
/-! PROOF. Scalar words and branches of the sequencers (O30): each changes its own engine alone. -/

namespace Sys2Proof.Proofs

open Sys2Proof Sys2Proof.Machine Sys2Proof.Claims

/-! ### One sequencer changed -/

section
variable {s t : State} {i : Issue} {core : Nat}

theorem mat_of_onlyMat {m : Mat} (h : OnlyMat core m s t) : (t.chip.core core).mat = m := by rw [h.2 core, if_pos rfl]

theorem dray_of_onlyDray {d : Dray} (h : OnlyDray core d s t) : (t.chip.core core).dray = d := by rw [h.2 core, if_pos rfl]

/-- The matrix engine changed once more. -/
theorem onlyMat_modMat {m : Mat} (h : OnlyMat core m s t) (f : Mat → Mat) :
    OnlyMat core (f m) s { t with chip := t.chip.setMat core (f (t.chip.core core).mat) } := by
  rw [mat_of_onlyMat h]
  exact onlyMat_setMat h (f m)

/-- The Dray changed once more. -/
theorem onlyDray_modDray {d : Dray} (h : OnlyDray core d s t) (f : Dray → Dray) :
    OnlyDray core (f d) s { t with chip := t.chip.setDray core (f (t.chip.core core).dray) } := by
  rw [dray_of_onlyDray h]
  exact onlyDray_setDray h (f d)

theorem onlyMat_modStream {m : Mat} (h : OnlyMat core m s t) (he : i.eng = .matrix core) (f : Stream → Stream) :
    OnlyMat core { m with s := f m.s } s { t with chip := t.chip.modStream i.eng f } := by
  rw [he]
  exact onlyMat_modMat h fun m => { m with s := f m.s }

theorem onlyDray_modStream {d : Dray} (h : OnlyDray core d s t) (he : i.eng = .copy core) (f : Stream → Stream) :
    OnlyDray core { d with s := f d.s } s { t with chip := t.chip.modStream i.eng f } := by
  rw [he]
  exact onlyDray_modDray h fun d => { d with s := f d.s }

/-- R320: a matrix stream placed. -/
theorem onlyMat_place {m : Mat} (h : OnlyMat core m s t) (he : i.eng = .matrix core) (p : Pos) :
    OnlyMat core { m with s := moved m.s p } s { t with chip := t.chip.place i p } := by
  have hplace : t.chip.place i p = t.chip.modStream i.eng (moved · p) := by simp only [Chip.place, he, moved]
  rw [hplace]
  exact onlyMat_modStream h he _

theorem onlyDray_place {d : Dray} (h : OnlyDray core d s t) (he : i.eng = .copy core) (p : Pos) :
    OnlyDray core { d with s := moved d.s p } s { t with chip := t.chip.place i p } := by
  have hplace : t.chip.place i p = t.chip.modStream i.eng (moved · p) := by simp only [Chip.place, he, moved]
  rw [hplace]
  exact onlyDray_modStream h he _

/-- R39, R40: a sequencer that passes its word is placed after it. -/
theorem advance_matrix_place (he : i.eng = .matrix core) (c : Chip) : c.advance i = c.place i (i.pos.after i.hdr) := by
  simp only [Chip.advance, Chip.place, he]

theorem advance_copy_place (he : i.eng = .copy core) (c : Chip) : c.advance i = c.place i (i.pos.after i.hdr) := by
  simp only [Chip.advance, Chip.place, he]

/-- R186: a k register written, its mark cleared. -/
theorem onlyDray_setK {d : Dray} (h : OnlyDray core d s t) (a : BitVec 5) (v : DWord) :
    OnlyDray core { d with k := aput 0 d.k a.toNat v, kp := aput false d.kp a.toNat false } s { t with chip := t.chip.setK core a v } :=
  onlyDray_modDray h fun d => { d with k := aput 0 d.k a.toNat v, kp := aput false d.kp a.toNat false }

/-- R186: a k register written by a word that its stream passes. -/
theorem onlyDray_setK_advance {d : Dray} (h : OnlyDray core d s t) (he : i.eng = .copy core) (a : BitVec 5) (v : DWord) :
    OnlyDray core { d with k := aput 0 d.k a.toNat v, kp := aput false d.kp a.toNat false, s := moved d.s (i.pos.after i.hdr) } s
      { t with chip := (t.chip.setK core a v).advance i } := by
  rw [advance_copy_place he]
  exact onlyDray_place (onlyDray_setK h a v) he _

/-! ### Scalar words -/

/-- R46: a matrix-class instruction whose m registers are not to be written. -/
theorem mregReady_ready {rs : List (BitVec 5)} (hi : MatIssuing s i core rs) (r : Except Stop Chip) : mregReady i s.chip rs r = r := by
  obtain ⟨-, -, hpend⟩ := hi
  have hnone : rs.any (fun r => s.chip.pendingK i.eng r.toNat) = false := List.any_eq_false.2 fun r hr => by simp [hpend r hr]
  rw [mregReady, hnone, if_neg (by decide)]

/-- R277: a scalar instruction of the matrix sequencer changes its registers, and its stream passes the word. -/
theorem exec_mscalar {k : Instr} {rs : List (BitVec 5)} {f : Chip → Nat → AMap DWord → AMap DWord} (hk : exec k s = runIssue s (mscalar rs f))
    (hi : MatIssuing s i core rs) :
    ∃ t, exec k s = .next t ∧ OnlyMat core
      { (s.chip.core core).mat with m := f s.chip core (s.chip.core core).mat.m, s := moved (s.chip.core core).mat.s (i.pos.after i.hdr) } s t := by
  have he : i.eng = .matrix core := hi.2.1
  refine ⟨_, hk.trans (runIssue_ok hi.1 (mregReady_ready hi _)), ?_⟩
  rw [advance_matrix_place he, he]
  exact onlyMat_place (onlyMat_modMat (onlyMat_self core s) fun m => { m with m := f s.chip core m.m }) he _

/-- R46, R116: a copy-class instruction that may execute, and completes. -/
theorem exec_copyOp {k : Instr} {op : Nat} {reads writes : List (BitVec 5)} {f : Nat → Issue → Chip → Except Stop Chip} {c : Chip}
    (hk : exec k s = runIssue s (copyOp op reads writes f)) (hi : CopyIssuing s i core reads writes) (hf : f core i s.chip = .ok c) :
    exec k s = .next { s with chip := c } :=
  hk.trans (runIssue_ok hi.1 ((copyOp_ready hi op f).trans hf))

/-- R186: a copy-class instruction that writes one k register. -/
theorem exec_setK {k : Instr} {op : Nat} {rs : List (BitVec 5)} {a : BitVec 5} {v : Nat → Chip → DWord}
    (hk : exec k s = runIssue s (copyOp op rs [a] (fun n j c => .ok ((c.setK n a (v n c)).advance j)))) (hi : CopyIssuing s i core rs [a]) :
    let d := (s.chip.core core).dray
    ∃ t, exec k s = .next t ∧ OnlyDray core
      { d with k := aput 0 d.k a.toNat (v core s.chip), kp := aput false d.kp a.toNat false, s := moved d.s (i.pos.after i.hdr) } s t :=
  ⟨_, exec_copyOp hk hi rfl, onlyDray_setK_advance (onlyDray_self core s) hi.2.1 a _⟩

end

theorem sequencerScalars : SequencerScalars := by
  intro s i core k rs a v
  refine ⟨fun h hi => ?_, fun h hi => ?_⟩
  · unfold matScalars at h
    split at h
    next cat a imm => cases h; exact exec_mscalar (k := .mli cat a imm) rfl hi
    next a b => cases h; exact exec_mscalar (k := .madd a b) rfl hi
    next a b imm => cases h; exact exec_mscalar (k := .maddi a b imm) rfl hi
    next a => cases h; exact exec_mscalar (k := .mprg a) rfl hi
    next => cases h
  · unfold copyScalars at h
    split at h
    next cat a imm => cases h; exact exec_setK (k := .kli cat a imm) rfl hi
    next a b c => cases h; exact exec_setK (k := .kadd a b c) rfl hi
    next a b imm => cases h; exact exec_setK (k := .kaddi a b imm) rfl hi
    next a q => cases h; exact exec_setK (k := .kprg a q) rfl hi
    next a q => cases h; exact exec_setK (k := .dstat a q) rfl hi
    next => cases h

/-! ### Branches and ends -/

/-- R187, R278: the conditions 0 to 6. -/
theorem scalarCond_iff {cond : Nat} (h : cond < 7) (x y : DWord) : scalarCond cond x y = true ↔ taken cond x y := by
  obtain rfl | rfl | rfl | rfl | rfl | rfl | rfl : cond = 0 ∨ cond = 1 ∨ cond = 2 ∨ cond = 3 ∨ cond = 4 ∨ cond = 5 ∨ cond = 6 := by omega
  all_goals simp [scalarCond, taken, BitVec.slt, BitVec.ult]

section
variable {s : State} {i : Issue} {core : Nat}

/-- R278: MBR moves its stream to the target where the condition holds, else to the next clause. -/
theorem mbr_moves (cond : BitVec 3) (a b : BitVec 5) (off : BitVec 24) (hi : MatIssuing s i core [a, b]) (hcond : cond ≠ 7) :
    ∃ t, exec (.mbr cond a b off) s = .next t ∧ OnlyMat core { (s.chip.core core).mat with
      s := moved (s.chip.core core).mat.s
        (if scalarCond cond.toNat (mval s core a) (mval s core b) then clauseAt (branchTarget i off) else clauseAt (nextClause i)) } s t := by
  have he : i.eng = .matrix core := hi.2.1
  have hexec : exec (.mbr cond a b off) s = execMbr cond a b off s := rfl
  refine ⟨_, hexec.trans (runIssue_ok hi.1 ((if_neg hcond).trans (mregReady_ready hi _))), ?_⟩
  rw [he]
  exact onlyMat_place (onlyMat_self core s) he _

/-- R187: KBR likewise. -/
theorem kbr_moves (cond a b : BitVec 5) (off : BitVec 26) (hi : CopyIssuing s i core (kcondReads cond.toNat a b) []) (hcond : cond.toNat < 7) :
    ∃ t, exec (.kbr cond a b off) s = .next t ∧ OnlyDray core { (s.chip.core core).dray with
      s := moved (s.chip.core core).dray.s (if scalarCond cond.toNat (kval s core a) (kval s core b) then
        clauseAt (i.pos.addr + 8 * off.signExtend 64) else clauseAt (nextClause i)) } s t := by
  have hexec : exec (.kbr cond a b off) s = execKbr cond a b off s := rfl
  exact ⟨_, hexec.trans (runIssue_ok hi.1 ((if_neg (Nat.not_le.2 hcond)).trans (copyOp_ready hi _ _))),
    onlyDray_place (onlyDray_self core s) hi.2.1 _⟩

/-- R275, R279: SR.MPRG.STATE of a stream that has ended. -/
def endedState (c : Chip) (core : Nat) : Nat :=
  if (c.core core).mat.post.isSome then 2 else if c.matOps core (fun o => isArrayOp o.code) then 1
  else if c.matOps core (fun _ => true) then 0 else 4

/-- A matrix engine changed for the same gang has the same operations in flight. -/
theorem matOps_of_onlyMat {t : State} {m : Mat} (h : OnlyMat core m s t) (hgang : m.s.gang = (s.chip.core core).mat.s.gang) :
    t.chip.matOps core = s.chip.matOps core := by
  have hops : t.chip.ops = s.chip.ops := congrArg (fun x => x.chip.ops) h.1
  funext p
  simp only [Chip.matOps, hops, mat_of_onlyMat h, hgang]

/-- R275, R279: a stream that has ended is settled. -/
theorem onlyMat_matSettle {t : State} {m : Mat} (h : OnlyMat core m s t) (hst : m.s.st = 3) (hgang : m.s.gang = (s.chip.core core).mat.s.gang)
    (hpost : m.post = (s.chip.core core).mat.post) :
    OnlyMat core { m with prgState := endedState s.chip core } s { t with chip := t.chip.matSettle core } := by
  have hstate : t.chip.matSettle core = t.chip.setMat core { (t.chip.core core).mat with prgState := endedState s.chip core } := by
    simp only [Chip.matSettle, mat_of_onlyMat h, hst, hpost, matOps_of_onlyMat h hgang, endedState]
    cases s.chip.matOps core (fun _ => true) <;> rfl
  rw [hstate]
  exact onlyMat_modMat h fun m' => { m' with prgState := endedState s.chip core }

/-- R279: MEXIT ends its stream. -/
theorem mexit_ends (hi : MatIssuing s i core []) : ∃ t, exec .mexit s = .next t ∧ OnlyMat core { (s.chip.core core).mat with
    s := { moved (s.chip.core core).mat.s (clauseAt (nextClause i)) with st := 3 }, prgState := endedState s.chip core } s t := by
  have he : i.eng = .matrix core := hi.2.1
  have hend := onlyMat_modStream (onlyMat_place (onlyMat_self core s) he i.next) he fun st => { st with st := 3, wait := none }
  have hrun : execMexit s = .next { s with
      chip := ((s.chip.place i i.next).modStream i.eng fun st => { st with st := 3, wait := none }).matSettle core } :=
    runIssue_ok hi.1 (by simp only [he])
  exact ⟨_, hrun, onlyMat_matSettle hend rfl rfl rfl⟩

end

theorem sequencerControl : SequencerControl := by
  intro cond kc a b off koff s i core m d ktarget
  refine ⟨fun hi hcond => ?_, fun hi hcond => ?_, fun hi => ?_, fun hi hcond => ?_, fun hi => ?_, fun hi => ?_⟩
  · have hlt : cond.toNat < 7 := by bv_omega
    obtain ⟨t, hexec, honly⟩ := mbr_moves cond a b off hi hcond
    refine ⟨t, hexec, fun htaken => ?_, fun htaken => ?_⟩
    · rwa [if_pos ((scalarCond_iff hlt _ _).2 htaken)] at honly
    · rwa [if_neg (mt (scalarCond_iff hlt _ _).1 htaken)] at honly
  · obtain ⟨t, hexec, honly⟩ := kbr_moves kc a b koff hi hcond
    refine ⟨t, hexec, fun htaken => ?_, fun htaken => ?_⟩
    · rwa [if_pos ((scalarCond_iff hcond _ _).2 htaken)] at honly
    · rwa [if_neg (mt (scalarCond_iff hcond _ _).1 htaken)] at honly
  · have hexec : exec (.mbr 7 a b off) s = execMbr 7 a b off s := rfl
    exact exec_trapped hexec hi.1 (if_pos rfl)
  · have hexec : exec (.kbr kc a b koff) s = execKbr kc a b koff s := rfl
    exact exec_trapped hexec hi.1 (if_pos hcond)
  · exact mexit_ends hi
  · have he : i.eng = .copy core := hi.2.1
    exact ⟨_, exec_copyOp rfl hi rfl,
      onlyDray_modStream (onlyDray_place (onlyDray_self core s) he i.next) he fun st => { st with st := 3, wait := none }⟩

/-- Settles O30: the scalar words, branches and ends of both sequencers. -/
theorem sequencerWords : Obligations.SequencerWords := ⟨sequencerScalars, sequencerControl⟩

end Sys2Proof.Proofs
end

section
/-! PROOF. Copy commands enter their queues, queues resumed and cancelled (O34). -/

namespace Sys2Proof.Proofs

open Sys2Proof Sys2Proof.Machine Sys2Proof.Claims

/-! ### Commands -/

/-- R160: another queue than the one that changes. -/
theorem queue_setQueue_ne (c : Chip) (core : Nat) {q x : Nat} (k : Queue) (h : x ≠ q) : (c.setQueue core q k).queue core x = c.queue core x := by
  rw [Chip.queue, Chip.setQueue, dray_setDray]
  exact aget_aput_ne _ _ _ h

/-- R383: drawing a causal ID takes neither a number of an operation nor time. -/
theorem nextCid_nextOp_time (c : Chip) (e : Eng) : (c.nextCid e).1.nextOp = c.nextOp ∧ (c.nextCid e).1.time = c.time := by
  obtain ⟨a, b, d, h⟩ := nextCid_form c e
  rw [h]
  exact ⟨rfl, rfl⟩

theorem nextCid_ops (c : Chip) (e : Eng) : (c.nextCid e).1.ops = c.ops := by
  obtain ⟨a, b, d, h⟩ := nextCid_form c e
  rw [h, Chip.setCore_ops]

/-- R383: drawing a causal ID leaves the other cores as they were. -/
theorem nextCid_core_ne (c : Chip) (e : Eng) {n : Nat} (h : n ≠ e.core) : (c.nextCid e).1.core n = c.core n := by
  obtain ⟨a, b, d, hform⟩ := nextCid_form c e
  rw [hform, Chip.core_setCore, if_neg h]

/-- R42-R44: a copy stream that has issued an operation: past its word, its flag risen or waiting for operation `id`. -/
def streamIssued (st : Stream) (i : Issue) (flag : Option Nat) (id : Nat) : Stream :=
  match flag with
  | some f => { moved st (i.pos.after i.hdr) with cf := cfUp st.cf f }
  | none => { moved st (i.pos.after i.hdr) with sync := some id }

theorem streamIssued_pos (st : Stream) (i : Issue) (flag : Option Nat) (id : Nat) : (streamIssued st i flag id).pos = i.pos.after i.hdr := by
  cases flag <;> rfl

section
variable {s : State} {i : Issue} {core : Nat}

/-- R42-R44: an operation of a copy stream joins those in flight; of the cores, the stream of its Dray alone changes. -/
theorem issueOp_onlyDray (he : i.eng = .copy core) (c : Chip) (o : Op) :
    let s1 : State := { s with chip := { c with ops := c.ops ++ [inFlight c i o], nextOp := c.nextOp + 1 } }
    OnlyDray core { (c.core core).dray with s := streamIssued (c.core core).dray.s i o.flag c.nextOp } s1 { s1 with chip := c.issueOp i o } := by
  intro s1
  have hadv := onlyDray_place (onlyDray_self core s1) he (i.pos.after i.hdr)
  rw [← advance_copy_place he] at hadv
  rw [issueOp_passedBy]
  unfold passedBy
  cases o.flag with
  | some f =>
    have hflags : (s1.chip.advance i).modFlags i.eng (fun cf => cfUp cf f)
        = (s1.chip.advance i).modStream i.eng fun st => { st with cf := cfUp st.cf f } := by rw [he]; rfl
    dsimp only
    rw [hflags]
    exact onlyDray_modStream hadv he fun st => { st with cf := cfUp st.cf f }
  | none =>
    have hsync := onlyDray_modStream hadv he fun st => { st with sync := some c.nextOp }
    simp only [he] at hsync ⊢
    exact hsync

/-- R161: the queue of a command after it has joined the tail. -/
def joined (s : State) (i : Issue) (core op : Nat) (ct : CmdCtl) (ks : List (BitVec 5)) (imm : Nat) : Queue :=
  { s.chip.queue core ct.queue.toNat with cmds := (s.chip.queue core ct.queue.toNat).cmds ++ [entering s i core op ct ks imm] }

/-- R161, R162: the chip once a command has joined its queue. -/
def commanded (s : State) (i : Issue) (core op : Nat) (ct : CmdCtl) (ks : List (BitVec 5)) (imm : Nat) : Chip :=
  (s.chip.nextCid i.eng).1.setQueue core ct.queue.toNat (joined s i core op ct ks imm)

/-- R162: the operation that waits for a command's end. -/
def commandOp (c : Chip) (i : Issue) (op : Nat) (ct : CmdCtl) : Op :=
  { Op.blank op (flagOf i.hdr ct.fsel.toNat) (c.nextCid i.eng).2 with hold := true }

/-- R161, R162: a command whose queue and flag have room is issued. -/
theorem command_ready {op : Nat} {ct : CmdCtl} {ks : List (BitVec 5)} (imm : Nat) (hi : CopyIssuing s i core ks []) (hks : ks ≠ [])
    (hflag : s.chip.flagFull i.eng (flagOf i.hdr ct.fsel.toNat) = false) (hroom : (s.chip.queue core ct.queue.toNat).cmds.length < 16) :
    command op ct ks imm i s.chip = .ok ((commanded s i core op ct ks imm).issueOp i (commandOp s.chip i op ct)) := by
  obtain ⟨hop, htime⟩ := nextCid_nextOp_time s.chip i.eng
  rw [command, copyOp_ready hi]
  dsimp only
  rw [withFlag, hflag, if_neg (by decide), if_neg (Nat.not_le.2 (show _ < queueRoom from hroom))]
  simp only [commanded, commandOp, joined, entering, hop, htime, List.length_pos_iff.2 hks, if_true]
  rfl

/-- R161, R162: what a command's issue changes. -/
theorem commanded_changes (op : Nat) (ct : CmdCtl) (ks : List (BitVec 5)) (imm : Nat) (he : i.eng = .copy core) :
    let c := commanded s i core op ct ks imm
    c.ops = s.chip.ops ∧ c.nextOp = s.chip.nextOp ∧ c.mem = s.chip.mem ∧ c.queue core ct.queue.toNat = joined s i core op ct ks imm
      ∧ (∀ x, x ≠ ct.queue.toNat → c.queue core x = s.chip.queue core x) ∧ (c.core core).dray.k = (s.chip.core core).dray.k
      ∧ ∀ n, n ≠ core → c.core n = s.chip.core n := by
  have hdray : ((s.chip.nextCid i.eng).1.core core).dray = (s.chip.core core).dray := (nextCid_core ..).2.2
  refine ⟨nextCid_ops .., (nextCid_nextOp_time ..).1, nextCid_mem .., queue_setQueue .., fun x hx => ?_, ?_, fun n hn => ?_⟩
  · rw [commanded, queue_setQueue_ne _ _ _ hx, Chip.queue, hdray, Chip.queue]
  · rw [commanded, Chip.setQueue, dray_setDray, hdray]
  · rw [commanded, Chip.setQueue, Chip.setDray, Chip.core_setCore, if_neg hn, nextCid_core_ne _ _ (by rw [he]; exact hn)]

end

/-- R175: what the commands run, with their registers. -/
theorem exec_command {k : Instr} {op : Nat} {ct : CmdCtl} {ks : List (BitVec 5)} {imm : Nat} (h : commands k = some (op, ct, ks, imm)) (s : State) :
    exec k s = runIssue s (command op ct ks imm) ∧ ks ≠ [] := by
  unfold commands at h
  split at h
  next ct a b => cases h; exact ⟨rfl, List.cons_ne_nil _ _⟩
  next ct a b c d slot bar cl => cases h; exact ⟨rfl, List.cons_ne_nil _ _⟩
  next ct a b => cases h; exact ⟨rfl, List.cons_ne_nil _ _⟩
  next ct a b c d => cases h; exact ⟨rfl, List.cons_ne_nil _ _⟩
  next ct o a b =>
    split at h
    next => cases h
    next ho =>
      cases h
      have hexec : exec (.dred ct o a b) s = execDred ct o a b s := rfl
      exact ⟨by simp only [hexec, execDred, if_neg ho], List.cons_ne_nil _ _⟩
  next ct a => cases h; exact ⟨rfl, List.cons_ne_nil _ _⟩
  next ct a sh => cases h; exact ⟨rfl, List.cons_ne_nil _ _⟩
  next => cases h

theorem commandIssue : CommandIssue := by
  refine ⟨fun k op ct ks imm s i core hk hi hflag hroom => ?_, fun ct a b s i core hi => ?_⟩
  · have he : i.eng = .copy core := hi.2.1
    obtain ⟨hexec, hks⟩ := exec_command hk s
    obtain ⟨hops, hnext, hmem, hqueue, hothers, hregs, hcores⟩ := commanded_changes (s := s) op ct ks imm he
    have honly := issueOp_onlyDray (s := s) he (commanded s i core op ct ks imm) (commandOp s.chip i op ct)
    have hdray := dray_of_onlyDray honly
    refine ⟨_, inFlight (commanded s i core op ct ks imm) i (commandOp s.chip i op ct),
      hexec.trans (runIssue_ok hi.1 (command_ready imm hi hks hflag hroom)), ?_, hnext, rfl, rfl, ?_, fun x hx => ?_, ?_, ?_, ?_, fun n hn => ?_⟩
    · exact (issueOp_ops ..).trans (by rw [hops]; rfl)
    · rw [← joined, ← hqueue, Chip.queue, hdray, Chip.queue]
    · rw [← hothers x hx, Chip.queue, hdray, Chip.queue]
    · rw [hdray]; exact hregs
    · rw [hdray]; exact streamIssued_pos ..
    · exact (congrArg (fun x => x.chip.mem) honly.1).trans hmem
    · exact (honly.2 n).trans ((if_neg hn).trans (hcores n hn))
  · have hexec : exec (.dred ct 3 a b) s = execDred ct 3 a b s := rfl
    exact exec_trapped hexec hi.1 (if_pos rfl)

/-! ### DRESUME and DCANCEL -/

section
variable {s t : State} {i : Issue} {core : Nat}

/-- R183: a queue of the Dray changed. -/
theorem onlyDray_setQueue {d : Dray} (h : OnlyDray core d s t) (q : Nat) (k : Queue) :
    OnlyDray core { d with queues := aput Queue.zero d.queues q k } s { t with chip := t.chip.setQueue core q k } :=
  onlyDray_modDray h fun d => { d with queues := aput Queue.zero d.queues q k }

/-- R183, R184: a Dray whose stream has passed a word that changes a queue and gives `v`. -/
def queueControlled (d : Dray) (i : Issue) (a : BitVec 5) (q : Nat) (k : Queue) (v : Nat) : Dray :=
  { d with queues := aput Queue.zero d.queues q k, k := aput 0 d.k a.toNat (BitVec.ofNat 64 v), kp := aput false d.kp a.toNat false,
           s := moved d.s (i.pos.after i.hdr) }

theorem onlyDray_queueControlled (s : State) (he : i.eng = .copy core) (a : BitVec 5) (q : Nat) (k : Queue) (v : Nat) :
    OnlyDray core (queueControlled (s.chip.core core).dray i a q k v) s
      { s with chip := ((s.chip.setQueue core q k).setK core a (BitVec.ofNat 64 v)).advance i } :=
  onlyDray_setK_advance (onlyDray_setQueue (onlyDray_self core s) q k) he a _

/-- R183: DRESUME of an idle queue whose last command ended CANCELLED, REMOTE or FAULT. -/
theorem dresume_resumes {a : BitVec 5} {qn : BitVec 3} {k : Cmd} (hi : CopyIssuing s i core [] [a])
    (hcmds : (s.chip.queue core qn.toNat).cmds = []) (hlast : (s.chip.queue core qn.toNat).last = some k)
    (hstatus : (s.chip.queue core qn.toNat).status ∈ [1, 2, 4]) :
    ∃ t, exec (.dresume a qn) s = .next t ∧ OnlyDray core (queueControlled (s.chip.core core).dray i a qn.toNat
      { s.chip.queue core qn.toNat with cmds := [{ k with opId := none, cancelled := false }] } 1) s t := by
  have hexec : exec (.dresume a qn) s = execDresume a qn s := rfl
  refine ⟨_, exec_copyOp hexec hi ?_, onlyDray_queueControlled s hi.2.1 a ..⟩
  simp only [hcmds, hlast, if_pos (show _ = 1 ∨ _ = 2 ∨ _ = 4 by simpa using hstatus)]
  rfl

/-- R183: DRESUME of another queue gives 0. -/
theorem dresume_refuses {a : BitVec 5} {qn : BitVec 3} (hi : CopyIssuing s i core [] [a])
    (h : (s.chip.queue core qn.toNat).cmds ≠ [] ∨ (s.chip.queue core qn.toNat).last = none ∨ (s.chip.queue core qn.toNat).status ∉ [1, 2, 4]) :
    exec (.dresume a qn) s = .next { s with chip := (s.chip.setK core a 0).advance i } := by
  have hexec : exec (.dresume a qn) s = execDresume a qn s := rfl
  refine exec_copyOp hexec hi ?_
  dsimp only
  split
  next k hcmds hlast =>
    have hstatus : ¬ ((s.chip.queue core qn.toNat).status = 1 ∨ (s.chip.queue core qn.toNat).status = 2 ∨ (s.chip.queue core qn.toNat).status = 4) := by
      simpa [hcmds, hlast] using h
    rw [if_neg hstatus]
  next => rfl

open Classical in
/-- R174, R184: a running command that can be cancelled is to end CANCELLED; another goes on. -/
theorem cancel_eq (r : Run) : r.cancel =
    if cancellable r then ({ r with ending := some (1, 0, 0), fetched := [], got := [], fault := none }, true) else (r, false) := by
  unfold Run.cancel cancellable
  cases r.ending with
  | some e => by_cases h : e.1 ≤ 1 <;> simp [h]
  | none => by_cases h : r.begun = true ∧ r.p = r.count ∧ r.count ≠ 0 <;> simp [h, and_assoc]

/-- R184: the commands that DCANCEL counts. -/
def notCancelled (l : List Cmd) : Nat := l.countP (fun k => !k.cancelled)

/-- R184: DCANCEL of a queue that runs no command. -/
theorem dcancel_waiting {a : BitVec 5} {qn : BitVec 3} (hi : CopyIssuing s i core [] [a]) (hrun : (s.chip.queue core qn.toNat).run = none) :
    let q := s.chip.queue core qn.toNat
    exec (.dcancel a qn) s = .next { s with chip := ((s.chip.setQueue core qn.toNat { q with cmds := q.cmds.map withdrawn }).setK core a
      (BitVec.ofNat 64 (notCancelled q.cmds))).advance i } := by
  intro q
  have hexec : exec (.dcancel a qn) s = execDcancel a qn s := rfl
  have hq : { q with run := none, cmds := q.cmds.map withdrawn } = { q with cmds := q.cmds.map withdrawn } := by rw [← hrun]
  refine exec_copyOp hexec hi ?_
  rw [← hq, notCancelled, List.countP_eq_length_filter]
  simp only [hrun, if_true, Nat.zero_add]
  rfl

/-- R184: the commands of a queue behind the running one, withdrawn. -/
def restWithdrawn (l : List Cmd) : List Cmd := l.take 1 ++ (l.drop 1).map withdrawn

/-- R174, R184: DCANCEL of a queue that runs a command. -/
theorem dcancel_running {a : BitVec 5} {qn : BitVec 3} {r r' : Run} {hit : Bool} (hi : CopyIssuing s i core [] [a])
    (hrun : (s.chip.queue core qn.toNat).run = some r) (hcancel : r.cancel = (r', hit)) :
    let q := s.chip.queue core qn.toNat
    exec (.dcancel a qn) s = .next { s with chip := (((if hit then s.chip.orphanFaults core qn.toNat else s.chip).setQueue core qn.toNat
      { q with run := some r', cmds := restWithdrawn q.cmds }).setK core a
        (BitVec.ofNat 64 ((if hit then 1 else 0) + notCancelled (q.cmds.drop 1)))).advance i } := by
  intro q
  have hexec : exec (.dcancel a qn) s = execDcancel a qn s := rfl
  refine exec_copyOp hexec hi ?_
  rw [notCancelled, List.countP_eq_length_filter]
  simp only [hrun, hcancel]
  cases hit <;> rfl

/-- R184: DCANCEL of a queue whose running command cannot be cancelled any more. -/
theorem dcancel_spares {a : BitVec 5} {qn : BitVec 3} {r : Run} (hi : CopyIssuing s i core [] [a])
    (hrun : (s.chip.queue core qn.toNat).run = some r) (hr : ¬ cancellable r) :
    let q := s.chip.queue core qn.toNat
    exec (.dcancel a qn) s = .next { s with chip := ((s.chip.setQueue core qn.toNat { q with cmds := restWithdrawn q.cmds }).setK core a
      (BitVec.ofNat 64 (notCancelled (q.cmds.drop 1)))).advance i } := by
  have hq (l : List Cmd) : { s.chip.queue core qn.toNat with run := some r, cmds := l } = { s.chip.queue core qn.toNat with cmds := l } := by
    rw [← hrun]
  simpa only [Bool.false_eq_true, if_false, Nat.zero_add, hq] using dcancel_running hi hrun ((cancel_eq r).trans (if_neg hr))

end

theorem queueControl : QueueControl := by
  intro a qn s i core hi d q after
  have he : i.eng = .copy core := hi.2.1
  refine ⟨fun k hcmds hlast hstatus => dresume_resumes hi hcmds hlast hstatus, fun h => ?_, fun hrun => ?_, fun r hrun =>
    ⟨fun hr => ?_, fun hr => ?_⟩⟩
  · exact ⟨_, dresume_refuses hi h, onlyDray_setK_advance (onlyDray_self core s) he a 0⟩
  · exact ⟨_, dcancel_waiting hi hrun, onlyDray_queueControlled s he a ..⟩
  · exact ⟨_, dcancel_running hi hrun ((cancel_eq r).trans (if_pos hr)),
      onlyDray_queueControlled { s with chip := s.chip.orphanFaults core qn.toNat } he a ..⟩
  · exact ⟨_, dcancel_spares hi hrun hr, onlyDray_queueControlled s he a ..⟩

/-- Settles O34: commands enter their queues; DRESUME and DCANCEL. -/
theorem commandQueues : Obligations.CommandQueues := ⟨commandIssue, queueControl⟩

end Sys2Proof.Proofs
end

section
/-! PROOF. Accesses of lanes to banks (O24): what a bank's bytes are after stores of several lanes and after an atomic, and the operations that
LDB, STB and ATOMW become. -/

namespace Sys2Proof.Proofs

open Sys2Proof Sys2Proof.Machine Sys2Proof.Claims

/-! ### Bytes of a bank -/

theorem putBytes_append (xs ys : List (Nat × Byte)) (m : AMap Byte) : putBytes m (xs ++ ys) = putBytes (putBytes m xs) ys := by
  induction xs generalizing m with
  | nil => rfl
  | cons x xs ih => exact ih _

/-- Bytes put at rising offsets are put as one run. -/
theorem putBytes_zipIdx (bs : List Byte) (m : AMap Byte) (a k : Nat) :
    putBytes m ((bs.zipIdx k).map (fun p => (a + p.2, p.1))) = aputN 0 m (a + k) bs := by
  induction bs generalizing m k with
  | nil => rfl
  | cons b bs ih => exact ih _ (k + 1)

theorem putBytes_bytesAt (m : AMap Byte) (off n v : Nat) : putBytes m (bytesAt off n v) = aputN 0 m off (bytesOf n v) :=
  putBytes_zipIdx (bytesOf n v) m off 0

/-- R202: a byte of a bank after a value has been put there. -/
theorem aget_putBytes_bytesAt (m : AMap Byte) (off n v k : Nat) : aget 0 (putBytes m (bytesAt off n v)) k =
    if off ≤ k ∧ k < off + n then BitVec.ofNat 8 (v / 2 ^ (8 * (k - off))) else aget 0 m k := by
  rw [putBytes_bytesAt, aget_aputN, bytesOf_length]
  split
  next h => exact bytesOf_getD n v (k - off) (by omega)
  next => rfl

/-- What a bank holds where a value has been written. -/
theorem read_write_same (b : Bank) (off n v : Nat) (marks : List Nat) : (b.write (bytesAt off n v) marks).read off n = v % 2 ^ (8 * n) := by
  have hput : (b.write (bytesAt off n v) marks).data = aputN 0 b.data off (bytesOf n v) := putBytes_bytesAt b.data off n v
  have hget := agetN_aputN_same (0 : Byte) (bytesOf n v) b.data off
  rw [bytesOf_length] at hget
  rw [Bank.read, hput, hget, natOfBytes_bytesOf, show (256 : Nat) ^ n = 2 ^ (8 * n) from (pow_mul 2 8 n).symm]

/-! ### Stores of several lanes -/

/-- An access writes byte `k` of bank `b`. -/
def Covers (a : BankAcc) (b k : Nat) : Prop := a.bank = b ∧ a.off ≤ k ∧ k < a.off + a.n

/-- R202: the bytes that accesses write into one bank, in their order. -/
def storedIn (accs : List BankAcc) (b : Nat) : List (Nat × Byte) := (accs.filter (fun a => a.bank == b)).flatMap (fun a => bytesAt a.off a.n a.val)

/-- A byte after the first of several accesses and then the others. -/
theorem putBytes_storedIn_cons (a : BankAcc) (accs : List BankAcc) (b : Nat) (m : AMap Byte) :
    putBytes m (storedIn (a :: accs) b) = putBytes (if a.bank = b then putBytes m (bytesAt a.off a.n a.val) else m) (storedIn accs b) := by
  by_cases h : a.bank = b
  · simp [storedIn, h, putBytes_append]
  · simp [storedIn, h]

/-- A byte that no access writes stays. -/
theorem aget_storedIn_of_not_covers {accs : List BankAcc} {b k : Nat} (h : ∀ a ∈ accs, ¬ Covers a b k) (m : AMap Byte) :
    aget 0 (putBytes m (storedIn accs b)) k = aget 0 m k := by
  induction accs generalizing m with
  | nil => rfl
  | cons a accs ih =>
    rw [List.forall_mem_cons] at h
    rw [putBytes_storedIn_cons, ih h.2]
    split
    next hb => rw [aget_putBytes_bytesAt, if_neg fun hk => h.1 ⟨hb, hk⟩]
    next => rfl

/-- R202: a byte that several lanes write is the highest lane's. -/
theorem aget_storedIn_of_covers {accs : List BankAcc} (hs : accs.Pairwise (fun x y => x.lane < y.lane)) {a : BankAcc} (ha : a ∈ accs) {b k : Nat}
    (hc : Covers a b k) (hlast : ∀ x ∈ accs, a.lane < x.lane → ¬ Covers x b k) (m : AMap Byte) :
    aget 0 (putBytes m (storedIn accs b)) k = BitVec.ofNat 8 (a.val / 2 ^ (8 * (k - a.off))) := by
  induction accs generalizing m with
  | nil => cases ha
  | cons y accs ih =>
    rw [List.pairwise_cons] at hs
    rw [List.forall_mem_cons] at hlast
    rw [putBytes_storedIn_cons]
    rcases List.mem_cons.1 ha with rfl | hmem
    · rw [if_pos hc.1, aget_storedIn_of_not_covers fun x hx => hlast.2 x hx (hs.1 x hx), aget_putBytes_bytesAt, if_pos hc.2]
    · exact ih hs.2 hmem hlast.2 _

/-! ### Banks -/

theorem bank_setBank_at (c : Chip) (cl b cl' b' : Nat) (k : Bank) :
    (c.setBank cl b k).bank cl' b' = if cl' = cl ∧ b' = b then k else c.bank cl' b' := by
  by_cases h : cl' = cl
  · subst h; simp [bank_setBank]
  · simp [Chip.bank, Chip.setBank, Chip.cluster_setCluster, h]

theorem nodup_eraseDups (l : List Nat) : l.eraseDups.Nodup := by
  induction hn : l.length using Nat.strong_induction_on generalizing l with
  | _ n ih =>
    cases l with
    | nil => exact List.nodup_nil
    | cons a l =>
      have hlen : (l.filter (fun b => !b == a)).length < n := by
        have := List.length_filter_le (fun b => !b == a) l
        simp only [List.length_cons] at hn
        omega
      rw [List.eraseDups_cons, List.nodup_cons]
      exact ⟨by simp, ih _ hlen _ rfl⟩

/-- Banks of one cluster changed one after the other, each of them once. -/
theorem bank_foldl_setBank (cl : Nat) (f : Nat → Bank → Bank) (bs : List Nat) (hn : bs.Nodup) (c : Chip) (cl' b : Nat) :
    (bs.foldl (fun (d : Chip) x => d.setBank cl x (f x (d.bank cl x))) c).bank cl' b =
      if cl' = cl ∧ b ∈ bs then f b (c.bank cl b) else c.bank cl' b := by
  induction bs generalizing c with
  | nil => simp
  | cons x bs ih =>
    rw [List.nodup_cons] at hn
    rw [List.foldl_cons, ih hn.2]
    simp only [bank_setBank_at, true_and, List.mem_cons]
    by_cases hx : b = x
    · subst hx; simp [hn.1]
    · simp [hx]

/-- R202: the bytes of a bank after the stores of an instruction. -/
theorem bankStore_data (c : Chip) (cl : Nat) (accs : List BankAcc) (cl' b : Nat) :
    ((c.bankStore cl accs).bank cl' b).data = if cl' = cl then putBytes (c.bank cl' b).data (storedIn accs b) else (c.bank cl' b).data := by
  have hfold := bank_foldl_setBank cl (fun x k => k.write (storedIn accs x) []) (accs.map (fun a => a.bank)).eraseDups
    (nodup_eraseDups _) c cl' b
  have hstore : (c.bankStore cl accs).bank cl' b = _ := hfold
  rw [hstore]
  by_cases h : cl' = cl
  · subst h
    by_cases hb : b ∈ (accs.map (fun a => a.bank)).eraseDups
    · rw [if_pos ⟨rfl, hb⟩, if_pos rfl]; rfl
    · have hnone : storedIn accs b = [] := by
        rw [storedIn, List.filter_eq_nil_iff.2, List.flatMap_nil]
        intro a ha hab
        exact hb (List.mem_eraseDups.2 (List.mem_map.2 ⟨a, ha, by simpa using hab⟩))
      rw [if_neg fun hx => hb hx.2, if_pos rfl, hnone]; rfl
  · rw [if_neg fun hx => h hx.1, if_neg h]

/-- R202: the stores of lanes in ascending order: of the lanes that write a byte the highest one's stays; other bytes stay. -/
theorem bankStore_lanes (c : Chip) (cl : Nat) {ls : List Nat} (hs : ls.Pairwise (· < ·)) {acc : Nat → BankAcc} (hacc : ∀ l, (acc l).lane = l) :
    (∀ l ∈ ls, ∀ b k, Covers (acc l) b k → (∀ l' ∈ ls, l < l' → ¬ Covers (acc l') b k) →
      aget 0 ((c.bankStore cl (ls.map acc)).bank cl b).data k = BitVec.ofNat 8 ((acc l).val / 2 ^ (8 * (k - (acc l).off))))
    ∧ ∀ cl' b k, (∀ l ∈ ls, cl' = cl → ¬ Covers (acc l) b k) →
      aget 0 ((c.bankStore cl (ls.map acc)).bank cl' b).data k = aget 0 (c.bank cl' b).data k := by
  have hpair : (ls.map acc).Pairwise (fun x y => x.lane < y.lane) := List.pairwise_map.2 (hs.imp fun h => by rwa [hacc, hacc])
  refine ⟨fun l hl b k hc hlast => ?_, fun cl' b k hnone => ?_⟩
  · rw [bankStore_data, if_pos rfl]
    refine aget_storedIn_of_covers hpair (List.mem_map_of_mem hl) hc (List.forall_mem_map.2 fun l' hl' hlt => hlast l' hl' ?_) _
    rwa [hacc, hacc] at hlt
  · rw [bankStore_data]
    split
    next h => exact aget_storedIn_of_not_covers (List.forall_mem_map.2 fun l hl => hnone l hl h) _
    next => rfl

/-- A chip without its banks. -/
def offBanks (c : Chip) : Chip := { c with clusters := [] }

theorem offBanks_keeps {c c' : Chip} (h : offBanks c' = offBanks c) :
    c'.ops = c.ops ∧ c'.mem = c.mem ∧ ∀ core slot, c'.warp core slot = c.warp core slot :=
  ⟨(congrArg Chip.ops h :), (congrArg Chip.mem h :), fun core slot => (congrArg (fun x : Chip => x.warp core slot) h :)⟩

/-- R202: stores to banks change banks alone. -/
theorem offBanks_bankStore (c : Chip) (cl : Nat) (accs : List BankAcc) : offBanks (c.bankStore cl accs) = offBanks c :=
  foldl_keeps offBanks _ _ c fun _ _ _ h => h

/-- R311: atomics on banks change banks alone. -/
theorem offBanks_bankAtomics (cl aop : Nat) (accs : List BankAcc) (c : Chip) : offBanks (Chip.bankAtomics cl aop accs c).1 = offBanks c := by
  induction accs generalizing c with
  | nil => rfl
  | cons a accs ih => exact ih _

/-- R224: an acquire leaves the banks as they were. -/
theorem acquire_clusters (c : Chip) (n scope : Nat) : (c.acquire n scope).clusters = c.clusters := by
  unfold Chip.acquire
  split <;> rfl

theorem bank_of_clusters {c c' : Chip} (h : c'.clusters = c.clusters) (cl b : Nat) : c'.bank cl b = c.bank cl b := by
  simp only [Chip.bank, Chip.cluster, h]

/-! ### Bank accesses -/

/-- R202: where a usable bank address leads. -/
theorem bankAddr_usable {c : Chip} {e : Eng} {op n : Nat} {write : Bool} {a : Int} (h : BankUsable c e op n write a) :
    c.bankAddr e op n write a = .ok (c.physSlot e (a.toNat / 2 ^ 29), bankOf c e a.toNat) := by
  obtain ⟨h0, sl, b, hok⟩ := h
  have hleads : (sl, b) = (c.physSlot e (a.toNat / 2 ^ 29), bankOf c e a.toNat) := by
    simp only [Chip.bankCheck] at hok
    split_ifs at hok
    exact (Except.ok.inj hok).symm
  rw [Chip.bankAddr, if_neg (by omega), hok, ← hleads]

/-- R202: the accesses of lanes none of which traps. -/
theorem bankAccs_usable {p : Prep} (hb : p.bad = none) {i : Issue} {c : Chip} {op n : Nat} {write : Bool} {a : Nat → Int} (v : Nat → Int)
    (h : ∀ l ∈ p.parts, BankUsable c i.eng op n write (a l)) :
    p.bankAccs i c op n write a v
      = .ok (p.parts.map (fun l => (bankTouch c i.eng n write a l, bankAcc c i.eng n a (fun l => (v l).toNat) l))) := by
  have hlow : p.lowest (fun l => bankFault (c.bankAddr i.eng op n write (a l))) p.parts = none := by
    rw [Prep.lowest, hb]
    exact firstLane_none _ _ fun l hl => by rw [bankAddr_usable (h l hl)]; rfl
  rw [Prep.bankAccs, hlow]
  refine congrArg Except.ok ?_
  rw [← List.filterMap_eq_map]
  exact List.filterMap_congr fun l hl => by rw [bankAddr_usable (h l hl)]; rfl

/-- R191, R194: whether bank work may be performed does not depend on memory. -/
theorem bankReady_of_work {c c' : Chip} (h : work c' = work c) (core opId : Nat) (ts : List Touch) :
    c'.bankReady core opId ts = c.bankReady core opId ts := by
  have hscore : (c'.core core).score = (c.core core).score := congrArg (fun x : Chip × (Nat → Core) => (x.2 core).score) h
  simp only [Chip.bankReady, hscore, work_ops h]

theorem clusters_of_work {c c' : Chip} (h : work c' = work c) : c'.clusters = c.clusters :=
  congrArg (fun x : Chip × (Nat → Core) => x.1.clusters) h

/-- R191: bank work that nothing stands in the way of is performed at issue. -/
theorem bankIssue_ready {i : Issue} {c c1 : Chip} {o o2 : Op} {aop d nr acq : Nat} {as : List (Touch × BankAcc)} {once : Bool}
    (hready : c.bankReady i.eng.core c.nextOp (as.map (fun a => a.1)) = true)
    (hdone : c.bankPerform { o with eng := i.eng } aop (as.map (fun a => a.2)) d nr once acq = (c1, o2, none)) :
    bankIssue i c o aop as d nr once acq = .ok (c1.issueOp i o2) := by
  simp only [bankIssue, hready, if_true, hdone]

/-- R105: the lanes that access, where some or no lane executes. -/
theorem parts_eq_ite {p : Prep} {f : Form} {i : Issue} (ha : p.act = f.active i p.w) (ho : p.once = f.once) :
    p.parts = if f.active i p.w = 0 then [] else takers f i p.w := by
  split
  next h =>
    rw [Prep.parts, ha, h, lanesOf_zero]
    split <;> rfl
  next h => exact parts_eq_takers ha ho (ha ▸ h)

theorem takers_pairwise (f : Form) (i : Issue) (w : Warp) : (takers f i w).Pairwise (· < ·) := by
  unfold takers
  split
  · exact List.pairwise_singleton ..
  · exact lanesOf_pairwise _

section
variable {c : Chip} {o : Op} (aop : Nat) {accs : List BankAcc} (d nr : Nat) (once : Bool) (acq : Nat)

/-- R202: loads performed in the banks. -/
theorem bankPerform_load (h : o.code = 0x85) (accs : List BankAcc) : c.bankPerform o aop accs d nr once acq =
    (c, ({ o with late := none } : Op).dest (BitVec.ofNat 10 d) nr once (accs.map (fun a => (a.lane, (c.bank (o.eng.core / 128) a.bank).read a.off a.n,
      (c.bank (o.eng.core / 128) a.bank).marked a.off a.n))), none) := if_pos h

/-- R202: stores performed in the banks. -/
theorem bankPerform_store (h : o.code = 0x86) (accs : List BankAcc) :
    c.bankPerform o aop accs d nr once acq = (c.bankStore (o.eng.core / 128) accs, { o with late := none }, none) :=
  (if_neg (by rw [h]; decide)).trans (if_pos h)

/-- R311: atomics performed in banks where none meets a marked granule. -/
theorem bankPerform_atomic (h : o.code = 0x95) (hm : ∀ a ∈ accs, (c.bank (o.eng.core / 128) a.bank).marked a.off a.n = false) :
    c.bankPerform o aop accs d nr once acq =
      let r := Chip.bankAtomics (o.eng.core / 128) aop accs c
      (r.1.acquire o.eng.core acq, ({ o with late := none } : Op).dest (BitVec.ofNat 10 d) nr once r.2, none) := by
  have hnone : accs.find? (fun a => (c.bank (o.eng.core / 128) a.bank).marked a.off a.n) = none :=
    List.find?_eq_none.2 fun a ha => by simp [hm a ha]
  refine (if_neg (by rw [h]; decide)).trans ((if_neg (by rw [h]; decide)).trans ?_)
  simp only [clusterOf, hnone]

end

/-- R42: an operation that has done its work in the banks joins those in flight. -/
theorem issueOp_keeps {c : Chip} {i : Issue} {core slot : Nat} {w : Warp} (he : i.eng = .warp core slot) (hw : c.warp core slot = some w) (o : Op) :
    (c.issueOp i o).ops = c.ops ++ [inFlight c i o] ∧ (c.issueOp i o).mem = c.mem ∧ (c.issueOp i o).hostMem = c.hostMem
      ∧ (c.issueOp i o).intents = c.intents ∧ (c.issueOp i o).clusters = c.clusters := by
  rw [issueOp_warp he hw]
  exact ⟨rfl, rfl, rfl, rfl, rfl⟩

theorem bankAddr_eq (w : Warp) (x : Reg) (off : Int) (n l : Nat) : ((srcX x).val w l : Int) + off * (n : Nat) = bankAddr w x off n l := by
  rw [srcX_val]; rfl

section
variable {s : State} {i : Issue} {core slot : Nat} {w : Warp} (hi : Issuing s i core slot w)
include hi

theorem core_of_issuing : i.eng.core = core := by rw [hi.eng]; rfl

/-- R191: bank work that nothing stands in the way of still has nothing in its way once memory has been accessed. -/
theorem bankReady_issuing {c : Chip} (hwork : work c = work s.chip) {ts : List Touch} (h : s.chip.bankReady core s.chip.nextOp ts = true) :
    c.bankReady i.eng.core c.nextOp ts = true := by
  rw [core_of_issuing hi, work_nextOp hwork, bankReady_of_work hwork, h]

theorem warp_issuing {c : Chip} (hwork : work c = work s.chip) : c.warp core slot = some w := (work_warp hwork core slot).trans hi.warp

end

theorem issueRest_nextCid (c : Chip) (e : Eng) : issueRest (c.nextCid e).1 = issueRest c := by
  obtain ⟨a, b, d, h⟩ := nextCid_form c e
  rw [h]; rfl

/-- R202: what a bank holds at a lane's address, and whether a granule there is marked. -/
def bankGets (c : Chip) (cl n : Nat) (e : Eng) (a : Nat → Int) (l : Nat) : Nat × Bool :=
  let b := c.bank cl (bankOf c e (a l).toNat)
  (b.read ((a l).toNat % 2 ^ 20) n, b.marked ((a l).toNat % 2 ^ 20) n)

/-- R202: the operation that LDB becomes. -/
def loadedOp (e : Eng) (flag : Option Nat) (cid : DWord) (d : Reg) (nr : Nat) (once : Bool) (ls : List Nat) (v : Nat → Nat × Bool) : Op :=
  ({ Op.blank 0x85 flag cid with eng := e } : Op).dest d nr once (ls.map (fun l => (l, v l)))

theorem loadIssued_loadedOp {s : State} {i : Issue} {core slot : Nat} {w : Warp} (hi : Issuing s i core slot w) (flag : Option Nat) (cid : DWord)
    (d : Reg) (nr : Nat) (once : Bool) (ls : List Nat) (v : Nat → Nat × Bool) :
    LoadIssued flag d nr once ls v s.chip { s with chip := (s.chip.nextCid i.eng).1.issueOp i (loadedOp i.eng flag cid d nr once ls v) } := by
  have hrest := issueRest_nextCid s.chip i.eng
  simp only [issueRest, Prod.mk.injEq] at hrest
  obtain ⟨hops, hnext, hmem, hhost, hint⟩ := hrest
  obtain ⟨hops', hmem', hhost', hint', -⟩ := issueOp_keeps hi.eng (warp_issuing hi (work_nextCid s.chip i.eng)) (loadedOp i.eng flag cid d nr once ls v)
  refine ⟨_, hops'.trans (by rw [hops]), hnext, ?_⟩
  simp only [hmem', hhost', hint', hmem, hhost, hint]
  cases once <;> simp only [loadedOp, inFlight, Op.dest, Op.blank, List.flatMap_map, Bool.false_eq_true, if_false, if_true, and_self]

/-- R202: LDB of lanes that nothing stops. -/
theorem exec_ldb {g : Guard} {fsel sz : BitVec 2} {d x : Reg} {off : BitVec 15} {s : State} {i : Issue} {nr : Nat} {p : Prep}
    (hnr : (if sz = 3#2 then 2 else 1) = nr) (hi : Issuing s i p.core p.slot p.w) (hflag : s.chip.flagFull i.eng (flagOf i.hdr fsel.toNat) = false)
    (hp : prepLanes { op := 0x85, g := g, hq := false, d := some (d, nr), ud := .rule, srcs := [srcX x] } i s.chip = .ok p) (hbad : p.bad = none)
    (ha : ∀ l ∈ p.parts, BankUsable s.chip i.eng 0x85 (szBytes sz) false (bankAddr p.w x off.toInt (szBytes sz) l))
    (hready : s.chip.bankReady p.core s.chip.nextOp
      (p.parts.map (bankTouch s.chip i.eng (szBytes sz) false (bankAddr p.w x off.toInt (szBytes sz)))) = true) :
    exec (.ldb g fsel sz d x off) s = .next { s with chip := (s.chip.nextCid i.eng).1.issueOp i (loadedOp i.eng (flagOf i.hdr fsel.toNat)
      (s.chip.nextCid i.eng).2 d nr p.once p.parts (bankGets s.chip (p.core / 128) (szBytes sz) i.eng (bankAddr p.w x off.toInt (szBytes sz)))) } := by
  have hwork := work_nextCid s.chip i.eng
  have hexec : exec (.ldb g fsel sz d x off) s = execLdb g fsel sz d x off s := rfl
  refine hexec.trans (runIssue_ok hi.cur ?_)
  simp only [withFlag, hflag, Bool.false_eq_true, if_false, hnr, hp, bankAddr_eq, bankAccs_usable hbad _ ha]
  refine (bankIssue_ready (bankReady_issuing hi hwork (by rw [List.map_map]; exact hready))
    (bankPerform_load (o := { Op.blank 0x85 _ _ with eng := i.eng }) _ _ _ _ _ rfl _)).trans ?_
  simp only [core_of_issuing hi, bank_of_clusters (clusters_of_work hwork), BitVec.ofNat_toNat, BitVec.setWidth_eq, List.map_map]
  rfl

/-- R202: the operation that STB becomes. -/
def storedOp (e : Eng) (flag : Option Nat) (cid : DWord) : Op := { Op.blank 0x86 flag cid with eng := e }

/-- R202: STB of lanes that nothing stops. -/
theorem exec_stb {g : Guard} {fsel sz : BitVec 2} {d x : Reg} {off : BitVec 15} {s : State} {i : Issue} {nr : Nat} {p : Prep}
    (hnr : (if sz = 3#2 then 2 else 1) = nr) (hi : Issuing s i p.core p.slot p.w) (hflag : s.chip.flagFull i.eng (flagOf i.hdr fsel.toNat) = false)
    (hp : prepLanes { op := 0x86, g := g, hq := false, d := none, ud := .rule, srcs := [{ code := d, field := 0, n := nr, ia := false }, srcX x] }
      i s.chip = .ok p) (hbad : p.bad = none)
    (ha : ∀ l ∈ p.parts, BankUsable s.chip i.eng 0x86 (szBytes sz) true (bankAddr p.w x off.toInt (szBytes sz) l))
    (hready : s.chip.bankReady p.core s.chip.nextOp
      (p.parts.map (bankTouch s.chip i.eng (szBytes sz) true (bankAddr p.w x off.toInt (szBytes sz)))) = true) :
    exec (.stb g fsel sz d x off) s = .next { s with
      chip := ((s.chip.nextCid i.eng).1.bankStore (p.core / 128) (p.parts.map (bankAcc s.chip i.eng (szBytes sz)
        (bankAddr p.w x off.toInt (szBytes sz)) (fun l => p.w.regs d.toNat l nr % 2 ^ (8 * szBytes sz))))).issueOp i
          (storedOp i.eng (flagOf i.hdr fsel.toNat) (s.chip.nextCid i.eng).2) } := by
  have hwork := work_nextCid s.chip i.eng
  have hexec : exec (.stb g fsel sz d x off) s = execStb g fsel sz d x off s := rfl
  refine hexec.trans (runIssue_ok hi.cur ?_)
  simp only [withFlag, hflag, Bool.false_eq_true, if_false, hnr, hp, bankAddr_eq, bankAccs_usable hbad _ ha]
  refine (bankIssue_ready (bankReady_issuing hi hwork (by rw [List.map_map]; exact hready))
    (bankPerform_store (o := { Op.blank 0x86 _ _ with eng := i.eng }) _ _ _ _ _ rfl _)).trans ?_
  simp only [core_of_issuing hi, List.map_map]
  rfl

/-- R202, R191: what LDB and STB leave of banks, memory and the operations in flight. -/
theorem bankAccessResult : BankAccessResult := by
  intro g fsel sz d x off s i core slot w n nr a flag hi hflag
  refine ⟨?_, ?_⟩
  · intro f ls b v hr ha hready
    obtain ⟨p, hp, hbad, hact, honce, rfl, rfl, rfl⟩ := prepLanes_of_ready hi hr
    have hparts : p.parts = ls := parts_eq_ite hact honce
    rw [← hparts] at ha hready ⊢
    rw [← honce]
    refine ⟨_, exec_ldb rfl hi hflag hp hbad ha hready, loadIssued_loadedOp hi .., ?_⟩
    obtain ⟨-, -, -, -, hcl⟩ := issueOp_keeps hi.eng (warp_issuing hi (work_nextCid s.chip i.eng)) (loadedOp i.eng flag (s.chip.nextCid i.eng).2 d nr
      p.once p.parts v)
    exact hcl.trans (clusters_of_work (work_nextCid ..))
  · intro f ls hit hr ha hready
    obtain ⟨p, hp, hbad, hact, honce, rfl, rfl, rfl⟩ := prepLanes_of_ready hi hr
    have hparts : p.parts = ls := parts_eq_ite hact honce
    rw [← hparts] at ha hready ⊢
    have hc1 : work (s.chip.nextCid i.eng).1 = work s.chip := work_nextCid ..
    obtain ⟨hso, hsm, hsw⟩ := offBanks_keeps (offBanks_bankStore (s.chip.nextCid i.eng).1 (p.core / 128)
      (p.parts.map (bankAcc s.chip i.eng n a (fun l => p.w.regs d.toNat l nr % 2 ^ (8 * n)))))
    obtain ⟨hops, hmem, -, -, hcl⟩ := issueOp_keeps hi.eng ((hsw ..).trans (warp_issuing hi hc1)) (storedOp i.eng flag (s.chip.nextCid i.eng).2)
    rw [hso, work_ops hc1] at hops
    have hbyte (cl b k : Nat) := congrArg (fun x : Bank => aget 0 x.data k) (bank_of_clusters hcl cl b)
    have hpair : p.parts.Pairwise (· < ·) := by
      rw [hparts]; dsimp only [ls]
      split
      · exact .nil
      · exact takers_pairwise ..
    obtain ⟨hhit, hmiss⟩ := bankStore_lanes (s.chip.nextCid i.eng).1 (p.core / 128) hpair (acc := bankAcc s.chip i.eng n a _) fun _ => rfl
    simp only [bank_of_clusters (clusters_of_work hc1)] at hmiss
    refine ⟨_, _, exec_stb rfl hi hflag hp hbad ha hready, hops, rfl, rfl, rfl, rfl, hmem.trans (hsm.trans (nextCid_mem ..)), ?_, ?_⟩
    · intro l hl cl b k hh hlast
      obtain ⟨rfl, hb, hk⟩ := hh
      refine (hbyte _ b k).trans ?_
      exact hhit l hl b k ⟨hb.symm, hk⟩ fun l' hl' hlt hc => hlast l' hl' hlt ⟨rfl, hc.1.symm, hc.2⟩
    · intro cl b k hnone
      refine (hbyte cl b k).trans ?_
      exact hmiss cl b k fun l hl hcl hc => hnone l hl ⟨hcl, hc.1.symm, hc.2⟩

/-! ### ATOMW -/

theorem work_semRelease {op scope : Nat} {sem : BitVec 2} {cid : Option DWord} {i : Issue} {c c' : Chip} {race : Option Nat}
    (h : semRelease op sem scope cid i c = .ok (c', race)) : work c' = work c := by
  unfold semRelease at h
  split at h
  · exact work_releaseFor h
  · obtain rfl := congrArg Prod.fst (Except.ok.inj h); rfl

/-- R311: the operation that ATOMW becomes, with each lane's old value. -/
def exchangedOp (e : Eng) (flag : Option Nat) (cid : DWord) (race : Option Nat) (d : Reg) (nr : Nat) (once : Bool) (olds : List (Nat × Nat × Bool)) : Op :=
  ({ Op.blank 0x95 flag cid with race := race, eng := e } : Op).dest d nr once olds

theorem exchangedOp_keeps (e : Eng) (flag : Option Nat) (cid : DWord) (race : Option Nat) (d : Reg) (nr : Nat) (once : Bool)
    (olds : List (Nat × Nat × Bool)) :
    (exchangedOp e flag cid race d nr once olds).flag = flag ∧ (exchangedOp e flag cid race d nr once olds).race = race := by
  unfold exchangedOp Op.dest
  split <;> exact ⟨rfl, rfl⟩

/-- R311: the scope at which ATOMW acquires. -/
def acquireScope (sem : BitVec 2) (scope : BitVec 3) : Nat := if sem = 1#2 ∨ sem = 3#2 then scope.toNat else 0

/-- R311: ATOMW of lanes that nothing stops. -/
theorem exec_atomw {g : Guard} {w8 : Bool} {aop : BitVec 4} {scope : BitVec 3} {sem : BitVec 2} {d x v : Reg} {s : State} {i : Issue} {n : Nat} {p : Prep}
    {c1 : Chip} {race : Option Nat} (hn : (if w8 then 8 else 4) = n) (hi : Issuing s i p.core p.slot p.w)
    (hflag : s.chip.flagFull i.eng (flagSeta i.hdr) = false)
    (hp : prepLanes { op := 0x95, g := g, hq := false, d := some (d, n / 4), ud := .rule,
                      srcs := [srcX x, { code := v, field := 5, n := n / 4, ia := false }] } i s.chip = .ok p) (hbad : p.bad = none)
    (ha : ∀ l ∈ p.parts, BankUsable s.chip i.eng 0x95 n true (bankAddr p.w x 0 n l)) (hbusy : s.chip.atomicBusy i = false)
    (hrel : semRelease 0x95 sem scope.toNat (some (s.chip.nextCid i.eng).2) i (s.chip.nextCid i.eng).1 = .ok (c1, race))
    (hready : c1.bankReady p.core c1.nextOp (p.parts.map (bankTouch s.chip i.eng n true (bankAddr p.w x 0 n))) = true)
    (hm : ∀ l ∈ p.parts, let k := bankAcc s.chip i.eng n (bankAddr p.w x 0 n) (fun l => p.w.regs v.toNat l (n / 4)) l
      (c1.bank (p.core / 128) k.bank).marked k.off n = false) :
    exec (.atomw g w8 aop scope sem d x v) s = .next { s with
      chip := ((Chip.bankAtomics (p.core / 128) aop.toNat (p.parts.map (bankAcc s.chip i.eng n (bankAddr p.w x 0 n)
        (fun l => p.w.regs v.toNat l (n / 4)))) c1).1.acquire p.core (acquireScope sem scope)).issueOp i
          (exchangedOp i.eng (flagSeta i.hdr) (s.chip.nextCid i.eng).2 race d (n / 4) p.once (Chip.bankAtomics (p.core / 128) aop.toNat
            (p.parts.map (bankAcc s.chip i.eng n (bankAddr p.w x 0 n) (fun l => p.w.regs v.toNat l (n / 4)))) c1).2) } := by
  have hexec : exec (.atomw g w8 aop scope sem d x v) s = execAtomw g w8 aop scope sem d x v s := rfl
  have haddr (l : Nat) : ((srcX x).val p.w l : Int) = bankAddr p.w x 0 n l := by rw [← bankAddr_eq]; simp
  refine hexec.trans (runIssue_ok hi.cur ?_)
  simp only [withFlag, hflag, Bool.false_eq_true, if_false, hn, hp, haddr, bankAccs_usable hbad _ ha, hbusy, hrel]
  refine (bankIssue_ready (by rw [core_of_issuing hi, List.map_map]; exact hready)
    (bankPerform_atomic (o := { Op.blank 0x95 _ _ with race := race, eng := i.eng }) _ _ _ _ _ rfl ?_)).trans ?_
  · simp only [core_of_issuing hi, List.map_map]
    exact List.forall_mem_map.2 hm
  · simp only [core_of_issuing hi, List.map_map, BitVec.ofNat_toNat, BitVec.setWidth_eq]
    rfl

/-- R311: one lane's atomic on a bank. -/
theorem bankAtomics_single (cl aop : Nat) (a : BankAcc) (c : Chip) :
    let old := (c.bank cl a.bank).read a.off a.n
    Chip.bankAtomics cl aop [a] c = (c.setBank cl a.bank ((c.bank cl a.bank).write (bytesAt a.off a.n (applyAop aop a.n old a.val)) []),
      [(a.lane, old, false)]) := rfl

/-- R311: the old value and the new one of a single lane's atomic; every other byte of a bank stays. -/
theorem bankAtomics_single_bytes (cl aop : Nat) (a : BankAcc) (c : Chip) :
    let old := (c.bank cl a.bank).read a.off a.n
    let o := Chip.bankAtomics cl aop [a] c
    o.2 = [(a.lane, old, false)] ∧ (o.1.bank cl a.bank).read a.off a.n = applyAop aop a.n old a.val % 2 ^ (8 * a.n)
      ∧ ∀ cl' b k, (cl' ≠ cl ∨ b ≠ a.bank ∨ k < a.off ∨ a.off + a.n ≤ k) → aget 0 (o.1.bank cl' b).data k = aget 0 (c.bank cl' b).data k := by
  intro old o
  refine ⟨rfl, ?_, fun cl' b k hk => ?_⟩
  · simp only [o, bankAtomics_single, bank_setBank_at, true_and, if_true, read_write_same]
    rfl
  · simp only [o, bankAtomics_single, bank_setBank_at]
    split
    next h =>
      obtain ⟨rfl, rfl⟩ := h
      refine (aget_putBytes_bytesAt ..).trans (if_neg ?_)
      omega
    next => rfl

theorem bankAtomicResult : BankAtomicResult := by
  intro g w8 aop scope sem d x v s i core slot w c1 race n f a ls acc o hi hflag hr ha hbusy hrel hready hm
  obtain ⟨p, hp, hbad, hact, honce, rfl, rfl, rfl⟩ := prepLanes_of_ready hi hr
  have hparts : p.parts = ls := parts_eq_ite hact honce
  have hc1 : work c1 = work s.chip := (work_semRelease hrel).trans (work_nextCid ..)
  obtain ⟨hao, ham, haw⟩ := offBanks_keeps (offBanks_bankAtomics (p.core / 128) aop.toNat (ls.map acc) c1)
  obtain ⟨hqm, hqo, hqw⟩ := acquire_keeps o.1 p.core (acquireScope sem scope) p.core p.slot
  obtain ⟨hops, hmem, -, -, hcl⟩ := issueOp_keeps hi.eng (hqw.trans ((haw ..).trans (warp_issuing hi hc1)))
    (exchangedOp i.eng (flagSeta i.hdr) (s.chip.nextCid i.eng).2 race d (n / 4) p.once o.2)
  rw [hqo, hao] at hops
  rw [← hparts] at ha hready hm
  have hexec := exec_atomw (aop := aop) rfl hi hflag hp hbad ha hbusy hrel hready hm
  rw [hparts] at hexec
  have hclus := hcl.trans (acquire_clusters ..)
  refine ⟨_, _, hexec, hops, ?_, ?_, hmem.trans (hqm.trans ham), hclus, ?_, ?_⟩
  · exact (exchangedOp_keeps ..).1
  · exact (exchangedOp_keeps ..).2
  · intro hu
    have honce : p.once = false := honce.trans hu
    rw [honce]; rfl
  · intro l hl old
    have ho : o = Chip.bankAtomics (p.core / 128) aop.toNat [acc l] c1 := by simp only [o, hl, List.map_cons, List.map_nil]
    obtain ⟨hold, hnew, hrest⟩ := bankAtomics_single_bytes (p.core / 128) aop.toNat (acc l) c1
    rw [← ho] at hold hnew hrest
    have hbank (cl b : Nat) := bank_of_clusters hclus cl b
    exact ⟨hold, (congrArg (fun k : Bank => k.read (acc l).off n) (hbank ..)).trans hnew,
      fun cl b k hk => (congrArg (fun y : Bank => aget 0 y.data k) (hbank cl b)).trans (hrest cl b k hk)⟩

/-- Settles O24: the accesses of LDB and STB byte by byte, and the atomics of ATOMW. -/
theorem bankAccesses : Obligations.BankAccesses := ⟨bankAccessResult, bankAtomicResult⟩

end Sys2Proof.Proofs
end

section
/-! PROOF. Bank maps (O25): GIVE, TAKE, RELB and BMAPR, what they leave of window slots, drains, banks and gangs, and the attachment of a
drained bank. -/

namespace Sys2Proof.Proofs

open Sys2Proof Sys2Proof.Machine Sys2Proof.Claims

/-! ### Window slots, drains, banks and gangs -/

/-- What bank maps speak of: the window slots and the drains of every core, the banks, the gangs. -/
def bankPool (c : Chip) : (Nat → AMap Win × List Give) × AMap Cluster × AMap (Option Gang) :=
  (fun n => ((c.core n).win, (c.core n).gives), c.clusters, c.gangs)

theorem bankPool_of_work {c c' : Chip} (h : work c' = work c) : bankPool c' = bankPool c :=
  congrArg (fun x : Chip × (Nat → Core) => (fun n => ((x.2 n).win, (x.2 n).gives), x.1.clusters, x.1.gangs)) h

section
variable {c c' : Chip} (h : bankPool c' = bankPool c)
include h

theorem win_of_bankPool (n slot : Nat) : c'.win n slot = c.win n slot := (congrArg (fun x => aget Win.zero (x.1 n).1 slot) h :)

theorem gives_of_bankPool (n : Nat) : (c'.core n).gives = (c.core n).gives := (congrArg (fun x => (x.1 n).2) h :)

theorem clusters_of_bankPool : c'.clusters = c.clusters := (congrArg (fun x => x.2.1) h :)

theorem gang_of_bankPool (g : Nat) : c'.gang g = c.gang g := (congrArg (fun x => aget none x.2.2 g) h :)

end

/-- R42: an operation that joins those in flight leaves the bank maps. -/
theorem bankPool_issueOp {c : Chip} {i : Issue} {core slot : Nat} {w : Warp} (he : i.eng = .warp core slot) (hw : c.warp core slot = some w) (o : Op) :
    bankPool (c.issueOp i o) = bankPool c := by
  rw [issueOp_warp he hw]
  refine Prod.ext (funext fun n => ?_) rfl
  simp only [bankPool, Chip.setWarp, Chip.core_setCore]
  split
  next h => rw [h]; rfl
  next => rfl

theorem win_setWin (c : Chip) (n slot m r : Nat) (w : Win) : (c.setWin n slot w).win m r = if m = n ∧ r = slot then w else c.win m r := by
  simp only [Chip.win, Chip.setWin, Chip.core_setCore]
  by_cases h : m = n
  · subst h; simp [aget_aput]
  · simp [h]

theorem win_setWin_ne (c : Chip) {n slot m r : Nat} (w : Win) (h : (m, r) ≠ (n, slot)) : (c.setWin n slot w).win m r = c.win m r := by
  rw [win_setWin, if_neg fun hx => h (Prod.ext hx.1 hx.2)]

theorem gives_setWin (c : Chip) (n slot m : Nat) (w : Win) : ((c.setWin n slot w).core m).gives = (c.core m).gives := by
  rw [Chip.setWin, Chip.core_setCore]
  split
  next h => rw [h]
  next => rfl

theorem warp_setWin (c : Chip) (n slot : Nat) (w : Win) (core s : Nat) : (c.setWin n slot w).warp core s = c.warp core s :=
  warp_setCore (c := c) (k := { c.core n with win := aput Win.zero (c.core n).win slot w }) rfl core s

/-- A core's list of drains replaced. -/
theorem win_setGives (c : Chip) (n : Nat) (l : List Give) (m r : Nat) : (c.setCore n { c.core n with gives := l }).win m r = c.win m r := by
  simp only [Chip.win, Chip.core_setCore]
  split
  next h => rw [h]
  next => rfl

/-- R197, R199: the bank of a slot begins to drain. -/
def draining (c : Chip) (core slot : Nat) (gv : Give) : Chip :=
  (c.detach core slot).setCore core { (c.detach core slot).core core with gives := ((c.detach core slot).core core).gives ++ [gv] }

/-- R197: a slot whose bank drains is empty; the drain joins those of its core; every other slot stays. -/
theorem draining_maps (c : Chip) (core slot : Nat) (gv : Give) :
    (draining c core slot gv).win core slot = { c.win core slot with w := false, v := false, bank := 0 }
      ∧ (∀ n r, (n, r) ≠ (core, slot) → (draining c core slot gv).win n r = c.win n r)
      ∧ ((draining c core slot gv).core core).gives = (c.core core).gives ++ [gv] := by
  unfold draining Chip.detach
  refine ⟨?_, fun n r h => ?_, ?_⟩
  · rw [win_setGives, win_setWin, if_pos ⟨rfl, rfl⟩]
  · rw [win_setGives, win_setWin_ne _ _ h]
  · rw [Chip.core_setCore_same, gives_setWin]

theorem warp_draining (c : Chip) (core slot : Nat) (gv : Give) (n s : Nat) : (draining c core slot gv).warp n s = c.warp n s :=
  (warp_setCore (c := c.detach core slot)
    (k := { (c.detach core slot).core core with gives := ((c.detach core slot).core core).gives ++ [gv] }) rfl n s).trans (warp_setWin ..)

/-- R42, R197: what an operation leaves that joins those in flight once a slot's bank drains. -/
theorem issueOp_draining {c : Chip} {i : Issue} {core slot : Nat} {w : Warp} (he : i.eng = .warp core slot) (hw : c.warp core slot = some w)
    (p : Nat) (gv : Give) (o : Op) :
    let t := (draining c core p gv).issueOp i o
    t.ops = c.ops ++ [inFlight (draining c core p gv) i o] ∧ t.win core p = { c.win core p with w := false, v := false, bank := 0 }
      ∧ (∀ n r, (n, r) ≠ (core, p) → t.win n r = c.win n r) ∧ (t.core core).gives = (c.core core).gives ++ [gv] := by
  have hwarp : (draining c core p gv).warp core slot = some w := (warp_draining ..).trans hw
  obtain ⟨hops, -⟩ := issueOp_keeps he hwarp o
  have hmaps := bankPool_issueOp he hwarp o
  obtain ⟨hwin, hothers, hgives⟩ := draining_maps c core p gv
  exact ⟨hops, (win_of_bankPool hmaps ..).trans hwin, fun n r h => (win_of_bankPool hmaps ..).trans (hothers n r h),
    (gives_of_bankPool hmaps core).trans hgives⟩

/-- R192: a bank attached at a slot: the slot's GEN has risen by one; the bank stands there with its bytes. -/
theorem attach_maps (c : Chip) (core slot bank : Nat) (w : Bool) :
    (c.attach core slot bank w).win core slot = { gen := (c.win core slot).gen + 1, w := w, v := true, bank := bank, resv := false }
      ∧ (c.attach core slot bank w).bank (core / 128) bank = { c.bank (core / 128) bank with at_ := some (core, slot) }
      ∧ (c.attach core slot bank w).gangs = c.gangs ∧ (c.attach core slot bank w).ops = c.ops ∧ (c.attach core slot bank w).mem = c.mem
      ∧ (∀ n s, (c.attach core slot bank w).warp n s = c.warp n s) ∧ ∀ n, ((c.attach core slot bank w).core n).gives = (c.core n).gives := by
  refine ⟨(win_setWin ..).trans (if_pos ⟨rfl, rfl⟩), ?_, rfl, rfl, rfl, fun n s => warp_setWin .., fun n => gives_setWin ..⟩
  exact (bank_setBank_at c (core / 128) bank (core / 128) bank _).trans (if_pos ⟨rfl, rfl⟩)

/-- R193: a bank claimed for a context keeps its bytes where it was that context's, and holds zeros else. -/
theorem claimBank_data (c : Chip) (cl b tag : Nat) :
    ((c.claimBank cl b tag).bank cl b).data = if (c.bank cl b).tag = some tag then (c.bank cl b).data else [] := by
  unfold Chip.claimBank
  dsimp only
  split
  · rfl
  · rw [bank_setBank, if_pos rfl]

theorem offBanks_claimBank (c : Chip) (cl b tag : Nat) : offBanks (c.claimBank cl b tag) = offBanks c := by
  unfold Chip.claimBank
  dsimp only
  split <;> rfl

theorem offBanks_maps {c c' : Chip} (h : offBanks c' = offBanks c) : c'.gangs = c.gangs ∧ ∀ n slot, c'.win n slot = c.win n slot :=
  ⟨(congrArg Chip.gangs h :), fun n slot => (congrArg (fun x : Chip => x.win n slot) h :)⟩

theorem modGang_some {c : Chip} {g : Nat} {k : Gang} (h : c.gang g = some k) (f : Gang → Gang) : c.modGang g f = c.setGang g (f k) := by
  simp only [Chip.modGang, h]

/-- R199: the part once a TAKE has attached the first bank of its gang's reserve. -/
def attached (c : Chip) (core slot gang tag b : Nat) (rest : List Nat) : Chip :=
  ((c.modGang gang (fun k => { k with reserve := rest })).claimBank (core / 128) b tag).attach core slot b true

/-- R193, R199: what an attachment from the reserve leaves: the gang's reserve, the slot, the bank. -/
theorem attached_maps {c : Chip} {gang : Nat} {k : Gang} (hk : c.gang gang = some k) (core p tag r : Nat) (rs : List Nat) :
    let t := attached c core p gang tag r rs
    t.ops = c.ops ∧ (∀ n s, t.warp n s = c.warp n s) ∧ t.gang gang = some { k with reserve := rs }
      ∧ t.win core p = { gen := (c.win core p).gen + 1, w := true, v := true, bank := r, resv := false }
      ∧ (t.bank (core / 128) r).at_ = some (core, p)
      ∧ (t.bank (core / 128) r).data = if (c.bank (core / 128) r).tag = some tag then (c.bank (core / 128) r).data else [] := by
  have hgang : (c.setGang gang { k with reserve := rs }).gang gang = some { k with reserve := rs } := Chip.gang_setGang_same ..
  have hdata := claimBank_data (c.setGang gang { k with reserve := rs }) (core / 128) r tag
  have hclaim := offBanks_claimBank (c.setGang gang { k with reserve := rs }) (core / 128) r tag
  obtain ⟨hops, -, hwarp⟩ := offBanks_keeps hclaim
  obtain ⟨hgangs, hwin⟩ := offBanks_maps hclaim
  rw [attached, modGang_some hk]
  obtain ⟨awin, abank, agangs, aops, -, awarp, -⟩ := attach_maps ((c.setGang gang { k with reserve := rs }).claimBank (core / 128) r tag) core p r true
  exact ⟨aops.trans hops, fun n s => (awarp n s).trans (hwarp n s), (congrArg (fun m => aget none m gang) (agangs.trans hgangs)).trans hgang,
    awin.trans (by rw [hwin]; rfl), congrArg Bank.at_ abank, (congrArg Bank.data abank).trans hdata⟩

/-! ### GIVE, TAKE and RELB -/

section
variable {s : State} {i : Issue} {core slot : Nat} {w : Warp}

/-- R195: the operands of a bank-map instruction. -/
def bankMapForm (op : Nat) (g : Guard) (d : Reg) (srcs : List Src) : Form := { op := op, g := g, hq := false, d := some (d, 1), ud := .rule, srcs := srcs }

/-- R195: the slot that a bank-map instruction names. -/
def slotOperand (a : Reg) : Src := { code := a, field := 1, n := 1, ia := false }

/-- R195: a bank-map instruction that lanes execute, and completes. -/
theorem exec_bankMapOp {k : Instr} {op : Nat} {g : Guard} {fsel : BitVec 2} {d : Reg} {srcs : List Src} {c' : Chip}
    {F : Issue → Chip → Prep → Chip → DWord → Option Nat → Except Stop Chip}
    (hk : exec k s = runIssue s (fun i c => bankMapOp op g fsel d srcs i c (F i c))) (hi : Issuing s i core slot w)
    (hflag : s.chip.flagFull i.eng (flagOf i.hdr fsel.toNat) = false) (hu : isU d.toNat = true)
    (hr : (bankMapForm op g d srcs).Ready s.chip i w) (ha : (bankMapForm op g d srcs).active i w ≠ 0)
    (hF : F i s.chip ((bankMapForm op g d srcs).prepared i core slot w) (s.chip.nextCid i.eng).1 (s.chip.nextCid i.eng).2
      (flagOf i.hdr fsel.toNat) = .ok c') : exec k s = .next { s with chip := c' } := by
  have hprep := prep_ready _ _ _ _ _ _ hi hr
  simp only [bankMapForm] at hprep
  refine hk.trans (runIssue_ok hi.cur ?_)
  simp only [bankMapOp, withFlag, hflag, hu, hprep, Bool.not_true, Bool.false_eq_true, if_false]
  exact (if_neg ha).trans hF

/-- R197: the part once a GIVE has reserved its receiver's slot. -/
def reserved (c : Chip) (bv : Nat) : Chip := c.setWin (bv % 512) (bv / 2 ^ 16 % 8) { c.win (bv % 512) (bv / 2 ^ 16 % 8) with resv := true }

/-- R197: the drain that a GIVE begins. -/
def givenAway (p : Nat) (wn : Win) (bv id : Nat) : Give :=
  { slot := p, toCore := bv % 512, toSlot := bv / 2 ^ 16 % 8, bank := wn.bank, w := wn.w && !bv.testBit 24, op := id }

section
variable {g : Guard} {fsel : BitVec 2} {d a b : Reg} (hi : Issuing s i core slot w)
  (hflag : s.chip.flagFull i.eng (flagOf i.hdr fsel.toNat) = false) (hu : isU d.toNat = true)
include hi hflag hu

/-- R196: GIVE that the Turntable's checks refuse. -/
theorem give_refused {st : Nat} (hr : (bankMapForm 0x8E g d [slotOperand a, srcB b 1]).Ready s.chip i w)
    (ha : (bankMapForm 0x8E g d [slotOperand a, srcB b 1]).active i w ≠ 0) (hj : w.reg a.toNat 0 < s.chip.bcount i.eng)
    (hv : (s.chip.win core (s.chip.physSlot i.eng (w.reg a.toNat 0))).v = true)
    (hcheck : s.chip.giveCheck core w.gang (w.reg b.toNat 0) = some st) :
    exec (.give g fsel d a b) s = .next { s with
      chip := (s.chip.nextCid i.eng).1.issueOp i (statusOp 0x8E (flagOf i.hdr fsel.toNat) (s.chip.nextCid i.eng).2 d st) } := by
  have hexec : exec (.give g fsel d a b) s = execGive g fsel d a b s := rfl
  refine exec_bankMapOp hexec hi hflag hu hr ha ((if_neg (Nat.not_le.2 hj)).trans ((if_neg (by simp [Form.prepared, hv])).trans ?_))
  simp only [Form.prepared, hcheck]

/-- R197: GIVE past its decision point. -/
theorem give_drains (hr : (bankMapForm 0x8E g d [slotOperand a, srcB b 1]).Ready s.chip i w)
    (ha : (bankMapForm 0x8E g d [slotOperand a, srcB b 1]).active i w ≠ 0) (hj : w.reg a.toNat 0 < s.chip.bcount i.eng)
    (hv : (s.chip.win core (s.chip.physSlot i.eng (w.reg a.toNat 0))).v = true) (hcheck : s.chip.giveCheck core w.gang (w.reg b.toNat 0) = none) :
    let p := s.chip.physSlot i.eng (w.reg a.toNat 0)
    let cid := (s.chip.nextCid i.eng).2
    let r := (reserved (s.chip.nextCid i.eng).1 (w.reg b.toNat 0)).releaseBy i.eng 3 (some cid)
    exec (.give g fsel d a b) s = .next { s with
      chip := (draining r.1 core p (givenAway p (s.chip.win core p) (w.reg b.toNat 0) r.1.nextOp)).issueOp i
        { statusOp 0x8E (flagOf i.hdr fsel.toNat) cid d 0 with hold := true, race := r.2 } } := by
  intro p cid r
  have hexec : exec (.give g fsel d a b) s = execGive g fsel d a b s := rfl
  refine exec_bankMapOp hexec hi hflag hu hr ha ((if_neg (Nat.not_le.2 hj)).trans ((if_neg (by simp [Form.prepared, hv])).trans ?_))
  simp only [Form.prepared, hcheck]
  rfl

/-- R199: RELB of a slot at which a bank is attached. -/
theorem relb_drains (hr : (bankMapForm 0x90 g d [slotOperand a]).Ready s.chip i w) (ha : (bankMapForm 0x90 g d [slotOperand a]).active i w ≠ 0)
    (hj : w.reg a.toNat 0 < s.chip.bcount i.eng) (hv : (s.chip.win core (s.chip.physSlot i.eng (w.reg a.toNat 0))).v = true) :
    let p := s.chip.physSlot i.eng (w.reg a.toNat 0)
    let c1 := (s.chip.nextCid i.eng).1
    exec (.relb g fsel d a) s = .next { s with
      chip := (draining c1 core p { slot := p, toCore := 512, toSlot := 0, bank := (s.chip.win core p).bank, w := false, op := c1.nextOp }).issueOp i
        { statusOp 0x90 (flagOf i.hdr fsel.toNat) (s.chip.nextCid i.eng).2 d 0 with hold := true } } := by
  intro p c1
  have hexec : exec (.relb g fsel d a) s = execRelb g fsel d a s := rfl
  exact exec_bankMapOp hexec hi hflag hu hr ha ((if_neg (Nat.not_le.2 hj)).trans (if_neg (by simp [Form.prepared, hv])))

/-- R199: TAKE where the gang has no bank in reserve. -/
theorem take_refused (hr : (bankMapForm 0x8F g d [slotOperand a]).Ready s.chip i w) (ha : (bankMapForm 0x8F g d [slotOperand a]).active i w ≠ 0)
    (hj : w.reg a.toNat 0 < s.chip.bcount i.eng) (ht : s.chip.slotTaken core (s.chip.physSlot i.eng (w.reg a.toNat 0)) = false)
    {k : Gang} (hk : s.chip.gang w.gang = some k) (hres : k.reserve = []) :
    exec (.take g fsel d a) s = .next { s with
      chip := (s.chip.nextCid i.eng).1.issueOp i (statusOp 0x8F (flagOf i.hdr fsel.toNat) (s.chip.nextCid i.eng).2 d 6) } := by
  have hexec : exec (.take g fsel d a) s = execTake g fsel d a s := rfl
  refine exec_bankMapOp hexec hi hflag hu hr ha ((if_neg (Nat.not_le.2 hj)).trans ((if_neg (by simp [Form.prepared, ht])).trans ?_))
  simp only [Form.prepared, hk, hres, Option.map_some, Option.getD_some]

/-- R199: TAKE where the gang has a bank in reserve. -/
theorem take_attaches (hr : (bankMapForm 0x8F g d [slotOperand a]).Ready s.chip i w) (ha : (bankMapForm 0x8F g d [slotOperand a]).active i w ≠ 0)
    (hj : w.reg a.toNat 0 < s.chip.bcount i.eng) (ht : s.chip.slotTaken core (s.chip.physSlot i.eng (w.reg a.toNat 0)) = false)
    {k : Gang} {r : Nat} {rs : List Nat} (hk : s.chip.gang w.gang = some k) (hres : k.reserve = r :: rs) :
    exec (.take g fsel d a) s = .next { s with
      chip := (attached (s.chip.nextCid i.eng).1 core (s.chip.physSlot i.eng (w.reg a.toNat 0)) w.gang (s.chip.tagOf w.gang) r rs).issueOp i
        (statusOp 0x8F (flagOf i.hdr fsel.toNat) (s.chip.nextCid i.eng).2 d 0) } := by
  have hexec : exec (.take g fsel d a) s = execTake g fsel d a s := rfl
  refine exec_bankMapOp hexec hi hflag hu hr ha ((if_neg (Nat.not_le.2 hj)).trans ((if_neg (by simp [Form.prepared, ht])).trans ?_))
  simp only [Form.prepared, hk, hres, Option.map_some, Option.getD_some]
  rfl

end

end

theorem bankMapResults : BankMapResults := by
  intro g fsel d a b s i core slot w flag form sa j bv p wn c1 cid status hi hflag hu
  refine ⟨?_, ?_, ?_, ?_⟩
  · intro k op srcs hk hr ha
    simp only [List.mem_cons, Prod.mk.injEq, List.not_mem_nil, or_false] at hk
    obtain ⟨rfl, rfl, rfl⟩ | ⟨rfl, rfl, rfl⟩ | ⟨rfl, rfl, rfl⟩ := hk
    · have hexec : exec (.give g fsel d a b) s = execGive g fsel d a b s := rfl
      exact ⟨fun hj => exec_bankMapOp hexec hi hflag hu hr ha (if_pos hj),
        fun hj _ hv => exec_bankMapOp hexec hi hflag hu hr ha ((if_neg (Nat.not_le.2 hj)).trans (if_pos (congrArg not hv))),
        fun _ hop => absurd hop (by decide)⟩
    · have hexec : exec (.take g fsel d a) s = execTake g fsel d a s := rfl
      exact ⟨fun hj => exec_bankMapOp hexec hi hflag hu hr ha (if_pos hj), fun _ hop => absurd rfl hop,
        fun hj _ ht => exec_bankMapOp hexec hi hflag hu hr ha ((if_neg (Nat.not_le.2 hj)).trans (if_pos ht))⟩
    · have hexec : exec (.relb g fsel d a) s = execRelb g fsel d a s := rfl
      exact ⟨fun hj => exec_bankMapOp hexec hi hflag hu hr ha (if_pos hj),
        fun hj _ hv => exec_bankMapOp hexec hi hflag hu hr ha ((if_neg (Nat.not_le.2 hj)).trans (if_pos (congrArg not hv))),
        fun _ hop => absurd hop (by decide)⟩
  · intro f rc rs c2 hr ha hj hv
    refine ⟨fun st hcheck => give_refused hi hflag hu hr ha hj hv hcheck, fun hcheck hne => ?_⟩
    have hc1 : bankPool c1 = bankPool s.chip := bankPool_of_work (work_nextCid ..)
    have hrel : work (c2.releaseBy i.eng 3 (some cid)).1 = work c2 := work_releaseBy ..
    have hmaps := bankPool_of_work hrel
    have hwarp : (c2.releaseBy i.eng 3 (some cid)).1.warp core slot = some w :=
      (work_warp hrel ..).trans ((warp_setWin ..).trans (warp_issuing hi (work_nextCid ..)))
    have hgiver : (c2.releaseBy i.eng 3 (some cid)).1.win core p = wn := by
      rw [win_of_bankPool hmaps, win_setWin_ne _ _ (Ne.symm hne), win_of_bankPool hc1]
    have hreceiver : (c2.releaseBy i.eng 3 (some cid)).1.win rc rs = { s.chip.win rc rs with resv := true } := by
      rw [win_of_bankPool hmaps, win_setWin, if_pos ⟨rfl, rfl⟩, win_of_bankPool hc1]
    have hgives : ((c2.releaseBy i.eng 3 (some cid)).1.core core).gives = (s.chip.core core).gives := by
      rw [gives_of_bankPool hmaps, gives_setWin, gives_of_bankPool hc1]
    obtain ⟨hops, hwin, hothers, hdrains⟩ := issueOp_draining hi.eng hwarp p
      (givenAway p wn bv (c2.releaseBy i.eng 3 (some cid)).1.nextOp)
      { statusOp 0x8E flag cid d 0 with hold := true, race := (c2.releaseBy i.eng 3 (some cid)).2 }
    refine ⟨_, _, give_drains hi hflag hu hr ha hj hv hcheck, hops, rfl, rfl, rfl, hwin.trans (by rw [hgiver]), ?_, ?_, hdrains.trans (by rw [hgives]; rfl)⟩
    · exact (congrArg Win.resv (hothers rc rs hne)).trans (congrArg Win.resv hreceiver)
    · exact (congrArg Win.gen (hothers rc rs hne)).trans (congrArg Win.gen hreceiver :)
  · intro f hr ha hj ht k hk
    refine ⟨fun hres => take_refused hi hflag hu hr ha hj ht hk hres, fun r rs hres => ?_⟩
    have hc1 : work c1 = work s.chip := work_nextCid ..
    have hmaps := bankPool_of_work hc1
    obtain ⟨hops, hwarp, hgang, hwin, hat, hdata⟩ := attached_maps ((gang_of_bankPool hmaps _).trans hk) core p (s.chip.tagOf w.gang) r rs
    have hw1 := (hwarp core slot).trans (warp_issuing hi hc1)
    have hissued := bankPool_issueOp hi.eng hw1 (statusOp 0x8F flag cid d 0)
    have hbank := bank_of_clusters (clusters_of_bankPool hissued) (core / 128) r
    rw [win_of_bankPool hmaps] at hwin
    rw [bank_of_clusters (clusters_of_work hc1)] at hdata
    refine ⟨_, _, take_attaches hi hflag hu hr ha hj ht hk hres, (issueOp_keeps hi.eng hw1 _).1.trans (by rw [hops, work_ops hc1]), rfl, rfl,
      (gang_of_bankPool hissued _).trans hgang, (win_of_bankPool hissued ..).trans hwin, (congrArg Bank.at_ hbank).trans hat, fun htag => ?_, fun htag => ?_⟩
    · exact (congrArg Bank.data hbank).trans (hdata.trans (if_neg htag))
    · exact (congrArg Bank.data hbank).trans (hdata.trans (if_pos htag))
  · intro f hr ha hj hv
    have hc1 : bankPool c1 = bankPool s.chip := bankPool_of_work (work_nextCid ..)
    obtain ⟨hops, hwin, -, hdrains⟩ := issueOp_draining hi.eng (warp_issuing hi (work_nextCid ..)) p
      { slot := p, toCore := 512, toSlot := 0, bank := wn.bank, w := false, op := c1.nextOp } { statusOp 0x90 flag cid d 0 with hold := true }
    rw [work_ops (work_nextCid ..)] at hops
    exact ⟨_, _, relb_drains hi hflag hu hr ha hj hv, hops, rfl, rfl, hwin.trans (by rw [win_of_bankPool hc1]),
      hdrains.trans (by rw [gives_of_bankPool hc1]; rfl)⟩

/-! ### BMAPR -/

theorem bankMapRead : BankMapRead := by
  intro g d j s i core slot w f wn v hi hr hj
  have hexec : exec (.bmapr g d j) s = execBmapr g d j s := rfl
  have hprep : prep { op := 0x91, g := g, hq := false, d := some (d, 2), ud := .always, srcs := [] } i s.chip = .ok (f.prepared i core slot w) :=
    prep_ready f s i core slot w hi hr
  refine ⟨_, hexec.trans (runIssue_ok hi.cur ?_), wrote_write f i core slot w d 2 (fun _ => v) rfl⟩
  simp only [if_neg (Nat.not_le.2 hj), hprep]
  exact finish_eq i (f.prepared i core slot w) _ _ hi.eng

/-! ### The attachment of a drained bank -/

/-- R197: the part once a drain is over. -/
def drainOver (c : Chip) (core : Nat) (gv : Give) : Chip :=
  c.setCore core { c.core core with gives := (c.core core).gives.filter (fun x => x.op != gv.op) }

/-- R197: the end of a drain ends it alone. -/
theorem drainOver_keeps (c : Chip) (core : Nat) (gv : Give) :
    (∀ n slot, (drainOver c core gv).win n slot = c.win n slot) ∧ ∀ x ∈ ((drainOver c core gv).core core).gives, x.op ≠ gv.op := by
  refine ⟨win_setGives c core _, fun x hx => ?_⟩
  rw [drainOver, Chip.core_setCore_same] at hx
  simpa using (List.mem_filter.1 hx).2

/-- R199: a drained bank back in the reserve of its gang. -/
def returned (c : Chip) (cl b : Nat) : Chip :=
  match (c.bank cl b).gang with
  | none => c.setBank cl b { c.bank cl b with at_ := none }
  | some g => (c.setBank cl b { c.bank cl b with at_ := none }).modGang g (fun k => { k with reserve := k.reserve ++ [b] })

theorem returned_eq {c : Chip} {cl b gn : Nat} {k : Gang} (hb : (c.bank cl b).gang = some gn) (hk : c.gang gn = some k) :
    returned c cl b = (c.setBank cl b { c.bank cl b with at_ := none }).setGang gn { k with reserve := k.reserve ++ [b] } := by
  simp only [returned, hb]
  exact modGang_some (c := c.setBank cl b { c.bank cl b with at_ := none, gang := some gn }) hk _

/-- R197, R199: where a drained bank goes: back to the reserve of its gang, or to its receiver's slot. -/
def arrived (c : Chip) (core : Nat) (gv : Give) : Chip :=
  if gv.toCore = 512 then returned c (core / 128) gv.bank else c.attach gv.toCore gv.toSlot gv.bank gv.w

/-- R197, R199: what the arrival of a drained bank leaves of memory and of its core's drains. -/
theorem arrived_keeps {c : Chip} {core gn : Nat} {gv : Give} {k : Gang} (hb : (c.bank (core / 128) gv.bank).gang = some gn) (hk : c.gang gn = some k) :
    (arrived c core gv).mem = c.mem ∧ ((arrived c core gv).core core).gives = (c.core core).gives := by
  unfold arrived
  split
  · rw [returned_eq hb hk]
    exact ⟨rfl, rfl⟩
  · obtain ⟨-, -, -, -, hmem, -, hgives⟩ := attach_maps c gv.toCore gv.toSlot gv.bank gv.w
    exact ⟨hmem, hgives core⟩

theorem exec_giveAttach {s : State} {core slot : Nat} {gv : Give} {gn : Nat} {k : Gang}
    (hfind : (s.chip.core core).gives.find? (fun x => x.slot == slot) = some gv) (hd : s.chip.drained core gv = true)
    (hb : (s.chip.bank (core / 128) gv.bank).gang = some gn) (hk : s.chip.gang gn = some k) (hp : k.phase < 2) :
    exec (.giveAttach core slot) s = .next { s with
      chip := (arrived (drainOver s.chip core gv) core gv).modOp gv.op (fun o => { o with hold := false }) } := by
  have hexec : exec (.giveAttach core slot) s = execGiveAttach core slot s := rfl
  have hgang : ((s.chip.bank (core / 128) gv.bank).gang.bind s.chip.gang).any (fun k => k.phase < 2) = true := by
    rw [hb, Option.bind_some, hk]; exact decide_eq_true hp
  refine hexec.trans ((runChip_next s _).trans ?_)
  simp only [hfind, hd, clusterOf, hgang, Bool.not_true, Bool.or_false, Bool.false_eq_true, if_false]
  rfl

theorem bankAttach : BankAttach := by
  intro s core slot gv gn k hfind hd hb hk hp
  have hb1 : ((drainOver s.chip core gv).bank (core / 128) gv.bank).gang = some gn := hb
  obtain ⟨hwin, hgone⟩ := drainOver_keeps s.chip core gv
  obtain ⟨hmem, hgives⟩ := arrived_keeps (k := k) hb1 hk
  refine ⟨_, exec_giveAttach hfind hd hb hk hp, modOp_ops fun o _ _ => rfl, hmem, fun x hx => hgone x ?_, fun hto => ?_, fun hto hcl => ?_⟩
  · rw [← hgives]; exact hx
  · have harr : arrived (drainOver s.chip core gv) core gv = _ := (if_pos hto).trans (returned_eq hb1 (k := k) hk)
    rw [harr]
    refine ⟨congrArg Bank.at_ ((bank_setBank ..).trans (if_pos rfl)), Chip.gang_setGang_same ..⟩
  · have harr : arrived (drainOver s.chip core gv) core gv = _ := if_neg hto
    rw [harr]
    obtain ⟨awin, abank, -⟩ := attach_maps (drainOver s.chip core gv) gv.toCore gv.toSlot gv.bank gv.w
    rw [hcl] at abank
    rw [hwin] at awin
    exact ⟨congrArg Bank.at_ abank, (congrArg Bank.data abank :), awin⟩

/-- Settles O25: GIVE, TAKE and RELB by the branch that each takes, BMAPR as a write of its registers, a drained bank by where it goes. -/
theorem bankMaps : Obligations.BankMaps := ⟨bankMapResults, bankMapRead, bankAttach⟩

end Sys2Proof.Proofs
end

section
/-! PROOF. Barriers set up (O27): what the three classes read and write around a barrier instruction, and BINIT of a core barrier and of a memory
barrier. -/

namespace Sys2Proof.Proofs

open Sys2Proof Sys2Proof.Machine Sys2Proof.Claims

/-! ### Engines and barriers -/

/-- The warps and the sequencers of a core. -/
def engines (c : Chip) (n : Nat) : AMap (Option Warp) × Mat × Dray := ((c.core n).warps, (c.core n).mat, (c.core n).dray)

theorem engines_of_work {c c' : Chip} (h : work c' = work c) (n : Nat) : engines c' n = engines c n :=
  congrArg (fun x : Chip × (Nat → Core) => ((x.2 n).warps, (x.2 n).mat, (x.2 n).dray)) h

/-- What barriers are read from: the objects of every core, what the slices keep beside memory, memory. -/
def barriers (c : Chip) : (Nat → AMap Barrier) × AMap (Option Barrier) × AMap Byte × AMap Byte :=
  (fun n => (c.core n).bars, c.memBars, c.mem, c.hostMem)

section
variable {c c' : Chip}

theorem bar_of_barriers (h : barriers c' = barriers c) (p : BarAt) : c'.bar p = c.bar p := by
  simp only [barriers, Prod.mk.injEq] at h
  obtain ⟨hbars, hside, hmem, hhost⟩ := h
  cases p with
  | core n s => exact bar_of_core (congrFun hbars n) s
  | mem off => simp only [Chip.bar, Chip.homeBytes, hside, hmem, hhost]
  | peer pa => rfl

theorem mem_of_barriers (h : barriers c' = barriers c) : c'.mem = c.mem := (congrArg (fun x => x.2.2.1) h :)

/-- A core's engines changed. -/
theorem barriers_setCore {n : Nat} {k : Core} (h : k.bars = (c.core n).bars) : barriers (c.setCore n k) = barriers c := by
  refine Prod.ext (funext fun m => ?_) rfl
  show ((c.setCore n k).core m).bars = (c.core m).bars
  rw [Chip.core_setCore]
  split
  next hm => rw [h, hm]
  next => rfl

theorem barriers_nextCid (c : Chip) (e : Eng) : barriers (c.nextCid e).1 = barriers c := by
  obtain ⟨a, b, d, h⟩ := nextCid_form c e
  rw [h]; exact barriers_setCore rfl

theorem engines_setBar_core (c : Chip) (n j : Nat) (k : Barrier) (m : Nat) : engines (c.setBar (.core n j) k) m = engines c m := by
  simp only [engines, Chip.setBar, Chip.core_setCore]
  split
  next h => rw [h]
  next => rfl

end

/-! ### The operands of a barrier instruction -/

/-- R208: what the lowest executing lane writes of a barrier instruction's result. -/
theorem received_wrote {m : BitVec 64} {d : Reg} {v : Nat} {i : Issue} {w w' : Warp} (h : Wrote m d.toNat 1 (fun _ => v) 0 i w w') :
    Received m (some d) v i w w' := by
  obtain ⟨hresult, hkept, hpassed, hflags, hrest⟩ := h
  refine ⟨fun r hr l hl => ?_, fun code l hl hcode => ?_, fun l => ?_, fun l hl hlen => ?_, ?_, ?_, ?_⟩
  · obtain rfl := Option.some.inj hr
    simpa [Warp.regs] using (hresult (by omega) l hl).1
  · refine (hkept code l hl ?_).1
    rcases hcode d rfl with hne | hu
    · omega
    · exact .inr (.inr (.inr hu))
  · rw [hpassed l]; split <;> rfl
  · rw [hpassed l, if_pos (by simp [hl, hlen])]
  · simpa using hflags
  · exact (congrArg Warp.cf hrest :)
  · exact (congrArg Warp.q hrest :)

/-- What the operands of a barrier instruction do for its case: they are what the case reads; a chip whose engines on the core are those of the
issue receives a result through them, and keeps its barriers. -/
structure Serves (o : BarCase) (io : BarIO) (core : Nat) (i : Issue) (s : State) : Prop where
  place : i.eng.core = core
  a : io.a = o.a
  b : io.b = o.b
  received : ∀ x v, engines x core = engines s.chip core → o.received v { s with chip := (io.put v x).advance i }
  kept : ∀ x v, engines x core = engines s.chip core → barriers ((io.put v x).advance i) = barriers x

section
variable {s : State} {i : Issue} {core slot op : Nat} {w : Warp} {g : Guard} {d a b : Reg} {ma mb ka kb : BitVec 5} {lane matrix copy : Instr}

/-- R208: the operands of a barrier instruction that reads A and B and writes D, in a lane clause. -/
def laneForm (op : Nat) (g : Guard) (d a b : Reg) : Form :=
  { op := op, g := g, hq := false, d := some (d, 1), ud := .rule, srcs := [slotOperand a, srcB b 2], low := true }

/-- R208: the operands of a lane clause as its instruction reads and writes them. -/
def laneIO (p : Prep) (d a b : Reg) : BarIO where
  a := p.w.regs a.toNat (lowLane p.act) 1
  b := p.w.regs b.toNat (lowLane p.act) 2
  put v x := match some d, x.warp p.core p.slot with
    | some r, some w => x.setWarp p.core p.slot (some ({ p with w := w }.write r.toNat 1 (fun _ => v)))
    | _, _ => x
  late o := o.dest d 1 (isU d.toNat) ((lanesOf p.act).map (fun k => (k, 0, false)))

theorem laneBarrier_ready {mem : Bool} {n : BitVec 6} (hi : Issuing s i core slot w) (hr : (laneForm op g d a b).Ready s.chip i w)
    (hact : (laneForm op g d a b).active i w ≠ 0) (hslot : mem = true ∨ (s.chip.barSlot i.eng n.toNat).isSome)
    (F : BarIO → Issue → Chip → Except Stop Chip) :
    laneBarrier op g mem n (some d) (some a) (some b) F i s.chip
      = F (laneIO ((laneForm op g d a b).prepared i core slot w) d a b) i s.chip := by
  have hprep := prep_ready _ _ _ _ _ _ hi hr
  have hplace : (!mem && (s.chip.barSlot i.eng n.toNat).isNone && !(op = 0xBA && s.chip.isChild i.eng)) = false := by
    rcases hslot with h | h
    · simp [h]
    · simp [Option.isNone_eq_false_iff.2 h]
  unfold laneBarrier
  simp only [hplace, Bool.false_eq_true, if_false, laneForm, slotOperand, List.singleton_append, Option.map_some] at hprep ⊢
  rw [hprep]
  exact if_neg hact

theorem warp_of_engines {c c' : Chip} {n : Nat} (h : engines c' n = engines c n) (slot : Nat) : c'.warp n slot = c.warp n slot :=
  (congrArg (fun x => aget none x.1 slot) h :)

theorem mat_of_engines {c c' : Chip} {n : Nat} (h : engines c' n = engines c n) : (c'.core n).mat = (c.core n).mat :=
  (congrArg (fun x => x.2.1) h :)

theorem dray_of_engines {c c' : Chip} {n : Nat} (h : engines c' n = engines c n) : (c'.core n).dray = (c.core n).dray :=
  (congrArg (fun x => x.2.2) h :)

/-- R208: the result of a barrier instruction in a lane clause. -/
theorem laneIO_received (hi : Issuing s i core slot w) {x : Chip} (hx : engines x core = engines s.chip core) (v : Nat) :
    let t := ((laneIO ((laneForm op g d a b).prepared i core slot w) d a b).put v x).advance i
    (∃ w', t.warp core slot = some w' ∧ Received ((laneForm op g d a b).writing i w) (some d) v i w w') ∧ barriers t = barriers x := by
  have hwarp : x.warp core slot = some w := (warp_of_engines hx slot).trans hi.warp
  have hput : (laneIO ((laneForm op g d a b).prepared i core slot w) d a b).put v x
      = x.setWarp core slot (some (((laneForm op g d a b).prepared i core slot w).write d.toNat 1 (fun _ => v))) := by
    simp only [laneIO, Form.prepared, hwarp]
  have hend := Except.ok.inj (finish_eq i ((laneForm op g d a b).prepared i core slot w)
    (((laneForm op g d a b).prepared i core slot w).write d.toNat 1 (fun _ => v)) x hi.eng)
  dsimp only
  rw [hput]
  refine ⟨⟨_, ?_, received_wrote (wrote_write (laneForm op g d a b) i core slot w d 1 (fun _ => v) rfl)⟩, ?_⟩
  · rw [show core = ((laneForm op g d a b).prepared i core slot w).core from rfl]
    exact (congrArg (fun c : Chip => c.warp core slot) hend).trans (Chip.warp_setWarp_same ..)
  · exact (congrArg barriers hend).trans (barriers_setCore rfl)

/-- R209: the operands of a matrix clause as its instruction reads and writes them. -/
def matrixIO (core : Nat) (m : Mat) (ma mb : BitVec 5) : BarIO where
  a := (aget 0 m.m ma.toNat).toNat
  b := (aget 0 m.m mb.toNat).toNat
  put v x := x.setMat core { (x.core core).mat with m := aput 0 (x.core core).mat.m ma.toNat (dw v) }
  late o := { o with kwrite := some (ma.toNat, 0, false) }

/-- R209: the result of a barrier instruction in a matrix clause. -/
theorem matrix_received (he : i.eng = .matrix core) {x : Chip} (hx : engines x core = engines s.chip core) (v : Nat) :
    let t := ((matrixIO core (s.chip.core core).mat ma mb).put v x).advance i
    ((t.core core).mat.s.pos = i.pos.after i.hdr ∧ (t.core core).mat.s.wait = none
      ∧ ∀ r, aget 0 (t.core core).mat.m r = if r = ma.toNat then BitVec.ofNat 64 v else aget 0 (s.chip.core core).mat.m r)
    ∧ barriers t = barriers x := by
  have hmat := mat_of_engines hx
  simp only [matrixIO, advance_matrix_place he, Chip.place, he, Chip.modStream, Chip.setMat, Chip.core_setCore_same, hmat]
  refine ⟨⟨trivial, trivial, fun r => aget_aput ..⟩, (barriers_setCore ?_).trans (barriers_setCore rfl)⟩
  rw [Chip.core_setCore_same]

/-- R209: the operands of a copy clause as its instruction reads and writes them. -/
def copyIO (core : Nat) (k : Dray) (ka kb : BitVec 5) : BarIO where
  a := (aget 0 k.k ka.toNat).toNat
  b := (aget 0 k.k kb.toNat).toNat
  put v x := x.setDray core { (x.core core).dray with k := aput 0 (x.core core).dray.k ka.toNat (dw v) }
  late o := { o with kwrite := some (ka.toNat, 0, false) }

/-- R209: the result of a barrier instruction in a copy clause. -/
theorem copy_received (he : i.eng = .copy core) {x : Chip} (hx : engines x core = engines s.chip core) (v : Nat) :
    let t := ((copyIO core (s.chip.core core).dray ka kb).put v x).advance i
    ((t.core core).dray.s.pos = i.pos.after i.hdr ∧ (t.core core).dray.s.wait = none
      ∧ ∀ r, aget 0 (t.core core).dray.k r = if r = ka.toNat then BitVec.ofNat 64 v else aget 0 (s.chip.core core).dray.k r)
    ∧ barriers t = barriers x := by
  have hdray := dray_of_engines hx
  simp only [copyIO, advance_copy_place he, Chip.place, he, Chip.modStream, Chip.setDray, Chip.core_setCore_same, hdray]
  refine ⟨⟨trivial, trivial, fun r => aget_aput ..⟩, (barriers_setCore ?_).trans (barriers_setCore rfl)⟩
  rw [Chip.core_setCore_same]

theorem copyBarrier_ready (hpa : s.chip.pendingK i.eng ka.toNat = false) (hpb : s.chip.pendingK i.eng kb.toNat = false)
    (hka : aget false (s.chip.core i.eng.core).dray.kp ka.toNat = false) (hkb : aget false (s.chip.core i.eng.core).dray.kp kb.toNat = false)
    (F : BarIO → Issue → Chip → Except Stop Chip) :
    copyBarrier op ka kb F i s.chip = F (copyIO i.eng.core (s.chip.core i.eng.core).dray ka kb) i s.chip := by
  simp only [copyBarrier, hpa, hpb, hka, hkb, Bool.or_self, Bool.false_eq_true, if_false]
  rfl

/-- R208, R209: a barrier instruction that reads A and B and writes its result does its work with the operands of its clause class. -/
theorem barCase_runs {mem : Bool} {n : BitVec 6} {F : BarIO → Issue → Chip → Except Stop Chip}
    (hlane : exec lane s = runIssue s (laneBarrier op g mem n (some d) (some a) (some b) F))
    (hmatrix : exec matrix s = runIssue s (matBarrier ma mb F)) (hcopy : exec copy s = runIssue s (copyBarrier op ka kb F))
    (hslot : mem = true ∨ (s.chip.barSlot i.eng n.toNat).isSome) {o : BarCase}
    (ho : o ∈ barCases s i core slot w op g d a b ma mb ka kb true true true lane matrix copy) (hok : o.ok) :
    ∃ io : BarIO, Serves o io core i s ∧ ∀ c', F io i s.chip = .ok c' → exec o.instr s = .next { s with chip := c' } := by
  simp only [barCases, List.mem_cons, List.not_mem_nil, or_false] at ho
  rcases ho with rfl | rfl | rfl
  · obtain ⟨hi, hr, hact⟩ := hok
    have hreads : w.regs a.toNat (lowLane ((laneForm op g d a b).active i w)) 1 = w.reg a.toNat (lowLane ((laneForm op g d a b).active i w)) := by
      simp [Warp.regs]
    exact ⟨laneIO ((laneForm op g d a b).prepared i core slot w) d a b,
      ⟨by rw [hi.eng]; rfl, hreads, rfl, fun x v hx => (laneIO_received hi hx v).1, fun x v hx => (laneIO_received hi hx v).2⟩,
      fun c' hF => hlane.trans (runIssue_ok hi.cur ((laneBarrier_ready hi hr hact hslot F).trans hF))⟩
  · obtain ⟨hcur, he⟩ := hok
    obtain rfl : i.eng.core = core := by rw [he]; rfl
    refine ⟨matrixIO i.eng.core (s.chip.core i.eng.core).mat ma mb,
      ⟨rfl, rfl, rfl, fun x v hx => ?_, fun x v hx => (matrix_received he hx v).2⟩,
      fun c' hF => hmatrix.trans (runIssue_ok hcur hF)⟩
    simpa only [true_and] using (matrix_received he hx v).1
  · obtain ⟨hcur, he, hpa, hpb, hka, hkb⟩ := hok
    obtain rfl : i.eng.core = core := by rw [he]; rfl
    refine ⟨copyIO i.eng.core (s.chip.core i.eng.core).dray ka kb,
      ⟨rfl, rfl, rfl, fun x v hx => ?_, fun x v hx => (copy_received he hx v).2⟩,
      fun c' hF => hcopy.trans (runIssue_ok hcur ((copyBarrier_ready hpa hpb hka hkb F).trans hF))⟩
    simpa only [true_and] using (copy_received he hx v).1

end

/-- R208: a barrier instruction ends with its causal ID drawn: its result received, its barriers as its work left them. -/
theorem Serves.ends {o : BarCase} {io : BarIO} {core : Nat} {i : Issue} {s : State} (h : Serves o io core i s) {x : Chip}
    (hx : engines x core = engines s.chip core) (v : Nat) :
    let t := (io.put v (x.nextCid i.eng).1).advance i
    o.received v { s with chip := t } ∧ barriers t = barriers x := by
  have hdrawn : engines (x.nextCid i.eng).1 core = engines s.chip core := (engines_of_work (work_nextCid ..) core).trans hx
  exact ⟨h.received _ v hdrawn, (h.kept _ v hdrawn).trans (barriers_nextCid ..)⟩

/-! ### BINIT of a core barrier -/

/-- R210: whether a copy, a child or a byte source stands open at a barrier. -/
def inUse (k : Barrier) : Bool := k.srcValid || k.flags &&& 0xFFF != 0 || k.granted != 0

/-- R210: a barrier as BINIT sets it up. -/
def setUp (k : Barrier) (a : Nat) (decl : BitVec 128) : Barrier :=
  { k with expect := BitVec.ofNat 16 a, deadline := a / 2 ^ 16 % 2 ^ 16, decl := decl, arrived := 0, xbytes := 0, lbytes := 0, arr := 0, flags := 0 }

theorem binit_eq (c : Chip) (p : BarAt) (a : Nat) (decl : BitVec 128) :
    c.binit p a decl = if inUse (c.bar p) then (c, 1) else (c.setBar p (setUp (c.bar p) a decl), 0) := rfl

/-- R210: the status of BINIT of a core barrier. -/
def setUpStatus (k : Barrier) (decl : Nat) : Nat := if inUse k then 1 else if decl / 2 ^ 34 ≠ 0 then 2 else 0

/-- R210: the part once a barrier of a core is set up, where BINIT may. -/
def coreSetUp (c : Chip) (p : BarAt) (a decl : Nat) : Chip :=
  if setUpStatus (c.bar p) decl = 0 then c.setBar p (setUp (c.bar p) a (BitVec.ofNat 128 decl)) else c

/-- R210: a declaration of a party that a core has not is refused before the barrier is set up. -/
theorem coreBinit_eq (c : Chip) (p : BarAt) (a decl : Nat) :
    (if decl / 2 ^ 34 ≠ 0 && !inUse (c.bar p) then (c, 2) else c.binit p a (BitVec.ofNat 128 decl))
      = (coreSetUp c p a decl, setUpStatus (c.bar p) decl) := by
  rw [binit_eq, coreSetUp, setUpStatus]
  cases hopen : inUse (c.bar p) with
  | true => simp
  | false =>
    generalize decl / 2 ^ 34 = beyond
    by_cases hdecl : beyond = 0
    · simp [hdecl]
    · simp [hdecl]

/-- R210: BINIT of a core barrier. -/
theorem doBinit_core {i : Issue} {n j : Nat} {c : Chip} (hslot : c.barSlot i.eng n = some j) (io : BarIO) :
    doBinit false n io i c = .ok ((io.put (setUpStatus (c.bar (.core i.eng.core j)) io.b)
      ((coreSetUp c (.core i.eng.core j) io.a io.b).nextCid i.eng).1).advance i) := by
  have hat : barrierAt i 0xB7 false n io.b c = .ok (.core i.eng.core j, c) := by
    simp only [barrierAt, Bool.false_eq_true, if_false, hslot]
  have hset := coreBinit_eq c (.core i.eng.core j) io.a io.b
  simp only [doBinit, hat]
  exact congrArg (fun r : Chip × Nat => Except.ok ((io.put r.2 (r.1.nextCid i.eng).1).advance i)) hset

/-- R210, R203, R207: BINIT of a core barrier in the three clause classes. -/
theorem barrierSetup : BarrierSetup := by
  intro g n d a b ma mb ka kb s i core slot w j o ho hok hslot
  obtain ⟨io, hserves, hruns⟩ := barCase_runs (F := doBinit false n.toNat) (n := n) (mem := false) rfl rfl rfl (.inr (by rw [hslot]; rfl)) ho hok
  obtain rfl := hserves.place
  have hdone := hruns _ (doBinit_core hslot io)
  rw [hserves.a, hserves.b] at hdone
  obtain ⟨hreceived, hbars⟩ := hserves.ends (x := coreSetUp s.chip (.core i.eng.core j) o.a o.b)
    (by unfold coreSetUp; split; exacts [engines_setBar_core .., rfl]) (setUpStatus (s.chip.bar (.core i.eng.core j)) o.b)
  refine ⟨_, hdone, hreceived, (mem_of_barriers hbars).trans (by unfold coreSetUp; split <;> rfl), (bar_of_barriers hbars _).trans ?_⟩
  rw [coreSetUp, apply_ite (fun x : Chip => x.bar (.core i.eng.core j)), bar_setBar_same]
  rfl

end Sys2Proof.Proofs
end

section
/-! PROOF. Memory barriers set up (O27): a barrier's object written to its line and read back, the valid entries of a party table as the declared
parties, and BINIT of a memory barrier. -/

namespace Sys2Proof.Proofs

open Sys2Proof Sys2Proof.Machine Sys2Proof.Claims

/-! ### Objects in memory -/

/-- R203: an object's 64 bytes. -/
theorem word_lt (k : Barrier) : k.word < 2 ^ 512 := by
  have hphase := k.phase.isLt
  have hexpect := k.expect.isLt
  have harrived := k.arrived.isLt
  have hflags := k.flags.isLt
  have hxbytes := k.xbytes.isLt
  have hlbytes := k.lbytes.isLt
  have hdecl := k.decl.isLt
  have harr := k.arr.isLt
  have hsrc := k.src.isLt
  unfold Barrier.word
  omega

theorem natOfBytes_word (k : Barrier) : natOfBytes (bytesOf 64 k.word) = k.word := by
  rw [natOfBytes_bytesOf, show (256 : Nat) = 2 ^ 8 from rfl, ← pow_mul]
  exact Nat.mod_eq_of_lt (word_lt k)

/-- R203: an object read back from its 64 bytes. -/
theorem ofWord_word (k : Barrier) : Barrier.ofWord k k.word = k := by
  have hphase := k.phase.isLt
  have hexpect := k.expect.isLt
  have harrived := k.arrived.isLt
  have hflags := k.flags.isLt
  have hxbytes := k.xbytes.isLt
  have hlbytes := k.lbytes.isLt
  have hdecl := k.decl.isLt
  have harr := k.arr.isLt
  have hsrc := k.src.isLt
  obtain ⟨phase, expect, arrived, flags, xbytes, lbytes, decl, arr, src, deadline, granted, since, cid, passed⟩ := k
  simp only [Barrier.ofWord, Barrier.word, Barrier.mk.injEq, and_true] at *
  refine ⟨?_, ?_, ?_, ?_, ?_, ?_, ?_, ?_, ?_⟩ <;> exact BitVec.eq_of_toNat_eq (by rw [BitVec.toNat_ofNat]; omega)

/-- A byte of a line is a byte of its number. -/
theorem lineByte_ofNat {v j : Nat} (h : j < 64) : lineByte (BitVec.ofNat 512 v) j = BitVec.ofNat 8 (v / 2 ^ (8 * j)) := by
  refine BitVec.eq_of_getLsbD_eq fun b hb => ?_
  rw [lineByte, BitVec.getLsbD_extractLsb', BitVec.getLsbD_ofNat, BitVec.getLsbD_ofNat, Nat.testBit_div_two_pow]
  have hin : 8 * j + b < 512 := by omega
  simp only [hb, hin, decide_true, Bool.true_and, Nat.add_comm b]

/-- R203: an object read where its keeper holds it and its line the 64 bytes of its word. -/
theorem bar_of_line {c : Chip} {off : Nat} {k : Barrier} (hoff : off < 2 ^ 64) (hside : aget none c.memBars off = some k)
    (hline : ∀ a, off ≤ a → a < off + 64 → aget 0 c.mem a = lineByte (BitVec.ofNat 512 k.word) (a - off)) : c.bar (.mem off) = k := by
  have hbytes : agetN 0 c.mem off 64 = bytesOf 64 k.word := by
    have hwritten := agetN_aputN_same (0 : Byte) (bytesOf 64 k.word) c.mem off
    rw [bytesOf_length] at hwritten
    rw [← hwritten]
    refine agetN_congr _ _ _ _ _ fun a ha hb => ?_
    rw [hline a ha hb, aget_aputN, if_pos ⟨ha, by rwa [bytesOf_length]⟩, bytesOf_getD _ _ _ (by omega), lineByte_ofNat (by omega)]
  have htier : tierOf off = 0 := Nat.div_eq_of_lt hoff
  have hhome : (c.homeBytes off).toNat = k.word := by
    rw [Chip.homeBytes, htier, if_neg (by decide), Nat.mod_eq_of_lt hoff, hbytes, lineBits, natOfBytes_word]
    exact (BitVec.toNat_ofNat ..).trans (Nat.mod_eq_of_lt (word_lt k))
  simp only [Chip.bar, hside, Option.getD_some, hhome, ofWord_word]

/-! ### A memory barrier's object replaced -/

/-- A core without its L1. -/
def sansL1 (k : Core) : Core := { k with l1 := [] }

/-- R302: an invalidation changes, of every core, its L1 alone. -/
theorem sansL1_invalidate (c : Chip) (line : Nat) (mask : BitVec 16) (n : Nat) : sansL1 ((c.invalidate line mask).core n) = sansL1 (c.core n) := by
  have h : c.invalidate line mask = { c with cores := c.cores.map (fun p => (p.1,
      if mask.getLsbD (p.1 / 32) then { p.2 with l1 := cleanLines line p.2.l1 } else p.2)) } := by
    unfold Chip.invalidate
    congr 2; funext p
    split <;> rfl
  rw [h]
  exact aget_map_keeps Core.zero c.cores _ sansL1 (fun x => by split <;> rfl) n

section
variable (c : Chip) (off : Nat) (k : Barrier)

/-- R302, R115: so does the write of an object's line. -/
theorem sansL1_setBar_mem (n : Nat) : sansL1 ((c.setBar (.mem off) k).core n) = sansL1 (c.core n) := by
  have hcores := (homeWrite_coresIntents { c with memBars := aput none c.memBars off (some k) } off (BitVec.allOnes 64)
    (BitVec.ofNat 512 k.word) false none).1
  exact (sansL1_invalidate _ off _ n).trans (congrArg (fun m => sansL1 (aget Core.zero m n)) hcores)

theorem engines_setBar_mem (n : Nat) : engines (c.setBar (.mem off) k) n = engines c n :=
  (congrArg (fun x : Core => (x.warps, x.mat, x.dray)) (sansL1_setBar_mem c off k n) :)

theorem tlb_setBar_mem (n : Nat) : ((c.setBar (.mem off) k).core n).tlb = (c.core n).tlb := (congrArg Core.tlb (sansL1_setBar_mem c off k n) :)

theorem memBars_setBar_mem : (c.setBar (.mem off) k).memBars = aput none c.memBars off (some k) :=
  (congrArg (fun x : Chip × (Nat → Core) => x.1.memBars) (work_homeWrite { c with memBars := aput none c.memBars off (some k) } off
    (BitVec.allOnes 64) (BitVec.ofNat 512 k.word) false none) :)

variable {c off k}

/-- R206: the line of a memory barrier whose object is replaced; no other byte of memory changes. -/
theorem aget_setBar_mem (hoff : off < 2 ^ 64) (hring : c.ringAt off = none) (a : Nat) : aget 0 (c.setBar (.mem off) k).mem a
    = if off ≤ a ∧ a < off + 64 then lineByte (BitVec.ofNat 512 k.word) (a - off) else aget 0 c.mem a := by
  have htier : tierOf off < 2 := by rw [tierOf, Nat.div_eq_of_lt hoff]; decide
  refine (homeWrite_byte (c := { c with memBars := aput none c.memBars off (some k) }) htier hring (BitVec.allOnes 64) (BitVec.ofNat 512 k.word)
    false none a).trans ?_
  rw [Nat.mod_eq_of_lt hoff]
  refine ite_congr (propext ⟨fun h => ⟨h.1, h.2.1⟩, fun h => ⟨h.1, h.2, ?_⟩⟩) (fun _ => rfl) (fun _ => rfl)
  rw [BitVec.getLsbD_allOnes, decide_eq_true (by omega)]

/-- R100: a page's dirty bit is one of its table entry's bits. -/
theorem dirtied_entry {e : TlbEntry} {core tag va : Nat} (he : tlbFind (c.core core).tlb tag va = some e) {m : BitVec 64} (hm : m ≠ 0) :
    (c.dirtied core tag va m).memBars = c.memBars ∧ ∀ a, a ≠ e.entryAt → aget 0 (c.dirtied core tag va m).mem a = aget 0 c.mem a := by
  simp only [Chip.dirtied, if_neg hm, he, Chip.orEntry]
  split
  · exact ⟨rfl, fun _ _ => rfl⟩
  · refine ⟨rfl, fun a ha => ?_⟩
    rw [aget_wrMem, if_neg (by omega)]

/-- R206, R100: a memory barrier set up, its page dirtied: the object read back. -/
theorem bar_setBar_dirtied (hoff : off < 2 ^ 64) (hring : c.ringAt off = none) {e : TlbEntry} {core tag va : Nat}
    (he : tlbFind (c.core core).tlb tag va = some e) (hout : e.entryAt < off ∨ off + 64 ≤ e.entryAt) :
    ((c.setBar (.mem off) k).dirtied core tag va 1).bar (.mem off) = k := by
  have hfind : tlbFind ((c.setBar (.mem off) k).core core).tlb tag va = some e := (congrArg (tlbFind · tag va) (tlb_setBar_mem ..)).trans he
  obtain ⟨hside, hmem⟩ := dirtied_entry hfind (m := 1) (by decide)
  refine bar_of_line hoff ?_ fun a ha hb => ?_
  · rw [hside, memBars_setBar_mem, aget_aput_same]
  · rw [hmem a (by omega), aget_setBar_mem hoff hring, if_pos ⟨ha, hb⟩]

end

/-- R306: a line that leaves an L1 changes nothing of the rest. -/
theorem work_flushLine (c : Chip) (core tag line : Nat) : work (c.flushLine core tag line) = work c := by
  unfold Chip.flushLine
  split
  · rfl
  · dsimp only
    rw [work_setL1]
    split
    · rfl
    · exact work_writeBack ..

/-- R206: the memory barrier at an address: its offset, and the part once its line has left the issuing core's L1. -/
theorem memBarrier_local {i : Issue} {op addr off : Nat} {c c1 : Chip} (h : memBarrier i op addr c = .ok (.mem off, c1)) :
    off < 2 ^ 64 ∧ work c1 = work c := by
  unfold memBarrier at h
  extract_lets lane tag at h
  split_ifs at h
  cases hx : c.xlate i.eng.core tag addr (barAcc op) 0 with
  | error e => rw [hx] at h; cases h
  | ok x =>
    obtain ⟨pa, c2⟩ := x
    rw [hx] at h
    dsimp only at h
    split_ifs at h
    · cases h
    · cases h
      exact ⟨Nat.mod_lt _ (by decide), (work_flushLine ..).trans (work_xlate hx)⟩

/-! ### Declared parties -/

/-- Bit `p` of a list's bits. -/
theorem testBit_bitsOf (l : List Bool) (p : Nat) : (bitsOf (l.map Bool.toNat)).testBit p = l.getD p false := by
  induction l generalizing p with
  | nil => simp [bitsOf]
  | cons b l ih =>
    have hbit : bitsOf ((b :: l).map Bool.toNat) = Nat.bit b (bitsOf (l.map Bool.toNat)) := by
      simp [bitsOf, Nat.bit_val, Nat.add_comm]
    rw [hbit]
    cases p with
    | zero => simp
    | succ p => simp [Nat.testBit_bit_succ, ih]

/-- The union of single bits. -/
theorem getLsbD_foldl_bits (l : List Nat) (m : BitVec 128) {q : Nat} (hq : q < 128) :
    (l.foldl (fun (m : BitVec 128) p => m ||| BitVec.ofNat 128 (2 ^ p)) m).getLsbD q = (m.getLsbD q || decide (q ∈ l)) := by
  induction l generalizing m with
  | nil => simp
  | cons p l ih =>
    rw [List.foldl_cons, ih, BitVec.getLsbD_or, BitVec.getLsbD_ofNat, Nat.testBit_two_pow]
    simp [hq, Bool.or_assoc, eq_comm]

/-- R206: the parties that a table's entries declare: those whose entry is valid. -/
theorem declared_bitsOf (entry : Nat → Nat) :
    BitVec.ofNat 128 (bitsOf (((List.range 128).map entry).map (fun e => bitsAt e 63 1))) = declared (fun p => (entry p).testBit 63) := by
  have hvalid : ((List.range 128).map entry).map (fun e => bitsAt e 63 1)
      = ((List.range 128).map (fun p => (entry p).testBit 63)).map Bool.toNat := by
    simp only [List.map_map]
    exact List.map_congr_left fun p _ => (Nat.toNat_testBit (entry p) 63).symm
  refine BitVec.eq_of_getLsbD_eq fun q hq => ?_
  rw [hvalid, BitVec.getLsbD_ofNat, testBit_bitsOf, declared, getLsbD_foldl_bits _ _ hq]
  simp [hq, List.getD_eq_getElem?_getD]

/-! ### BINIT of a memory barrier -/

/-- R210: the status of BINIT of a memory barrier. -/
def tableStatus (c : Chip) (off : Nat) : Nat :=
  if inUse (c.bar (.mem off)) then 1 else if ((List.range 128).map (c.partyEntry off)).any entryBad then 3 else 0

/-- R206, R210: a memory barrier as its table sets it up. -/
def tableSetUp (c : Chip) (off a : Nat) : Barrier := setUp (c.bar (.mem off)) a (declared (fun p => (c.partyEntry off p).testBit 63))

theorem binitMem_eq (c : Chip) (off a : Nat) :
    c.binitMem off a = if tableStatus c off = 0 then (c.setBar (.mem off) (tableSetUp c off a), 0) else (c, tableStatus c off) := by
  have hset : (if inUse (c.bar (.mem off)) then (c, 1) else if ((List.range 128).map (c.partyEntry off)).any entryBad then (c, 3)
      else c.binit (.mem off) a (BitVec.ofNat 128 (bitsOf (((List.range 128).map (c.partyEntry off)).map (fun e => bitsAt e 63 1)))))
      = c.binitMem off a := rfl
  rw [← hset, binit_eq, declared_bitsOf, tableSetUp, tableStatus]
  cases hopen : inUse (c.bar (.mem off)) with
  | true => simp
  | false =>
    cases hbad : ((List.range 128).map (c.partyEntry off)).any entryBad with
    | true => simp
    | false => simp

/-- R210, R100: the part once BINIT of a memory barrier is done: set up where it may be, its page dirtied then. -/
def memSetUp (c : Chip) (off a core tag va : Nat) : Chip :=
  if tableStatus c off = 0 then (c.setBar (.mem off) (tableSetUp c off a)).dirtied core tag va 1 else c

/-- R210: BINIT of a memory barrier. -/
theorem doBinit_mem {i : Issue} {n off : Nat} {c c1 : Chip} {io : BarIO} (hat : barrierAt i 0xB7 true n io.b c = .ok (.mem off, c1)) :
    doBinit true n io i c = .ok ((io.put (tableStatus c1 off)
      ((memSetUp c1 off io.a i.eng.core (c.tagOf (c.gangOf i.eng)) io.b).nextCid i.eng).1).advance i) := by
  simp only [doBinit, hat, binitMem_eq, memSetUp]
  by_cases hst : tableStatus c1 off = 0
  · simp only [hst, if_true]
  · simp only [hst, if_false]

theorem engines_memSetUp (c : Chip) (off a core tag va n : Nat) : engines (memSetUp c off a core tag va) n = engines c n := by
  unfold memSetUp
  split
  · exact (engines_of_work (atRest_dirtied ..).1 n).trans (engines_setBar_mem ..)
  · rfl

/-- R210, R203, R206: a memory barrier after its BINIT. -/
theorem bar_memSetUp {c : Chip} {off a core tag va : Nat} {e : TlbEntry} (hoff : off < 2 ^ 64) (hring : c.ringAt off = none)
    (he : tlbFind (c.core core).tlb tag va = some e) (hout : e.entryAt < off ∨ off + 64 ≤ e.entryAt) :
    (memSetUp c off a core tag va).bar (.mem off) = if tableStatus c off = 0 then tableSetUp c off a else c.bar (.mem off) := by
  rw [memSetUp, apply_ite (fun x : Chip => x.bar (.mem off)), bar_setBar_dirtied hoff hring he hout]

/-- R206, R210: BINIT of a memory barrier in the three clause classes. -/
theorem memoryBarrierSetup : MemoryBarrierSetup := by
  intro g n d a b ma mb ka kb s i core slot w off c1 o ho hok hat hring hentry
  obtain ⟨e, he, hout⟩ := hentry
  obtain ⟨io, hserves, hruns⟩ := barCase_runs (F := doBinit true n.toNat) (n := n) (mem := true) rfl rfl rfl (.inl rfl) ho hok
  obtain rfl := hserves.place
  obtain ⟨hoff, hwork⟩ := memBarrier_local hat
  rw [← hserves.b] at hat he
  have hdone := hruns _ (doBinit_mem hat)
  have hengines := (engines_memSetUp c1 off io.a i.eng.core (s.chip.tagOf (s.chip.gangOf i.eng)) io.b i.eng.core).trans (engines_of_work hwork _)
  obtain ⟨hreceived, hbars⟩ := hserves.ends hengines (tableStatus c1 off)
  refine ⟨_, hdone, hreceived, (bar_of_barriers hbars _).trans ((bar_memSetUp hoff hring he hout).trans ?_)⟩
  rw [tableSetUp, hserves.a]
  rfl

/-- Settles O27: BINIT of core barriers and of memory barriers, in the three clause classes. -/
theorem barrierSetups : Obligations.BarrierSetups := ⟨barrierSetup, memoryBarrierSetup⟩

end Sys2Proof.Proofs
end

section
/-! PROOF. Moves and cross-lane instructions (O3, O5): the lane that a lane receives from, the trees of REDW, the levels of SCANW, the one lane
that WRLANE sets. -/

namespace Sys2Proof.Proofs

open Sys2Proof Sys2Proof.Machine Sys2Proof.Claims

/-! ### Moves -/

/-- R226: MOVHI's upper 24 bits, in numbers and in words. -/
theorem ofNat_movhi (imm : BitVec 24) (x : Word) : BitVec.ofNat 32 (imm.toNat * 256 + x.toNat % 256) = imm ++ x.setWidth 8 := by
  have hlow : (x.setWidth 8).toNat = x.toNat % 256 := BitVec.toNat_setWidth ..
  have hlt : x.toNat % 256 < 2 ^ 8 := Nat.mod_lt _ (by decide)
  apply BitVec.eq_of_toNat_eq
  rw [BitVec.toNat_append, hlow, BitVec.toNat_ofNat, ← Nat.shiftLeft_add_eq_or_of_lt hlt, Nat.shiftLeft_eq]
  have himm := imm.isLt
  omega

/-- Settles O3: the moves compute words; MOVI computes its word from no source. -/
theorem moveResults : Obligations.MoveResults := by
  refine computes_of_performs fun k a hk => ?_
  unfold moves at hk
  split at hk
  case h_5 => cases hk
  all_goals obtain rfl := Option.some.inj hk
  -- MOV, MOVI, MOVHI, SEL
  case h_1 => exact performs_one (fun _ => rfl) (fun x => by rw [BitVec.ofNat_toNat, BitVec.setWidth_eq])
  case h_2 g d imm =>
    intro s i core slot w hi hr
    exact completes_aluOp (ct := Ctl.ofGuard g) (srcs := []) (f := fun _ => (imm.signExtend 32).toNat) rfl hi hr
  case h_3 imm => exact performs_one (fun _ => rfl) (ofNat_movhi imm)
  case h_4 =>
    refine performs_three (fun _ => rfl) fun x y z => ?_
    have hword (v : Word) : BitVec.ofNat 32 v.toNat = v := by rw [BitVec.ofNat_toNat, BitVec.setWidth_eq]
    have hzero : z.toNat ≠ 0 ↔ ¬ z = 0 := by rw [Ne, ← BitVec.toNat_inj]; rfl
    by_cases hz : z = 0
    · rw [if_neg (hzero.not_left.2 hz), if_pos hz, hword]
    · rw [if_pos (hzero.2 hz), if_neg hz, hword]

/-! ### The lane that a lane receives from -/

/-- The lanes of a set at or below a lane, from those at or below the one before it. -/
theorem lanesTo_succ (x : BitVec 64) (j : Nat) :
    (lanesOf x).filter (fun l => decide (l ≤ j + 1))
      = (lanesOf x).filter (fun l => decide (l ≤ j)) ++ if x.getLsbD (j + 1) then [j + 1] else [] := by
  refine List.Pairwise.eq_of_mem_iff ((lanesOf_pairwise x).filter _) (List.pairwise_append.2 ⟨(lanesOf_pairwise x).filter _, ?_, ?_⟩) fun l => ?_
  · split <;> simp
  · intro a ha b hb
    have hle : a ≤ j := by simpa using (List.mem_filter.1 ha).2
    split at hb <;> simp at hb
    omega
  · by_cases h : l = j + 1
    · subst h; cases hx : x.getLsbD (j + 1) <;> simp [hx]
    · have hiff : l ≤ j + 1 ↔ l ≤ j := by omega
      cases x.getLsbD (j + 1) <;> simp [h, hiff]

theorem lanesTo_zero (x : BitVec 64) : (lanesOf x).filter (fun l => decide (l ≤ 0)) = if x.getLsbD 0 then [0] else [] := by
  refine List.Pairwise.eq_of_mem_iff ((lanesOf_pairwise x).filter _) (by cases x.getLsbD 0 <;> simp) fun l => ?_
  cases l <;> cases h : x.getLsbD 0 <;> simp [h, -BitVec.getLsbD_eq_getElem]

/-- R237: the highest lane of a set at or below a lane gives its value. -/
theorem fall_eq_getLast (x : BitVec 64) (v : Nat → Word) (own : Word) (j : Nat) :
    fall x v own j = (((lanesOf x).filter (fun l => decide (l ≤ j))).getLast?.map v).getD own := by
  induction j with
  | zero => rw [fall, lanesTo_zero]; cases x.getLsbD 0 <;> rfl
  | succ j ih => rw [fall, lanesTo_succ, ih]; cases x.getLsbD (j + 1) <;> simp

/-- R237: what a lane receives, in numbers and in words. -/
theorem fromLane_eq (p : Prep) {a idt : Src} (ha : a.n = 1) (hidt : idt.n = 1) (j : Int) (l : Nat) :
    fromLane p a idt j l = (source p.exec (word a p.w) (word idt p.w l) j).toNat := by
  unfold fromLane srcLane source
  by_cases hj : j < 0 ∨ 64 ≤ j
  · simp only [if_pos hj, word_toNat hidt]
  · obtain ⟨n, rfl⟩ := Int.eq_ofNat_of_zero_le (show 0 ≤ j by omega)
    have hle (k : Nat) : (Int.ofNat k ≤ (n : Int)) ↔ k ≤ n := Int.ofNat_le
    simp only [if_neg hj, fall_eq_getLast, hle, Int.toNat_natCast]
    cases ((lanesOf p.exec).filter (fun l => decide (l ≤ n))).getLast? with
    | none => exact (word_toNat hidt _ _).symm
    | some k => exact (word_toNat ha _ _).symm

/-! ### Reductions and scans -/

theorem infBits_lt (f : FSpec) : f.infBits < 2 ^ (f.eb + f.fb) := by
  rw [FSpec.infBits, pow_add]
  exact Nat.mul_lt_mul_of_pos_right (Nat.sub_lt (Nat.two_pow_pos _) one_pos) (Nat.two_pow_pos _)

theorem signBit_le (f : FSpec) (neg : Bool) : f.signBit neg ≤ 2 ^ (f.eb + f.fb) := by cases neg <;> simp [FSpec.signBit]

theorem nanBits_lt (f : FSpec) : f.nanBits < 2 ^ (f.eb + f.fb + 1) := by
  have hinf := infBits_lt f
  have hquiet : 2 ^ (f.fb - 1) ≤ 2 ^ (f.eb + f.fb) := Nat.pow_le_pow_right two_pos (by omega)
  rw [FSpec.nanBits, pow_succ]
  omega

theorem overflow_lt (f : FSpec) (rnd : Rnd) (sat neg : Bool) : f.overflow rnd sat neg < 2 ^ (f.eb + f.fb + 1) := by
  have hinf := infBits_lt f
  have hsign := signBit_le f neg
  have hmax (b : Bool) : (if b then f.infBits - 1 else f.infBits) ≤ f.infBits := by cases b <;> simp
  rw [pow_succ]
  exact lt_of_le_of_lt (Nat.add_le_add_left (hmax _) _) (by omega)

/-- R71: what is rounded to a format has its bits alone. -/
theorem pack_lt (f : FSpec) (rnd : Rnd) (sat : Bool) (v : FVal) : f.pack rnd sat v < 2 ^ (f.eb + f.fb + 1) := by
  have hinf := infBits_lt f
  have htwo : 2 ^ (f.eb + f.fb + 1) = 2 ^ (f.eb + f.fb) + 2 ^ (f.eb + f.fb) := by rw [pow_succ]; omega
  cases v with
  | nan => exact nanBits_lt f
  | inf neg =>
    have hsign := signBit_le f neg
    simp only [FSpec.pack]; omega
  | fin neg m e =>
    have hsign := signBit_le f neg
    rw [FSpec.pack, FSpec.roundTo]
    extract_lets m' e' top q r bits
    split
    · have hpos := Nat.two_pow_pos (f.eb + f.fb)
      omega
    · split
      · exact overflow_lt ..
      · omega

/-- R258: a minimum or maximum is one of its operands, or the canonical NaN. -/
theorem minMax_lt (mx : Bool) (a b : Word) : fp32.minMax mx a.toNat b.toNat < 2 ^ 32 := by
  have hnan : fp32.nanBits < 2 ^ 32 := by decide
  have ha := a.isLt
  have hb := b.isLt
  unfold FSpec.minMax
  dsimp only
  split_ifs <;> assumption

/-- R242: the greater of two signed words, whichever operand is tried first. -/
theorem signed_max (a b : Word) : (if signed 32 a.toNat ≤ signed 32 b.toNat then b.toNat else a.toNat) = (if a.slt b then b else a).toNat := by
  simp only [signed_toNat, BitVec.slt_iff_toInt_lt]
  rcases lt_trichotomy a.toInt b.toInt with h | h | h
  · rw [if_pos h.le, if_pos h]
  · rw [if_pos h.le, if_neg h.not_lt, BitVec.eq_of_toInt_eq h]
  · rw [if_neg h.not_ge, if_neg h.not_gt]

theorem signed_min (a b : Word) : (if signed 32 a.toNat ≤ signed 32 b.toNat then a.toNat else b.toNat) = (if b.slt a then b else a).toNat := by
  simp only [signed_toNat, BitVec.slt_iff_toInt_lt]
  by_cases h : b.toInt < a.toInt
  · rw [if_neg (by omega), if_pos h]
  · rw [if_pos (by omega), if_neg h]

theorem unsigned_min (a b : Word) : min a.toNat b.toNat = (if b.ult a then b else a).toNat := by
  simp only [BitVec.ult, decide_eq_true_eq, apply_ite BitVec.toNat, Nat.min_def]
  split_ifs <;> omega

theorem unsigned_max (a b : Word) : max a.toNat b.toNat = (if a.ult b then b else a).toNat := by
  simp only [BitVec.ult, decide_eq_true_eq, apply_ite BitVec.toNat, Nat.max_def]
  split_ifs <;> omega

/-- R242: the operations of REDW and SCANW, in numbers and in words. -/
theorem redOp_eq_combine (op : BitVec 4) (a b : Word) : redOp op.toNat a.toNat b.toNat = (combine op a b).toNat := by
  have hword {v : Nat} (h : v < 2 ^ 32) : (BitVec.ofNat 32 v).toNat = v := BitVec.toNat_ofNat _ _ ▸ Nat.mod_eq_of_lt h
  unfold redOp combine
  split
  -- sum; minimum and maximum, signed and unsigned; AND, OR, XOR; floating sum, minimum, maximum
  case h_1 => exact (BitVec.toNat_add a b).symm
  case h_2 => exact signed_min a b
  case h_3 => exact signed_max a b
  case h_4 => exact unsigned_min a b
  case h_5 => exact unsigned_max a b
  case h_6 => exact (BitVec.toNat_and a b).symm
  case h_7 => exact (BitVec.toNat_or a b).symm
  case h_8 => exact (BitVec.toNat_xor a b).symm
  case h_9 => exact (hword (pack_lt fp32 ..)).symm
  case h_10 => exact (hword (minMax_lt ..)).symm
  case h_11 => exact (hword (minMax_lt ..)).symm

theorem redId_eq_identity (op : BitVec 4) : redId op.toNat = (identity op).toNat := by
  unfold redId identity
  split <;> rfl

/-- R242: the values of the first `n` nodes of a level of the tree. -/
def treeLevel (op : BitVec 4) (x : Nat → Word) (k n : Nat) : List Nat := (List.range n).map (fun i => (tree op x k (2 ^ k * i)).toNat)

theorem redLevel_pairs (op : Nat) (f : Nat → Nat) (n : Nat) :
    redLevel op ((List.range (2 * n)).map f) = (List.range n).map (fun i => redOp op (f (2 * i)) (f (2 * i + 1))) := by
  induction n generalizing f with
  | zero => rfl
  | succ n ih =>
    rw [Nat.mul_succ, List.range_succ_eq_map, List.range_succ_eq_map, List.range_succ_eq_map]
    simp only [List.map_cons, List.map_map, redLevel]
    exact congrArg _ ((ih (fun i => f (i + 2))).trans rfl)

/-- R242: the next level. -/
theorem redLevel_treeLevel (op : BitVec 4) (x : Nat → Word) (k n : Nat) :
    redLevel op.toNat (treeLevel op x k (2 * n)) = treeLevel op x (k + 1) n := by
  rw [treeLevel, redLevel_pairs]
  refine List.map_congr_left fun i _ => ?_
  rw [redOp_eq_combine, tree, pow_succ, Nat.mul_assoc, Nat.mul_add, Nat.mul_one]

/-- R242: the levels above one, up to the root. -/
theorem redTree_treeLevel (op : BitVec 4) (x : Nat → Word) (k j : Nat) :
    redTree op.toNat k (treeLevel op x j (2 ^ k)) = treeLevel op x (j + k) 1 := by
  induction k generalizing j with
  | zero => rfl
  | succ k ih => rw [redTree, pow_succ', redLevel_treeLevel, ih, Nat.add_right_comm, Nat.add_assoc]

/-- R243: the values of the lanes after `k` levels of the scan. -/
def scanned (op : BitVec 4) (x : Nat → Word) (k : Nat) : List Nat := (List.range 64).map (fun l => (scan op x k l).toNat)

theorem scanned_getD (op : BitVec 4) (x : Nat → Word) (k : Nat) {l : Nat} (hl : l < 64) :
    (scanned op x k).getD l 0 = (scan op x k l).toNat := by
  simp [scanned, List.getD_eq_getElem?_getD, hl]

/-- R243: the next level. -/
theorem scanLevel_scanned (op : BitVec 4) (x : Nat → Word) (k : Nat) : scanLevel op.toNat k (scanned op x k) = scanned op x (k + 1) := by
  have hlen : (scanned op x k).length = 64 := by simp [scanned]
  rw [scanLevel, hlen]
  refine List.map_congr_left fun l hl => ?_
  have hl := List.mem_range.1 hl
  rw [scanned_getD op x k hl, scanned_getD op x k (lt_of_le_of_lt (Nat.sub_le ..) hl), redOp_eq_combine, scan, apply_ite BitVec.toNat]

theorem scan_levels (op : BitVec 4) (x : Nat → Word) (k : Nat) :
    (List.range k).foldl (fun y j => scanLevel op.toNat j y) (scanned op x 0) = scanned op x k := by
  induction k with
  | zero => rfl
  | succ k ih => rw [List.range_succ, List.foldl_append, ih]; exact scanLevel_scanned op x k

/-- R242, R243: what the lanes bring, in numbers and in words. -/
theorem laneVals_eq_brought (p : Prep) {a : Src} (ha : a.n = 1) (op : BitVec 4) :
    laneVals p a op.toNat = (List.range 64).map (fun l => (brought p.act op a p.w l).toNat) := by
  refine List.map_congr_left fun l _ => ?_
  rw [brought, apply_ite BitVec.toNat, word_toNat ha, redId_eq_identity]

theorem laneVals_treeLevel (p : Prep) {a : Src} (ha : a.n = 1) (op : BitVec 4) :
    laneVals p a op.toNat = treeLevel op (brought p.act op a p.w) 0 (2 ^ 6) := by
  rw [laneVals_eq_brought p ha]
  exact List.map_congr_left fun l _ => by rw [pow_zero, Nat.one_mul]; rfl

theorem laneVals_scanned (p : Prep) {a : Src} (ha : a.n = 1) (op : BitVec 4) :
    laneVals p a op.toNat = scanned op (brought p.act op a p.w) 0 := laneVals_eq_brought p ha op

/-! ### The cross-lane instructions -/

/-- R237: a meaning that computes, of lanes that execute, a value for each lane. -/
theorem performs_cross {k : Instr} {op n : Nat} {ct : Ctl} {hq : Bool} {ud : UDest} {d : Reg} {srcs : List Src} {f : Prep → Nat → Nat}
    {v : BitVec 64 → Warp → Nat → Nat} (hk : ∀ s, exec k s = runIssue s (crossOp op ct hq ud d n srcs f))
    (hv : ∀ p : Prep, (hq = false → p.act = p.exec) → ∀ l < 64, f p l = v p.exec p.w l) :
    Performs k { form := crossForm op ct hq ud d n srcs, d := d, n := n, val := v } := by
  intro s i core slot w hi hr
  refine (completes_write k (crossForm op ct hq ud d n srcs) d n f s i core slot w (hk s) rfl hi hr).congr fun l hl => ?_
  refine congrArg (· % 2 ^ (32 * n)) (hv _ (fun hoff => ?_) l (lt_of_mem_lanesOf hl))
  have hhelp : (crossForm op ct hq ud d n srcs).helping i w = 0 := by simp [Form.helping, crossForm, hoff]
  simp only [Form.prepared, Form.computing, hhelp]
  exact BitVec.or_zero.symm

/-- R239: the source lane of a shuffle. -/
theorem shflLane_eq (kind : BitVec 2) (o l : Nat) :
    shflLane kind.toNat o l = if kind = 0 then (o : Int) else if kind = 1 then l - o else if kind = 2 then l + o else (l ^^^ o : Nat) := by
  match kind with
  | 0#2 => rfl
  | 1#2 => rfl
  | 2#2 => rfl
  | 3#2 => rfl

/-- R244: the lanes whose value has a bit. -/
theorem ballot_eq (x : BitVec 64) {a : Src} (ha : a.n = 1) (w : Warp) (bit : BitVec 5) :
    maskOf ((lanesOf x).filter (fun l => (a.val w l).testBit bit.toNat))
      = maskOf ((List.range 64).filter (fun l => x.getLsbD l && (word a w l).getLsbD bit.toNat)) := by
  refine BitVec.eq_of_getLsbD_eq fun l hl => ?_
  rw [maskOf_filter_lanesOf, maskOf_getLsbD, ← word_toNat ha, BitVec.testBit_toNat, Bool.eq_iff_iff]
  simp [hl]

/-- R237-R244: the cross-lane instructions that write every executing lane. -/
theorem crossLanes : CrossLanes := by
  refine computes_of_performs fun k a hk => ?_
  unfold crossings at hk
  split at hk
  case h_10 => cases hk
  all_goals
    obtain rfl := Option.some.inj hk
    refine performs_cross (fun _ => rfl) fun p hact l hl => ?_
  -- RDLANE, SHFL, PERM
  case h_1 => rw [hact rfl]; exact fromLane_eq p rfl rfl _ _
  case h_2 kind _ _ _ => exact (fromLane_eq p rfl rfl _ _).trans (by rw [shflLane_eq])
  case h_3 => exact fromLane_eq p rfl rfl _ _
  -- REDW, SCANW
  case h_4 => rw [← hact rfl, laneVals_treeLevel _ rfl, redTree_treeLevel _ _ 6 0]; rfl
  case h_5 op excl =>
    rw [← hact rfl, laneVals_scanned _ rfl]
    simp only [scan_levels]
    cases excl with
    | false => exact scanned_getD _ _ _ hl
    | true =>
      show (if l = 0 then redId op.toNat else _) = if l = 0 then (identity op).toNat else _
      rw [redId_eq_identity, scanned_getD _ _ _ (by omega)]
  -- BALLOT, QSWP, QBRD, ACTMASK
  case h_6 => rw [hact rfl]; exact congrArg BitVec.toNat (ballot_eq _ rfl _ _)
  case h_7 => exact fromLane_eq p rfl rfl _ _
  case h_8 => exact fromLane_eq p rfl rfl _ _
  case h_9 => rw [hact rfl]

/-- R54: a lane register, where no uniform destination may stand. -/
theorem lane_of_never {f : Form} {c : Chip} {i : Issue} {w : Warp} {d : Reg} {n : Nat} (hd : f.d = some (d, n)) (hud : f.ud = .never)
    (hr : f.Ready c i w) : isU d.toNat = false := by
  have hcheck := hr.1.1 (0, _, d.toNat) (by rw [Form.regChecks, hd]; exact .head _)
  rw [hud] at hcheck
  simpa using (Bool.or_eq_false_iff.1 hcheck).2

theorem sticky_zero (w : Warp) : w.sticky 0 = w := by
  have h : w.fpstat ||| 0 = w.fpstat := BitVec.or_zero
  rw [Warp.sticky, h]

/-- R240: the one lane that WRLANE sets, as a set of lanes. -/
theorem setV_eq_writeEach (w : Warp) {d : Nat} (hd : isU d = false) (x : BitVec 64) (t v : Nat) :
    (if t < 64 ∧ x.getLsbD t = true then w.setV d t v false else w)
      = writeEach w d 1 (fun _ => v) (lanesOf (if x.getLsbD t then laneBit t else 0)) := by
  by_cases ht : x.getLsbD t = true
  · have hlt : t < 64 := BitVec.lt_of_getLsbD ht
    rw [if_pos ⟨hlt, ht⟩, if_pos ht, lanesOf_laneBit hlt]
    simp [writeEach, Warp.setD, hd]
  · rw [if_neg fun h => ht h.2, if_neg ht, lanesOf_zero]; rfl

/-- R240: WRLANE, of the lane that its index names, if that executes. -/
theorem writeLaneResult : WriteLaneResult := by
  intro ct d a b s i core slot w f x t hi hr
  have hlane := lane_of_never rfl rfl hr
  have hprep := prep_ready f s i core slot w hi hr
  have hexec : exec (.wrlane ct d a b) s = execWrlane ct d a b s := rfl
  have hwrote := wrote_writeEach (if x.getLsbD t then laneBit t else 0) d.toNat 1 (fun _ => (srcA ct a 1).val w (lowLane x)) 0 i w
    (fun hu => absurd hu (by simpa [isU] using hlane))
  rw [sticky_zero, ← setV_eq_writeEach w hlane] at hwrote
  refine ⟨_, hexec.trans (runIssue_ok hi.cur ?_), hwrote⟩
  simp only [f] at hprep
  simp only [hprep]
  exact (apply_ite (fun y => finish i (f.prepared i core slot w) y s.chip) _ _ _).symm.trans (finish_eq i _ _ s.chip hi.eng)

/-- Settles O5: the source lane, the tree and the scan level by level, and the lane that WRLANE sets. -/
theorem crossLaneResults : Obligations.CrossLaneResults := ⟨crossLanes, writeLaneResult⟩

end Sys2Proof.Proofs
end

section
/-! PROOF. Hardware queues (O15): what lanes pop and push, in order, and the operation that gives them the entries and the status. -/

namespace Sys2Proof.Proofs

open Sys2Proof Sys2Proof.Machine Sys2Proof.Claims

/-! ### What lanes pop and push -/

theorem popped_succ (es : List DWord) (j : Nat) : popped es (j + 1) = popped es.tail j := by cases es <;> simp [popped]

/-- R235: the first lane takes the oldest entry, the others what is left. -/
theorem popLanes_cons (l : Nat) (ls : List Nat) (es : List DWord) : popLanes (l :: ls) es
    = ((l, (popped es 0).1.toNat, (popped es 0).2) :: (popLanes ls es.tail).1, (popLanes ls es.tail).2) := by
  cases es <;> simp [popLanes, popped]

theorem map_zipIdx_one {β : Type} (f : Nat × Nat → β) (ls : List Nat) :
    (ls.zipIdx 1).map f = ls.zipIdx.map (fun x => f (x.1, x.2 + 1)) := by
  rw [List.zipIdx_succ, List.map_map]; rfl

/-- R235: the `j`th lane takes the `j`th entry, and the rest stays. -/
theorem popLanes_eq (ls : List Nat) (es : List DWord) :
    popLanes ls es = (ls.zipIdx.map (fun x => (x.1, (popped es x.2).1.toNat, (popped es x.2).2)), es.drop ls.length) := by
  induction ls generalizing es with
  | nil => rfl
  | cons l ls ih =>
    rw [popLanes_cons, ih, List.zipIdx_cons, List.map_cons, Nat.zero_add, map_zipIdx_one, List.drop_tail]
    simp only [popped_succ, List.length_cons]

/-- R233, R235: the `j`th lane's status: the entries held once it has pushed, or that there was no room. -/
def pushStatus (held j : Nat) : Nat := if held + j < 512 then held + j + 1 else 2 ^ 31

/-- R233, R235: pairs join the queue, lane by lane, while there is room. -/
theorem pushLanes_eq (val : Nat → Nat) (ls : List Nat) (es : List DWord) :
    pushLanes val ls es = (ls.zipIdx.map (fun x => (x.1, pushStatus es.length x.2)),
      es ++ (ls.take (512 - es.length)).map (fun l => BitVec.ofNat 64 (val l))) := by
  induction ls generalizing es with
  | nil => simp [pushLanes]
  | cons l ls ih =>
    rw [List.zipIdx_cons, List.map_cons, Nat.zero_add, map_zipIdx_one]
    by_cases hfull : hwqRoom ≤ es.length
    · have hroom : 512 ≤ es.length := hfull
      have hnone : 512 - es.length = 0 := by omega
      have hlate (j : Nat) : pushStatus es.length j = 2 ^ 31 := if_neg (by omega)
      simp only [pushLanes, if_pos hfull, ih, hnone, hlate, List.take_zero]
    · have hroom : es.length < 512 := Nat.not_le.1 hfull
      obtain ⟨m, hm⟩ : ∃ m, 512 - es.length = m + 1 := ⟨511 - es.length, by omega⟩
      have hm' : 512 - (es.length + 1) = m := by omega
      have hfirst : pushStatus es.length 0 = es.length + 1 := if_pos hroom
      have hshift (j : Nat) : pushStatus (es.length + 1) j = pushStatus es.length (j + 1) := by
        rw [pushStatus, pushStatus, Nat.add_right_comm, Nat.add_assoc]
      simp only [pushLanes, if_neg hfull, ih, List.length_append, List.length_singleton, hshift, hfirst, hm, hm', List.take_succ_cons,
        List.map_cons, List.append_assoc, List.singleton_append, dw]

/-! ### The operation -/

/-- R233: the entries of a queue that has been replaced. -/
theorem entries_setHwq (c : Chip) (cl n : Nat) (q : HwQueue) : ((c.setHwq cl n q).hwq cl n).entries = q.entries := by
  rw [Chip.hwq, Chip.setHwq, Chip.cluster_setCluster_same, aget_aput_same]
  split
  next h => rw [h]; rfl
  next => rfl

/-- R42, R233: a queue replaced and its operation issued. -/
def queueIssued (c : Chip) (i : Issue) (cl n : Nat) (q : HwQueue) (o : DWord → Op) : Chip :=
  ((c.setHwq cl n q).nextCid i.eng).1.issueOp i (o ((c.setHwq cl n q).nextCid i.eng).2)

/-- R42, R233: the entries of the queue are the new ones, the operation is in flight, and memory is as it was. -/
theorem queueIssued_done {s : State} {i : Issue} {core slot : Nat} {w : Warp} (hi : Issuing s i core slot w) (cl n : Nat) (q : HwQueue)
    (o : DWord → Op) {flag : Option Nat} {ws : List (Nat × Word × Bool)}
    (ho : ∀ cid, (o cid).flag = flag ∧ (o cid).hold = false ∧ (o cid).writes = ws) :
    ((queueIssued s.chip i cl n q o).hwq cl n).entries = q.entries
      ∧ (∃ op ∈ (queueIssued s.chip i cl n q o).ops, op.id = s.chip.nextOp ∧ op.flag = flag ∧ op.hold = false ∧ op.writes = ws)
      ∧ (queueIssued s.chip i cl n q o).mem = s.chip.mem := by
  have hwarp : ((s.chip.setHwq cl n q).nextCid i.eng).1.warp core slot = some w :=
    (congrArg (fun ws => aget none ws slot) (nextCid_core _ _ core).1).trans hi.warp
  obtain ⟨hops, hmem, -, -, hclusters⟩ := issueOp_keeps hi.eng hwarp (o ((s.chip.setHwq cl n q).nextCid i.eng).2)
  obtain ⟨a, b, e, hcid⟩ := nextCid_form (s.chip.setHwq cl n q) i.eng
  obtain ⟨hflag, hhold, hwrites⟩ := ho ((s.chip.setHwq cl n q).nextCid i.eng).2
  have hin := hops ▸ List.mem_append_right _ (List.mem_singleton_self _)
  refine ⟨?_, ⟨_, hin, ?_, hflag, hhold, hwrites⟩, hmem.trans (nextCid_mem _ _)⟩
  · rw [← entries_setHwq s.chip cl n q]
    have hback : (queueIssued s.chip i cl n q o).clusters = (s.chip.setHwq cl n q).clusters := hclusters.trans (by rw [hcid]; rfl)
    simp only [Chip.hwq, Chip.cluster, hback]
  · rw [inFlight, hcid]; rfl

section
variable {g : Guard} {hq : Bool} {fsel : BitVec 2} {a b d : Reg} {n : BitVec 4} {s : State} {i : Issue} {core slot : Nat} {w : Warp}

/-- The operands of QPOP. -/
def qpopForm (g : Guard) (d b : Reg) : Form := { op := 0x8C, g := g, hq := false, d := some (d, 2), ud := .never, srcs := [], also := [(b, 2)] }

/-- The operands of QPUSH. -/
def qpushForm (g : Guard) (a b : Reg) : Form :=
  { op := 0x8D, g := g, hq := false, d := none, ud := .rule, srcs := [srcPair a false], also := [(b, 2)] }

/-- R235: QPOP's work. -/
def qpopWork (fsel : BitVec 2) (d b : Reg) (n : BitVec 4) (i : Issue) (p : Prep) (c : Chip) : Chip :=
  let q := c.hwq (clusterOf p.core) n.toNat
  queueIssued c i (clusterOf p.core) n.toNat { q with entries := q.entries.drop (lanesOf p.act).length } (fun cid =>
    { Op.blank 0x8C (flagOf i.hdr fsel.toNat) cid with
      writes := ((lanesOf p.act).zipIdx).flatMap (fun x =>
        loadWrites d x.1 (popped q.entries x.2).1.toNat false 2 0 ++ loadWrites b x.1 (popped q.entries x.2).2 false 1 0) })

/-- R235: QPUSH's work. -/
def qpushWork (fsel : BitVec 2) (a b : Reg) (n : BitVec 4) (i : Issue) (p : Prep) (c : Chip) : Chip :=
  let q := c.hwq (clusterOf p.core) n.toNat
  let es := q.entries ++ ((lanesOf p.act).take (512 - q.entries.length)).map (fun l => BitVec.ofNat 64 (p.w.regs a.toNat l 2))
  queueIssued c i (clusterOf p.core) n.toNat { owner := if q.entries = [] then c.tagOf p.w.gang else q.owner, entries := es } (fun cid =>
    { Op.blank 0x8D (flagOf i.hdr fsel.toNat) cid with
      writes := ((lanesOf p.act).zipIdx).flatMap (fun x => loadWrites b x.1 (pushStatus q.entries.length x.2) false 1 0) })

/-- QPOP whose operands let it execute and whose flag has room. -/
theorem exec_qpop (hi : Issuing s i core slot w) (hr : (qpopForm g d b).Ready s.chip i w)
    (hflag : s.chip.flagFull i.eng (flagOf i.hdr fsel.toNat) = false) :
    let p := (qpopForm g d b).prepared i core slot w
    exec (.qpop g hq fsel d b n) s = runIssue s (fun i c =>
      p.orTrap i (queueTrap c 0x8C (clusterOf p.core) n.toNat (c.tagOf p.w.gang) p.act) (.ok (qpopWork fsel d b n i p c))) := by
  refine exec_congr (Eq.trans (b := execQpop g hq fsel d b n s) rfl rfl) hi.cur ?_
  have hp := prepLanes_ready _ s i core slot w hi hr
  rw [qpopForm] at hp
  simp only [withFlag, hflag, hp, popLanes_eq, List.flatMap_map]
  rfl

/-- QPUSH whose operands let it execute and whose flag has room. -/
theorem exec_qpush (hi : Issuing s i core slot w) (hr : (qpushForm g a b).Ready s.chip i w)
    (hflag : s.chip.flagFull i.eng (flagOf i.hdr fsel.toNat) = false) :
    let p := (qpushForm g a b).prepared i core slot w
    exec (.qpush g hq fsel a b n) s = runIssue s (fun i c =>
      p.orTrap i (queueTrap c 0x8D (clusterOf p.core) n.toNat (c.tagOf p.w.gang) p.act) (.ok (qpushWork fsel a b n i p c))) := by
  refine exec_congr (Eq.trans (b := execQpush g hq fsel a b n s) rfl rfl) hi.cur ?_
  have hp := prepLanes_ready _ s i core slot w hi hr
  rw [qpushForm, srcPair] at hp
  simp only [withFlag, hflag, hp, pushLanes_eq, List.flatMap_map]
  rfl

end

theorem lanesOf_eq_nil {m : BitVec 64} : lanesOf m = [] ↔ m = 0 := by
  refine ⟨fun h => ?_, fun h => by rw [h, lanesOf_zero]⟩
  by_contra hm
  exact absurd (lowLane_mem hm) (by simp [h])

/-- R233: no trap where no lane executes, and at a queue that is empty or the context's own. -/
theorem queueTrap_none {c : Chip} {op cl n tag : Nat} {act : BitVec 64} (h : act = 0 ∨ (c.hwq cl n).entries = [] ∨ (c.hwq cl n).owner = tag) :
    queueTrap c op cl n tag act = none := by
  refine if_neg ?_
  rcases h with h | h | h <;> simp [h]

/-- R233, R235: an instruction that the queue's owner does not stop does its work. -/
theorem orTrap_own {f : Form} {s : State} {i : Issue} {core slot : Nat} {w : Warp} {op cl n : Nat} (work : Except Stop Chip)
    (h : f.active i w = 0 ∨ (s.chip.hwq cl n).entries = [] ∨ (s.chip.hwq cl n).owner = s.chip.tagOf w.gang) :
    (f.prepared i core slot w).orTrap i (queueTrap s.chip op cl n (s.chip.tagOf w.gang) (f.active i w)) work = work := by
  rw [queueTrap_none h]; rfl

/-- R233, R235: QPOP of a queue that is empty or the context's own. -/
theorem queuePop : QueuePop := by
  intro g hq fsel d b n s i core slot w f q hi hr hflag hown
  have hexec := (exec_qpop (hq := hq) (n := n) hi hr hflag).trans (runIssue_ok hi.cur (orTrap_own _ hown))
  exact ⟨_, hexec, queueIssued_done hi (core / 128) n.toNat _ _ fun _ => ⟨rfl, rfl, rfl⟩⟩

/-- R233, R235: the same of QPUSH. -/
theorem queuePush : QueuePush := by
  intro g hq fsel a b n s i core slot w f q ls hi hr hflag _ hown
  have hexec := (exec_qpush (hq := hq) (n := n) hi hr hflag).trans (runIssue_ok hi.cur (orTrap_own _ (hown.imp_left lanesOf_eq_nil.1)))
  exact ⟨_, hexec, queueIssued_done hi (core / 128) n.toNat _ _ fun _ => ⟨rfl, rfl, rfl⟩⟩

/-- R8, R233: the queue of another context, in the lowest executing lane. -/
theorem orTrap_queue {f : Form} {s : State} {i : Issue} {core slot : Nat} {w : Warp} {op cl n : Nat} (work : Except Stop Chip)
    (ha : f.active i w ≠ 0) (hne : (s.chip.hwq cl n).entries ≠ []) (hown : (s.chip.hwq cl n).owner ≠ s.chip.tagOf w.gang) :
    (f.prepared i core slot w).orTrap i (queueTrap s.chip op cl n (s.chip.tagOf w.gang) (f.active i w)) work
      = .error (laneTrap i (syndrome 0x14 (opReason op 1)) (lowLane (f.active i w)) 0) := by
  have htrap : queueTrap s.chip op cl n (s.chip.tagOf w.gang) (f.active i w) = some (syndrome 0x14 (opReason op 1), 0) :=
    if_pos (by simp only [bne_iff_ne, Bool.and_eq_true]; exact ⟨⟨ha, hne⟩, hown⟩)
  rw [htrap]
  exact congrArg Except.error (atLow_of_bad (p := f.prepared i core slot w) rfl i _ _)

theorem queueOwnerTrap : QueueOwnerTrap := by
  intro g hq fsel d a b n s i core slot w k f op hk q hi hr hflag ha hne hown
  simp only [List.mem_cons, Prod.mk.injEq, List.not_mem_nil, or_false] at hk
  obtain ⟨rfl, rfl, rfl⟩ | ⟨rfl, rfl, rfl⟩ := hk
  · exact exec_trapped (exec_qpop hi hr hflag) hi.cur (orTrap_queue _ ha hne hown)
  · exact exec_trapped (exec_qpush hi hr hflag) hi.cur (orTrap_queue _ ha hne hown)

/-- Settles O15: QPOP and QPUSH lane by lane, and the trap at another context's queue. -/
theorem hardwareQueues : Obligations.HardwareQueues := ⟨queuePop, queuePush, queueOwnerTrap⟩

end Sys2Proof.Proofs
end

section
/-! PROOF. Lines as a core reads and writes them (O19): the bytes of a line that is put together, what a read of a line brings, what a store
leaves in the L1 and of intents. -/

namespace Sys2Proof.Proofs

open Sys2Proof Sys2Proof.Machine Sys2Proof.Claims

/-! ### Bytes of a line -/

theorem mergeFrom_byte (mask old new : Nat) {n k : Nat} (i : Nat) (hk : k < n) :
    mergeFrom mask old new n i / 256 ^ k % 256 = (if mask.testBit (i + k) then new else old) / 2 ^ (8 * (i + k)) % 256 := by
  induction n generalizing i k with
  | zero => omega
  | succ n ih =>
    have hbyte : (if mask.testBit i then new / 2 ^ (8 * i) % 256 else old / 2 ^ (8 * i) % 256)
        = (if mask.testBit i then new else old) / 2 ^ (8 * i) % 256 := by split <;> rfl
    have hlt : (if mask.testBit i then new else old) / 2 ^ (8 * i) % 256 < 256 := Nat.mod_lt _ (by decide)
    rw [mergeFrom, hbyte]
    cases k with
    | zero => rw [pow_zero, Nat.div_one, Nat.add_mul_mod_self_left, Nat.mod_mod]; rfl
    | succ k =>
      rw [pow_succ', ← Nat.div_div_eq_div_mul, Nat.add_mul_div_left _ _ (by decide), Nat.div_eq_of_lt hlt, Nat.zero_add, ih _ (by omega),
        Nat.add_right_comm, Nat.add_assoc]

/-- R220: a byte of two lines put together: the new one's where the mask has a one. -/
theorem lineByte_merge (mask : BitVec 64) (old new : BitVec 512) {k : Nat} (hk : k < 64) :
    lineByte (merge mask old new) k = if mask.getLsbD k then lineByte new k else lineByte old k := by
  have hbyte (v : BitVec 512) : lineByte v k = BitVec.ofNat 8 (v.toNat / 2 ^ (8 * k)) := by
    rw [← lineByte_ofNat hk, BitVec.ofNat_toNat, BitVec.setWidth_eq]
  have hfrom := mergeFrom_byte mask.toNat old.toNat new.toNat 0 hk
  rw [Nat.zero_add, BitVec.testBit_toNat] at hfrom
  rw [merge, lineByte_ofNat hk, hbyte, hbyte]
  apply BitVec.eq_of_toNat_eq
  rw [BitVec.toNat_ofNat, show (2 : Nat) ^ (8 * k) = 256 ^ k from pow_mul 2 8 k]
  refine hfrom.trans ?_
  split <;> rw [BitVec.toNat_ofNat, show (2 : Nat) ^ (8 * k) = 256 ^ k from pow_mul 2 8 k]

theorem agetN_getD {α : Type} (d : α) (m : AMap α) (a : Nat) {n k : Nat} (hk : k < n) : (agetN d m a n).getD k d = aget d m (a + k) := by
  induction n generalizing a k with
  | zero => omega
  | succ n ih =>
    cases k with
    | zero => rfl
    | succ k => rw [agetN, List.getD_cons_succ, ih _ (by omega), Nat.add_right_comm, Nat.add_assoc]

/-- A byte of a line at its home. -/
theorem lineByte_homeBytes (c : Chip) {line k : Nat} (ht : tierOf line < 2) (hk : k < 64) :
    lineByte (c.homeBytes line) k = aget 0 c.mem (line % 2 ^ 64 + k) := by
  have hbits (bs : List Byte) : lineByte (lineBits bs) k = bs.getD k 0 := by
    have h := lineByte_placed bs (Nat.zero_le k) hk
    rwa [Nat.mul_zero, pow_zero, Nat.mul_one, Nat.sub_zero] at h
  rw [Chip.homeBytes, if_neg (by omega), hbits, agetN_getD _ _ _ hk]

/-! ### A line of an L1 -/

/-- R219: a core's line, or the empty one where its L1 has none. -/
def l1Line (c : Chip) (core tag line : Nat) (priv : Bool) (pol : Nat) : L1Line :=
  (l1Find (c.core core).l1 line tag).getD { line := line, tag := tag, valid := 0, dirty := 0, priv := priv, data := 0, pois := false, pol := pol }

theorem l1Line_name (c : Chip) (core tag line : Nat) (priv : Bool) (pol : Nat) :
    (l1Line c core tag line priv pol).line = line ∧ (l1Line c core tag line priv pol).tag = tag := by
  unfold l1Line
  cases h : l1Find (c.core core).l1 line tag with
  | none => exact ⟨rfl, rfl⟩
  | some e => simpa using List.find?_some h

/-- R219: a line that has been put into an L1 is found there. -/
theorem l1Find_l1Put (c : Chip) (core : Nat) (e : L1Line) : l1Find ((c.l1Put core e).core core).l1 e.line e.tag = some e := by
  have hdropped : (l1Drop (c.core core).l1 e.line e.tag).find? (fun x => x.line == e.line && x.tag == e.tag) = none :=
    List.find?_eq_none.2 fun x hx => by
      simpa only [Bool.not_eq_true, Bool.not_eq_true'] using (List.mem_filter.1 hx).2
  rw [Chip.l1Put, Chip.core_setCore_same, l1Find, List.find?_append, hdropped]
  simp

/-- R301: the filter's note of a fill changes L1s and the filter alone. -/
theorem filterFill_form (c : Chip) (core line : Nat) : ∃ ks fs, c.filterFill core line = { c with cores := ks, filter := fs } := by
  unfold Chip.filterFill
  dsimp only
  split
  · exact ⟨_, _, rfl⟩
  · split
    · exact ⟨_, _, rfl⟩
    · split <;> exact ⟨_, _, rfl⟩

/-- R221: nothing leaves an L1 with room. -/
theorem l1For_room {c : Chip} {core : Nat} (h : (c.core core).l1.length < 16) (line tag : Nat) : c.l1For core line tag = c := by
  unfold Chip.l1For Chip.l1Room
  dsimp only
  rw [if_pos h, ite_self]

/-! ### A read of a line -/

section
variable {c : Chip} {core tag line pol : Nat} {need : BitVec 64} {priv : Bool}

/-- R220: a read of bytes that are all valid in the L1. -/
theorem lineRead_valid (h : need &&& ~~~(l1Line c core tag line priv pol).valid = 0) :
    let e := l1Line c core tag line priv pol
    c.lineRead core tag line need priv pol = .ok e.data e.pois (c.l1Put core { e with priv := e.priv && priv }) :=
  if_pos h

/-- R303: a read that meets another party's intent. -/
theorem lineRead_race {t : Intent} (htier : tierOf line < 2) (h : need &&& ~~~(l1Line c core tag line priv pol).valid ≠ 0)
    (hmeets : c.meets core line (need &&& ~~~(l1Line c core tag line priv pol).valid) = some t) :
    c.lineRead core tag line need priv pol = .race t := by
  refine (if_neg h).trans ((if_neg (by omega)).trans ?_)
  dsimp only
  rw [l1Line] at hmeets
  rw [hmeets]

/-- The line that a read brings from its home. -/
def broughtLine (c : Chip) (core tag line : Nat) (priv : Bool) (pol : Nat) : L1Line :=
  let e := l1Line c core tag line priv pol
  let d := merge e.dirty (c.homeBytes line) e.data
  { e with priv := e.priv && priv, valid := e.dirty ||| ~~~(foreignMask core line c.intents), data := d, pois := e.pois || c.linePois line }

/-- R220, R301: a read that brings the line from its home. -/
theorem lineRead_home {c0 : Chip} (htier : tierOf line < 2) (h : need &&& ~~~(l1Line c core tag line priv pol).valid ≠ 0)
    (hmeets : c.meets core line (need &&& ~~~(l1Line c core tag line priv pol).valid) = none)
    (hheld : c.held.all (fun x => x.line != line) = true) (hslice : c.sliceRead core line pol = some c0) :
    let b := broughtLine c core tag line priv pol
    c.lineRead core tag line need priv pol = .ok b.data b.pois (((c0.l1For core line tag).filterFill core line).l1Put core b) := by
  have hnone (f : HeldLine → Bool) : c.held.any (fun x => x.line == line && f x) = false :=
    List.any_eq_false.2 fun x hx => by simp [show x.line ≠ line by simpa using List.all_eq_true.1 hheld x hx]
  rw [l1Line] at hmeets
  refine (if_neg h).trans ((if_neg (by omega)).trans ?_)
  simp only [hmeets, hnone, hslice, Bool.or_false, Bool.false_eq_true, if_false]
  rfl

end

/-- R220, R303: a lane read of a line. -/
theorem lineReadResult : LineReadResult := by
  intro c core tag line need priv pol htier e
  refine ⟨fun t ht hne => lineRead_race htier hne ht, fun hmeets hheld hslice => ?_⟩
  by_cases hvalid : need &&& ~~~e.valid = 0
  · refine ⟨_, _, _, lineRead_valid hvalid, fun k _ _ => by rw [if_pos (.inl hvalid)]; rfl, ?_, fun _ => ⟨rfl, rfl⟩⟩
    exact ⟨.inl, fun h => h.elim id fun h => absurd hvalid h.1⟩
  · obtain ⟨c0, hc0⟩ := Option.isSome_iff_exists.1 hslice
    refine ⟨_, _, _, lineRead_home htier hvalid hmeets hheld hc0, fun k hk _ => ?_, ?_, fun hroom => ?_⟩
    · simp only [broughtLine, lineByte_merge _ _ _ hk, lineByte_homeBytes c htier hk, hvalid, false_or]
      rfl
    · simp only [broughtLine, Chip.linePois, htier, decide_true, Bool.true_and, Bool.or_eq_true]
      exact or_congr Iff.rfl (and_iff_right hvalid).symm
    · have hs := sliceServe_noSlices hc0
      have hcores := (congrArg (fun x : Chip => ((x.core core).l1.length)) hs :)
      obtain ⟨ks, fs, hfill⟩ := filterFill_form c0 core line
      rw [l1For_room (hcores ▸ hroom), hfill]
      exact ⟨(congrArg Chip.mem hs :), (congrArg Chip.intents hs :)⟩

/-! ### A store of bytes of a line -/

/-- R300: an owner's intent for bytes of a line, under no cover. -/
def IntentHeld (c : Chip) (own : Owner) (tag line : Nat) (mask : BitVec 64) : Prop :=
  ∃ t ∈ c.intents, t.owner = own ∧ t.tag = tag ∧ t.line = line ∧ t.mask &&& mask = mask ∧ t.cover = none

/-- R300, R305: however the intent is registered, it is for the bytes written. -/
theorem intend_held (c : Chip) (own : Owner) (tag line : Nat) {mask dirty : BitVec 64} (hd : dirty &&& mask = mask) (cid : DWord) :
    IntentHeld (c.intend own tag line mask dirty cid) own tag line mask := by
  have hname {t : Intent} (h : (t.owner == own && t.tag == tag && t.line == line) = true) : t.owner = own ∧ t.tag = tag ∧ t.line = line := by
    simpa [and_assoc] using h
  unfold Chip.intend
  dsimp only
  split_ifs with hopen hany
  · obtain ⟨t, ht, hm⟩ := List.any_eq_true.1 hopen
    obtain ⟨hmine, hcover⟩ := Bool.and_eq_true_iff.1 hm
    have hnone : t.cover = none := Option.isNone_iff_eq_none.1 hcover
    obtain ⟨ho, hg, hl⟩ := hname hmine
    have hstays : t ∈ c.intents.filter (fun u => !(u.owner == own && u.tag == tag && u.line == line && u.cover.isSome)) :=
      List.mem_filter.2 ⟨ht, by simp [hnone]⟩
    exact ⟨_, List.mem_map.2 ⟨t, hstays, if_pos hmine⟩, ho, hg, hl, or_and_right_self .., hnone⟩
  · obtain ⟨t, ht, hmine⟩ := List.any_eq_true.1 hany
    obtain ⟨ho, hg, hl⟩ := hname hmine
    exact ⟨_, List.mem_map.2 ⟨t, ht, if_pos hmine⟩, ho, hg, hl, hd, rfl⟩
  · exact ⟨_, List.mem_append_right _ (List.mem_singleton_self _), rfl, rfl, rfl, hd, rfl⟩

/-- R220: a line that holds the bytes of a store. -/
structure Holds (e : L1Line) (tag line : Nat) (mask : BitVec 64) (d : BitVec 512) : Prop where
  line : e.line = line
  tag : e.tag = tag
  valid : e.valid &&& mask = mask
  bytes : ∀ k < 64, mask.getLsbD k → lineByte e.data k = lineByte d k

theorem Holds.dirtied {e : L1Line} {tag line : Nat} {mask : BitVec 64} {d : BitVec 512} (h : Holds e tag line mask d) (b : BitVec 64) :
    Holds { e with dirty := b } tag line mask d := ⟨h.line, h.tag, h.valid, h.bytes⟩

/-- R220, R300: a core has the bytes of a store in its L1 and an intent for them. -/
def Stored (c : Chip) (core tag line : Nat) (mask : BitVec 64) (d : BitVec 512) : Prop :=
  (∃ e, Holds e tag line mask d ∧ l1Find (c.core core).l1 line tag = some e) ∧ IntentHeld c (.core core) tag line mask

/-- What keeps the cores and the intents of a line put into an L1 and an intent registered. -/
theorem stored_of_l1Put {c c' : Chip} {core tag line : Nat} {mask dirty : BitVec 64} {d : BitVec 512} {e : L1Line} {cid : DWord}
    (he : Holds e tag line mask d) (hd : dirty &&& mask = mask)
    (hcores : c'.cores = ((c.l1Put core e).intend (.core core) tag line mask dirty cid).cores)
    (hintents : c'.intents = ((c.l1Put core e).intend (.core core) tag line mask dirty cid).intents) : Stored c' core tag line mask d := by
  obtain ⟨ts, hform⟩ := intend_form (c.l1Put core e) (.core core) tag line mask dirty cid
  have hcore : c'.core core = (c.l1Put core e).core core := by rw [Chip.core, hcores, hform]; rfl
  have hfind := l1Find_l1Put c core e
  rw [he.line, he.tag, ← hcore] at hfind
  refine ⟨⟨e, he, hfind⟩, ?_⟩
  rw [IntentHeld, hintents]
  exact intend_held _ _ _ _ hd cid

/-- R304: the chip once a store at the quota has forced its release. -/
def quotaKept (c : Chip) (core tag line : Nat) (cid : DWord) (who : Storer) : Chip :=
  if c.quotaFull (.core core) core tag line then (c.implicit core cid who).1 else c

/-- R220: the line of an L1 once bytes have been stored in it. -/
def storedLine (c : Chip) (core tag line : Nat) (mask : BitVec 64) (d : BitVec 512) (priv : Bool) (pol : Nat) : L1Line :=
  let e := l1Line c core tag line priv pol
  { e with valid := e.valid ||| mask, data := merge mask e.data d, priv := e.priv && priv, pol := pol,
           pois := if mask = BitVec.allOnes 64 then false else e.pois }

section
variable (c : Chip) (core tag : Nat) {line : Nat} (mask : BitVec 64) (d : BitVec 512) (priv : Bool) (pol : Nat) (cid : DWord) (who : Storer)

theorem storedLine_holds : Holds (storedLine c core tag line mask d priv pol) tag line mask d := by
  obtain ⟨hline, htag⟩ := l1Line_name c core tag line priv pol
  exact ⟨hline, htag, or_and_right_self .., fun k hk hm => (lineByte_merge _ _ _ hk).trans (if_pos hm)⟩

/-- R220: a store below TIER 2 stays in the L1, dirty, with its intent beside it. -/
theorem lineWrite_dirties (htier : tierOf line < 2) :
    let c1 := (quotaKept c core tag line cid who).l1For core line tag
    let e := storedLine c1 core tag line mask d priv pol
    (c.lineWrite core tag line mask d priv pol cid who).1
      = (c1.l1Put core { e with dirty := e.dirty ||| mask }).intend (.core core) tag line mask (e.dirty ||| mask) cid := by
  have hlow : ¬ 2 ≤ tierOf line := by omega
  unfold Chip.lineWrite quotaKept
  cases hquota : c.quotaFull (.core core) core tag line <;> simp only [hlow, storedLine, l1Line, Bool.false_eq_true, if_true, if_false]

/-- R222, R300: a store from TIER 2 on is written through. -/
theorem lineWrite_passes (htier : 2 ≤ tierOf line) :
    let c1 := (quotaKept c core tag line cid who).l1For core line tag
    let c2 := (c1.l1Put core (storedLine c1 core tag line mask d priv pol)).intend (.core core) tag line mask mask cid
    (c.lineWrite core tag line mask d priv pol cid who).1
      = if tierOf line = 2 then c2.homeWrite line mask d false (some cid) else c2.owe (.core core) (line % 2 ^ 64 / 2 ^ 42) := by
  unfold Chip.lineWrite quotaKept
  cases hquota : c.quotaFull (.core core) core tag line <;> simp only [htier, storedLine, l1Line, Bool.false_eq_true, if_true, if_false]

theorem owe_coresIntents (own : Owner) (dev : Nat) : (c.owe own dev).cores = c.cores ∧ (c.owe own dev).intents = c.intents := by
  unfold Chip.owe
  split <;> exact ⟨rfl, rfl⟩

/-- R220, R300: a store leaves its line in the L1 and an intent for its bytes. -/
theorem lineWrite_stored : Stored (c.lineWrite core tag line mask d priv pol cid who).1 core tag line mask d := by
  by_cases htier : tierOf line < 2
  · rw [lineWrite_dirties c core tag mask d priv pol cid who htier]
    generalize (quotaKept c core tag line cid who).l1For core line tag = c1
    have he := storedLine_holds c1 core tag (line := line) mask d priv pol
    exact stored_of_l1Put (he.dirtied _) (or_and_right_self ..) rfl rfl
  · rw [lineWrite_passes c core tag mask d priv pol cid who (Nat.le_of_not_lt htier)]
    generalize (quotaKept c core tag line cid who).l1For core line tag = c1
    have he := storedLine_holds c1 core tag (line := line) mask d priv pol
    split
    · obtain ⟨hcores, hintents⟩ := homeWrite_coresIntents _ line mask d false (some cid)
      exact stored_of_l1Put he BitVec.and_self hcores hintents
    · obtain ⟨hcores, hintents⟩ := owe_coresIntents (_ : Chip) (.core core) (line % 2 ^ 64 / 2 ^ 42)
      exact stored_of_l1Put he BitVec.and_self hcores hintents

end

theorem and_not_eq_zero_iff (a b : BitVec 64) : a &&& ~~~b = 0 ↔ ∀ k < 64, a.getLsbD k = true → b.getLsbD k = true := by
  refine ⟨fun h k hk ha => ?_, fun h => BitVec.eq_of_getLsbD_eq fun k hk => ?_⟩
  · have hbit := congrArg (·.getLsbD k) h
    simpa [hk, ha] using hbit
  · have hbit := h k hk
    refine Eq.trans ?_ BitVec.getLsbD_zero.symm
    rw [BitVec.getLsbD_and, BitVec.getLsbD_not]
    cases ha : a.getLsbD k with
    | false => rfl
    | true => rw [hbit ha]; simp

/-- R220: a read of bytes that a core's L1 holds. -/
theorem Stored.read {c : Chip} {core tag line : Nat} {mask need : BitVec 64} {d : BitVec 512} (h : Stored c core tag line mask d)
    (hneed : need &&& ~~~mask = 0) (priv : Bool) (pol : Nat) :
    ∃ v p c', c.lineRead core tag line need priv pol = .ok v p c' ∧ ∀ k < 64, need.getLsbD k → lineByte v k = lineByte d k := by
  obtain ⟨⟨e, he, hfind⟩, -⟩ := h
  have hline : l1Line c core tag line priv pol = e := by rw [l1Line, hfind]; rfl
  have hin := (and_not_eq_zero_iff need mask).1 hneed
  have hvalid : need &&& ~~~(l1Line c core tag line priv pol).valid = 0 := (and_not_eq_zero_iff ..).2 fun k hk hbit => by
    have hboth := congrArg (·.getLsbD k) he.valid
    simp only [BitVec.getLsbD_and, hin k hk hbit, Bool.and_true] at hboth
    rw [hline, hboth]
  exact ⟨_, _, _, lineRead_valid hvalid, fun k hk hbit =>
    (congrArg (fun x : L1Line => lineByte x.data k) hline).trans (he.bytes k hk (hin k hk hbit))⟩

/-- R220, R300: a store and what its core then reads. -/
theorem storeForwarding : StoreForwarding := by
  intro c core tag line mask need d priv priv' cid pol who c'
  have hstored := lineWrite_stored c core tag (line := line) mask d priv pol cid who
  refine ⟨fun hneed => hstored.read hneed priv' pol, hstored.2, fun htier hquota hroom => ?_⟩
  have hkept : quotaKept c core tag line cid who = c := if_neg (by simp [Chip.quotaFull, Nat.not_le.2 hquota])
  have heq := lineWrite_dirties c core tag mask d priv pol cid who htier
  rw [hkept, l1For_room hroom] at heq
  have hkeeps (c1 : Chip) (dirty : BitVec 64) :
      (c1.intend (.core core) tag line mask dirty cid).mem = c1.mem ∧ (c1.intend (.core core) tag line mask dirty cid).pois = c1.pois := by
    obtain ⟨ts, hform⟩ := intend_form c1 (.core core) tag line mask dirty cid
    rw [hform]; exact ⟨rfl, rfl⟩
  obtain ⟨hmem, hpois⟩ := hkeeps _ _
  exact ⟨(congrArg Chip.mem heq).trans hmem, (congrArg Chip.pois heq).trans hpois⟩

/-- Settles O19: reads from the L1 and from the home, and stores that are read back. -/
theorem cacheReads : Obligations.CacheReads := ⟨lineReadResult, storeForwarding⟩

end Sys2Proof.Proofs
end

section
/-! PROOF. Releases, acquires and FENCE (O20): the bytes that a release's write-backs put into memory, the intents that it leaves, what an acquire
leaves valid. -/

namespace Sys2Proof.Proofs

open Sys2Proof Sys2Proof.Machine Sys2Proof.Claims

/-! ### Bytes written back -/

/-- R351: without task rings no line is a control block. -/
theorem ringAt_none {c : Chip} (h : c.rings = []) (line : Nat) : c.ringAt line = none := by
  unfold Chip.ringAt
  split
  · rfl
  · rw [h]; rfl

theorem homeWrite_zero (c : Chip) (line : Nat) (d : BitVec 512) (pois : Bool) (cid : Option DWord) : c.homeWrite line 0 d pois cid = c := if_pos rfl

theorem homeWrite_rings {c : Chip} {line : Nat} (hring : c.ringAt line = none) (mask : BitVec 64) (d : BitVec 512) (pois : Bool)
    (cid : Option DWord) : (c.homeWrite line mask d pois cid).rings = c.rings := by
  unfold Chip.homeWrite
  dsimp only
  by_cases hmask : mask = 0
  · rw [if_pos hmask]
  · rw [if_neg hmask, hring]
    split
    · rfl
    · rfl

/-- R221: the part once the intent of a line to be written back covers its dirty bytes. -/
def widened (c : Chip) (core : Nat) (e : L1Line) : Chip :=
  { c with intents := c.intents.map (fun (t : Intent) =>
      if t.line == e.line && t.tag == e.tag && t.owner == .core core then { t with mask := t.mask ||| e.dirty } else t) }

/-- R221: a write-back is a write of the dirty bytes at their home. -/
theorem writeBack_homeWrite (c : Chip) (core : Nat) (e : L1Line) :
    ∃ c1 : Chip, c1.mem = c.mem ∧ c1.rings = c.rings ∧ c.writeBack core e = c1.homeWrite e.line e.dirty e.data e.pois := by
  by_cases hdirty : e.dirty = 0
  · have hnone := congrArg (fun m => (widened c core e).homeWrite e.line m e.data e.pois) hdirty
    exact ⟨widened c core e, rfl, rfl, (if_pos hdirty).trans (hnone.trans (homeWrite_zero ..)).symm⟩
  · obtain ⟨hmem, -, hrings⟩ := sliceWrite_home (widened c core e) none e.line e.pol (e.dirty == BitVec.allOnes 64)
    exact ⟨_, hmem, hrings, if_neg hdirty⟩

/-- R221: a line's dirty bytes at their home. -/
def Covered (e : L1Line) (a : Nat) : Prop := ∃ k < 64, e.dirty.getLsbD k = true ∧ a = e.line % 2 ^ 64 + k

theorem writeBack_rings {c : Chip} (hrings : c.rings = []) (core : Nat) (e : L1Line) : (c.writeBack core e).rings = [] := by
  obtain ⟨c1, -, hr, h⟩ := writeBack_homeWrite c core e
  have hr := hr.trans hrings
  rw [h, homeWrite_rings (ringAt_none hr _), hr]

section
variable {c : Chip} (hrings : c.rings = []) (core : Nat) {e : L1Line} (htier : e.dirty ≠ 0 → tierOf e.line < 2)
include hrings htier

theorem writeBack_byte (a : Nat) : aget 0 (c.writeBack core e).mem a
    = if e.line % 2 ^ 64 ≤ a ∧ a < e.line % 2 ^ 64 + 64 ∧ e.dirty.getLsbD (a - e.line % 2 ^ 64) = true then lineByte e.data (a - e.line % 2 ^ 64)
      else aget 0 c.mem a := by
  obtain ⟨c1, hm, hr, h⟩ := writeBack_homeWrite c core e
  rw [h, ← hm]
  by_cases hdirty : e.dirty = 0
  · rw [hdirty, homeWrite_zero, if_neg (by simp)]
  · exact homeWrite_byte (htier hdirty) (ringAt_none (hr.trans hrings) _) ..

/-- R221: a byte that the line has dirty. -/
theorem writeBack_covered {k : Nat} (hk : k < 64) (hbit : e.dirty.getLsbD k = true) :
    aget 0 (c.writeBack core e).mem (e.line % 2 ^ 64 + k) = lineByte e.data k := by
  have hsub : e.line % 2 ^ 64 + k - e.line % 2 ^ 64 = k := Nat.add_sub_cancel_left ..
  rw [writeBack_byte hrings core htier, hsub, if_pos ⟨Nat.le_add_right .., by omega, hbit⟩]

/-- R221: any other byte of memory. -/
theorem writeBack_outside {a : Nat} (ha : ¬ Covered e a) : aget 0 (c.writeBack core e).mem a = aget 0 c.mem a := by
  rw [writeBack_byte hrings core htier, if_neg]
  rintro ⟨hlo, hhi, hbit⟩
  exact ha ⟨a - e.line % 2 ^ 64, by omega, hbit, by omega⟩

end

/-- The write-backs of several lines, one after the other. -/
def writeBacks (core : Nat) (ds : List L1Line) (c : Chip) : Chip := ds.foldl (fun (d : Chip) e => d.writeBack core e) c

theorem writeBacks_outside {c : Chip} (hrings : c.rings = []) (core : Nat) {ds : List L1Line} (htier : ∀ e ∈ ds, e.dirty ≠ 0 → tierOf e.line < 2)
    {a : Nat} (ha : ∀ e ∈ ds, ¬ Covered e a) : aget 0 (writeBacks core ds c).mem a = aget 0 c.mem a := by
  induction ds generalizing c with
  | nil => rfl
  | cons x ds ih =>
    have hx := htier x List.mem_cons_self
    refine (ih (writeBack_rings hrings core x) (fun e he => htier e (List.mem_cons_of_mem _ he)) fun e he => ha e (List.mem_cons_of_mem _ he)).trans ?_
    exact writeBack_outside hrings core hx (ha x List.mem_cons_self)

/-- R300: a byte that one of several distinct lines has dirty. -/
theorem writeBacks_covered {c : Chip} (hrings : c.rings = []) (core : Nat) {ds : List L1Line} (htier : ∀ e ∈ ds, e.dirty ≠ 0 → tierOf e.line < 2)
    (halign : ∀ e ∈ ds, e.line % 2 ^ 64 % 64 = 0) (hnodup : (ds.map (fun e => e.line % 2 ^ 64)).Nodup) {e : L1Line} (he : e ∈ ds) {k : Nat}
    (hk : k < 64) (hbit : e.dirty.getLsbD k = true) : aget 0 (writeBacks core ds c).mem (e.line % 2 ^ 64 + k) = lineByte e.data k := by
  induction ds generalizing c with
  | nil => cases he
  | cons x ds ih =>
    have hx := htier x List.mem_cons_self
    have hds : ∀ y ∈ ds, y.dirty ≠ 0 → tierOf y.line < 2 := fun y hy => htier y (List.mem_cons_of_mem _ hy)
    obtain ⟨hnew, hnodup⟩ := List.nodup_cons.1 hnodup
    rcases List.mem_cons.1 he with rfl | he
    · refine (writeBacks_outside (writeBack_rings hrings core _) core hds fun y hy => ?_).trans (writeBack_covered hrings core hx hk hbit)
      rintro ⟨j, hj, -, heq⟩
      have hx64 := halign e List.mem_cons_self
      have hy64 := halign y (List.mem_cons_of_mem _ hy)
      have hsame : y.line % 2 ^ 64 = e.line % 2 ^ 64 := by omega
      exact hnew (List.mem_map.2 ⟨y, hy, hsame⟩)
    · exact ih (writeBack_rings hrings core x) hds (fun y hy => halign y (List.mem_cons_of_mem _ hy)) hnodup he

/-! ### A release -/

/-- R383: what gives a release its causal ID changes no byte of memory and no ring. -/
theorem recordRaces_keeps (c : Chip) {fresh : Chip → Chip × DWord} (hf : ∀ x, ((fresh x).1.mem, (fresh x).1.rings) = (x.mem, x.rings))
    (rs : List (Nat × Intent)) : ((c.recordRaces fresh rs).mem, (c.recordRaces fresh rs).rings) = (c.mem, c.rings) := by
  unfold Chip.recordRaces
  split
  · rfl
  · refine (foldl_keeps (fun x : Chip => (x.mem, x.rings)) _ rs _ fun x r _ h => Eq.trans ?_ h).trans (hf c)
    obtain ⟨t, ht⟩ := emit_trace x (0xC00 + 64 + x.home r.1) 0x40 (fresh c).2 r.2.cid 0
    rw [Chip.raceEvent, ht]

/-- R302: clean bytes that are invalidated change no byte of memory. -/
theorem settle_mem (c : Chip) (own : Owner) (core scope : Nat) (keep : List (Nat × BitVec 64)) (all : Bool) :
    (c.settle own core scope keep all).mem = c.mem := by
  unfold Chip.settle
  exact Eq.trans rfl (foldl_keeps Chip.mem _ _ c fun x t _ h => h)

/-- R300: what a release without open bytes leaves of an intent that it covers. -/
theorem released_whole {t u : Intent} {ends : Bool} {scope : Nat} (h : u ∈ t.released ends scope 0) :
    ends = false ∧ u = { t with cover := some (max scope (t.cover.getD 0)) } := by
  have hopen : t.mask &&& (0 : BitVec 64) = 0 := BitVec.and_zero
  have hdone : t.mask &&& ~~~(0 : BitVec 64) = t.mask := BitVec.and_allOnes
  simp only [Intent.released, hopen, hdone, if_true, List.nil_append] at h
  split at h
  · cases h
  next hends =>
    obtain rfl := List.mem_singleton.1 h
    exact ⟨by cases ends with
      | false => rfl
      | true => exact absurd rfl hends, rfl⟩

/-- R300: an intent that a release keeps of its own core's stands under the release's scope, and is of a line of TIER 2 or 3 at device scope. -/
theorem settle_own {c : Chip} {core scope : Nat} {t : Intent} (ht : t ∈ (c.settle (.core core) core scope [] false).intents)
    (ho : t.owner = .core core) : ∃ k, t.cover = some k ∧ scope ≤ k ∧ scope < 6 ∧ (scope = 5 → 2 ≤ tierOf t.line) := by
  obtain ⟨u, -, htu⟩ := List.mem_flatMap.1 ht
  split at htu
  next hcov =>
    have hu : u.owner = .core core := (released_writer htu).1.trans ho
    dsimp only at hcov htu
    rw [if_pos hu] at htu
    obtain ⟨hends, rfl⟩ := released_whole htu
    simp only [hcov, Bool.true_and, Bool.or_eq_false_iff, decide_eq_false_iff_not, Nat.not_le, Bool.false_and, Bool.or_false] at hends
    obtain ⟨hsystem, hdevice⟩ := hends
    refine ⟨_, rfl, Nat.le_max_left .., hsystem, fun h5 => ?_⟩
    exact Nat.succ_le_of_lt (by simpa [h5] using hdevice)
  next hcov =>
    obtain rfl := List.mem_singleton.1 htu
    exact absurd (if_pos ho) hcov

/-- R302: the overlaps that a release of a core's L1 finds. -/
def releaseOverlaps (c : Chip) (core : Nat) : List (Nat × Intent) :=
  (c.core core).dirtyLines.flatMap (fun e => c.overlaps (.core core) core e.line e.dirty)

/-- R223: the part once no byte of a core's L1 is dirty. -/
def washed (c : Chip) (core : Nat) : Chip := c.setCore core { c.core core with l1 := (c.core core).l1.map (fun e => { e with dirty := 0 }) }

/-- R302, R383: where a release has its causal ID from. -/
def releaseCid (e : Eng) (cid : Option DWord) (x : Chip) : Chip × DWord :=
  match cid with
  | some id => (x, id)
  | none => x.nextCid e

/-- R223, R302: a release at cluster scope or wider. -/
theorem releaseBy_eq (c : Chip) (core slot scope : Nat) (cid : Option DWord) (hs : 3 ≤ scope) :
    (c.releaseBy (.warp core slot) scope cid).1
      = (washed (writeBacks core (c.core core).dirtyLines (c.recordRaces (releaseCid (.warp core slot) cid) (releaseOverlaps c core))) core).settle
          (.core core) core scope [] false := by
  rw [Chip.releaseBy, Chip.release, if_neg (by omega)]
  rfl

theorem releaseCid_keeps (e : Eng) (cid : Option DWord) (x : Chip) : ((releaseCid e cid x).1.mem, (releaseCid e cid x).1.rings) = (x.mem, x.rings) := by
  cases cid with
  | some id => rfl
  | none =>
    obtain ⟨a, b, d, h⟩ := nextCid_form x e
    rw [releaseCid, h]; rfl

/-- R223, R302: a release at cluster scope or wider leaves no dirty byte in its L1. -/
theorem releaseBy_clean (c : Chip) (core slot scope : Nat) (cid : Option DWord) (hs : 3 ≤ scope) :
    Clean (c.releaseBy (.warp core slot) scope cid).1 core := by
  rw [releaseBy_eq c core slot scope cid hs]
  exact (tidied_settle ..).clean core (tidied_washed (tidied_refl _) core).2

/-- R300: memory after a release is memory after its write-backs. -/
theorem releaseBy_mem (c : Chip) (core slot scope : Nat) (cid : Option DWord) (hs : 3 ≤ scope) :
    ∃ c1 : Chip, c1.mem = c.mem ∧ c1.rings = c.rings
      ∧ (c.releaseBy (.warp core slot) scope cid).1.mem = (writeBacks core (c.core core).dirtyLines c1).mem := by
  obtain ⟨hmem, hrings⟩ := Prod.mk.inj (recordRaces_keeps c (releaseCid_keeps (.warp core slot) cid) (releaseOverlaps c core))
  exact ⟨_, hmem, hrings, by rw [releaseBy_eq c core slot scope cid hs, settle_mem]; rfl⟩

/-! ### An acquire -/

/-- R224: outside private lines only dirty bytes stay valid. -/
theorem acquire_valid (c : Chip) (core scope : Nat) (hs : 3 ≤ scope) {e : L1Line} (he : e ∈ ((c.acquire core scope).core core).l1)
    (hp : e.priv = false) : e.valid &&& ~~~e.dirty = 0 := by
  rw [Chip.acquire, if_neg (by omega)] at he
  obtain ⟨x, -, rfl⟩ := List.mem_map.1 (List.mem_filter.1 (Chip.core_setCore_same c core _ ▸ he)).1
  cases hx : x.priv with
  | true => exact absurd hp (by simp [hx])
  | false =>
    rw [if_neg (by simp)]
    show x.valid &&& x.dirty &&& ~~~x.dirty = 0
    rw [BitVec.and_assoc, BitVec.and_not_self]
    exact BitVec.and_zero

/-- The part of O20 on releases and acquires, clause by clause. -/
theorem releaseAcquire : ReleaseAcquire := by
  intro c core slot scope cid
  refine ⟨fun hs => ⟨if_pos hs, if_pos hs⟩, fun hs => ?_⟩
  obtain ⟨c1, hmem, hrings, hafter⟩ := releaseBy_mem c core slot scope cid hs
  have hdirty {e : L1Line} (he : e ∈ (c.core core).dirtyLines) : e ∈ (c.core core).l1 ∧ e.dirty ≠ 0 := by
    simpa [Core.dirtyLines] using he
  refine ⟨releaseBy_clean c core slot scope cid hs, fun t ht ho => ?_, fun hr hlines hnodup e he k hk hbit => ?_, fun hr htier a ha => ?_,
    fun e he hp => acquire_valid c core scope hs he hp, (acquire_keeps c core scope core slot).1⟩
  · rw [releaseBy_eq c core slot scope cid hs] at ht
    exact settle_own ht ho
  · have hmem' : e ∈ (c.core core).dirtyLines := by
      have hne : e.dirty ≠ 0 := fun h0 => by simp [h0] at hbit
      exact List.mem_filter.2 ⟨he, bne_iff_ne.2 hne⟩
    rw [hafter]
    refine writeBacks_covered (hrings.trans hr) core (fun x hx hd => (hlines x (hdirty hx).1 hd).1)
      (fun x hx => (hlines x (hdirty hx).1 (hdirty hx).2).2) ?_ hmem' hk hbit
    exact hnodup.sublist (List.filter_sublist.map _)
  · rw [hafter, ← hmem]
    refine writeBacks_outside (hrings.trans hr) core (fun x hx => htier x (hdirty hx).1) fun x hx => ?_
    rintro ⟨k, hk, hbit, heq⟩
    exact ha x (hdirty hx).1 k hk hbit heq

/-! ### FENCE -/

/-- The part of O20 on FENCE: what it puts in flight, and what it does to the chip. -/
theorem fenceResult : FenceResult := by
  intro scope sem s i core slot w c1 race hi hflag hbusy hrel
  have hexec : exec (.fence scope sem) s = execFence scope sem s := rfl
  refine hexec.trans (runIssue_ok hi.cur ?_)
  simp only [withFlag, hflag, hbusy, hrel, Bool.false_eq_true, if_false]

/-- Settles O20: releases by what their write-backs and their end leave, acquires by the lines that they keep, FENCE by its two parts. -/
theorem releasesAndFences : Obligations.ReleasesAndFences := ⟨releaseAcquire, fenceResult⟩

end Sys2Proof.Proofs
end
